-- ==== Sys2Proof/Word.lean ====
section
/-! DEFINITION. The word types of the Kiqua G1 model, and the plain-data table that every numbered
collection of State is held in. Widths are those of the spec's register and layout tables. -/

namespace Sys2Proof

/-- One byte (Table 4.3, R76). -/
abbrev Byte := BitVec 8
abbrev W16 := BitVec 16
abbrev W32 := BitVec 32
abbrev W64 := BitVec 64
/-- A context identifier (R241, Table 2.9). -/
abbrev CtxId := BitVec 12

/-- A numbered collection in ONE canonical form: keys strictly rising, and no entry equal to the
default that an unlisted key reads as. `Machine/Tab.lean` holds its operations. -/
abbrev Tab (α : Type) := List (Nat × α)

/-- The two translation regimes of an address field (Table 2.10, R228). -/
inductive Cls where
  | d   -- Class D
  | h   -- Class H
deriving DecidableEq, Repr

/-- The response codes of a memory port (Table 18.7). Value 3 is reserved and no memory side sends it. -/
inductive Resp where
  | ok
  | poison
  | ctxMismatch
deriving DecidableEq, Repr

end Sys2Proof
end

