-- ==== Sys2Proof/Syntax.lean ====
section
/-! DEFINITION. The commands of the block: one constructor of `Instr` per row of
spec/opcode_table.json, with the row's operands. An item is named by its queue and CMD_INDEX (R48);
a core by logical cluster × 8 + logical core (R188, R271); times are in picoseconds. -/

namespace Sys2Proof

/-- The kinds of task (R152, R155). -/
inductive TaskKind where
  | wholeRow
  | part
  | merge
  | rowEngine
  | test
deriving DecidableEq, Repr

/-- What Ensemble firmware dispatches (R152, R158, R173): rows `rowFirst` to `rowFirst + rows - 1` of the
item, against segments `segFirst` to `segFirst + segCount - 1`. -/
structure TaskShape where
  kind : TaskKind
  rowFirst : Nat
  rows : Nat
  segFirst : Nat
  segCount : Nat
deriving DecidableEq, Repr

/-- Who makes a request that is being translated (Tables 11.9 and 11.10, R243). -/
inductive Requester where
  | task (core thread : Nat)          -- a task's demand request
  | item (q : Nat) (idx : W32)        -- a Paging or Collective Engine item's demand request
  | prefetch                          -- a tile-order prefetch (R258, R259)
deriving DecidableEq, Repr

/-- Where a breath marker comes in (R62, R310). -/
inductive MarkerPort where
  | link                              -- this die's own link port
  | bridge (die : Nat)                -- passed over the cascade bridge by a die of the package
deriving DecidableEq, Repr

/-- The detection sources of Table 16.2, in the order of its rows, and a lost item-store entry (R344).
The unit charged is the operand of the row. -/
inductive FaultSource where
  | scratchpadEcc (thread : Nat)      -- row 1, and the thread whose task read it
  | residueOrCrossbar                 -- row 2
  | cacheEcc                          -- row 3
  | controlMemEcc                     -- row 4
  | controlMissed                     -- row 5
  | portParity                        -- row 6
  | linkLane                          -- row 7
  | bridgeAdapter                     -- row 8
  | testPack                          -- row 9
  | itemStore (q : Nat) (idx : W32)   -- both copies of an entry uncorrectable (R344, R345)
deriving DecidableEq, Repr

/-- The two mailbox slots (R330). -/
inductive Slot where
  | host
  | firmware
deriving DecidableEq, Repr

/-- The exchange-unit tag of R284 (Table 14.2). -/
structure UnitTag where
  group : Nat
  kind : Bool          -- false: a command; true: a sequence-parallel attention item
  sn : W32
  attempt : Byte
  rank : Nat           -- sender
  piece : W32
deriving DecidableEq, Repr

/-- The agreement record of R285; one of kind 1 holds its digest alone. -/
structure Agreement where
  opcode : Byte := 0
  dtype : Byte := 0
  redop : Byte := 0
  ovl : Bool := false
  root : W16 := 0
  nm1 : Byte := 0
  capacity : W32 := 0
  epoch : W32 := 0
  zeroShape : Bool := false
  offer : Nat := 0                    -- piece offer in elements (R290)
  digest : W64 := 0
deriving DecidableEq, Repr

/-- A reply to REJOIN (R287, R357). -/
inductive RejoinAnswer where
  | holdsAllDone                      -- "yes": DONE is held from every member
  | notAll
  | failed (status : Byte) (detail : W64)   -- the peers completed the SN as failed (R357)
deriving DecidableEq, Repr

/-- What the fuse programmer programs (R402). -/
inductive FuseTarget where
  | digest (slot : Nat) (value : BitVec 384)
  | mfr (value : BitVec 11)
  | revoke (slot : Nat)
  | lock
deriving DecidableEq, Repr

/-- One command of the block. -/
inductive Instr where
  -- register port (chapters 02, 03, 10, 11, 12, 15, 16, 17, 19)
  | doorbellWrite (q : Nat) (size64 : Bool) (value : W64)
  | qctrlWrite (q : Nat) (value : W64)
  | cplErrClear (q : Nat)
  | registerWrite (offset : Nat) (size64 : Bool) (value : W64)
  -- breath (03)
  | breathInPulse (lowFc highFc atPs : Nat)
  | breathMiss
  | freeRunBoundary
  | breathPulseTimer
  | markerSend (residence : Nat)
  | breathMarker (port : MarkerPort) (b : W64) (remaining : Int) (hops : Byte) (residence : Nat)
  | markerCountdown
  -- queues (02)
  | queueClosed (q : Nat)
  | commandCopy (q : Nat) (resp : Resp) (bytes : BitVec 512)
  -- work items, by queue and CMD_INDEX (02, 05 to 13, 16)
  | negotiate (q : Nat) (idx : W32)
  | nop (q : Nat) (idx : W32)
  | attFwd (q : Nat) (idx : W32)
  | attBwd (q : Nat) (idx : W32)
  | seqAlloc (q : Nat) (idx : W32)
  | seqAppend (q : Nat) (idx : W32)
  | seqFork (q : Nat) (idx : W32)
  | seqFree (q : Nat) (idx : W32)
  | pageMigrate (q : Nat) (idx : W32)
  | tierHint (q : Nat) (idx : W32)
  | ptcInval (q : Nat) (idx : W32)
  | bankStage (q : Nat) (idx : W32)
  | faultDone (q : Nat) (idx : W32)
  | allGather (q : Nat) (idx : W32)
  | reduceScatter (q : Nat) (idx : W32)
  | allReduce (q : Nat) (idx : W32)
  | broadcast (q : Nat) (idx : W32)
  | ringPass (q : Nat) (idx : W32)
  | scoutMax (q : Nat) (idx : W32)
  | groupSet (q : Nat) (idx : W32)
  | softmax (q : Nat) (idx : W32)
  | rmsNorm (q : Nat) (idx : W32)
  | func (q : Nat) (idx : W32)
  | testPack (q : Nat) (idx : W32) (core : Nat) (record : Nat) (matched : Bool)
  | memScrub (q : Nat) (idx : W32)
  -- memory ports (18)
  | memoryReadResponse (tag : W16) (beat0 beat1 : Resp) (data : BitVec 2048)
  | memoryWriteResponse (tag : W16) (resp : Resp)
  | completionRecordWrite (q : Nat)
  -- streams, tasks, windows (08, 09, 12)
  | streamArm (core slot : Nat) (desc : BitVec 256)
  | taskDispatch (q : Nat) (idx : W32) (core thread : Nat) (shape : TaskShape)
  | taskDrain (core thread : Nat)
  | taskOverrun
  | waitTimeout (core thread : Nat)
  | windowOpen (core thread win baseU lenU acFirst acNum : Nat)
  | windowClose (core win : Nat)
  | counterWait (core thread counter : Nat) (threshold : W32)
  | windowWrite (core win : Nat) (gen : Byte) (unit : Nat) (ctx : CtxId) (writer : Nat) (data : BitVec 2048)
  -- translation and paging events (10, 11)
  | pageWalk (cls : Cls) (ctx : CtxId) (va : BitVec 52) (write : Bool) (who : Requester)
  | faultRecordPost
  | fctrlWrite (value : W64)
  | ringErrClear
  | faultHeadWrite (value : W64)
  | taskReissue (q : Nat) (idx : W32)
  | bankSwap
  | poolReturn
  | pageCopyDone (lpn : Nat)
  | pageSwitch (lpn : Nat)
  | altFrameReturn (lpn : Nat)
  -- Reed's mailbox (15)
  | imageLoad (slot : Slot) (tag : W16) (arg0 arg1 : W64)
  | imageCancel (slot : Slot) (tag : W16)
  | ctxAlloc (slot : Slot) (tag : W16)
  | ctxBind (slot : Slot) (tag : W16) (arg0 arg1 : W64)
  | ctxRelease (slot : Slot) (tag : W16) (arg0 : W64)
  | coreBind (slot : Slot) (tag : W16) (arg0 arg1 : W64)
  | unitEvent (slot : Slot) (tag : W16) (arg0 : W64)
  | bellLog (slot : Slot) (tag : W16) (arg0 arg1 : W64)
  | fwReady (slot : Slot) (tag : W16)
  | mailboxDoneClear (slot : Slot)
  -- structure images and contexts (09, 15)
  | imageVerified (packageAgrees : Bool)
  | rejectReport (warmDiscard : Bool)
  | refold (othersReady othersHold : Bool)
  | refoldTimeout (byPeer : Bool)     -- another die held its pending image for 256 boundaries
  | retirementRefold (unit : W16)
  | ctxFence
  | ctxScrubDone
  | ctxScrubbed
  | coreRebind (core : Nat)
  -- register port, selections (03, 10, 12, 16, 17, 19)
  | seqtSelect (value : W64)
  | unitHistorySelect (value : W64)
  | perfFreeze (value : W64)
  | pfTagsWrite (value : W64)
  | brthEvcntWrite (value : W64)
  | irqPendingClear (word : Nat) (value : W64)
  -- faults (16)
  | unitFaultDetected (src : FaultSource) (unit : W16) (uncorrected : Bool)
  | clusterResetDone (cluster : Nat)
  | spareSubstitution (unit : W16)
  | dieLost (die : Nat)
  | exchangeTimeout (q : Nat) (idx : W32) (die : Option Nat)
  | restoration (unit : W16)
  | historyWrite (ok : Bool)
  | fwHang (controlCore : Nat)
  -- resets and boot (15, 16, 18)
  | warmReset (lowCycles : Nat) (byReed : Bool)
  | coldReset
  | coldBoot (selfTestOk : Bool)
  | bootReady
  -- Mute and the Bell record (17)
  | muteEnter (lowAc : Nat)
  | muteRunt (lowAc : Nat)
  | muteSideband (die : Nat)
  | muteExit (highCycles mutedCycles : Nat)
  | bellEventLog
  | bellFlush
  | bellFlushDone (ok : Bool)
  | sensorSample (temps : List (BitVec 16)) (vdd : W16) (arithMhz fabricMhz : W16)
  -- maintenance (17, 18)
  | stateRead (address : W64)
  | fuseProgram (target : FuseTarget)
  | extest
  | idcode
  | samplePreload
  | ijtag
  | bypass
  -- link and exchanges (13, 14)
  -- the symbols on the physical lanes 0 to 7, 8 to 15, 16 to 23, 24 to 31, and on the spares 32 to 35
  | linkCodeword (l0 l8 l16 l24 spares : List (List Nat))
  | retry (seq : BitVec 10)
  | credit (freed : List W16) (cls1 : List W16)
  | laneMap (lane spare : Nat) (switchSeq : BitVec 10)
  | echo (stamp echoed : W64) (residence : W32) (reply : Bool) (now : W64)
  | linkRetrain
  | linkDown
  | laneRetire (lane : Nat) (failedTraining : Bool)
  -- the header of Table 14.2, what follows it in the first flit, and the bodies of the other flits
  | dataPacket (vc : Nat) (dateline : Bool) (header first : List Byte) (rest : List (List Byte))
  | agreementRecord (tag : UnitTag) (record : Agreement)
  | pieceChunk (tag : UnitTag) (index : Nat) (crc : W32) (data : List Byte)
  | streamEndMarker (tag : UnitTag) (kept : W32) (crc : W64)
  | doneMsg (tag : UnitTag)
  | failMsg (tag : UnitTag) (status : Byte) (detail : W64)
  | rejoin (tag : UnitTag)
  | rejoinReply (tag : UnitTag) (answer : RejoinAnswer)
  | commitMsg (tag : UnitTag)
  | restartMsg (tag : UnitTag)
  | bufferWaitExpiry (group : Nat)
  | linkTrained (good : List Nat) (peerNode : W16) (peerDie : Nat) (echoes : List (Nat × Nat))
  | bridgeTrainingDone (die : Nat) (modules : Nat)
  | powerLoss
  | mailboxReservedOp (slot : Slot) (tag : W16) (op : Byte)
  | tapReset
deriving DecidableEq, Repr

end Sys2Proof
end

