-- ==== Sys2Proof/Config.lean ====
section
/-! DEFINITION. What the spec leaves open, as constants with no body: nothing in Lean can evaluate them
or prove a value of them, so a claim holds whatever they are. Each is named in the assumption log. -/

namespace Sys2Proof.Config

/-- Free 64-bit values, one for each value of the state's counter (log 3): a Bell event's OFFSET (log 9),
a choice among free units (log 10), an unspecified byte (log 11), an undefined item's status (log 12). -/
opaque freeWord : Nat → BitVec 64

/-- The value of a function at an argument where the bounds that the model computes do not decide the
one rounding of R132 (log 14): code of Table 6.6, argument bits (FP32), destination format code. -/
opaque undecidedRounding : Nat → BitVec 32 → Nat → BitVec 32

/-- SHA-384 (FIPS 180), which R322 names and the spec does not define (log 13). -/
opaque sha384 : List Byte → BitVec 384

/-- ECDSA P-384 verification (FIPS 186), which R322 names and the spec does not define (log 13):
public key X, Y; signature r, s; digest. -/
opaque ecdsaP384 : BitVec 384 → BitVec 384 → BitVec 384 → BitVec 384 → BitVec 384 → Bool

end Sys2Proof.Config
end

