-- ==== Sys2Proof/Machine/Bits.lean ====
section
/-! DEFINITION. Bit fields, byte order (R76: every multi-byte value is little-endian) and the checks
CRC-32C and CRC-64. -/

namespace Sys2Proof.Machine

/-- Bits [hi:lo] of a natural number. -/
def nfld (w hi lo : Nat) : Nat := (w >>> lo) % 2 ^ (hi - lo + 1)

/-- Bits [hi:lo] of a word. -/
def fld {n : Nat} (w : BitVec n) (hi lo : Nat) : Nat := nfld w.toNat hi lo

/-- A bit as a number. -/
def b2n (b : Bool) : Nat := if b then 1 else 0

/-- Little-endian value of bytes (R76). -/
def leNat : List Byte → Nat
  | [] => 0
  | b :: bs => b.toNat + 256 * leNat bs

/-- The `n` little-endian bytes of a value (R76). -/
def toLE : Nat → Nat → List Byte
  | 0, _ => []
  | n + 1, v => BitVec.ofNat 8 v :: toLE n (v / 256)

/-- Big-endian value of bytes (R319, R322: the signature block). -/
def beNat (bs : List Byte) : Nat := leNat bs.reverse

/-- `n` bytes from byte `off` of a structure, as a little-endian value; bytes past the end read as 0. -/
def leAt (bs : List Byte) (off n : Nat) : Nat := leNat ((bs.drop off).take n)

/-- Cut a list into pieces of `n` (fuel: its length). -/
def cutUp {α : Type} (n : Nat) : Nat → List α → List (List α)
  | 0, _ => []
  | f + 1, l => if l.isEmpty then [] else l.take n :: cutUp n f (l.drop n)

/-- Pieces of `n` elements, the last perhaps shorter. -/
def pieces {α : Type} (n : Nat) (l : List α) : List (List α) := cutUp n l.length l

/-- Round up to a multiple of `m`. -/
def roundUp (n m : Nat) : Nat := (n + m - 1) / m * m

/-- Ceiling of a quotient. -/
def ceilDiv' (n m : Nat) : Nat := (n + m - 1) / m

/-- Least `k` with 2^k ≥ n. -/
def clog2 (n : Nat) : Nat := if n ≤ 1 then 0 else Nat.log2 (n - 1) + 1

/-- Signed value of a 32-bit word. -/
def sgn32 (n : Nat) : Int := if n < 2 ^ 31 then (n : Int) else (n : Int) - 2 ^ 32

/-- Signed difference a − b of free-running 32-bit counters, modulo 2³². -/
def cdiff (a b : W32) : Nat := (a - b).toNat

/-- A counter that stops at its largest value. -/
def satAdd {n : Nat} (c : BitVec n) (k : Nat) : BitVec n :=
  BitVec.ofNat n (min (c.toNat + k) (2 ^ n - 1))

/-- One bit of a reflected CRC. -/
def crcBit (poly r : Nat) : Nat := if r % 2 = 1 then (r >>> 1) ^^^ poly else r >>> 1

/-- Eight bits of a reflected CRC. -/
def crcByte (poly r : Nat) (b : Byte) : Nat :=
  let r0 := r ^^^ b.toNat
  let r1 := crcBit poly r0
  let r2 := crcBit poly r1
  let r3 := crcBit poly r2
  let r4 := crcBit poly r3
  let r5 := crcBit poly r4
  let r6 := crcBit poly r5
  let r7 := crcBit poly r6
  crcBit poly r7

def crcRun (poly : Nat) : Nat → List Byte → Nat
  | r, [] => r
  | r, b :: bs => crcRun poly (crcByte poly r b) bs

/-- CRC-32C (R265): polynomial 0x1EDC_6F41 reflected, initial value and final XOR of ones. -/
def crc32c (bs : List Byte) : Nat := crcRun 0x82F63B78 0xFFFFFFFF bs ^^^ 0xFFFFFFFF

/-- One bit of an unreflected 64-bit CRC. -/
def crc64Bit (r : Nat) : Nat :=
  if r < 2 ^ 63 then 2 * r else (2 * r - 2 ^ 64) ^^^ 0x42F0E1EBA9EA3693

def crc64Byte (r : Nat) (b : Byte) : Nat :=
  let r0 := r ^^^ (b.toNat <<< 56)
  let r1 := crc64Bit r0
  let r2 := crc64Bit r1
  let r3 := crc64Bit r2
  let r4 := crc64Bit r3
  let r5 := crc64Bit r4
  let r6 := crc64Bit r5
  let r7 := crc64Bit r6
  crc64Bit r7

def crc64Run : Nat → List Byte → Nat
  | r, [] => r
  | r, b :: bs => crc64Run (crc64Byte r b) bs

/-- CRC-64 (R291): polynomial 0x42F0_E1EB_A9EA_3693, initial value 0, no reflection, no final XOR. -/
def crc64 (bs : List Byte) : Nat := crc64Run 0 bs

end Sys2Proof.Machine
end

