-- ==== Sys2Proof/Machine/Num.lean ====
section
/-! DEFINITION. Number formats and their one rounding (chapter 04, R73 to R84, R93): a decoded element
is an exact dyadic number, an exact result is a magnitude that can be floored at any power of two, and a
rounding is nearest even in the destination format. Elements travel as `W32` codes. -/

namespace Sys2Proof.Machine

/-- A decoded element (Table 4.3): (−1)^neg × m × 2^e, an infinity, or NaN. -/
inductive Num where
  | nan
  | inf (neg : Bool)
  | fin (neg : Bool) (m : Nat) (e : Int)
deriving DecidableEq, Repr

/-- An element layout (Table 4.3): mantissa bits, exponent bits, bias, whether the top exponent is
special in the IEEE way, code of the largest finite magnitude, canonical NaN, width. -/
structure Fmt where
  p : Nat
  eb : Nat
  bias : Nat
  ieee : Bool
  maxCode : Nat
  nanCode : Nat
  width : Nat
deriving DecidableEq, Repr

def fmtFP32 : Fmt := ⟨23, 8, 127, true, 0x7F7FFFFF, 0x7FC00000, 32⟩
def fmtBF16 : Fmt := ⟨7, 8, 127, true, 0x7F7F, 0x7FC0, 16⟩
def fmtFP16 : Fmt := ⟨10, 5, 15, true, 0x7BFF, 0x7E00, 16⟩
def fmtE4M3 : Fmt := ⟨3, 4, 7, false, 0x7E, 0x7F, 8⟩
def fmtE5M2 : Fmt := ⟨2, 5, 15, true, 0x7B, 0x7E, 8⟩
def fmtE3M2 : Fmt := ⟨2, 3, 3, false, 0x1F, 0, 6⟩
def fmtE2M3 : Fmt := ⟨3, 2, 1, false, 0x1F, 0, 6⟩
def fmtE2M1 : Fmt := ⟨1, 2, 1, false, 0x7, 0, 4⟩

/-- The float formats of Table 4.1, by code. -/
def fmtOf (code : Nat) : Option Fmt :=
  if code = 0x01 then some fmtFP32 else if code = 0x02 then some fmtBF16
  else if code = 0x03 then some fmtFP16 else if code = 0x04 then some fmtE4M3
  else if code = 0x05 then some fmtE5M2 else none

/-- Element formats of the MX storage formats (Table 4.1, codes 0x08 to 0x0C). -/
def mxElemFmt (code : Nat) : Option Fmt :=
  if code = 0x08 then some fmtE4M3 else if code = 0x09 then some fmtE5M2
  else if code = 0x0A then some fmtE2M3 else if code = 0x0B then some fmtE3M2
  else if code = 0x0C then some fmtE2M1 else none

/-- Element size in bytes of the codes that have whole-byte elements (Table 4.1); 0 for the others. -/
def elemBytes (code : Nat) : Nat :=
  if code = 0x01 || code = 0x21 || code = 0x22 then 4 else if code = 0x02 || code = 0x03 then 2
  else if code = 0x04 || code = 0x05 || code = 0x20 || code = 0x30 then 1 else 0

/-- Main-pass input (Table 4.1). -/
def isMainFmt (c : Nat) : Bool := decide (2 ≤ c ∧ c ≤ 5)
/-- KV storage (Table 4.1). -/
def isKvFmt (c : Nat) : Bool := c = 2 || c = 4 || c = 5 || decide (8 ≤ c ∧ c ≤ 12)
/-- Row Engine input and output, drain output (Table 4.1). -/
def isRowFmt (c : Nat) : Bool := decide (1 ≤ c ∧ c ≤ 5)
/-- Piccolo (Table 4.1). -/
def isPicFmt (c : Nat) : Bool := c = 0x10

/-- Exponent of the smallest subnormal. -/
def Fmt.qmin (f : Fmt) : Int := 1 - (f.bias : Int) - (f.p : Int)

def Fmt.infCode (f : Fmt) : Nat := (2 ^ f.eb - 1) <<< f.p
def Fmt.signBit (f : Fmt) : Nat := 2 ^ (f.width - 1)

/-- A magnitude code with a sign. -/
def Fmt.signed (f : Fmt) (neg : Bool) (code : Nat) : W32 :=
  BitVec.ofNat 32 (if neg then code + f.signBit else code)

def Fmt.nan (f : Fmt) : W32 := BitVec.ofNat 32 f.nanCode
def Fmt.zero (f : Fmt) (neg : Bool) : W32 := f.signed neg 0

/-- ±∞ on its way into the format (Table 4.4). -/
def Fmt.inf (f : Fmt) (neg : Bool) : W32 := f.signed neg (if f.ieee then f.infCode else f.maxCode)

/-- Decode an element (R76, Table 4.3). -/
def Fmt.decode (f : Fmt) (w : W32) : Num :=
  let n := w.toNat
  let neg := (n / f.signBit) % 2 = 1
  let c := n % f.signBit
  let ex := c >>> f.p
  let m := c % 2 ^ f.p
  if f.ieee && ex = 2 ^ f.eb - 1 then (if m = 0 then .inf neg else .nan)
  else if !f.ieee && f.nanCode ≠ 0 && c = f.nanCode then .nan
  else if ex = 0 then .fin neg m f.qmin
  else .fin neg (2 ^ f.p + m) (f.qmin + (ex : Int) - 1)

/-- m × 2^e floored at 2^q, and whether something was lost. -/
def shiftFloor (m : Nat) (e q : Int) : Nat × Bool :=
  if q ≤ e then (m <<< (e - q).toNat, false)
  else let k := (q - e).toNat
       (m >>> k, decide (m % 2 ^ k ≠ 0))

/-- Integer square root by bits: `r` holds the root's bits above `k`. -/
def isqrtGo (n : Nat) : Nat → Nat → Nat
  | 0, r => r
  | k + 1, r => let c := r + 2 ^ k
                isqrtGo n k (if c * c ≤ n then c else r)

/-- ⌊√n⌋. -/
def isqrt (n : Nat) : Nat := isqrtGo n (Nat.log2 n / 2 + 1) 0

/-- An exact positive magnitude (or zero): (n / d) × 2^e, the square root of one, or a number strictly
between n × 2^e and (n + 1) × 2^e. -/
inductive Mag where
  | rat (n d : Nat) (e : Int)
  | sqrt (n d : Nat) (e : Int)
  | above (n : Nat) (e : Int)
deriving DecidableEq, Repr

/-- (n / d) × 2^e floored at 2^q, and whether something was lost. -/
def ratFloor (n d : Nat) (e q : Int) : Nat × Bool :=
  let s := e - q
  let a := if 0 ≤ s then n <<< s.toNat else n
  let b := if 0 ≤ s then d else d <<< (-s).toNat
  (a / b, decide (a % b ≠ 0))

/-- The magnitude floored at 2^q, and whether something was lost. -/
def Mag.floor : Mag → Int → Nat × Bool
  | .rat n d e, q => ratFloor n d e q
  | .sqrt n d e, q =>
    let (a, lost) := ratFloor n d e (2 * q)
    let r := isqrt a
    (r, lost || decide (r * r ≠ a))
  | .above n e, q => ((shiftFloor n e q).1, true)

/-- ⌊log₂ (n / d)⌋ for positive n, d. -/
def ratLog2 (n d : Nat) : Int :=
  let k : Int := (Nat.log2 n : Int) - (Nat.log2 d : Int)
  -- 2^(k-1) < n/d < 2^(k+1)
  if 0 ≤ k then (if n < d <<< k.toNat then k - 1 else k)
  else (if n <<< (-k).toNat < d then k - 1 else k)

/-- ⌊log₂⌋ of a positive magnitude; for a zero lower end, a number below every format's range. -/
def Mag.log2 : Mag → Int
  | .rat n d e => if n = 0 then -100000 else ratLog2 n d + e
  | .sqrt n d e => if n = 0 then -100000 else Int.ediv (ratLog2 n d + e) 2
  | .above n e => if n = 0 then -100000 else (Nat.log2 n : Int) + e

/-- The quantum of the binade that a magnitude of ⌊log₂⌋ `l` falls into. -/
def Fmt.quantum (f : Fmt) (l : Int) : Int := max (l - (f.p : Int)) f.qmin

/-- The code of `r` quanta of exponent `q` (r ≤ 2^(p+1)); a carry moves into the next binade. -/
def Fmt.codeOf (f : Fmt) (q : Int) (r : Nat) : Nat := ((q - f.qmin).toNat <<< f.p) + r

/-- The magnitude code nearest to a magnitude, ties to even, before overflow. -/
def Fmt.nearest (f : Fmt) (v : Mag) : Nat :=
  let q := f.quantum v.log2
  let (t, lost) := v.floor (q - 1)
  let r := t / 2
  let up := t % 2 = 1 && (lost || r % 2 = 1)
  f.codeOf q (if up then r + 1 else r)

/-- Round a signed magnitude to nearest even (R82, Table 4.4). -/
def Fmt.roundMag (f : Fmt) (neg : Bool) (v : Mag) : W32 :=
  let c := f.nearest v
  if c > f.maxCode then f.inf neg else f.signed neg c

/-- Round a decoded number: a conversion (R82, Table 4.4). -/
def Fmt.round (f : Fmt) : Num → W32
  | .nan => f.nan
  | .inf neg => f.inf neg
  | .fin neg m e => if m = 0 then f.zero neg else f.roundMag neg (.rat m 1 e)

/-- Round to nearest even and clamp a magnitude at the largest finite one (R80 step 4). -/
def Fmt.roundClamp (f : Fmt) (neg : Bool) (v : Mag) : W32 :=
  f.signed neg (min (f.nearest v) f.maxCode)

/-! ### Exact arithmetic on decoded numbers -/

def Num.isNan : Num → Bool
  | .nan => true | _ => false
def Num.isInf : Num → Bool
  | .inf _ => true | _ => false
def Num.isFin : Num → Bool
  | .fin _ _ _ => true | _ => false
def Num.isZero : Num → Bool
  | .fin _ m _ => m = 0 | _ => false
def Num.neg : Num → Bool
  | .nan => false | .inf n => n | .fin n _ _ => n

/-- Signed integer value of a finite number at 2^q, q at most its exponent. -/
def finInt (neg : Bool) (m : Nat) (e q : Int) : Int :=
  let a : Int := ((m <<< (e - q).toNat : Nat) : Int)
  if neg then -a else a

/-- A signed integer times 2^q, zero with the sign given. -/
def intNum (zneg : Bool) (v : Int) (q : Int) : Num :=
  if v = 0 then .fin zneg 0 0 else .fin (v < 0) v.natAbs q

/-- Exact sum with the zero rules of R84. -/
def Num.add : Num → Num → Num
  | .nan, _ => .nan
  | _, .nan => .nan
  | .inf a, .inf b => if a = b then .inf a else .nan
  | .inf a, .fin _ _ _ => .inf a
  | .fin _ _ _, .inf b => .inf b
  | .fin a m e, .fin b n g =>
    let q := min e g
    intNum (a && b && m = 0 && n = 0) (finInt a m e q + finInt b n g q) q

def Num.negate : Num → Num
  | .nan => .nan | .inf n => .inf (!n) | .fin n m e => .fin (!n) m e

/-- Exact product (R83): zero takes the XOR of the signs; 0 × ∞ is NaN. -/
def Num.mul : Num → Num → Num
  | .nan, _ => .nan
  | _, .nan => .nan
  | .inf a, .inf b => .inf (a != b)
  | .inf a, .fin b m _ => if m = 0 then .nan else .inf (a != b)
  | .fin a m _, .inf b => if m = 0 then .nan else .inf (a != b)
  | .fin a m e, .fin b n g => .fin (a != b) (m * n) (e + g)

/-- Exact scaling by 2^k. -/
def Num.ldexp (x : Num) (k : Int) : Num :=
  match x with
  | .fin a m e => .fin a m (e + k)
  | y => y

/-- a < b for numbers that are not NaN; −0 and +0 are equal. -/
def Num.lt : Num → Num → Bool
  | .nan, _ => false
  | _, .nan => false
  | .inf a, .inf b => a && !b
  | .inf a, .fin _ _ _ => a
  | .fin _ _ _, .inf b => !b
  | .fin a m e, .fin b n g =>
    let q := min e g
    decide (finInt a m e q < finInt b n g q)

/-- Round the exact quotient a / b once (R89, R117, R128): NaN for 0/0 and ∞/∞, ∞ for x/0. -/
def Fmt.roundDiv (f : Fmt) : Num → Num → W32
  | .nan, _ => f.nan
  | _, .nan => f.nan
  | .inf _, .inf _ => f.nan
  | .inf a, .fin b _ _ => f.inf (a != b)
  | .fin a _ _, .inf b => f.zero (a != b)
  | .fin a m e, .fin b n g =>
    if n = 0 then (if m = 0 then f.nan else f.inf (a != b))
    else if m = 0 then f.zero (a != b)
    else f.roundMag (a != b) (.rat m n (e - g))

/-! ### FP32 arithmetic on codes -/

def dec32 (w : W32) : Num := fmtFP32.decode w
def rnd32 (x : Num) : W32 := fmtFP32.round x
def add32 (a b : W32) : W32 := rnd32 ((dec32 a).add (dec32 b))
def sub32 (a b : W32) : W32 := rnd32 ((dec32 a).add (dec32 b).negate)
def mul32 (a b : W32) : W32 := rnd32 ((dec32 a).mul (dec32 b))
def negInf32 : W32 := 0xFF800000
def posInf32 : W32 := 0x7F800000
def nan32 : W32 := 0x7FC00000

/-- Exact MAX of two elements of a format (R94): +0 above −0, NaN spreads. -/
def maxElem (f : Fmt) (a b : W32) : W32 :=
  let x := f.decode a
  let y := f.decode b
  if x.isNan || y.isNan then f.nan
  else if x.lt y then b else if y.lt x then a
  else if x.neg then b else a

/-- Exact MIN of two elements of a format (R94). -/
def minElem (f : Fmt) (a b : W32) : W32 :=
  let x := f.decode a
  let y := f.decode b
  if x.isNan || y.isNan then f.nan
  else if x.lt y then a else if y.lt x then b
  else if x.neg then a else b

def max32 (a b : W32) : W32 := maxElem fmtFP32 a b

/-- Conversion of an FP32 value into a format code's element (R82). -/
def toFmt (f : Fmt) (w : W32) : W32 := f.round (dec32 w)

/-! ### Stochastic rounding (R91 to R93) -/

structure Philox where
  c0 : W32
  c1 : W32
  c2 : W32
  c3 : W32
deriving DecidableEq, Repr

/-- One round of Philox-4x32 (R91). -/
def philoxRound (s : Philox) (k0 k1 : W32) : Philox :=
  let p0 := 0xD2511F53 * s.c0.toNat
  let p1 := 0xCD9E8D57 * s.c2.toNat
  { c0 := BitVec.ofNat 32 (p1 >>> 32) ^^^ s.c1 ^^^ k0
    c1 := BitVec.ofNat 32 p1
    c2 := BitVec.ofNat 32 (p0 >>> 32) ^^^ s.c3 ^^^ k1
    c3 := BitVec.ofNat 32 p0 }

def philoxGo : Nat → Philox → W32 → W32 → Philox
  | 0, s, _, _ => s
  | n + 1, s, k0, k1 => philoxGo n (philoxRound s k0 k1) (k0 + 0x9E3779B9) (k1 + 0xBB67AE85)

/-- Philox-4x32-10 (R91). -/
def philox (s : Philox) (key : W64) : Philox :=
  philoxGo 10 s (BitVec.ofNat 32 key.toNat) (BitVec.ofNat 32 (key.toNat >>> 32))

def Philox.word (s : Philox) (i : Nat) : W32 :=
  if i = 0 then s.c0 else if i = 1 then s.c1 else if i = 2 then s.c2 else s.c3

/-- The random word of the stochastic-rounding stream for row `r`, column `j` (Table 4.8); `seg` is
0xFFFF_FFFF unless the value belongs to one segment. -/
def srWord (seed : W64) (r j seg : Nat) : W32 :=
  (philox { c0 := BitVec.ofNat 32 (j >>> 2), c1 := BitVec.ofNat 32 r, c2 := BitVec.ofNat 32 seg,
            c3 := BitVec.ofNat 32 (0x53520000 + (r >>> 32) % 2 ^ 16) } seed).word (j % 4)

/-- Stochastic rounding of an FP32 value with random word `x` (R93). -/
def stochRound (f : Fmt) (v : W32) (x : W32) : W32 :=
  if f = fmtFP32 then v else
  match dec32 v with
  | .nan => f.nan
  | .inf n => f.inf n
  | .fin n m e =>
    if m = 0 then f.zero n else
    let q := f.quantum ((Nat.log2 m : Int) + e)
    let a := min (f.codeOf q (shiftFloor m e q).1) f.maxCode
    -- the largest magnitude not above |v| and the spacing above it
    let (am, ae) := match f.decode (BitVec.ofNat 32 a) with
      | .fin _ k g => (k, g)
      | _ => (0, f.qmin)
    let lo := min ae e
    let rest := (m <<< (e - lo).toNat) - (am <<< (ae - lo).toNat)
    let F := (ratFloor rest 1 lo (ae - 32)).1
    let c := if x.toNat < F then a + 1 else a
    if c > f.maxCode then f.inf n else f.signed n c

/-- A cast with a rounding code (R82): 0 nearest even, 1 stochastic. -/
def castOut (f : Fmt) (round : Nat) (v : W32) (word : W32) : W32 :=
  if round = 1 then (stochRound f v word) else toFmt f v

end Sys2Proof.Machine
end

