-- ==== Sys2Proof/Machine/Func.lean ====
section
/-! DEFINITION. The special functions of R132 to R134, exactly rounded: exact magnitudes for RECIP,
RSQRT and SQRT, and for the others rational bounds that enclose the (irrational) value strictly; where
both ends round alike that is the result, else the value is `Config.undecidedRounding` (log 14). -/

namespace Sys2Proof.Machine

/-- Bounds in units of 2^−640. -/
structure Ivl where
  lo : Int
  hi : Int
deriving DecidableEq, Repr

def ivP : Nat := 640
def ivUnit : Int := ((2 ^ ivP : Nat) : Int)

/-- ⌈a / b⌉ for positive b. -/
def cdivI (a b : Int) : Int := -(Int.fdiv (-a) b)

def ivAdd (a b : Ivl) : Ivl := ⟨a.lo + b.lo, a.hi + b.hi⟩
def ivNeg (a : Ivl) : Ivl := ⟨-a.hi, -a.lo⟩
def ivOfInt (n : Int) : Ivl := ⟨n * ivUnit, n * ivUnit⟩

/-- Product of bounds. -/
def ivMul (a b : Ivl) : Ivl :=
  let p1 := a.lo * b.lo
  let p2 := a.lo * b.hi
  let p3 := a.hi * b.lo
  let p4 := a.hi * b.hi
  ⟨Int.fdiv (min (min p1 p2) (min p3 p4)) ivUnit, cdivI (max (max p1 p2) (max p3 p4)) ivUnit⟩

/-- Quotient by bounds that are positive. -/
def ivDiv (a b : Ivl) : Ivl :=
  ⟨if 0 ≤ a.lo then Int.fdiv (a.lo * ivUnit) b.hi else Int.fdiv (a.lo * ivUnit) b.lo,
   if 0 ≤ a.hi then cdivI (a.hi * ivUnit) b.lo else cdivI (a.hi * ivUnit) b.hi⟩

def ivDivNat (a : Ivl) (n : Nat) : Ivl := ⟨Int.fdiv a.lo n, cdivI a.hi n⟩

/-- Bounds of a signed dyadic number. -/
def ivOfDyadic (neg : Bool) (m : Nat) (e : Int) : Ivl :=
  let s := e + ivP
  let lo : Int := ((m <<< s.toNat) >>> (-s).toNat : Nat)
  let exact := decide (0 ≤ s) || decide ((m >>> (-s).toNat) <<< (-s).toNat = m)
  let r : Ivl := ⟨lo, if exact then lo else lo + 1⟩
  if neg then ivNeg r else r

/-- Σ y^i / i! from term `n` on, `fuel` terms, with the remainder bound of |y| ≤ 1/2 added at the end. -/
def expTail (y : Ivl) : Nat → Nat → Ivl → Ivl
  | 0, _, term => ⟨-(2 * (max term.hi (-term.lo))) - 2, 2 * (max term.hi (-term.lo)) + 2⟩
  | f + 1, n, term => ivAdd term (expTail y f (n + 1) (ivDivNat (ivMul term y) (n + 1)))

def squareN : Nat → Ivl → Ivl
  | 0, a => a
  | n + 1, a => squareN n (ivMul a a)

/-- e^x for 0 ≤ x < 256: halve the argument 16 times, sum 96 terms, square 16 times. -/
def ivExpPos (x : Ivl) : Ivl :=
  squareN 16 (expTail ⟨Int.fdiv x.lo 65536, cdivI x.hi 65536⟩ 96 0 (ivOfInt 1))

/-- e^x for |x| < 256. -/
def ivExp (x : Ivl) : Ivl :=
  if x.lo < 0 then ivDiv (ivOfInt 1) (ivExpPos (ivNeg x)) else ivExpPos x

/-- Σ z^(2i+1) / (2i+1), `fuel` terms, remainder bounded for z² ≤ 1/8. -/
def atanhTail (z2 : Ivl) : Nat → Nat → Ivl → Ivl
  | 0, _, pw => ⟨-(2 * (max pw.hi (-pw.lo))) - 2, 2 * (max pw.hi (-pw.lo)) + 2⟩
  | f + 1, n, pw => ivAdd (ivDivNat pw (2 * n + 1)) (atanhTail z2 f (n + 1) (ivMul pw z2))

/-- artanh z for |z| ≤ 1/3. -/
def ivAtanh (z : Ivl) : Ivl := atanhTail (ivMul z z) 220 0 z

def ivLn2 : Ivl :=
  let a := ivAtanh (ivDivNat (ivOfInt 1) 3)
  ivAdd a a

/-- ln (m × 2^e) for m > 0: m × 2^e = f × 2^k with 3/4 ≤ f < 3/2, and ln f = 2 artanh((f − 1)/(f + 1)). -/
def ivLn (m : Nat) (e : Int) : Ivl :=
  let l := Nat.log2 m
  -- m = g × 2^l, 1 ≤ g < 2
  let big := decide (2 * m ≥ 3 * 2 ^ l)
  let l' := if big then l + 1 else l
  let k : Int := (l' : Int) + e
  let d : Int := ((2 ^ l' : Nat) : Int)
  let z : Ivl := ⟨Int.fdiv (((m : Int) - d) * ivUnit) ((m : Int) + d), cdivI (((m : Int) - d) * ivUnit) ((m : Int) + d)⟩
  let a := ivAtanh z
  ivAdd (ivAdd a a) (ivMul (ivOfInt k) ivLn2)

/-- Σ ± 1 / ((2i+1) n^(2i+1)) for artan (1/n): bounds by truncation, `fuel` terms. -/
def atanInvTail (n2 : Nat) : Nat → Nat → Int → Ivl
  | 0, _, pw => ⟨-pw - 2, pw + 2⟩
  | f + 1, i, pw =>
    let t : Ivl := ⟨pw / (2 * i + 1), pw / (2 * i + 1) + 2⟩
    ivAdd (if i % 2 = 0 then t else ivNeg t) (atanInvTail n2 f (i + 1) (pw / n2))

/-- π by 16 artan(1/5) − 4 artan(1/239). -/
def ivPi : Ivl :=
  ivAdd (ivMul (ivOfInt 16) (atanInvTail 25 160 0 (ivUnit / 5)))
    (ivNeg (ivMul (ivOfInt 4) (atanInvTail 57121 60 0 (ivUnit / 239))))

/-- √ of nonnegative bounds. -/
def ivSqrt (a : Ivl) : Ivl :=
  ⟨(isqrt (a.lo.toNat * 2 ^ ivP) : Nat), ((isqrt (a.hi.toNat * 2 ^ ivP) + 1 : Nat) : Int)⟩

/-- Round a value that lies strictly between the bounds and is not zero; none where they do not decide it. -/
def roundOpen (f : Fmt) (a : Ivl) : Option W32 :=
  let neg := decide (a.lo < 0)
  let b := if neg then ivNeg a else a
  if b.lo < 0 then none else
  let x := f.roundMag neg (.above b.lo.toNat (-(ivP : Int)))
  let y := f.roundMag neg (.above (b.hi.toNat - 1) (-(ivP : Int)))
  if x = y then some x else none

/-- 1 / (1 + e^−x); beyond ±200 the value is within 2^−288 of 0 or 1. -/
def ivSigmoid (x : Ivl) : Ivl :=
  if x.lo > 200 * ivUnit then ⟨ivUnit - ivUnit / 2 ^ 280, ivUnit⟩
  else if x.hi < -200 * ivUnit then ⟨0, ivUnit / 2 ^ 280⟩
  else ivDiv (ivOfInt 1) (ivAdd (ivOfInt 1) (ivExp (ivNeg x)))

/-- Round bounds of a magnitude scaled by m × 2^e: the product of an exact number and a value strictly
between the bounds. -/
def roundScaled (f : Fmt) (neg : Bool) (m : Nat) (e : Int) (a : Ivl) : Option W32 :=
  let lo := m * a.lo.toNat
  let hi := m * a.hi.toNat
  let x := f.roundMag neg (.above lo (e - ivP))
  let y := f.roundMag neg (.above (hi - 1) (e - ivP))
  if x = y then some x else none

/-- x × sigmoid(t), strictly between the bounds (SILU, GELU_TANH). -/
def mulSigmoid (f : Fmt) (neg : Bool) (m : Nat) (e : Int) (t : Ivl) : Option W32 :=
  roundScaled f neg m e (ivSigmoid t)

/-- Compare |m × 2^e| with an integer bound: |x| ≥ b. -/
def dyGe (m : Nat) (e : Int) (b : Nat) : Bool :=
  if 0 ≤ e then decide (b ≤ m <<< e.toNat) else decide (b <<< (-e).toNat ≤ m)

/-- Whether m × 2^e is an integer, and its value. -/
def dyInt (neg : Bool) (m : Nat) (e : Int) : Option Int :=
  let (v, lost) := shiftFloor m e 0
  if lost then none else some (if neg then -(v : Int) else v)

/-- Table 6.6 at a finite nonzero argument (−1)^neg × m × 2^e; none where the bounds do not decide. -/
def funcFin (f : Fmt) (code : Nat) (neg : Bool) (m : Nat) (e : Int) : Option W32 :=
  if code = 0x01 then
    if dyGe m e 200 then (if neg then some (f.zero false) else some (f.roundMag false (.above 1 288)))
    else roundOpen f (ivExp (ivOfDyadic neg m e))
  else if code = 0x02 then
    if dyGe m e 200 then (if neg then some (f.zero false) else some (f.roundMag false (.above 1 200)))
    else match dyInt neg m e with
      | some k => some (f.roundMag false (.rat 1 1 k))
      | none => roundOpen f (ivExp (ivMul (ivOfDyadic neg m e) ivLn2))
  else if code = 0x03 then
    if neg then some f.nan
    else if dyInt false m e = some 1 then some (f.zero false)
    else roundOpen f (ivLn m e)
  else if code = 0x04 then
    if neg then some f.nan
    else if m = 2 ^ Nat.log2 m then some (f.round (intNum false ((Nat.log2 m : Int) + e) 0))
    else roundOpen f (ivDiv (ivLn m e) ivLn2)
  else if code = 0x05 then some (f.roundMag neg (.rat 1 m (-e)))
  else if code = 0x06 then (if neg then some f.nan else some (f.roundMag false (.sqrt 1 m (-e))))
  else if code = 0x07 then (if neg then some f.nan else some (f.roundMag false (.sqrt m 1 e)))
  else if code = 0x08 then
    if dyGe m e 200 then (if neg then some (f.roundMag false (.above 1 (-400))) else some (f.roundMag false (.above (2 ^ 400 - 1) (-400))))
    else roundOpen f (ivSigmoid (ivOfDyadic neg m e))
  else if code = 0x09 then
    if dyGe m e 200 then some (f.roundMag neg (.above (2 ^ 400 - 1) (-400)))
    else
      let a := ivExp (ivOfDyadic false m (e + 1))
      let t := ivDiv (ivAdd a (ivOfInt (-1))) (ivAdd a (ivOfInt 1))
      roundOpen f (if neg then ivNeg t else t)
  else if code = 0x0A then mulSigmoid f neg m e
    (if dyGe m e 300 then ivOfInt (if neg then -300 else 300) else ivOfDyadic neg m e)
  else
    let big := dyGe m e 300
    let x := if big then ivOfInt (if neg then -300 else 300) else ivOfDyadic neg m e
    let c := ivSqrt (ivDiv (ivOfInt 2) ivPi)
    let g : Ivl := ⟨Int.fdiv (44715 * ivUnit) 1000000, cdivI (44715 * ivUnit) 1000000⟩
    let u := ivMul c (ivAdd x (ivMul g (ivMul x (ivMul x x))))
    mulSigmoid f neg m e (ivAdd u u)

/-- The exactly rounded function of Table 6.6 of an FP32 argument (R132, R133). -/
def funcVal (f : Fmt) (fmtCode code : Nat) (w : W32) (x : Num) : W32 :=
  match x with
  | .nan => f.nan
  | .inf neg =>
    if code = 0x01 || code = 0x02 then (if neg then f.zero false else f.inf false)
    else if code = 0x03 || code = 0x04 then (if neg then f.nan else f.inf false)
    else if code = 0x05 then f.zero neg
    else if code = 0x06 then (if neg then f.nan else f.zero false)
    else if code = 0x07 then (if neg then f.nan else f.inf false)
    else if code = 0x08 then (if neg then f.zero false else f.round (.fin false 1 0))
    else if code = 0x09 then f.round (.fin neg 1 0)
    else (if neg then f.zero true else f.inf false)
  | .fin neg m e =>
    if m = 0 then
      if code = 0x01 || code = 0x02 then f.round (.fin false 1 0)
      else if code = 0x03 || code = 0x04 then f.inf true
      else if code = 0x05 || code = 0x06 then f.inf neg
      else if code = 0x08 then f.round (.fin false 1 (-1))
      else f.zero neg
    else match funcFin f code neg m e with
      | some r => r
      | none => Config.undecidedRounding code w fmtCode

/-- A function of an FP32 value into FP32 (R134). -/
def func32 (code : Nat) (w : W32) : W32 := funcVal fmtFP32 0x01 code w (dec32 w)

/-- p = RN(exp(t)) of R112. -/
def exp32 (w : W32) : W32 := func32 0x01 w

end Sys2Proof.Machine
end

