-- ==== Sys2Proof/Machine/Block.lean ====
section
/-! DEFINITION. Block formats and the fixed orders of sums: MX blocks (R78 to R80), piccolo blocks (R81),
group sums (R85, R86), the merge tree (R87), overflow marks (R88), and the exact reductions (R94). -/

namespace Sys2Proof.Machine

/-! ### Packed elements -/

/-- Element `i` of width `w` in a little-endian data part (R78). -/
def packedElem (w : Nat) (data : Nat) (i : Nat) : W32 := BitVec.ofNat 32 ((data >>> (w * i)) % 2 ^ w)

/-- Pack elements of width `w` (R78). -/
def packElems (w : Nat) : List W32 → Nat
  | [] => 0
  | x :: xs => x.toNat % 2 ^ w + (packElems w xs) <<< w

/-- Decode element `i` of an MX block (R79): the scale byte 0xFF makes every element NaN. -/
def mxDecode (f : Fmt) (data : Nat) (scale : Byte) (i : Nat) : Num :=
  if scale = 0xFF then .nan
  else (f.decode (packedElem f.width data i)).ldexp ((scale.toNat : Int) - 127)

/-- Largest magnitude of finite decoded values, as an exact (m, e); zero when all are. -/
def amax : List Num → Nat × Int
  | [] => (0, 0)
  | .fin _ m e :: t =>
    let (n, g) := amax t
    let q := min e g
    if n = 0 then (m, e) else if m = 0 then (n, g)
    else if m <<< (e - q).toNat ≥ n <<< (g - q).toNat then (m, e) else (n, g)
  | _ :: t => amax t

/-- ⌊log₂⌋ of a nonzero dyadic magnitude. -/
def magLog2 (x : Nat × Int) : Int := (Nat.log2 x.1 : Int) + x.2

def clampInt (lo hi v : Int) : Int := if v < lo then lo else if hi < v then hi else v

/-- Exponent of a format's largest finite value (R80 step 3). -/
def Fmt.emax (f : Fmt) : Int :=
  match f.decode (BitVec.ofNat 32 f.maxCode) with
  | .fin _ m e => magLog2 (m, e)
  | _ => 0

/-- Encode 32 FP32 values as an MX block: element codes and scale byte (R80). -/
def mxEncode (f : Fmt) (xs : List W32) : List W32 × Byte :=
  let ds := xs.map dec32
  if ds.any (fun d => !d.isFin) then (xs.map (fun _ => 0), 0xFF)
  else
    let a := amax ds
    if a.1 = 0 then (xs.map (fun _ => 0), 0)
    else
      let x := clampInt (-127) 127 (magLog2 a - f.emax)
      (ds.map (fun d => match d with
        | .fin n m e => if m = 0 then f.zero n else f.roundClamp n (.rat m 1 (e - x))
        | _ => 0), BitVec.ofInt 8 (x + 127))

/-! ### Products and sums with overflow marks (R83, R84, R88) -/

/-- An FP32 value with the mark that some operation of the accumulation overflowed. -/
structure Acc where
  v : W32
  ovf : Bool
deriving DecidableEq, Repr

def isInf32 (w : W32) : Bool := (dec32 w).isInf
def isFin32 (w : W32) : Bool := (dec32 w).isFin

/-- One product, scaled by 2^−k and rounded once (R83). -/
def prodAcc (a b : Num) (k : Nat) : Acc :=
  let r := rnd32 ((a.mul b).ldexp (-(k : Int)))
  { v := r, ovf := a.isFin && b.isFin && isInf32 r }

/-- One addition (R84, R88). -/
def addAcc (a b : Acc) : Acc :=
  let r := add32 a.v b.v
  { v := r, ovf := a.ovf || b.ovf || (isFin32 a.v && isFin32 b.v && isInf32 r) }

def zeroAcc : Acc := { v := 0, ovf := false }

/-- One level of the pairwise tree; an odd last element stays. -/
def pairLevel : List Acc → List Acc
  | a :: b :: t => addAcc a b :: pairLevel t
  | l => l

def iterN {α : Type} (f : α → α) : Nat → α → α
  | 0, a => a
  | n + 1, a => iterN f n (f a)

/-- tree_sum64 of R86, over exactly 64 values. -/
def treeSum64 (xs : List Acc) : Acc := (iterN pairLevel 6 xs).headD zeroAcc

/-- Pad with +0 to the next multiple of 64 (R85 step 1). -/
def pad64 (xs : List Acc) : List Acc :=
  xs ++ List.replicate (roundUp xs.length 64 - xs.length) zeroAcc

/-- `reduce` of R86: with no `acc` the accumulator starts (START = 1). -/
def reduceAcc (acc : Option Acc) (xs : List Acc) : Acc :=
  let sums := (pieces 64 (pad64 xs)).map treeSum64
  match acc, sums with
  | some a, ss => ss.foldl addAcc a
  | none, s :: ss => ss.foldl addAcc s
  | none, [] => zeroAcc

/-- The dot product of R85 at overflow step k. -/
def dot (xs ys : List Num) (k : Nat) : Acc :=
  reduceAcc none (List.zipWith (fun a b => prodAcc a b k) xs ys)

/-! ### The merge tree (R87) -/

/-- One level: neighbours under one parent merge as left + right; a single child passes. -/
def mergeLevel {α : Type} (add : α → α → α) : List (Nat × α) → List (Nat × α)
  | [] => []
  | [(i, a)] => [(i / 2, a)]
  | (i, a) :: (j, b) :: t =>
    if i / 2 = j / 2 then (i / 2, add a b) :: mergeLevel add t
    else (i / 2, a) :: mergeLevel add ((j, b) :: t)

/-- The root of the present leaves, given in rising index order; none when there is no leaf. -/
def mergeTree {α : Type} (add : α → α → α) (leaves : List (Nat × α)) : Option α :=
  let top := leaves.foldl (fun m p => max m p.1) 0
  match iterN (mergeLevel add) (Nat.log2 top + 1) leaves with
  | (_, a) :: _ => some a
  | [] => none

/-! ### Exact reductions (R94, Table 4.10) -/

/-- Truth of an element: an integer with a set bit, a float that is neither +0 nor −0. -/
def elemTrue (code : Nat) (a : W32) : Bool :=
  match fmtOf code with
  | some f => !(f.decode a).isZero
  | none => a ≠ 0

/-- The element 1 (integers) or 1.0 (floats), or zero. -/
def elemBool (code : Nat) (b : Bool) : W32 :=
  if b then (match fmtOf code with
    | some f => f.round (.fin false 1 0)
    | none => 1)
  else 0

/-- Signed or unsigned value of an integer element code. -/
def intElem (code : Nat) (a : W32) : Int := if code = 0x22 then sgn32 a.toNat else (a.toNat : Int)

/-- Reduction operations of Table 13.5: 1 MAX, 2 MIN, 3 AND, 4 OR, 5 XOR, 6 LAND, 7 LOR. -/
def exactRed (op code : Nat) (a b : W32) : W32 :=
  if op = 1 then (match fmtOf code with
    | some f => maxElem f a b
    | none => if intElem code a < intElem code b then b else a)
  else if op = 2 then (match fmtOf code with
    | some f => minElem f a b
    | none => if intElem code b < intElem code a then b else a)
  else if op = 3 then a &&& b
  else if op = 4 then a ||| b
  else if op = 5 then a ^^^ b
  else if op = 6 then elemBool code (elemTrue code a && elemTrue code b)
  else elemBool code (elemTrue code a || elemTrue code b)

/-! ### Elements in memory -/

/-- Decode consecutive elements of a float format code (R76). -/
def elems (code : Nat) (bs : List Byte) : List W32 :=
  (pieces (elemBytes code) bs).map (fun b => BitVec.ofNat 32 (leNat b))

/-- Encode elements of a format code as bytes. -/
def elemsBytes (code : Nat) (xs : List W32) : List Byte :=
  xs.flatMap (fun x => toLE (elemBytes code) x.toNat)

/-- Decoded value of an element of a float format code. -/
def decodeCode (code : Nat) (w : W32) : Num :=
  match fmtOf code with
  | some f => f.decode w
  | none => .nan

/-- Round a decoded number into a float format code. -/
def roundCode (code : Nat) (x : Num) : W32 :=
  match fmtOf code with
  | some f => f.round x
  | none => 0

end Sys2Proof.Machine
end

