-- ==== Sys2Proof/Machine/Pic.lean ====
section
/-! DEFINITION. Piccolo records (R81, R106, R107) and the scout bound (R108): PIC4 quantisation, exact sums
rounded once toward +∞, and the key bound. -/

namespace Sys2Proof.Machine

/-- Round an exact value once toward +∞ in FP32 (RU of R107 and R108). -/
def ru32 (x : Num) : W32 :=
  match x with
  | .nan => nan32
  | .inf n => if n then negInf32 else posInf32
  | .fin n m e =>
    if m = 0 then fmtFP32.zero n else
    let q := fmtFP32.quantum ((Nat.log2 m : Int) + e)
    let (t, lost) := shiftFloor m e q
    let c := fmtFP32.codeOf q (if lost && !n then t + 1 else t)
    -- a negative value below the range rounds up to the most negative finite number
    if n then fmtFP32.signed true (min c fmtFP32.maxCode)
    else if c > fmtFP32.maxCode then posInf32 else BitVec.ofNat 32 c

/-- Nearest even integer of m × 2^e, clamped to 7 (R106 step 3). -/
def picRound (m : Nat) (e : Int) : Nat :=
  let (t, lost) := shiftFloor m e (-1)
  let r := t / 2
  min 7 (if t % 2 = 1 && (lost || r % 2 = 1) then r + 1 else r)

/-- A PIC4 block: scale byte and 32 elements (R81). -/
structure PicBlock where
  scale : Byte
  es : List Int
deriving DecidableEq, Repr

/-- Quantise 32 exact values (R106). -/
def picBlock (xs : List Num) : PicBlock :=
  if xs.any (fun d => !d.isFin) then { scale := 0xFF, es := xs.map (fun _ => 0) }
  else
    let a := amax xs
    if a.1 = 0 then { scale := 0, es := xs.map (fun _ => 0) }
    else
      let x := clampInt (-127) 127 (magLog2 a - 2)
      { scale := BitVec.ofInt 8 (x + 127)
        es := xs.map (fun d => match d with
          | .fin n m e => let v : Int := (picRound m (e - x) : Nat)
                          if n then -v else v
          | _ => 0) }

/-- The padded blocks of a vector of HEAD_DIM exact values (R106). -/
def picVec (xs : List Num) : List PicBlock :=
  (pieces 32 (xs ++ List.replicate (roundUp xs.length 32 - xs.length) (.fin false 0 0))).map picBlock

/-- Exponent of ε over the blocks with scale byte below 0xFF (R106); −70 when there is none (R203). -/
def picEps (bs : List PicBlock) : Int :=
  bs.foldl (fun a b => if b.scale = 0xFF then a else max a ((b.scale.toNat : Int) - 127)) (-70)

/-- Exact Σ |x| rounded once toward +∞ (R107). -/
def l1Up (xs : List Num) : W32 :=
  ru32 (xs.foldl (fun a x => a.add (match x with
    | .fin _ m e => .fin false m e
    | .inf _ => .inf false
    | .nan => .nan)) (.fin false 0 0))

/-- Element of a block as an exact number: e × 2^(X − 127). -/
def picNum (b : PicBlock) (e : Int) : Num :=
  .fin (e < 0) e.natAbs ((b.scale.toNat : Int) - 127)

/-- ‖k̂‖₁ over the blocks with scale byte below 0xFF (R107, R203). -/
def picL1 (bs : List PicBlock) : W32 :=
  l1Up ((bs.filter (fun b => b.scale ≠ 0xFF)).flatMap (fun b => b.es.map (picNum b)))

/-- INT4 code of an element, two's complement. -/
def int4 (e : Int) : W32 := BitVec.ofInt 32 (if e < 0 then e + 16 else e)
def int4Val (c : Nat) : Int := if c < 8 then (c : Int) else (c : Int) - 16

/-- The 16 bytes of a block's elements (R81). -/
def picBytes (b : PicBlock) : List Byte := toLE 16 (packElems 4 (b.es.map int4))

/-- A block read from its 16 bytes and its scale byte. -/
def picRead (bytes : List Byte) (scale : Byte) : PicBlock :=
  let n := leNat bytes
  { scale := scale, es := (List.range 32).map (fun i => int4Val (nfld n (4 * i + 3) (4 * i))) }

/-- A piccolo key: blocks, ε and ‖k̂‖₁ as FP32 words (Table 10.5). -/
structure PicKey where
  blocks : List PicBlock
  eps : W32
  l1 : W32
deriving DecidableEq, Repr

/-- The record of a key's exact decoded values (R106, R107, R203). -/
def picKeyOf (xs : List Num) : PicKey :=
  let bs := picVec xs
  { blocks := bs, eps := rnd32 (.fin false 1 (picEps bs)), l1 := picL1 bs }

/-- The row's side of the bound: q̂, ε_q and ‖q‖₁ of the exact values (R107). -/
def picRowOf (xs : List Num) : PicKey :=
  let bs := picVec xs
  { blocks := bs, eps := rnd32 (.fin false 1 (picEps bs)), l1 := l1Up xs }

/-- q̂·k̂, exactly (R108). -/
def picDot (q k : List PicBlock) : Num :=
  (List.zipWith (fun (a b : PicBlock) =>
    let v : Int := (List.zipWith (fun x y => x * y) a.es b.es).foldl (fun s x => s + x) 0
    Num.fin (v < 0) v.natAbs ((a.scale.toNat : Int) + (b.scale.toNat : Int) - 254)) q k).foldl Num.add (.fin false 0 0)

/-- B of R108 step 1. -/
def keyBound (hd : Nat) (q k : PicKey) : W32 :=
  if q.blocks.any (fun b => b.scale = 0xFF) || k.blocks.any (fun b => b.scale = 0xFF) then posInf32
  else
    let e := (dec32 q.eps).mul (dec32 k.eps)
    ru32 ((((picDot q.blocks k.blocks).add ((dec32 q.l1).mul (dec32 k.eps))).add
      ((dec32 k.l1).mul (dec32 q.eps))).add ((Num.fin false hd 0).mul e))

/-- RU(SCALE × B_row) (R108 step 3). -/
def scoutBound (scale b : W32) : W32 := ru32 ((dec32 scale).mul (dec32 b))

end Sys2Proof.Machine
end

