-- ==== Sys2Proof/Machine/State.lean ====
section
/-! DEFINITION. The state of one Kiqua die as plain data: every register, memory, queue and mode the spec
gives it, the memory side's bytes, the queue of waiting commands, and the machine at cold reset.
INVENTORY.md lists each piece with its rule and its reset value. A field with a default holds that
value at cold reset. -/

namespace Sys2Proof.Machine

/-- A step never stops this machine: the block has no exception and no command without an effect. -/
inductive Fault where
  /-- Conditions outside Table 18.2, under which R343 and R386 give the die no behaviour. Raised by no
  command of this model. Safe: it removes no behaviour the spec gives. -/
  | outsideOperatingConditions
deriving DecidableEq, Repr

/-- Reasons to give a command no meaning. -/
inductive Refusal where
  /-- Raised by a refused arm of `exec`: the command has no meaning yet. Safe. -/
  | notModelled (mnemonic : String)
deriving DecidableEq, Repr

/-! ### Breath (chapter 03) -/

/-- A breath marker (R62, Table 14.3): remaining time in units of 2⁻⁸ ns. -/
structure Marker where
  b : W64
  remaining : Int
  hops : Byte
deriving DecidableEq, Repr

/-- Tables 3.1, 3.2, 3.4, 3.5 and the pulse logic of R57 to R64. -/
structure Breath where
  guard : Byte := 0x32
  refPerUs : Byte := 0x64
  upDie : BitVec 2 := 0
  src : BitVec 2 := 0
  period : BitVec 11 := 0x014
  num : W64 := 0
  hops : BitVec 4 := 0
  long : W16 := 0
  lastErr : Byte := 0
  stray : Bool := false
  renum : Bool := false
  overrun : Bool := false
  miss : Bool := false
  freeRun : Bool := false
  runtCnt : W16 := 0
  missedCnt : W16 := 0
  strayCnt : W16 := 0
  overrunCnt : W16 := 0
  pulseLock : Bool := false           -- a pulse was accepted and 16 low fc are not yet seen (R57)
  started : Bool := false             -- a boundary has been taken since cold reset (R60)
  late : Nat := 0                     -- ps from the last boundary to the pulse that restarted the timer (R60)
  fromTimer : Bool := false           -- the last boundary came from the die's own timer (R60)
  marker : Option Marker := none      -- counted down by a following master (R62)
  announced : Option Marker := none   -- announces the next boundary (R64)
deriving DecidableEq, Repr

/-! ### Queues and the item store (chapter 02) -/

/-- One queue: Tables 2.3 to 2.7 and 2.24, and R36, R37. -/
structure Queue where
  cplHead : W32 := 0
  cmdTail : W32 := 0
  admitMax : W16 := 0
  ctx : CtxId := 0
  irqEn : Bool := false
  irqLine : BitVec 3 := 0
  log2 : BitVec 5 := 0
  st : BitVec 2 := 0
  en : Bool := false
  cmdBase : BitVec 56 := 0
  cplBase : BitVec 56 := 0
  accHead : W32 := 0
  cplTail : W32 := 0
  cplErr : Bool := false
  dbErr : Bool := false
  negVer : Byte := 0
  short : W32 := 0
  closing : Bool := false
  stBeforeStop : BitVec 2 := 0
deriving DecidableEq, Repr

/-- The stages of Table 2.8, from admission on. -/
inductive Stage where
  | admitted        -- admitted, its bytes not yet copied (R33)
  | accepted        -- copied, passed its issue checks, not yet executing
  | executing
  | committed       -- output writes acknowledged and changes applied; record not yet written
  | ended           -- completed or failed without a commit; record not yet written
  | recordSent      -- its completion-record write awaits the memory side
  | recordFailed    -- its completion-record write returned poison (R37)
deriving DecidableEq, Repr

/-- Bytes to be written at an address field (Table 2.10). -/
structure Out where
  addr : W64
  bytes : List Byte
deriving DecidableEq, Repr

/-- One row after pass 2 (R109 to R115): bound, true maximum, merged root, settled overflow steps. A
sequence-parallel row is held so between its exchanges too (R294); `kx` is k_dQ of a backward row. -/
structure FwdAcc where
  masked : Bool := false
  resc : Bool := false
  mHat : W32 := 0
  m : W32 := 0xFF800000
  l : W32 := 0
  o : List W32 := []
  ks : Nat := 0
  kv : Nat := 0
  kx : Nat := 0
deriving DecidableEq, Repr

/-- What an executing item holds for one row. -/
inductive RowRes where
  | fwd (acc : FwdAcc)
  | outs (writes : List Out)
deriving DecidableEq, Repr

/-- One row of a node record (Table 8.5): whether the block holds an unmasked key of the row, l and o (o alone for a backward
row), the block's maximum score, and the overflow reports at the steps in use. -/
structure NodeRow where
  present : Bool := false
  vals : List W32 := []
  m : W32 := 0xFF800000
  ovfS : Bool := false                -- a score overflowed at the score step
  ovfP : Bool := false                -- a dP overflowed at its step (backward)
  ovf : Bool := false                 -- an accumulation overflowed at the value or dQ step
deriving DecidableEq, Repr

/-- The rows of a row block that runs as part tasks and a merge task (R152, R160, R161): what has been dispatched, the bound
and node records that have arrived, and the bound and steps of the pass under way. -/
structure RowGroup where
  rowFirst : Nat
  rows : Nat
  shapes : List TaskShape                   -- its tasks, the parts first, as planned at its first dispatch
  entry : Nat                               -- the stage entry that it is dispatched on (R159)
  at_ : Option W64 := none                  -- the breath of its dispatch; none: to be dispatched (again) (R161)
  out : List TaskShape := []                -- its tasks dispatched since then
  bounds : List (TaskShape × List W32) := []
  bounded : Bool := false                   -- the combined bound is formed (R109)
  nodes : List (TaskShape × List NodeRow) := []
  accs : List FwdAcc := []
deriving DecidableEq, Repr

/-- A Sequence Table entry (Table 10.1). -/
structure SeqEntry where
  ver : Byte := 0
  state : Byte := 0
  kvFmt : Byte := 0
  srcFmt : Byte := 0
  headDim : W16 := 0
  kvHeads : W16 := 0
  layerFirst : W16 := 0
  layerCount : W16 := 0
  ctx : CtxId := 0
  nextLayer : W16 := 0
  len : W32 := 0
  step : W32 := 0
  lastSn : W32 := 0
  shIdx : Byte := 0
  shN : Byte := 0
  log2Blk : BitVec 5 := 0
  mirror : Bool := false
  kvRoot : W32 := 0
  picRoot : W32 := 0
  lastUse : W32 := 0
  resv : W32 := 0
  capacity : W32 := 0
  picFmt : Byte := 0
  hint : Byte := 0
  homeTier : Bool := false
  kvLv : BitVec 2 := 0
  picLv : BitVec 2 := 0
deriving DecidableEq, Repr

/-- A unit of a pool of the Paging Engine (R204, R208). -/
inductive PoolUnit where
  | frame (far : Bool) (f : Nat)
  | lpn (n : Nat)
  | blk (b : Nat)
deriving DecidableEq, Repr

/-- A change that a Paging Engine item stages and applies at its commit (R210); `info` and `list` carry the
physical address that their region address translated to. -/
inductive Change where
  | journal (addr : W64) (pa : Nat) (bytes : List Byte)   -- a write of the commit journal (R206, R210)
  | info (addr : W64) (pa : Nat) (bytes : List Byte)
  | list (addr : W64) (pa : Nat) (bytes : List Byte)
  | take (u : PoolUnit)
  | drop (u : PoolUnit)
  | resv (far : Bool) (delta : Int)
  | cow
  | cancel (lpn : Nat)                            -- a migration whose page goes (Table 10.11)
  | wrote (far : Bool) (f : Nat)                  -- a frame that the item's page writes reach (R261)
  | entry (idx : Nat) (e : SeqEntry)
deriving DecidableEq, Repr

/-- A page key of R246. -/
structure PageKey where
  cls : Cls
  ctx : CtxId
  page : Nat
deriving DecidableEq, Repr

/-- One entry of the item store (R32, R38), with what the item keeps through every re-execution (R98, R100). -/
structure Item where
  q : Nat := 0
  idx : W32 := 0
  cmd : BitVec 512 := 0
  behind : Bool := false              -- another item of its queue was in the store at its acceptance (R47)
  copyFailed : Bool := false          -- R33: none of the command's bytes are held
  stage : Stage := .admitted
  checked : Bool := false             -- its issue checks have run (R45, R277)
  haloHit : Bool := false             -- its halo exchange restarts at the next boundary (R172)
  x0 : Nat := 0                       -- x₀ of its halo exchange (R171)
  ver : Byte := 0
  status : Byte := 0
  detail : W64 := 0
  count : W32 := 0
  maskedRows : Bool := false
  rescout : Bool := false
  replayed : Bool := false
  drops : Bool := false
  breath : W32 := 0
  desc : List Byte := []              -- descriptor bytes read at first begin (R100, R139)
  entries : List SeqEntry := []       -- entry values read at first begin (R98)
  spSn : Option W16 := none           -- R294
  rows : List (Nat × RowRes) := []    -- results of the passes, by row
  tail : List Out := []               -- dK and dV of a backward item, written when its last row drains
  drained : List Nat := []            -- rows whose drain has written memory
  written : List Out := []            -- what its drains have written (R267)
  landed : List (Nat × Nat) := []     -- ranges of memory that its output writes have reached (R242)
  replay : List Nat := []             -- the rows recorded as drained at the last boundary (Table 3.8)
  nRows : Nat := 0                    -- rows to drain
  placed : List (Nat × Nat) := []     -- the stage entry whose cores each sequence keeps to (R155)
  created : List TaskShape := []      -- row blocks, and Row Engine tasks, created in walk order (R167, R173)
  cuts : List TaskShape := []         -- tasks aborted for overrun, reissued as smaller ones (R68)
  groups : List RowGroup := []        -- row blocks that run as part tasks and a merge task (R152)
  pieces : List TaskShape := []       -- drained column pieces of wide Row Engine rows (R173)
  freeBase : Nat := 0                 -- where the item's unspecified page bytes draw from (R225, log 3)
  begun : Bool := false               -- its first begin has read what R98 and R100 read once
  issued : Bool := false              -- its effect is computed and every output write is issued
  staged : List Change := []          -- R210
  applying : Nat := 0                 -- how far its application has come: 1 journal, 2 page information, 3 lists (R210)
  holdKeys : List PageKey := []       -- outstanding faults it waits on (R244)
  retryFull : Bool := false           -- waits to retry after a full outstanding table (R246)
  ready : Option W64 := none          -- breath in which what it waited on closed (R244, R246)
  firstFault : Option W64 := none     -- its first faulting access (R248)
  hwAborts : Nat := 0                 -- R350
  exchangeWait : Nat := 0             -- boundaries waited on a down link or lost die (R357)
  steps : Nat := 0                    -- largest k / 4 of any kind (R90)
  rescouted : Nat := 0
  maskedCnt : Nat := 0
  slots : List (Nat × W64) := []      -- idle slots a TEST_PACK has used: physical core and breath (R363)
  ran : List (Nat × Nat × Bool) := [] -- physical core, record, and whether it matched
deriving DecidableEq, Repr

/-- A sleep on an arrival counter (R190, R192). -/
structure Wait where
  counter : Nat
  threshold : W32
  boundaries : Nat
deriving DecidableEq, Repr

/-- A task on a thread (R67, R152). -/
structure Task where
  core : Nat
  thread : Nat
  q : Nat
  idx : W32
  ctx : CtxId
  shape : TaskShape
  dispatched : W64
  serial : Nat                        -- tasks dispatched before it since cold reset (R208)
  counted : Bool := false             -- a long task that LONG has counted (R68)
  wait : Option Wait := none
deriving DecidableEq, Repr

/-- An aborted task that firmware will reissue unchanged (R244, R347). -/
structure Reissue where
  task : Task
  keys : List PageKey                 -- outstanding records it caused or attached to
  full : Bool                         -- a fault of it met a full outstanding table (R246)
  ready : Option W64 := none          -- breath in which what it waited on closed
deriving DecidableEq, Repr

/-! ### Interrupts (chapter 19) -/

/-- Table 19.6. -/
structure Irq where
  gstat : BitVec 6 := 0
  sensorEn : Bool := false
  capacityEn : Bool := false
  mailboxEn : Bool := false
  breathEn : Bool := false
  sensorLine : BitVec 3 := 0
  bellLine : BitVec 3 := 0
  capacityLine : BitVec 3 := 0
  mailboxLine : BitVec 3 := 0
  breathLine : BitVec 3 := 0
  qpend : BitVec 392 := 0
deriving DecidableEq, Repr

/-! ### Bell record, Mute, performance counters, sensors (chapters 17, 18) -/

/-- A Bell event (Table 17.1); `seq` 0 marks an empty slot. -/
structure BellEvent where
  seq : W32 := 0
  code : W16 := 0
  unit : W16 := 0
  breath : W64 := 0
  offset : W32 := 0
  ctx : CtxId := 0
  src : BitVec 2 := 0
  arg : W64 := 0
  fault : Bool := false               -- class F (R367, R370)
deriving DecidableEq, Repr

/-- The Bell record (R366 to R375). -/
structure Bell where
  slots : Tab BellEvent := []
  head : W32 := 1
  flushed : W32 := 1
  dropped : W16 := 0
  irqEn : Bool := false
  faultPend : Bool := false
  staging : List BellEvent := []
  droppedSince : Nat := 0
  flushing : Option W32 := none       -- HEAD as it stood at the flush start
  flushAgain : Bool := false
deriving DecidableEq, Repr

/-- Table 17.8 and R378, R379. -/
structure Mute where
  lastLen : W32 := 0
  count : W16 := 0
  runt : Byte := 0
  originDie : BitVec 2 := 0
  origin : Bool := false
  muted : Bool := false
  rstSeen : Bool := false
  wrstSeen : Bool := false
deriving DecidableEq, Repr

/-- Tables 17.10 and 17.11. -/
structure Perf where
  freeze : Bool := false
  frozen : Bool := false
  ac : W64 := 0
deriving DecidableEq, Repr

/-- Table 18.4. -/
structure Sensors where
  hotIdx : BitVec 5 := 0
  tmax : W16 := 0
  tavg : W16 := 0
  vmax : W16 := 0
  vmin : W16 := 0xFFFF
  vnow : W16 := 0
  vRestart : Bool := false
  arithMhz : W16 := 0
  fabricMhz : W16 := 0
  fabOut : Bool := false
  arithOut : Bool := false
  tAlarm : W16 := 0x0690
  vLow : W16 := 0x02C9
  vHigh : W16 := 0x0313
  vHit : Bool := false
  tHit : Bool := false
deriving DecidableEq, Repr

/-! ### Translation (chapter 11) -/

/-- A Page Translation Cache entry: a page of size 2^size (R235, Table 11.8). -/
structure PtcEntry where
  cls : Cls
  ctx : CtxId
  size : Nat
  page : Nat          -- VA >> size
  frame : Nat         -- PA >> 12
  r : Bool
  w : Bool
  pinned : Bool
deriving DecidableEq, Repr

/-- A fault record (Table 11.10) while it is outstanding (R246). -/
structure FaultRec where
  key : PageKey
  ctx : CtxId                         -- context of the first requester
  write : Bool
  reason : Byte
  level : Byte
  engine : Byte
  breath : W32
  va : W64
  pte : W64
  number : Option W32 := none         -- TAIL at posting
  attached : List (Nat × W32) := []   -- items whose requesters are attached
deriving DecidableEq, Repr

/-- Tables 11.2, 11.5, 11.12 and the Page Translation Cache. -/
structure Trans where
  droot : BitVec 44 := 0
  drootEn : Bool := false
  ctxt : BitVec 40 := 0
  ctxtEn : Bool := false
  fring : BitVec 56 := 0
  fIrqEn : Bool := false
  fIrqLine : BitVec 3 := 0
  fLog2 : BitVec 5 := 0
  ringErr : Bool := false
  fEn : Bool := false
  head : W32 := 0
  tail : W32 := 0
  walks : W32 := 0
  coalesced : W32 := 0
  recs : List FaultRec := []
  failedRec : Option FaultRec := none -- the record whose write returned poison (Table 11.12)
  active : List PtcEntry := []
  inactive : List PtcEntry := []
  staged : Option W64 := none         -- the breath of the latest staging commit (R237)
  ctxCache : List (CtxId × W64) := [] -- cached Context Table entries, first word (R235)
deriving DecidableEq, Repr

/-! ### Streaming, paging (chapters 10, 12) -/

/-- Tables 12.4, 12.7 and R270. -/
structure Streaming where
  pfTags : BitVec 10 := 0x100
  pfLimit : BitVec 10 := 0x100
  chkD : BitVec 9 := 0
  chkDEn : Bool := false
  chkH : BitVec 9 := 0
  chkHEn : Bool := false
  pfDrop : W32 := 0
  pfDiscard : W32 := 0
  chkVerified : W32 := 0
  chkFail : W32 := 0
deriving DecidableEq, Repr

/-- A unit waiting to return to its pool (R208): the breath of the change, and how many tasks had been
dispatched before it. -/
structure Returning where
  unit : PoolUnit
  at_ : W64
  before : Nat
deriving DecidableEq, Repr

/-- A migration under way (R218); `item` is the PAGE_MIGRATE that commanded it, `at_` the breath in which its
copy was finished, then the breath of its switch. -/
structure Migration where
  lpn : Nat
  far : Bool                          -- target tier
  item : Option (Nat × W32)
  at_ : W64 := 0
deriving DecidableEq, Repr

/-- A context's geometry (Tables 10.2 and 10.3). -/
structure Geometry where
  kvHeads : W16 := 0
  headDim : BitVec 9 := 0
  picFmt : Byte := 0
  srcFmt : Byte := 0
  kvFmt : Byte := 0
  mirror : Bool := false
  log2Blk : BitVec 5 := 0
  shN : Byte := 0
  shIdx : Byte := 0
deriving DecidableEq, Repr

/-- The Paging Engine (Tables 10.7, 10.8, 10.12, 10.14, R207, R208, R218, R222). -/
structure Paging where
  arena0 : BitVec 36 := 0
  arena1 : BitVec 36 := 0
  info : BitVec 36 := 0
  list : BitVec 36 := 0
  size0 : W32 := 0
  size1 : W32 := 0
  infoSize : W32 := 0
  listSize : W32 := 0
  used0 : List Nat := []
  used1 : List Nat := []
  usedLpn : List Nat := []
  usedBlk : List Nat := []
  resv0 : W32 := 0
  resv1 : W32 := 0
  demoteAge : W16 := 0
  scan : W16 := 0x0040
  promoteEn : Bool := false
  demoted : W32 := 0
  promoted : W32 := 0
  cancelled : W32 := 0
  cow : W32 := 0
  walkPos : Nat := 0
  promoWanted : List Nat := []        -- LPNs that attention reads asked to promote (R220)
  autoWait : List (Nat × Bool) := []  -- automatic migrations, by LPN and target tier, that wait for RESIDENT (Table 10.11)
  returning : List Returning := []
  migrations : List Migration := []
  geometry : Tab Geometry := []
  active : Tab SeqEntry := []
  inactive : Tab SeqEntry := []
  staged : Option W64 := none         -- the breath of the staging commit (R224)
  selIndex : W16 := 0
  selBank : Bool := false
  latched : SeqEntry := {}
deriving DecidableEq, Repr

/-! ### Cores and clusters (chapters 01, 09, 12) -/

/-- A window descriptor (Tables 9.4 and 9.5). -/
structure Window where
  baseU : BitVec 14 := 0
  lenU : BitVec 14 := 0
  acNum : BitVec 11 := 0
  acFirst : BitVec 10 := 0
  ctx : CtxId := 0
  st : BitVec 2 := 0
  gen : Byte := 0
  late : W16 := 0
  lateLogged : List Nat := []         -- generations whose first late write has been logged (R187)
  openedBy : Option Nat := none       -- thread of the task that opened it, while that task lives (R185)
  halo : Option (Nat × W32) := none   -- the ATT_FWD item of a halo window (R171)
deriving DecidableEq, Repr

/-- An arrival counter (Tables 9.6 and 9.7). -/
structure Counter where
  count : W32 := 0
  ctx : CtxId := 0
  st : BitVec 2 := 0
  win : BitVec 6 := 0
  waited : Bool := false              -- a thread has slept on it since reset (Table 9.6, log 11)
deriving DecidableEq, Repr

/-- One request of a stream that has not yet been issued: its row's address and where it lands (R251). -/
structure StreamPart where
  addr : W64          -- address field of the first byte
  len : Nat
  sp : Nat            -- scratchpad byte
deriving DecidableEq, Repr

/-- A stream slot (Tables 12.1 and 12.2). -/
structure StreamSlot where
  gen : Byte := 0
  st : BitVec 2 := 0
  landed : W32 := 0
  desc : BitVec 256 := 0
  todo : List StreamPart := []        -- waiting for a DMA tag (R256)
  left : Nat := 0                     -- requests issued and not yet landed
  got : List (Nat × Nat) := []        -- landed byte ranges of the packed destination (R252)
  lost : List (Nat × Nat) := []       -- landed byte ranges whose unit was late (R187)
  wgen : Byte := 0                    -- the GEN of window WIN that its units expect (R186)
  cold : List (W64 × Nat) := []       -- ranges that memory, not the cluster cache, has brought in (R268)
deriving DecidableEq, Repr

/-- A stage entry (Table 8.2). -/
structure StageEntry where
  layerFirst : Nat := 0
  layerCount : Nat := 0
  cluster : Nat := 0
  coreMask : Byte := 0
  topIndex : Nat := 0
  threads : Nat := 0
  accTask : Nat := 0
  spTask : Nat := 0
  spKv : Nat := 0
  spPic : Nat := 0
  spWin : Nat := 0
  spRow : Nat := 0
  trMax : Nat := 0
  tk : Nat := 0
  fill : Nat := 0
deriving DecidableEq, Repr

/-- The register state of a logical core (chapters 09, 12). -/
structure Core where
  ctx : CtxId := 0
  bind : BitVec 2 := 0
  rebind : Option (CtxId × Bool × W64) := none   -- a rebinding under way: next context, scrub done, breath (R182)
  old : Option StageEntry := none     -- the entry under which its old-image tasks finish (R327)
  windows : Tab Window := []
  counters : Tab Counter := []
  slots : Tab StreamSlot := []
  bconf : Tab W64 := []
  stalls : Tab W64 := []
  waitTmo : W16 := 0
  aborts : W16 := 0
  cancelled : W32 := 0
  budget : Nat := 0                   -- pipe time dispatched this breath (R159)
  taken : Bool := false               -- a task was on it at the last boundary: no idle slot (R69)
  tse : Bool := false                 -- the Test and Scrub Engine has used this breath's idle slot (R69)
deriving DecidableEq, Repr

/-- The memories of a physical core (R174, R180): scratchpad bytes and accumulators. -/
structure PhysCore where
  scratch : Tab Byte := []
  acc : Tab W32 := []
  dirty : Bool := false               -- a task ran since the last scrub: the pipes left bytes the model does not hold
  accDirty : Bool := false            -- an attention or test task ran since the last scrub (R180)
deriving DecidableEq, Repr

/-- A logical cluster: its physical cluster, the logical map of its cores (0xF: out of service), Tables 19.13, 19.14. -/
structure Cluster where
  phys : Nat := 0
  map : List Nat := []
  spare : Nat := 0xF
  spareLines : Nat := 0
  hits : W32 := 0
  misses : W32 := 0
  lines : List (Nat × CtxId) := []    -- 256 B blocks held, with the context that brought them (R169)
  resetting : Bool := false
  resetAt : Option W64 := none        -- the breath in which its reset ended (R351)
deriving DecidableEq, Repr

/-! ### Reed (chapter 15) -/

/-- A completion that waits for DONE to be clear (R331). -/
structure Completion where
  result : W32
  tag : W16
  code : Byte
deriving DecidableEq, Repr

/-- A mailbox slot (Table 15.6). -/
structure MailSlot where
  arg0 : W64 := 0
  arg1 : W64 := 0
  arg2 : W64 := 0
  arg3 : W64 := 0
  reqTag : W16 := 0
  op : Byte := 0
  result : W32 := 0
  rspTag : W16 := 0
  code : Byte := 0
  lost : Bool := false
  done : Bool := false
  busy : Bool := false
  waiting : List Completion := []
deriving DecidableEq, Repr

/-- What a structure image says (Tables 15.1 to 15.3), decoded. -/
structure Image where
  imageId : W32 := 0
  keySlot : BitVec 2 := 0
  variant : Byte := 0
  units : Byte := 0
  arithVer : Byte := 0
  cascMode : BitVec 2 := 0
  cascId : BitVec 2 := 0
  period : W16 := 0
  guard : Byte := 0
  refPerUs : Byte := 0
  src : BitVec 2 := 0
  upDie : BitVec 2 := 0
  node : W16 := 0
  vcw : W64 := 0
  stages : List StageEntry := []
  tops : List W64 := []
  groups : List (Byte × Byte × W16) := []     -- MODE, VC, QUOTA
  routes : List Byte := []
  dateline : Bool := false
  markerOut : Bool := false
  laneLimit : W32 := 0
deriving DecidableEq, Repr

/-- An image that an IMAGE_LOAD named. -/
structure Load where
  pa : Nat
  length : Nat
  tag : W16
  image : Image := {}
  waited : Nat := 0                   -- boundaries it has been pending (R325)
deriving DecidableEq, Repr

/-- A context release under way (Table 9.9). -/
structure Release where
  ctx : CtxId
  tag : W16
  step : Nat                          -- last step finished: 0, 2 (fenced), 6 (scrubbed)
  at_ : W64
  held : Nat := 0                     -- entries whose pages were left held (R217)
deriving DecidableEq, Repr

/-- A CTX_BIND or CORE_BIND that waits for a boundary (R182, R333). -/
structure BindWait where
  slot : Slot
  tag : W16
  queue : Bool                        -- true: a queue; false: a core
  index : Nat
  ctx : CtxId
  at_ : W64
deriving DecidableEq, Repr

/-- KQ_RD_STATUS.STATE (Table 15.7). -/
inductive RdState where
  | boot | ready | running | verifying | pending | halted
deriving DecidableEq, Repr

/-- Reed (chapter 15). -/
structure Reed where
  host : MailSlot := {}
  fw : MailSlot := {}
  serveFwNext : Bool := false         -- service order of R331
  reject : Byte := 0
  st : RdState := .boot
  active : Option Load := none
  verifying : Option Load := none
  pending : Option Load := none
  fwWait : Bool := false              -- FW_READY awaited (R328)
  ctxs : List Nat := []               -- allocated context identifiers, rising
  releases : List Release := []
  binds : List BindWait := []
  booted : Bool := false              -- Table 15.13 steps 1 to 3 done
  warm : Bool := false                -- a warm reset has not reached RUNNING (R341)
  refolded : Option W64 := none       -- the breath whose boundary last raised CAP_EPOCH: one refold, one step (R326)
deriving DecidableEq, Repr

/-! ### Unit history (chapter 16) -/

/-- A unit history record (Table 16.8) with the event that Table 16.9 looks back at. -/
structure UnitRec where
  st : Byte := 0
  role : Byte := 0
  ue : W16 := 0
  ce : W32 := 0
  ceWin : W16 := 0
  tfail : W16 := 0
  changed : W32 := 0
  ueSince : Bool := false             -- an uncorrected event since it became SUSPECT
deriving DecidableEq, Repr

/-- KQ_CAPEV (Table 16.7). -/
structure CapEv where
  count : W16 := 0
  epoch : Byte := 0
  unit : W16 := 0
  kind : Byte := 0
  pending : Bool := false
deriving DecidableEq, Repr

/-! ### Collective Engine (chapter 13) -/

/-- A member of a group (Table 13.4). -/
structure Member where
  node : W16
  die : BitVec 2
deriving DecidableEq, Repr

/-- A collective group (Tables 13.2 and 13.3). -/
structure Group where
  epoch : W32 := 0
  spSn : W16 := 0
  rank : Byte := 0
  nm1 : Byte := 0
  st : BitVec 2 := 0
  ovl : Bool := false
  grant : Nat := 0
  members : List Member := []
  mode : Bool := false
  vc : BitVec 3 := 0
  quota : BitVec 9 := 0
  attempt : Byte := 0                  -- ATTEMPT of the command whose EPOCH is next (R287)
  spAttempt : Byte := 0               -- ATTEMPT of the sequence-parallel item whose SP_SN is next (R287)
deriving DecidableEq, Repr

/-- An operation of a group that this die has opened (R284 to R291). -/
structure CleOp where
  group : Nat
  kind : Bool
  sn : W32
  attempt : Byte
  q : Nat
  idx : W32
  vc : BitVec 3 := 0                                -- the group's channel when it began (R298)
  mode : Bool := false                              -- the group's buffer mode when it began (R298)
  record : Agreement := {}                          -- this member's agreement record
  waiting : Nat := 0                                -- boundaries waited for buffer (R289)
  want : Nat := 0                                   -- U of R289
  begun : Bool := false
  agreed : List (Nat × Agreement) := []             -- records held, by rank
  chunks : List ((Nat × Nat × Nat) × List Byte) := []  -- (rank, piece, chunk index), bytes
  mismatches : List ((Nat × Nat × Nat) × Nat) := []
  markers : List (Nat × Nat × W32 × W64) := []      -- end markers not judged yet: rank, piece, kept count, CRC-64
  kept : List (Nat × W32) := []
  ended : List Nat := []                            -- ranks whose stream's CRC-64 verified
  doneFrom : List Nat := []
  failFrom : List (Nat × Byte × W64) := []
  sentDone : Bool := false
  wrote : Bool := false
  rejoining : Bool := false
  replies : Nat := 0
  heldFor : Option Nat := none                      -- the rank that rejoins (R287)
  sentBytes : Nat := 0                              -- bytes of its contribution read, verified and sent (R293)
  sentData : Bool := false                          -- its contribution has been read and sent
  phase : Nat := 0                                  -- kind 1: exchanges finished (Table 13.8)
  exch : Nat := 0                                   -- kind 1: 0 bound, 1 statistics, 2 nodes, 4 gradient steps, 3 all done
deriving DecidableEq, Repr

/-- An operation that has ended, kept for R287 and R357: its outcome under the SN. -/
structure CleEnded where
  group : Nat
  kind : Bool
  sn : W32
  status : Byte
  detail : W64
  attempt : Byte := 0
  zero : Option Agreement := none                   -- the record of a zero-shape member, which still relays (R282)
deriving DecidableEq, Repr

/-- Table 13.10, R296. -/
structure Cle where
  groups : Tab Group := []
  earlyAgree : List (UnitTag × Agreement) := []     -- records of operations that this die has not opened
  earlyDone : List UnitTag := []
  earlyFail : List (UnitTag × Byte × W64) := []
  ops : List CleOp := []
  ended : List CleEnded := []
  sharedFree : Nat := 240
  granted : Nat := 0
  bufStall : W32 := 0
  dup : W32 := 0
  chunkResend : W32 := 0
  chunkFail : W16 := 0
  digestFail : W16 := 0
  vcw : W64 := 0
  vctr : List Nat := [0, 0, 0, 0, 0, 0, 0, 0]
deriving DecidableEq, Repr

/-! ### Link and bridge (chapter 14) -/

/-- A codeword held for retry (R305). -/
structure Codeword where
  seq : BitVec 10
  data : List Byte
  marks : List Nat := []              -- places of MARKER flits' remaining times (R303)
deriving DecidableEq, Repr

/-- The link port (chapter 14). Lists by virtual channel hold class 0 then class 1. -/
structure Link where
  peerNode : W16 := 0
  peerDie : BitVec 2 := 0
  sparesLeft : Nat := 0
  width : Nat := 0
  st : BitVec 2 := 0
  retired : BitVec 36 := 0
  lat : W32 := 0
  corrCw : W32 := 0
  uncorrCw : W32 := 0
  replays : W32 := 0
  retrains : W16 := 0
  misroute : W16 := 0
  node : W16 := 0
  rxNext : BitVec 10 := 0             -- next SEQ expected
  rxPos : BitVec 10 := 0              -- SEQ of the codeword that comes next on the lanes
  rxDiscard : Bool := false           -- later codewords are discarded until rxNext arrives (R305)
  txNext : BitVec 10 := 0
  retryBuf : List Codeword := []
  resendSeq : BitVec 10 := 0          -- the SEQ last asked for again, and how often it was resent (R306)
  resends : Nat := 0
  txWait : List (Nat × Bool × List Byte) := []  -- DATA flits to send: channel, dateline class, bytes (R296, R304)
  txCtl : List (Nat × List Byte) := []  -- control flits to send, by their order in R303
  txCarry : Nat := 0                  -- bytes of a NULL flit that straddles into the next codeword (R300)
  vLast : Nat := 0                    -- V_c of the last DATA flit sent (R296)
  creditTx : List Nat := []           -- credits this sender holds, 16 (R304)
  freedSeen : List W16 := []          -- the peer's free-running counts as last received
  rxHeld : List Nat := []             -- flits held in this receiver's buffers, 16
  rxFreed : List W16 := []            -- this receiver's free-running counts, 16
  rxBytes : List Byte := []           -- bytes of a flit that straddles two codewords (R300)
  rxFlits : List (List Byte) := []    -- flits delivered in order and not yet taken
  laneOf : List (Nat × Nat × BitVec 10) := []   -- sent on a spare: logical lane, spare, switch SEQ (R307)
  rxLaneOf : List (Nat × Nat × BitVec 10) := [] -- received from a spare: the same
  rxSwitched : List (Nat × Nat) := [] -- logical lanes whose switch SEQ has been reached, and the spare that brings each
  overLimit : List (Nat × Nat) := []  -- lane, consecutive breaths over LANE_LIMIT
  corrected : List (Nat × Nat) := []  -- lane, corrected symbols this breath
  echoSent : Nat := 0
  echoGot : Nat := 0
  echoBest : Nat := 0                 -- smallest round trip less residence
  dateline : Bool := false
  markerOut : Bool := false
  laneLimit : W32 := 0
  routes : List Byte := []
  bondNext : Nat := 0                 -- rotation over a bonded route (R312)
  lost : Bool := false                -- it went down and its return is not yet posted (R357)
deriving DecidableEq, Repr

/-- A bridge port (Table 14.7). -/
structure Bridge where
  retries : W32 := 0
  modules : Nat := 0
  st : BitVec 2 := 0
  wait : List (Nat × Bool × List Byte) := []  -- DATA flits to send: channel, dateline class, bytes (R296, R314)
deriving DecidableEq, Repr

/-- The cascade (chapter 14, R356). -/
structure Casc where
  mode : BitVec 2 := 0
  dies : BitVec 2 := 0                -- dies in the package minus one
  ports : Tab Bridge := []
  lost : List Nat := []
  unreachable : List (Nat × Nat) := []  -- die, consecutive boundaries without a bridge to it
deriving DecidableEq, Repr

/-! ### Outside the die -/

/-- What the die has sent, oldest first (log 6). -/
inductive Sent where
  | breathOut
  | marker (port : MarkerPort) (m : Marker)
  | muteSideband
  | rejectReport (warmDiscard : Bool)
  | chunk (tag : UnitTag) (index : Nat) (crc : W32) (data : List Byte)
  | streamEnd (tag : UnitTag) (kept : W32) (crc : W64)
  | agreement (tag : UnitTag) (r : Agreement)
  | done (tag : UnitTag)
  | fail (tag : UnitTag) (status : Byte) (detail : W64)
  | rejoin (tag : UnitTag)
  | rejoinReply (tag : UnitTag) (a : RejoinAnswer)
  | commit (tag : UnitTag)
  | restart (tag : UnitTag)
  | codeword (seq ack : BitVec 10) (data : List Byte) (lanes : List (Nat × List Nat))   -- symbols by physical lane
  | retry (seq : BitVec 10)
  | laneMap (lane spare : Nat) (switchSeq : BitVec 10)
  | echo (echoed : W64) (residence : W32)
  | credit (freed cls1 : List W16)
  | flit (die : Nat) (bytes : List Byte)            -- a DATA flit on the bridge port to a die
  | chunkAgain (tag : UnitTag) (index : Nat)
deriving DecidableEq, Repr

/-- Whose outstanding request it is (R255, Table 12.3). -/
inductive Owner where
  | command (q : Nat) (idx : W32)     -- the copy of a command from its ring (R25, R33)
  | stream (core slot : Nat) (gen : Byte) (sp : Nat) (prefetch : Bool) (task : CtxId)   -- the task's context
  | output (q : Nat) (idx : W32)
  | drain (core slot : Nat) (gen : Byte) (q : Nat) (idx : W32)   -- a write stream of a task that drains (R251, R264)
  | record (q : Nat) (idx : W32)
  | faultRecord
  | copy (lpn : Nat) (far : Bool) (frame : Nat)     -- a migration's copy into its new frame (R218)
deriving DecidableEq, Repr

/-- An outstanding memory request (R394, R395): `len` enabled bytes from `pa`, all in one 256 B block. -/
structure Req where
  tag : Option Nat                    -- none while it waits for a free tag (R256)
  pool : Nat                          -- Table 12.3: core 0 to 63, 64 PGE, 65 CLE, 66 TSE, 67 control cores and Reed
  owner : Owner
  write : Bool
  pa : Nat
  len : Nat
  data : List Byte := []
  ctx : CtxId
  addr : W64                          -- the address field it serves (Table 2.21); 0 when untranslated
  viaPtc : Option PageKey := none     -- its translation, for R238
  thread : Option Nat := none         -- the thread that asks for its tag (R256)
  waiters : List (Nat × W32) := []    -- PTC_INVAL items that wait for its acknowledgement (R238)
deriving DecidableEq, Repr

/-- A permission of the memory side (R396): in this range only these contexts, and 0x000, are permitted. -/
structure Permit where
  base : Nat
  len : Nat
  ctxs : List Nat
deriving DecidableEq, Repr

/-- The memory side: bytes of the physical space, poisoned ranges, permissions, and the requests it has not answered. -/
structure MemSide where
  bytes : Tab Byte := []
  poisoned : List (Nat × Nat) := []   -- base, length
  permits : List Permit := []
  reqs : List Req := []
deriving DecidableEq, Repr

/-- The xSPI device (Table 18.10). -/
structure XSpi where
  histA : Option (Nat × Tab UnitRec) := none     -- sequence number, records, when the CRC holds
  histB : Option (Nat × Tab UnitRec) := none
  bellArea : Tab BellEvent := []
  trailerA : Option (Nat × W32) := none          -- sequence number, HEAD, when the CRC holds
  trailerB : Option (Nat × W32) := none
deriving DecidableEq, Repr

/-- The instructions of the TAP (Table 18.9). -/
inductive TapIr where
  | extest | idcode | samplePreload | ijtag | bypass
deriving DecidableEq, Repr

/-- The test access port (R381, R401). -/
structure Tap where
  ir : TapIr := .idcode
  captured : BitVec 128 := 0
deriving DecidableEq, Repr

/-- One-time fuses (R322, R402). -/
structure Fuses where
  digests : Tab (BitVec 384) := []    -- programmed slots
  revoked : List Nat := []
  mfr : BitVec 11 := 0
  mfrSet : Bool := false
  lock : Bool := false
deriving DecidableEq, Repr

/-- The state of one die. -/
structure State where
  pending : List Instr
  -- pins and supplies
  cascId : BitVec 2
  rstLow : Bool
  powered : Bool
  fuses : Fuses
  newFuses : Fuses                    -- as programmed; in effect from the next cold boot (R402)
  -- identification and capability
  caps : List W64                     -- KQ_CAP0 to KQ_CAP7
  epoch : Byte                        -- the count that KQ_CAP0.CAP_EPOCH shows (R326, R341)
  capev : CapEv
  uhSel : W16
  uhData : UnitRec
  history : Tab UnitRec               -- by unit code (Table 16.6)
  -- the tick, the queues, the item store, the tasks
  breath : Breath
  queues : Tab Queue
  items : List Item                   -- in acceptance order
  tasks : List Task
  dispatches : Nat                    -- tasks dispatched since cold reset (R208)
  reissues : List Reissue
  -- reporting
  irq : Irq
  bell : Bell
  mute : Mute
  perf : Perf
  sens : Sensors
  -- engines and memories
  tr : Trans
  str : Streaming
  pg : Paging
  cores : Tab Core                    -- by logical core 0 to 63
  phys : Tab PhysCore                 -- by physical core 0 to 71
  clusters : Tab Cluster              -- by logical cluster 0 to 7
  reed : Reed
  cle : Cle
  link : Link
  casc : Casc
  -- outside
  mem : MemSide
  xspi : XSpi
  tap : Tap
  sent : List Sent
  edge : Bool                         -- a boundary was taken and no work of its breath has begun (log 76)
  free : Nat                          -- the counter free values are applied to (log 3)
deriving DecidableEq, Repr

/-- The machine right after cold reset (Table 15.14, R412, log 4): RST_N still low, COLD_BOOT not yet run.
CASC_ID is 0, so SRC is TIMER (Table 3.1). -/
def State.reset : State :=
  { pending := [], cascId := 0, rstLow := true, powered := true, fuses := {}, newFuses := {},
    caps := [0, 0, 0, 0, 0, 0, 0, 0], epoch := 0, capev := {}, uhSel := 0, uhData := {}, history := [],
    breath := {}, queues := [], items := [], tasks := [], dispatches := 0, reissues := [],
    irq := {}, bell := {}, mute := {}, perf := {}, sens := {},
    tr := {}, str := {}, pg := {}, cores := [], phys := [], clusters := [],
    reed := {}, cle := {}, link := {}, casc := {},
    mem := {}, xspi := {}, tap := {}, sent := [], edge := false, free := 0 }

end Sys2Proof.Machine
end

