-- ==== Sys2Proof/Machine/AttnMath.lean ====
section
/-! DEFINITION. The arithmetic of attention rows, on decoded operands (chapters 05 and 07): scores, the main pass,
rescout and overflow steps, the drain, and the backward quantities. -/

namespace Sys2Proof.Machine

/-- A key as a row reads it. -/
structure KeyData where
  kpos : Nat
  pic : PicKey
  k : List Num
  v : List Num
deriving DecidableEq, Repr

/-- The smallest of `lo`, lo + 4, … , 128 at which nothing overflows (R89, R90). -/
def settle (lo : Nat) (ovf : Nat → Bool) : Nat :=
  match ((List.range 33).map (fun i => 4 * i)).find? (fun k => lo ≤ k && !ovf k) with
  | some k => k
  | none => 128

/-- s of R111 with the overflow mark of its dot product. -/
def scoreAt (scale : W32) (k : Nat) (q key : List Num) : Acc :=
  let d := dot q key k
  { v := rnd32 (((dec32 scale).ldexp k).mul (dec32 d.v)), ovf := d.ovf }

/-- Spread entries over the 512 positions of a segment (fuel 512). -/
def spread {α : Type} (pos : α → Nat) : Nat → Nat → List α → List (Option α)
  | 0, _, _ => []
  | n + 1, x, [] => none :: spread pos n (x + 1) []
  | n + 1, x, a :: t => if pos a = x then some a :: spread pos n (x + 1) t else none :: spread pos n (x + 1) (a :: t)

/-- Group keys, given in rising position, by segment (R87). -/
def bySegment {α : Type} (kpos : α → Nat) : List α → List (Nat × List α)
  | [] => []
  | a :: t =>
    match bySegment kpos t with
    | (s, l) :: r => if s = kpos a / 512 then (s, a :: l) :: r else (kpos a / 512, [a]) :: (s, l) :: r
    | [] => [(kpos a / 512, [a])]

/-- p̃ of the 512 slots (R112): masked slots enter an MX block as +0. -/
def pTilde (pFmt : Nat) (ps : List (Option W32)) : List Num :=
  if pFmt = 0x08 then
    (pieces 32 ps).flatMap (fun b =>
      let e := mxEncode fmtE4M3 (b.map (fun p => p.getD 0))
      let d := packElems 8 e.1
      (List.range b.length).map (mxDecode fmtE4M3 d e.2))
  else ps.map (fun p => fmtBF16.decode (toFmt fmtBF16 (p.getD 0)))

/-- Row inputs of pass 2. -/
structure RowIn where
  scale : W32
  pFmt : Nat
  hd : Nat
  q : List Num
  keys : List KeyData            -- unmasked keys, rising
  keep : Nat → Bool              -- dropout decision by key position (R142)

/-- Scores of a row at step k. -/
def rowScores (r : RowIn) (k : Nat) : List (KeyData × Acc) := r.keys.map (fun x => (x, scoreAt r.scale k r.q x.k))

/-- The scout bound over the row's keys (R108). -/
def rowBound (r : RowIn) : W32 :=
  let q := picRowOf r.q
  scoutBound r.scale (r.keys.foldl (fun b x => max32 b (keyBound r.hd q x.pic)) negInf32)

/-- The score step (R89). -/
def scoreStep (r : RowIn) (lo : Nat) : Nat := settle lo (fun k => (rowScores r k).any (fun x => x.2.ovf))

/-- The true maximum of computed scores (R114). -/
def rowMax (ss : List (KeyData × Acc)) : W32 := ss.foldl (fun m x => max32 m x.2.v) negInf32

/-- The leaf of one segment (R113): l, then o by column. -/
def fwdLeaf (r : RowIn) (mHat : W32) (kv : Nat) (seg : List (KeyData × Acc)) : List Acc :=
  let slots := spread (fun (x : KeyData × Acc) => x.1.kpos % 512) 512 0 seg
  let ps := slots.map (fun s => s.map (fun x => exp32 (sub32 x.2.v mHat)))
  let pt := pTilde r.pFmt ps
  let both := slots.zip pt
  let l := reduceAcc none (both.map (fun b => match b.1 with
    | some _ => { v := rnd32 b.2, ovf := false }
    | none => zeroAcc))
  let o := (List.range r.hd).map (fun c => reduceAcc none (both.map (fun b => match b.1 with
    | some x => if r.keep x.1.kpos then prodAcc b.2 (x.1.v.getD c (.fin false 0 0)) kv else zeroAcc
    | none => zeroAcc)))
  l :: o

def addLeaves (a b : List Acc) : List Acc := List.zipWith addAcc a b

/-- The leaves of a row at a bound and value step, by segment. -/
def fwdLeaves (r : RowIn) (ss : List (KeyData × Acc)) (mHat : W32) (kv : Nat) : List (Nat × List Acc) :=
  (bySegment (fun (x : KeyData × Acc) => x.1.kpos) ss).map (fun g => (g.1, fwdLeaf r mHat kv g.2))

/-- The merged root of a row (R87). -/
def fwdRoot (r : RowIn) (ss : List (KeyData × Acc)) (mHat : W32) (kv : Nat) : List Acc :=
  (mergeTree addLeaves (fwdLeaves r ss mHat kv)).getD []

/-- The value step (R89). -/
def valueStep (r : RowIn) (ss : List (KeyData × Acc)) (mHat : W32) (lo : Nat) : Nat :=
  settle lo (fun k => (fwdRoot r ss mHat k).any (fun a => a.ovf))

/-- Rescout (R115): m finite and m̂ − m > 32 in exact values. -/
def needsRescout (mHat m : W32) : Bool :=
  (dec32 m).isFin && (Num.fin false 1 5).lt ((dec32 mHat).add (dec32 m).negate)

/-- One row through the scout and the main pass on one die (R108 to R116). -/
def fwdRow (r : RowIn) : FwdAcc :=
  if r.keys.isEmpty then { masked := true } else
  let mh := rowBound r
  let ks := scoreStep r 0
  let ss := rowScores r ks
  let m := rowMax ss
  let resc := needsRescout mh m
  let bound := if resc then m else mh
  let kv := valueStep r ss bound 0
  let root := fwdRoot r ss bound kv
  { masked := false, resc := resc, mHat := bound, m := m, l := (root.headD zeroAcc).v
    o := (root.drop 1).map (fun a => a.v), ks := ks, kv := kv }

/-! ### Pass 3 (R117 to R122) -/

/-- LSE = RN(m̂ + ln l), rounded once (R118). -/
def lseVal (mHat l : W32) : W32 :=
  match dec32 mHat, dec32 l with
  | .fin n m e, .fin false ml el =>
    if ml = 0 then negInf32
    else if dyInt false ml el = some 1 then mHat
    else
      match roundOpen fmtFP32 (ivAdd (ivOfDyadic n m e) (ivLn ml el)) with
      | some r => r
      | none => Config.undecidedRounding 0x03 (mHat ^^^ l) 0x01
  | .fin _ _ _, x => rnd32 x
  | x, _ => rnd32 x

/-- The quotient of column value o: o × 2^k × D / l (R117), rounded once in a format. -/
def quotient (f : Fmt) (o l : W32) (k thresh : Nat) : W32 :=
  f.roundDiv (((dec32 o).ldexp ((k : Int) + 32))) ((dec32 l).mul (.fin false (2 ^ 32 - thresh) 0))

/-- Fields of the drain (Tables 5.2, 5.3, 5.9). -/
structure DrainCfg where
  outFmt : Nat
  rnd : Nat
  act : Nat
  ssq : Bool
  res : Bool
  bias : Bool
  scale : Bool
  dscale : W32
  seed : W64
  thresh : Nat
deriving DecidableEq, Repr

def DrainCfg.empty (d : DrainCfg) : Bool := !d.scale && !d.bias && !d.res && d.act = 0

/-- Activation of Table 5.9. -/
def activate (act : Nat) (y : W32) : W32 :=
  if act = 0 then y
  else if act = 1 then (match dec32 y with
    | .nan => nan32
    | .inf n => if n then 0 else y
    | .fin n m _ => if n || m = 0 then 0 else y)
  else func32 (if act = 2 then 0x08 else if act = 3 then 0x09 else if act = 4 then 0x0A else 0x0B) y

/-- Output element c of a row (R117, R119, R120); `b`, `x` are the bias and residual elements. -/
def drainElem (d : DrainCfg) (a : FwdAcc) (nonfin : Bool) (row c : Nat) (b x : Num) : W32 :=
  match fmtOf d.outFmt with
  | none => 0
  | some f =>
    let word := srWord d.seed row c 0xFFFFFFFF
    let o := a.o.getD c 0
    if d.empty && d.rnd = 0 && !a.masked && !nonfin then quotient f o a.l a.kv d.thresh
    else
      let y0 := if a.masked then 0 else if nonfin then nan32 else quotient fmtFP32 o a.l a.kv d.thresh
      let y1 := if d.scale then mul32 y0 d.dscale else y0
      let y2 := if d.bias then rnd32 ((dec32 y1).add b) else y1
      let y3 := if d.res then rnd32 ((dec32 y2).add x) else y2
      castOut f d.rnd (activate d.act y3) word

/-- m is NaN or infinite (R116). -/
def nonfinite (a : FwdAcc) : Bool := !a.masked && !(dec32 a.m).isFin

/-- Row flags (Table 5.1). -/
def rowFlag (a : FwdAcc) : Nat := b2n a.masked + 2 * b2n a.resc + 4 * b2n (nonfinite a)

def rowLse (a : FwdAcc) : W32 := if a.masked then negInf32 else if nonfinite a then nan32 else lseVal a.mHat a.l

/-- EXP and SUM of R122 over cast outputs, given as codes of a format; 8 bytes. -/
def ssqEntry (fmt : Nat) (ys : List W32) : List Byte :=
  let ds := ys.map (decodeCode fmt)
  if ds.any (fun d => !d.isFin) then toLE 4 0 ++ toLE 4 nan32.toNat
  else
    let a := amax ds
    let e : Int := if a.1 = 0 then 0 else magLog2 a
    let xs := ds.map (fun d => d.ldexp (-e))
    let s := reduceAcc none (xs.map (fun x => { v := rnd32 (x.mul x), ovf := false }))
    toLE 4 (BitVec.ofInt 32 e).toNat ++ toLE 4 s.v.toNat

/-! ### Backward quantities (Tables 7.5 and 7.6) -/

/-- Row inputs of the backward pass. -/
structure BwdIn where
  live : Bool                    -- not fully masked (R143)
  scale : W32
  lse : W32
  thresh : Nat
  hd : Nat
  q : List Num
  o : List Num
  dO : List Num
  keys : List KeyData
  keep : Nat → Bool

/-- A compensated dot product: RN(2^k × reduce(…)). -/
def compDot (xs ys : List Num) (k : Nat) : W32 := rnd32 ((dec32 (dot xs ys k).v).ldexp k)

/-- D = 2³² / (2³² − T) times a value, rounded once (R117, Table 7.5). -/
def timesD (thresh : Nat) (x : W32) : W32 :=
  fmtFP32.roundDiv ((dec32 x).ldexp 32) (.fin false (2 ^ 32 - thresh) 0)

/-- One unmasked pair: its key position, ds̃ and p̃d as exact BF16 values. -/
structure BwdPair where
  kpos : Nat
  ds : Num
  pd : Num
deriving DecidableEq, Repr

/-- The overflow steps of a row that are settled before any ds: k_S, k_Δ, k_dP (R148). -/
structure BwdSteps where
  s : Nat
  delta : Nat
  dp : Nat
deriving DecidableEq, Repr

def bwdSteps (r : BwdIn) (loS loP : Nat) : BwdSteps :=
  { s := settle loS (fun k => r.keys.any (fun x => (scoreAt r.scale k r.q x.k).ovf))
    delta := settle 0 (fun k => (dot r.dO r.o k).ovf)
    dp := settle loP (fun k => r.keys.any (fun x => (dot r.dO x.v k).ovf)) }

/-- The pairs of a row (Table 7.5). -/
def bwdPairs (r : BwdIn) (st : BwdSteps) : List BwdPair :=
  let delta := compDot r.dO r.o st.delta
  r.keys.map (fun x =>
    let s := (scoreAt r.scale st.s r.q x.k).v
    let p := exp32 (sub32 s r.lse)
    let dp := compDot r.dO x.v st.dp
    let kept := r.keep x.kpos
    let pd := if kept then timesD r.thresh p else 0
    let dpd := if kept then timesD r.thresh dp else 0
    let ds := mul32 p (sub32 dpd delta)
    { kpos := x.kpos, ds := fmtBF16.decode (toFmt fmtBF16 ds), pd := fmtBF16.decode (toFmt fmtBF16 pd) })

/-- Leaves of dQ at a step (R145), by segment: one reduction per column. -/
def dqLeaves (r : BwdIn) (ps : List BwdPair) (k : Nat) : List (Nat × List Acc) :=
  let xs := (r.keys.zip ps)
  (bySegment (fun (x : KeyData × BwdPair) => x.1.kpos) xs).map (fun g =>
    let slots := spread (fun (x : KeyData × BwdPair) => x.1.kpos % 512) 512 0 g.2
    (g.1, (List.range r.hd).map (fun c => reduceAcc none (slots.map (fun s => match s with
      | some x => prodAcc x.2.ds (x.1.k.getD c (.fin false 0 0)) k
      | none => zeroAcc)))))

def dqRoot (r : BwdIn) (ps : List BwdPair) (k : Nat) : List Acc := (mergeTree addLeaves (dqLeaves r ps k)).getD []

def dqStep (r : BwdIn) (ps : List BwdPair) (lo : Nat) : Nat := settle lo (fun k => (dqRoot r ps k).any (fun a => a.ovf))

/-- A gradient element at drain (R147): acc × 2^k × scale, one exact value rounded once; `scale` 1 for dV. -/
def gradElem (fmt grnd : Nat) (acc : W32) (k : Nat) (scale : Num) (word : W32) : W32 :=
  let x := ((dec32 acc).ldexp k).mul scale
  match fmtOf fmt with
  | none => 0
  | some f => if grnd = 1 then castOut f 1 (rnd32 x) word else f.round x

/-- One query slot of a key: reduction index, the pair's value, the row's operand; none when masked (R146). -/
structure QSlot where
  x : Nat
  a : Num
  b : List Num
deriving DecidableEq, Repr

/-- The fold of dK or dV, column c, over the present query groups (R146); slots in rising index. -/
def foldQueries (slots : List QSlot) (c k : Nat) : Acc :=
  let key := fun (q : QSlot) => q.x / 64
  let groups := slots.foldr (fun q acc => match acc with
    | (g, l) :: t => if g = key q then (g, q :: l) :: t else (key q, [q]) :: (g, l) :: t
    | [] => [(key q, [q])]) ([] : List (Nat × List QSlot))
  let sums := groups.map (fun g =>
    treeSum64 ((spread (fun (q : QSlot) => q.x % 64) 64 0 g.2).map (fun s => match s with
      | some q => prodAcc q.a (q.b.getD c (.fin false 0 0)) k
      | none => zeroAcc)))
  match sums with
  | [] => zeroAcc
  | a :: t => t.foldl addAcc a

/-- The step of dK or dV of one key (R148): no column overflows. -/
def foldStep (slots : List QSlot) (hd : Nat) : Nat :=
  settle 0 (fun k => (List.range hd).any (fun c => (foldQueries slots c k).ovf))

/-! ### Dropout (R142, Table 7.4) -/

def keepPair (seed : W64) (thresh layer h s qpos kpos : Nat) : Bool :=
  if thresh = 0 then true else
  let w := (philox { c0 := BitVec.ofNat 32 (kpos / 4), c1 := BitVec.ofNat 32 qpos,
                     c2 := BitVec.ofNat 32 (layer * 2 ^ 16 + h), c3 := BitVec.ofNat 32 (0x44500000 + s) } seed).word (kpos % 4)
  decide (thresh ≤ w.toNat)

end Sys2Proof.Machine
end

