-- ==== Sys2Proof/Machine/Fec.lean ====
section
/-! DEFINITION. The Reed-Solomon code RS(544,514) over GF(2¹⁰) (R299), and how a codeword's symbols lie on the lanes. The field
polynomial, the generator's roots and the order of symbols are those of IEEE 802.3, which R299 names (log 85). A polynomial is the
list of its coefficients from degree 0 up; a codeword is the list of its symbols in order of sending, highest degree first. -/

namespace Sys2Proof.Machine

/-- α × x, with α¹⁰ = α³ + 1. -/
def gfTimes (x : Nat) : Nat := if x < 512 then 2 * x else (2 * x) ^^^ 0x409

/-- x / α. -/
def gfHalf (x : Nat) : Nat := if x % 2 = 1 then (x ^^^ 0x409) / 2 else x / 2

def gfMul (a b : Nat) : Nat :=
  if a = 0 || b = 0 then 0
  else (List.range 10).foldr (fun i acc => gfTimes acc ^^^ (if b.testBit i then a else 0)) 0

/-- 1 / a, as a to the power 1,022. -/
def gfInv (a : Nat) : Nat :=
  ((List.range 9).foldl (fun (p : Nat × Nat) _ => let sq := gfMul p.2 p.2
                                                  (gfMul p.1 sq, sq)) (1, a)).1

/-- x, f x, f (f x), …: n of them. -/
def iterates (f : Nat → Nat) : Nat → Nat → List Nat
  | 0, _ => []
  | n + 1, x => x :: iterates f n (f x)

/-- α⁰ to α²⁹, the roots of the generator. -/
def rsRoots : List Nat := iterates gfTimes 30 1

/-- The sum of two polynomials. -/
def polyAdd : List Nat → List Nat → List Nat
  | [], q => q
  | p, [] => p
  | a :: p, b :: q => (a ^^^ b) :: polyAdd p q

/-- The generator (x + α⁰) … (x + α²⁹). -/
def rsGen : List Nat := rsRoots.foldl (fun g r => polyAdd (0 :: g) (g.map (gfMul r))) [1]

/-- The 30 check symbols of 514 data symbols. -/
def rsParity (data : List Nat) : List Nat :=
  let g := (rsGen.take 30).reverse
  data.foldl (fun r m => let fb := m ^^^ r.headD 0
                         polyAdd (r.drop 1 ++ [0]) (g.map (gfMul fb))) (List.replicate 30 0)

/-- A codeword: its data symbols, then the check symbols. -/
def rsEncode (data : List Nat) : List Nat := data ++ rsParity data

def rsSyndromes (w : List Nat) : List Nat := rsRoots.map (fun a => w.foldl (fun acc x => gfMul acc a ^^^ x) 0)

def polyEval (p : List Nat) (x : Nat) : Nat := p.foldr (fun c acc => gfMul acc x ^^^ c) 0

/-- The locator search of Berlekamp and Massey: the locator, its length, the last one before a change of length, how long ago,
and the discrepancy there. -/
structure Locator where
  c : List Nat := [1]
  len : Nat := 0
  b : List Nat := [1]
  m : Nat := 1
  d : Nat := 1
deriving DecidableEq, Repr

def locStep (syn : List Nat) (x : Locator) (n : Nat) : Locator :=
  let d := (List.range x.len).foldl (fun a i => a ^^^ gfMul (x.c.getD (i + 1) 0) (syn.getD (n - 1 - i) 0)) (syn.getD n 0)
  if d = 0 then { x with m := x.m + 1 } else
  let k := gfMul d (gfInv x.d)
  let c := polyAdd x.c (List.replicate x.m 0 ++ x.b.map (gfMul k))
  if 2 * x.len ≤ n then { c := c, len := n + 1 - x.len, b := x.c, m := 1, d := d } else { x with c := c, m := x.m + 1 }

/-- Places, in order of sending, at which the locator says a symbol is wrong, each with 1/X of its locator. -/
def rsPlaces (loc : List Nat) : List (Nat × Nat) :=
  ((iterates gfHalf 544 1).zipIdx).filterMap (fun p => if polyEval loc p.1 = 0 then some (543 - p.2, p.1) else none)

/-- The symbol error at a place (Forney). -/
def rsError (syn loc : List Nat) (x : Nat) : Nat :=
  let om := (List.range 30).map (fun i => (List.range (i + 1)).foldl (fun a j => a ^^^ gfMul (loc.getD j 0) (syn.getD (i - j) 0)) 0)
  let dl := (List.range (loc.length - 1)).map (fun i => if i % 2 = 0 then loc.getD (i + 1) 0 else 0)
  gfMul (gfInv x) (gfMul (polyEval om x) (gfInv (polyEval dl x)))

/-- Decode a codeword: its symbols and the places corrected; none when it is uncorrectable. -/
def rsDecode (w : List Nat) : Option (List Nat × List Nat) :=
  let syn := rsSyndromes w
  if syn.all (fun x => x = 0) then some (w, []) else
  let l := (List.range 30).foldl (locStep syn) {}
  let ps := rsPlaces l.c
  if 15 < l.len || ps.length ≠ l.len then none
  else some (ps.foldl (fun v p => v.set p.1 (v.getD p.1 0 ^^^ rsError syn l.c p.2)) w, ps.map (fun p => p.1))

/-! ### Sideband, data and lanes (R299, R300, R308) -/

/-- The 514 data symbols: 20 bits of sideband, then 640 bytes, bit 0 of each first. -/
def cwSymbols (seq ack : BitVec 10) (data : List Byte) : List Nat :=
  let v := leNat (data.take 640)
  seq.toNat :: ack.toNat :: (List.range 512).map (fun k => nfld v (10 * k + 9) (10 * k))

/-- The bytes of 512 data symbols. -/
def cwBytes (syms : List Nat) : List Byte := toLE 640 (syms.foldr (fun x acc => x % 1024 + 1024 * acc) 0)

/-- Symbols round-robin over `width` logical lanes, in ascending lane order. -/
def laySymbols (width : Nat) (w : List Nat) : List (List Nat) :=
  (List.range width).map (fun l => ((w.zipIdx).filter (fun p => p.2 % width = l)).map (fun p => p.1))

/-- The codeword whose symbols lie on logical lanes; a lane that brings too few reads as zeros. -/
def takeSymbols (lanes : List (List Nat)) : List Nat :=
  (List.range 544).map (fun i => (lanes.getD (i % max 1 lanes.length) []).getD (i / max 1 lanes.length) 0 % 1024)

end Sys2Proof.Machine
end

