-- ==== Sys2Proof/Machine/Tab.lean ====
section
/-! DEFINITION. The operations of a numbered collection (`Tab`), its canonical form, and lists of
naturals kept rising (used frames, free units, drained rows). -/

namespace Sys2Proof.Machine

/-- The entry at key `k`; an unlisted key reads as `d`. -/
def tget {α : Type} (d : α) : Tab α → Nat → α
  | [], _ => d
  | (i, a) :: t, k => if i = k then a else tget d t k

/-- Keys strictly rising from `lo`, and no entry equal to `d`. -/
def twfFrom {α : Type} [DecidableEq α] (d : α) : Nat → Tab α → Bool
  | _, [] => true
  | lo, (i, a) :: t => decide (lo ≤ i) && decide (a ≠ d) && twfFrom d (i + 1) t

/-- The canonical form of a table with default `d`. -/
def twf {α : Type} [DecidableEq α] (d : α) (t : Tab α) : Bool := twfFrom d 0 t

/-- The table without key `k`. -/
def tdrop {α : Type} (t : Tab α) (k : Nat) : Tab α := t.filter (fun p => p.1 ≠ k)

/-- Write `v` at key `k`, keeping the canonical form: writing the default removes the entry. -/
def tput {α : Type} [DecidableEq α] (d : α) : Tab α → Nat → α → Tab α
  | [], k, v => if v = d then [] else [(k, v)]
  | (i, a) :: t, k, v =>
    if i < k then (i, a) :: tput d t k v
    else if i = k then (if v = d then tdrop t k else (k, v) :: t)
    else (if v = d then (i, a) :: tdrop t k else (k, v) :: (i, a) :: t)

/-- Apply `f` to the entry at `k`. -/
def tmod {α : Type} [DecidableEq α] (d : α) (t : Tab α) (k : Nat) (f : α → α) : Tab α :=
  tput d t k (f (tget d t k))

/-- Write consecutive entries from `k` on. -/
def tputList {α : Type} [DecidableEq α] (d : α) : Tab α → Nat → List α → Tab α
  | t, _, [] => t
  | t, k, v :: vs => tputList d (tput d t k v) (k + 1) vs

/-- Consecutive entries: `n` from `k` on. -/
def tgetList {α : Type} (d : α) (t : Tab α) : Nat → Nat → List α
  | _, 0 => []
  | k, n + 1 => tget d t k :: tgetList d t (k + 1) n

/-- Insert into a rising list without repeats. -/
def insUp : List Nat → Nat → List Nat
  | [], k => [k]
  | i :: t, k => if i < k then i :: insUp t k else if i = k then i :: t else k :: i :: t

/-- Remove from a list without repeats. -/
def dropOne (l : List Nat) (k : Nat) : List Nat := l.filter (fun i => i ≠ k)

/-- The `n`-th number (from 0) of those below `bound` that the rising list `used` does not hold;
`from_` is the least candidate. -/
def nthFree : List Nat → Nat → Nat → Nat → Option Nat
  | [], from_, bound, n => if from_ + n < bound then some (from_ + n) else none
  | u :: us, from_, bound, n =>
    if u < from_ then nthFree us from_ bound n
    else if from_ + n < u then (if from_ + n < bound then some (from_ + n) else none)
    else nthFree us (u + 1) bound (n - (u - from_))

/-- Rotate a list left by `n` mod its length. -/
def rotateBy {α : Type} (n : Nat) (l : List α) : List α :=
  let k := n % l.length
  l.drop k ++ l.take k

/-- Insert into a list that rises by a key, after the equal ones. -/
def insBy {α : Type} (key : α → Nat) (x : α) : List α → List α
  | [] => [x]
  | y :: t => if key x < key y then x :: y :: t else y :: insBy key x t

/-- Sort by a key; equal keys keep their order. -/
def sortBy {α : Type} (key : α → Nat) (l : List α) : List α := l.foldl (fun acc x => insBy key x acc) []

end Sys2Proof.Machine
end

