-- ==== Sys2Proof/Machine/Port.lean ====
section
/-! DEFINITION. What the die sends through its link port and its cascade bridge ports (chapters 13 and 14): flits and control flits,
packets and their routes, the arbitration of R296, and codewords with their retry buffer. -/

namespace Sys2Proof.Machine

def at_ (lo v : Nat) : Nat := v * 2 ^ lo
/-- A one-bit field. -/
def bitF (lo : Nat) (b : Bool) : Nat := b2n b * 2 ^ lo

/-- A free value, and the state that has used it (log 3). -/
def drawFree (s : State) : W64 × State := (Config.freeWord s.free, { s with free := s.free + 1 })

def cap (s : State) (i : Nat) : W64 := s.caps.getD i 0
/-- KQ_CAP0.VARIANT: 0 no image, 1 Kiqua-8, 2 Kiqua-5 (Table 0.5). -/
def variant (s : State) : Nat := fld (cap s 0) 3 0
/-- A loaded Kiqua-5 image reports the Collective Engine, the bridge and far paging absent (R4, R406; log 16). -/
def isK5 (s : State) : Bool := variant s = 2

def send (s : State) (x : Sent) : State := { s with sent := s.sent ++ [x] }

def modLink (s : State) (f : Link → Link) : State := { s with link := f s.link }

def getBridge (s : State) (d : Nat) : Bridge := tget {} s.casc.ports d
def modBridge (s : State) (d : Nat) (f : Bridge → Bridge) : State :=
  { s with casc := { s.casc with ports := tmod {} s.casc.ports d f } }

/-- Dies of the package that a bridge of this die reaches. -/
def bridgesUp (s : State) : List Nat := (List.range 4).filter (fun d => d ≠ s.cascId.toNat && (getBridge s d).st = 2)

/-! ### Flits (Tables 14.1 and 14.3) -/

/-- A flit: header and body, 256 B. -/
def flitOf (head : Nat) (body : List Byte) : List Byte := toLE 2 head ++ (body ++ List.replicate 254 0).take 254

/-- A DATA flit. -/
def dataFlit (vc : Nat) (sop eop dl : Bool) (body : List Byte) : List Byte :=
  flitOf (at_ 14 1 + at_ 11 (vc % 8) + bitF 10 sop + bitF 9 eop + bitF 8 dl) body

/-- A CONTROL flit: its subtype in body byte 0. -/
def controlFlit (code : Nat) (rest : List Byte) : List Byte := flitOf (at_ 14 2) (toLE 1 code ++ rest)

def flitHead (f : List Byte) : Nat := leAt f 0 2
def flitIsData (f : List Byte) : Bool := nfld (flitHead f) 15 14 = 1
/-- Index of a flit's channel and dateline class in a list of 16. -/
def flitLane (f : List Byte) : Nat := nfld (flitHead f) 13 11 + 8 * nfld (flitHead f) 8 8
def flitIsMarker (f : List Byte) : Bool := nfld (flitHead f) 15 14 = 2 && leAt f 2 1 = 3

/-- CREDIT: the counts of class 0 as Table 14.3 places them, those of class 1 after them (log 64). -/
def creditFlit (freed cls1 : List W16) : List Byte := controlFlit 1 (toLE 1 0 ++ (freed ++ cls1).flatMap (fun w => toLE 2 w.toNat))
def retryFlit (seq : BitVec 10) : List Byte := controlFlit 2 (toLE 1 0 ++ toLE 2 seq.toNat)
def markerFlit (m : Marker) : List Byte :=
  controlFlit 3 (toLE 7 0 ++ toLE 8 m.b.toNat ++ toLE 4 (BitVec.ofInt 32 m.remaining).toNat ++ toLE 1 m.hops.toNat)
def echoFlit (stamp echoed : W64) (residence : W32) : List Byte :=
  controlFlit 4 (toLE 7 0 ++ toLE 8 stamp.toNat ++ toLE 8 echoed.toNat ++ toLE 4 residence.toNat)
def laneMapFlit (lane spare : Nat) (switchSeq : BitVec 10) : List Byte :=
  controlFlit 5 (toLE 1 0 ++ toLE 1 lane ++ toLE 1 spare ++ toLE 2 switchSeq.toNat)

/-! ### Arbitration (R70, R71, R296); a port is none for the link, or the die that a bridge port reaches -/

/-- W_c of a channel. -/
def weightOf (s : State) (c : Nat) : Nat := fld s.cle.vcw (8 * c + 7) (8 * c)

/-- DATA flits that wait at a port. -/
def portWait (s : State) (p : Option Nat) : List (Nat × Bool × List Byte) :=
  match p with
  | none => s.link.txWait
  | some d => (getBridge s d).wait

def setWait (s : State) (p : Option Nat) (l : List (Nat × Bool × List Byte)) : State :=
  match p with
  | none => modLink s (fun x => { x with txWait := l })
  | some d => modBridge s d (fun x => { x with wait := l })

/-- A credit of the channel and class is held; the bridge's credits come back with its adapter (log 86). -/
def hasCredit (s : State) (p : Option Nat) (c : Nat) (dl : Bool) : Bool :=
  match p with
  | none => decide (0 < s.link.creditTx.getD (c + (if dl then 8 else 0)) 0)
  | some _ => true

/-- The oldest waiting flit of channel c, when the channel is enabled and a credit for the flit is held. -/
def nextFlit (s : State) (p : Option Nat) (c : Nat) : Option (Nat × Bool × List Byte) :=
  match (portWait s p).find? (fun x => x.1 = c) with
  | some x => if weightOf s c ≠ 0 && hasCredit s p c x.2.1 then some x else none
  | none => none

/-- The channels in the order in which R70 resolves equal claims in the current breath. -/
def channelOrder (s : State) : List Nat := (List.range 8).map (fun k => (k + s.breath.num.toNat) % 8)

/-- The eligible channel with the smallest V_c, the first in R70's order of equal ones. -/
def pickChannel (s : State) (p : Option Nat) : Option Nat :=
  ((channelOrder s).filter (fun c => (nextFlit s p c).isSome)).foldl (fun best c =>
    match best with
    | none => some c
    | some b => if s.cle.vctr.getD c 0 < s.cle.vctr.getD b 0 then some c else some b) none

/-- Drop the first element of a list that satisfies `p`. -/
def dropFirst {α : Type} (p : α → Bool) : List α → List α
  | [] => []
  | x :: t => if p x then t else x :: dropFirst p t

/-- Add to one place of a list of 16. -/
def addAt (l : List Nat) (i n : Nat) : List Nat := (List.range 16).map (fun k => l.getD k 0 + (if k = i then n else 0))
def subAt (l : List Nat) (i n : Nat) : List Nat := (List.range 16).map (fun k => l.getD k 0 - (if k = i then n else 0))

/-- One flit slot: a flit of the chosen channel leaves, its counter of 32 bits rises, its credit is used. -/
def takeFlit (s : State) (p : Option Nat) (c : Nat) (x : Nat × Bool × List Byte) : State :=
  let v := (s.cle.vctr.getD c 0 + 65536 / weightOf s c) % 2 ^ 32
  let s1 := setWait { s with cle := { s.cle with vctr := s.cle.vctr.set c v } } p (dropFirst (fun y => y.1 = c) (portWait s p))
  modLink s1 (fun l => { l with
    vLast := v
    creditTx := if p.isNone then subAt l.creditTx (c + (if x.2.1 then 8 else 0)) 1 else l.creditTx })

/-- Up to `n` flits of a port, in the order of R296. -/
def takeFlits (p : Option Nat) : Nat → State → State × List (List Byte)
  | 0, s => (s, [])
  | n + 1, s =>
    match pickChannel s p with
    | none => (s, [])
    | some c =>
      match nextFlit s p c with
      | none => (s, [])
      | some x =>
        let (s1, fs) := takeFlits p n (takeFlit s p c x)
        (s1, x.2.2 :: fs)

/-- R296 step 3: a channel that had no flit ready starts at the V_c of the last flit sent. -/
def readyChannel (s : State) (p : Option Nat) (c : Nat) : State :=
  if (portWait s p).any (fun x => x.1 = c) then s
  else { s with cle := { s.cle with vctr := s.cle.vctr.set c (max (s.cle.vctr.getD c 0) s.link.vLast) } }

/-! ### Codewords (R299, R300, R303, R305) -/

/-- ACK: the last SEQ received in order. -/
def ackNow (l : Link) : BitVec 10 := l.rxNext - 1

/-- Physical lanes that carry logical lane l (R307, R308): the lane itself, at 16 lanes the l-th that is not retired, and a spare onto
which its symbols are copied. -/
def txLanes (x : Link) (l : Nat) : List Nat :=
  let base := if x.width = 16 then ((List.range 36).filter (fun n => !x.retired.getLsbD n)).getD l l else l
  base :: (x.laneOf.filter (fun m => m.1 = l)).map (fun m => m.2.1)

/-- The symbols of a codeword, coded and laid on the physical lanes (R299). -/
def codewordLanes (l : Link) (seq ack : BitVec 10) (data : List Byte) : List (Nat × List Nat) :=
  ((laySymbols l.width (rsEncode (cwSymbols seq ack data))).zipIdx).flatMap (fun p => (txLanes l p.2).map (fun n => (n, p.1)))

/-- A codeword leaves, with the ACK of this moment. -/
def sendWord (s : State) (w : Codeword) : State := send s (.codeword w.seq (ackNow s.link) w.data (codewordLanes s.link w.seq (ackNow s.link) w.data))

/-- One new codeword is sent and kept for retry. -/
def sendCodeword (s : State) (w : List Byte × List Nat) : State :=
  let x : Codeword := { seq := s.link.txNext, data := w.1, marks := w.2 }
  modLink (sendWord s x) (fun l => { l with txNext := l.txNext + 1, retryBuf := l.retryBuf ++ [x] })

/-- Places in the stream of the remaining times of MARKER flits, the first flit at `off`. -/
def markPlaces (off : Nat) (fs : List (List Byte)) : List Nat :=
  ((fs.zipIdx).filter (fun p => flitIsMarker p.1)).map (fun p => off + 256 * p.2 + 18)

/-- Codewords of 640 B for the rest of a NULL flit under way, some flits, and NULL flits to the end of the last codeword; `least`
codewords are sent in any case. The second result is what is left of the last NULL flit. -/
def layOut (carry : Nat) (fs : List (List Byte)) (least : Nat) : List (List Byte × List Nat) × Nat :=
  let bs := List.replicate carry 0 ++ fs.flatten
  let n := max least (if fs.isEmpty then 0 else ceilDiv' bs.length 640)
  let ms := markPlaces carry fs
  (((pieces 640 ((bs ++ List.replicate (640 * n) 0).take (640 * n))).zipIdx).map (fun p =>
      (p.1, (ms.filter (fun m => m / 640 = p.2)).map (fun m => m % 640))),
   if n = 0 then carry else (256 - (640 * n - carry) % 256) % 256)

/-- Send flits, and at least some number of codewords. -/
def emit (s : State) (fs : List (List Byte)) (least : Nat) : State :=
  let w := layOut s.link.txCarry fs least
  w.1.foldl sendCodeword (modLink s (fun l => { l with txCarry := w.2 }))

/-- While the link is up and the retry buffer of 768 codewords has room: pending control flits first, then DATA flits while their
credits last. -/
def pump (s : State) : State :=
  if s.link.st ≠ 2 then s else
  let slots := (640 * (768 - s.link.retryBuf.length) - s.link.txCarry) / 256
  let ctl := (s.link.txCtl.take slots).map (fun x => x.2)
  let r := takeFlits none (min (slots - ctl.length) s.link.txWait.length) (modLink s (fun l => { l with txCtl := l.txCtl.drop slots }))
  emit r.1 (ctl ++ r.2) 0

/-- A control flit waits at the link port, in the order MARKER, RETRY, CREDIT, LANE_MAP, ECHO (R303). -/
def queueControl (s : State) (order : Nat) (f : List Byte) : State :=
  modLink s (fun l => { l with txCtl := l.txCtl.filter (fun x => decide (x.1 ≤ order)) ++ (order, f) :: l.txCtl.filter (fun x => !decide (x.1 ≤ order)) })

/-- A control flit goes out by the link port as soon as it may. -/
def sendControl (s : State) (order : Nat) (f : List Byte) : State := pump (queueControl s order f)

/-- A codeword kept for retry is sent again; the remaining time of a MARKER in it is rewritten, to a free value, since State holds no
time (R303, log 9). -/
def resendWord (s : State) (w : Codeword) : State :=
  let r := w.marks.foldl (fun (p : State × List Byte) m =>
    let (f, s1) := drawFree p.1
    (s1, p.2.take m ++ toLE 4 f.toNat ++ p.2.drop (m + 4))) (s, w.data)
  sendWord r.1 { w with data := r.2 }

/-! ### Packets (R302, R311 to R313, R315, R317) -/

/-- The 128 bits of a tag (Table 14.2). -/
def tagBytes (t : UnitTag) : List Byte :=
  toLE 16 (t.group % 256 + at_ 8 (b2n t.kind) + at_ 32 t.sn.toNat + at_ 64 t.attempt.toNat + at_ 72 (t.rank % 256) + at_ 80 t.piece.toNat)

/-- The bodies of the flits of a packet of this die, its header first (Table 14.2). -/
def packetBodies (s : State) (node : W16) (die : Nat) (tag : UnitTag) (data : List Byte) : List (List Byte) :=
  let len := ceilDiv' (24 + data.length) 254
  pieces 254 (toLE 2 node.toNat ++ toLE 1 (die % 4) ++ toLE 2 s.link.node.toNat ++ toLE 1 s.cascId.toNat ++ toLE 2 len ++ tagBytes tag ++ data)

/-- Destination of a packet, and its LEN, from the header in its first body. -/
structure Header where
  node : W16
  die : Nat
  len : Nat
deriving DecidableEq, Repr

def parseHeader (body : List (List Byte)) : Header :=
  let b := body.headD []
  { node := BitVec.ofNat 16 (leAt b 0 2), die := leAt b 2 1 % 4, len := leAt b 6 2 }

/-- The flits of a packet, in order. -/
def packetFlits (vc : Nat) (dl : Bool) (body : List (List Byte)) : List (List Byte) :=
  (List.range body.length).map (fun k => dataFlit vc (k = 0) (k + 1 = body.length) dl (body.getD k []))

/-- A packet waits at a port. -/
def queuePacket (s : State) (p : Option Nat) (vc : Nat) (dl : Bool) (body : List (List Byte)) : State :=
  let c := vc % 8
  let s1 := readyChannel s p c
  setWait s1 p (portWait s1 p ++ (packetFlits c dl body).map (fun f => (c, dl, f)))

/-- A packet leaves by this die's link port; a DATELINE port sets DL. -/
def outLink (s : State) (vc : Nat) (dl : Bool) (body : List (List Byte)) : State :=
  pump (queuePacket s none vc (dl || s.link.dateline) body)

/-- Flits that wait at a bridge port leave while it is up. -/
def pumpBridge (s : State) (d : Nat) : State :=
  if (getBridge s d).st ≠ 2 then s else
  let r := takeFlits (some d) (getBridge s d).wait.length s
  r.2.foldl (fun st f => send st (.flit d f)) r.1

/-- The die to which a packet for another die of the package crosses the bridge: that die, or when its bridge is lost the
lowest-numbered die in reach, which relays (R356). -/
def bridgeTo (s : State) (die : Nat) : Option Nat :=
  if (getBridge s die).st = 2 then some die
  else (bridgesUp s).find? (fun d => d ≠ die)

def outBridge (s : State) (die vc : Nat) (dl : Bool) (body : List (List Byte)) : State :=
  match bridgeTo s die with
  | some d => pumpBridge (queuePacket s (some d) vc dl body) d
  | none => s

/-- The die whose link port a route entry names; a bonded route takes its dies in rotation. -/
def routeDie (s : State) (e : Byte) : Option (Nat × State) :=
  let k := e.toNat / 16
  if k = 1 then some (e.toNat % 4, s)
  else if k = 2 && s.casc.mode = 2 then
    let ds := (List.range 4).filter (fun d => e.getLsbD d)
    match ds[s.link.bondNext % (max 1 ds.length)]? with
    | some d => some (d, modLink s (fun l => { l with bondNext := l.bondNext + 1 }))
    | none => none
  else none

/-- A packet goes on towards its node and die. -/
def ship (s : State) (node : W16) (die vc : Nat) (dl : Bool) (body : List (List Byte)) : State :=
  if node = s.link.node then (if die % 4 = s.cascId.toNat then s else outBridge s (die % 4) vc dl body)
  else
    match routeDie s (s.link.routes.getD node.toNat 0) with
    | some (d, s1) => if d = s.cascId.toNat then outLink s1 vc dl body else outBridge s1 d vc dl body
    | none => s

/-- An exchange unit of this die to a member (R284, R302). -/
def sendUnit (s : State) (vc : Nat) (m : Member) (tag : UnitTag) (data : List Byte) : State :=
  ship s m.node m.die.toNat vc false (packetBodies s m.node m.die.toNat tag data)

end Sys2Proof.Machine
end

