-- ==== Sys2Proof/Machine/Ops.lean ====
section
/-! DEFINITION. The named operations over State that the commands share: queues and items, Bell events and
interrupt pending bits, windows, tasks and their cancellation, memory requests and their tags, and how
an item ends. -/

namespace Sys2Proof.Machine

/-- What no command changes but those of the pins, supplies and fuses, said once: the waiting commands, CASC_ID and the other
static levels (R384), the fuses (R402), and the test access port, which takes nothing from the die's clocks (R401). -/
def keepOuter (s t : State) : State :=
  { t with pending := s.pending, cascId := s.cascId, rstLow := s.rstLow, powered := s.powered, fuses := s.fuses,
           newFuses := s.newFuses, tap := s.tap }

/-- RST_N is low, power is out, or the die is muted: no command of a running die reaches it (R378, R385, R397). -/
def still (s : State) : Bool := s.rstLow || s.mute.muted || !s.powered

/-- A command with its effect on a running die; on a still one the state stays (log 15). -/
def live (s : State) (f : State → State) : Host.Outcome State Fault Refusal :=
  .next (if still s then s else keepOuter s (f s))

/-- Work of the breath has begun: what a boundary changes (Table 3.8) had to come before it (R72, log 76). -/
def inBreath (s : State) : State := { s with edge := false }

/-- A command that is work of the breath under way. -/
def work (s : State) (f : State → State) : Host.Outcome State Fault Refusal := live s (fun s => f (inBreath s))

/-- A change of Table 3.8 that has a row of its own: it happens at a boundary, before any work of the breath that the
boundary opens (R72, log 76). -/
def atEdge (s : State) (f : State → State) : Host.Outcome State Fault Refusal :=
  live s (fun s => if s.edge then f s else s)

/-- A command of the Mute and reset pins, which looks itself at whether the die is still. -/
def pins (s : State) (f : State → State) : Host.Outcome State Fault Refusal := .next (keepOuter s (f s))

/-- A command of the supplies, the fuses or the test access port. -/
def always (s : State) (f : State → State) : Host.Outcome State Fault Refusal := .next (f s)

/-! ### Capability words -/

def clustersEn (s : State) : Nat := fld (cap s 0) 11 8
def capEpoch (s : State) : Byte := s.epoch
/-- The die is running a structure image: it admits and executes (R341; log 17). -/
def running (s : State) : Bool := s.reed.active.isSome && !s.reed.warm && variant s ≠ 0

/-! ### Queues and items -/

def getQ (s : State) (q : Nat) : Queue := tget {} s.queues q
def setQ (s : State) (q : Nat) (v : Queue) : State := { s with queues := tput {} s.queues q v }
def modQ (s : State) (q : Nat) (f : Queue → Queue) : State := setQ s q (f (getQ s q))

/-- Engine of a queue (Table 2.1): 0 ATE, 1 PGE, 2 CLE, 3 ROE, 4 TSE. -/
def engineOf (q : Nat) : Nat :=
  if q < 64 then 0 else if q < 96 then 1 else if q < 352 then 2 else if q < 384 then 3 else 4

/-- KQ_CAP0.CLE: the capability words report the Collective Engine present (Table 0.5). -/
def hasCle (s : State) : Bool := (cap s 0).getLsbD 4

/-- A queue that the register window holds (R24), of an engine that the capability words do not report absent (R4, Table 15.12). -/
def queuePresent (s : State) (q : Nat) : Bool := decide (q < 392) && (hasCle s || engineOf q ≠ 2)

def isItem (q : Nat) (idx : W32) (i : Item) : Bool := i.q = q && i.idx = idx
def findItem (s : State) (q : Nat) (idx : W32) : Option Item := s.items.find? (isItem q idx)
def dropItem (s : State) (q : Nat) (idx : W32) : State :=
  { s with items := s.items.filter (fun i => !isItem q idx i) }
def modItem (s : State) (q : Nat) (idx : W32) (f : Item → Item) : State :=
  { s with items := s.items.map (fun i => if isItem q idx i then f i else i) }

/-- Items accepted and not yet completed (Table 2.7). -/
def inflight (s : State) (q : Nat) : Nat := (s.items.filter (fun i => i.q = q)).length

/-- Every queue of the die reads STATE closed (R232, R266). -/
def allClosed (s : State) : Bool := s.queues.all (fun p => p.2.st = 0)

def lowBreath (s : State) : W32 := BitVec.ofNat 32 s.breath.num.toNat

/-! ### Bell events and interrupt pending bits -/

/-- Events of class F in Table 17.2. -/
def isFaultCode (code : Nat) : Bool :=
  [0x0002, 0x0010, 0x0030, 0x0031, 0x0032, 0x0033, 0x0040, 0x0041, 0x0042, 0x0043, 0x0044, 0x0045,
   0x0046, 0x0050, 0x0051, 0x0052, 0x0053, 0x00FF].contains code

/-- Put an event into the staging queue, or drop and count it when 256 wait (R369). -/
def stageEvent (s : State) (e : BellEvent) : State :=
  if s.bell.staging.length < 256 then
    { s with bell := { s.bell with staging := s.bell.staging ++ [e] } }
  else
    { s with bell := { s.bell with dropped := satAdd s.bell.dropped 1,
                                   droppedSince := s.bell.droppedSince + 1 } }

/-- Raise a hardware or Reed event of Table 17.2 (SRC 0 hardware, 1 Reed). -/
def bellRaise (s : State) (code : Nat) (unit : W16) (ctx : CtxId) (src : Nat) (arg : Nat) : State :=
  stageEvent s { code := BitVec.ofNat 16 code, unit := unit, ctx := ctx, src := BitVec.ofNat 2 src,
                 arg := BitVec.ofNat 64 arg, fault := isFaultCode code }

/-- Set a global pending bit (R409): 0 BREATH, 1 MAILBOX, 2 CAPACITY, 3 BELL, 4 SENSOR, 5 FAULT_REC. -/
def pendG (s : State) (bit : Nat) : State :=
  { s with irq := { s.irq with gstat := s.irq.gstat ||| BitVec.ofNat 6 (2 ^ bit) } }

/-- Set the pending bit of queue q (R409). -/
def pendQ (s : State) (q : Nat) : State :=
  { s with irq := { s.irq with qpend := s.irq.qpend ||| BitVec.ofNat 392 (2 ^ q) } }

/-- DB_ERR with its interrupt (R29, R34, R50). -/
def setDbErr (s : State) (q : Nat) : State := pendQ (modQ s q (fun v => { v with dbErr := true })) q

/-! ### Cores, windows, counters, slots -/

def getCore (s : State) (k : Nat) : Core := tget {} s.cores k
def setCore (s : State) (k : Nat) (c : Core) : State := { s with cores := tput {} s.cores k c }
def modCore (s : State) (k : Nat) (f : Core → Core) : State := setCore s k (f (getCore s k))
def getCluster (s : State) (n : Nat) : Cluster := tget {} s.clusters n
def setCluster (s : State) (n : Nat) (c : Cluster) : State := { s with clusters := tput {} s.clusters n c }

/-- The physical core (physical cluster × 9 + index) that serves logical core k (Table 19.13). -/
def physOf (s : State) (k : Nat) : Option Nat :=
  let c := getCluster s (k / 8)
  let p := c.map.getD (k % 8) 0xF
  if p < 9 then some (c.phys * 9 + p) else none

/-- The logical core that physical core p serves. -/
def logicalOf (s : State) (p : Nat) : Option Nat := (List.range 64).find? (fun k => physOf s k = some p)

/-- Logical core k is in service (R12, R406). -/
def coreLive (s : State) (k : Nat) : Bool :=
  decide (k < 64) && decide (k / 8 < clustersEn s) && (physOf s k).isSome

def getWin (c : Core) (w : Nat) : Window := tget {} c.windows w
def getCtr (c : Core) (j : Nat) : Counter := tget {} c.counters j
def getSlot (c : Core) (i : Nat) : StreamSlot := tget {} c.slots i

def findTask (s : State) (core thread : Nat) : Option Task :=
  s.tasks.find? (fun t => t.core = core && t.thread = thread)

/-- Threads holding a task (Table 9.3). -/
def busyCount (s : State) (core : Nat) : Nat := (s.tasks.filter (fun t => t.core = core)).length

def modTask (s : State) (core thread : Nat) (f : Task → Task) : State :=
  { s with tasks := s.tasks.map (fun t => if t.core = core && t.thread = thread then f t else t) }

/-- KIND of the armed descriptor (Table 12.1): 0 demand read, 1 prefetch read, 2 write. -/
def StreamSlot.kind (v : StreamSlot) : Nat := (v.desc.toNat >>> 192) % 4

/-- R262: the thread's ACTIVE slots of some kinds become ABORTED and issue no further request. -/
def cancelSlots (s : State) (core thread : Nat) (kinds : List Nat) : State :=
  let cancel := fun (t : Tab StreamSlot) (i : Nat) =>
    let v := tget {} t (4 * thread + i)
    if v.st = 1 && kinds.contains v.kind then tput {} t (4 * thread + i) { v with st := 3, todo := [] } else t
  modCore s core (fun c => { c with slots := (List.range 4).foldl cancel c.slots })

/-- Counters of a window leave it (Table 9.7 STATE 0b10). -/
def freeCounters (c : Core) (first n : Nat) : Tab Counter :=
  (List.range n).foldl (fun t i => tmod {} t (first + i) (fun k => { k with st := 2 })) c.counters

/-- The window's STATE becomes closed and its counters are freed; the descriptor stays (R185). -/
def shutWindow (c : Core) (w : Nat) : Core :=
  let v := getWin c w
  if v.st = 1 then
    { c with windows := tput {} c.windows w { v with st := 2 },
             counters := freeCounters c v.acFirst.toNat v.acNum.toNat }
  else c

/-- Threads of a core asleep on a counter of window w. -/
def waitersOfWin (s : State) (core w : Nat) : List Nat :=
  let v := getWin (getCore s core) w
  (s.tasks.filter (fun t => t.core = core && (match t.wait with
    | some x => decide (v.acFirst.toNat ≤ x.counter ∧ x.counter < v.acFirst.toNat + v.acNum.toNat)
    | none => false))).map (fun t => t.thread)

/-- Open windows of a core that a thread's task opened, but its halo windows, which close at the boundary of
R172. -/
def windowsOf (s : State) (core thread : Nat) : List Nat :=
  ((getCore s core).windows.filter (fun p => p.2.st = 1 && p.2.openedBy = some thread && p.2.halo.isNone)).map (fun p => p.1)

/-- A task whose key range lies under a merge task's (R152): every task of the row block under the one that divides. -/
def underMerge (m x : TaskShape) : Bool :=
  x ≠ m && (m.segCount = 0 || (decide (m.segFirst ≤ x.segFirst) && decide (x.segFirst + x.segCount ≤ m.segFirst + m.segCount)))

/-- With an aborted merge task go the records that it had received (R160, R161, R185). -/
def dropNodes (i : Item) (m : TaskShape) : Item :=
  if m.kind ≠ .merge then i else
  { i with groups := i.groups.map (fun g =>
      if g.rowFirst = m.rowFirst && g.rows = m.rows then
        { g with bounds := g.bounds.filter (fun b => !underMerge m b.1), nodes := g.nodes.filter (fun b => !underMerge m b.1)
                 bounded := g.bounded && m.segCount ≠ 0 }
      else g) }

/-- What an item keeps of tasks that are aborted: its halo exchange restarts (R172), and merge windows close. -/
def lostTasks (i : Item) (ts : List Task) : Item :=
  let mine := ts.filter (fun t => isItem t.q t.idx i)
  if mine.isEmpty then i else mine.foldl (fun x t => dropNodes x t.shape) { i with haloHit := true }

/-- Abort the tasks of some threads (R185, R262): each leaves its thread, its slots are cancelled, the
windows it opened close, and tasks asleep on those windows' counters are aborted in turn. -/
def abortThreads : Nat → State → Nat → List Nat → State
  | 0, s, _, _ => s
  | _ + 1, s, _, [] => s
  | f + 1, s, core, ts =>
    let live := ts.filter (fun t => (findTask s core t).isSome)
    let wins := live.flatMap (windowsOf s core)
    let woken := (wins.flatMap (waitersOfWin s core)).filter (fun t => !live.contains t)
    let out := s.tasks.filter (fun t => t.core = core && live.contains t.thread)
    let s1 := { s with tasks := s.tasks.filter (fun t => !(t.core = core && live.contains t.thread)),
                       items := s.items.map (fun i => lostTasks i out) }
    let s2 := live.foldl (fun st t => cancelSlots st core t [0, 1, 2, 3]) s1
    let s3 := modCore s2 core (fun c => wins.foldl shutWindow c)
    abortThreads f s3 core woken

/-- Abort the task of one thread. -/
def abortTask (s : State) (core thread : Nat) : State := abortThreads 33 s core [thread]

/-- Close an open window and abort every task asleep on its counters (R185). -/
def closeWindow (s : State) (core w : Nat) : State :=
  if (getWin (getCore s core) w).st ≠ 1 then s else
  let ts := waitersOfWin s core w
  abortThreads 33 (modCore s core (fun c => shutWindow c w)) core ts

/-- Close every window of a core and abort the tasks asleep on them (R185). -/
def closeAllWindows (s : State) (core : Nat) : State :=
  ((getCore s core).windows.filter (fun p => p.2.st = 1)).foldl (fun st p => closeWindow st core p.1) s

/-- The open windows of a core no longer belong to a thread's task. -/
def disown (c : Core) (thread : Nat) : Core :=
  { c with windows := c.windows.map (fun p => (p.1, if p.2.openedBy = some thread then { p.2 with openedBy := none } else p.2)) }

/-- A task ends normally: its thread is free, its prefetches in flight are cancelled (log 78), and windows it opened stay until
firmware closes them, no longer bound to the thread. -/
def endTask (s : State) (core thread : Nat) : State :=
  let s1 := modCore (cancelSlots s core thread [0, 1]) core (fun c => disown c thread)
  { s1 with tasks := s1.tasks.filter (fun t => !(t.core = core && t.thread = thread)) }

/-- Open halo windows of an item: core and window (R171). -/
def halosOf (s : State) (q : Nat) (idx : W32) : List (Nat × Nat) :=
  s.cores.flatMap (fun c => (c.2.windows.filter (fun p => p.2.st = 1 && p.2.halo = some (q, idx))).map (fun p => (c.1, p.1)))

/-- A window of an item's halo exchange closes for good. -/
def dropHalo (s : State) (core w : Nat) : State :=
  modCore (closeWindow s core w) core (fun c => { c with windows := tmod {} c.windows w (fun v => { v with halo := none }) })

/-- Abort every task of an item (R262), forget its reissues, and close its halo windows. -/
def abortItemTasks (s : State) (q : Nat) (idx : W32) : State :=
  let ts := s.tasks.filter (fun t => t.q = q && t.idx = idx)
  let s1 := ts.foldl (fun st t => abortTask st t.core t.thread) s
  let s2 := (halosOf s1 q idx).foldl (fun st p => dropHalo st p.1 p.2) s1
  { s2 with reissues := s2.reissues.filter (fun r => !(r.task.q = q && r.task.idx = idx)) }

/-! ### Memory requests and DMA tags (Table 12.3, R255, R256) -/

def poolBase (p : Nat) : Nat :=
  if p < 64 then 640 * p else if p = 64 then 40960 else if p = 65 then 45056
  else if p = 66 then 53248 else 54272
def poolSize (p : Nat) : Nat :=
  if p < 64 then 640 else if p = 64 then 4096 else if p = 65 then 8192 else if p = 66 then 1024 else 256

def isPrefetch (r : Req) : Bool :=
  match r.owner with
  | .stream _ _ _ _ pf _ => pf
  | _ => false

/-- Tags of a pool in use, rising. -/
def usedTags (s : State) (p : Nat) : List Nat :=
  (s.mem.reqs.filterMap (fun r => if r.pool = p then r.tag else none)).foldl insUp []

/-- Tags that prefetches of a core hold (Table 12.9). -/
def pfHeld (s : State) (p : Nat) : Nat :=
  (s.mem.reqs.filter (fun r => r.pool = p && r.tag.isSome && isPrefetch r)).length

/-- The least free tag of a pool that a request may take (log 18). -/
def freeTag (s : State) (r : Req) : Option Nat :=
  if isPrefetch r && decide (s.str.pfLimit.toNat ≤ pfHeld s r.pool) then none
  else nthFree (usedTags s r.pool) (poolBase r.pool) (poolBase r.pool + poolSize r.pool) 0

/-- Issue a request: it takes a tag, or waits for one. -/
def issueReq (s : State) (r : Req) : State :=
  { s with mem := { s.mem with reqs := s.mem.reqs ++ [{ r with tag := freeTag s r }] } }

/-- Give free tags to the requests of some kind that wait, oldest first. -/
def grantTags (which : Req → Bool) (s : State) : State :=
  (s.mem.reqs.filter which).foldl (fun st r =>
    match r.tag with
    | some _ => st
    | none =>
      match freeTag st r with
      | none => st
      | some t =>
        let a := st.mem.reqs.takeWhile (fun x => x ≠ r)
        let b := st.mem.reqs.dropWhile (fun x => x ≠ r)
        let reqs := a ++ (b.take 1).map (fun x => { x with tag := some t }) ++ b.drop 1
        { st with mem := { st.mem with reqs := reqs } }) s

/-- The request that holds a tag. -/
def reqOf (s : State) (tag : Nat) : Option Req := s.mem.reqs.find? (fun r => r.tag = some tag)

/-- A response releases the tag (R255). An engine's requests that wait take it oldest first; a core's threads in the order of
R70, when its streams are served next (R256). -/
def releaseReq (s : State) (tag : Nat) : State :=
  grantTags (fun r => decide (64 ≤ r.pool)) { s with mem := { s.mem with reqs := s.mem.reqs.filter (fun r => r.tag ≠ some tag) } }

/-- An item's output writes that the memory side has not acknowledged. -/
def outputsLeft (s : State) (q : Nat) (idx : W32) : Nat :=
  (s.mem.reqs.filter (fun r => match r.owner with
    | .output a b => a = q && b = idx
    | .drain _ _ _ a b => a = q && b = idx
    | _ => false)).length

/-! ### The memory side (R396) -/

/-- Drop the entries of a table below key k. -/
def dropBelow {α : Type} (k : Nat) : Tab α → Tab α
  | [] => []
  | (i, a) :: t => if i < k then dropBelow k t else (i, a) :: t

/-- `n` consecutive entries from key k of a table whose keys are all at least k. -/
def rangeFrom {α : Type} (d : α) : Nat → Nat → Tab α → List α
  | 0, _, _ => []
  | n + 1, k, [] => d :: rangeFrom d n (k + 1) []
  | n + 1, k, (i, a) :: t =>
    if i = k then a :: rangeFrom d n (k + 1) t else d :: rangeFrom d n (k + 1) ((i, a) :: t)

/-- Bytes of a table of bytes. -/
def readBytes (t : Tab Byte) (a n : Nat) : List Byte := rangeFrom 0 n a (dropBelow a t)

/-- Listed form of consecutive bytes from key k: zero bytes are not listed. -/
def listed : Nat → List Byte → Tab Byte
  | _, [] => []
  | k, b :: bs => if b = 0 then listed (k + 1) bs else (k, b) :: listed (k + 1) bs

/-- Write consecutive bytes, keeping the canonical form. -/
def writeBytes (t : Tab Byte) (a : Nat) (bs : List Byte) : Tab Byte :=
  t.filter (fun p => p.1 < a) ++ listed a bs ++ t.filter (fun p => a + bs.length ≤ p.1)

def overlaps (a n b m : Nat) : Bool := decide (a < b + m) && decide (b < a + n) && decide (0 < n) && decide (0 < m)

/-- The memory side's answer to a request of `n` bytes at `pa` under a context (R396, log 5). -/
def memCheck (m : MemSide) (ctx : CtxId) (pa n : Nat) (write : Bool) : Resp :=
  if m.permits.any (fun p => overlaps pa n p.base p.len && ctx ≠ 0 && !p.ctxs.contains ctx.toNat) then .ctxMismatch
  else if !write && m.poisoned.any (fun p => overlaps pa n p.1 p.2) then .poison
  else .ok

def storeMem (s : State) (pa : Nat) (bs : List Byte) : State :=
  { s with mem := { s.mem with bytes := writeBytes s.mem.bytes pa bs } }

/-! ### How an item ends (Table 2.8) -/

def isFailure (status : Nat) : Bool := decide (0x10 ≤ status)

/-- Table 2.8: accepted or executing, so neither committed nor ended. -/
def Item.open_ (i : Item) : Bool :=
  match i.stage with
  | .admitted | .accepted | .executing => true
  | _ => false

/-- Flags of a command (Table 2.9). -/
def Item.fence (i : Item) : Bool := !i.copyFailed && i.cmd.getLsbD 16
def Item.irqFlag (i : Item) : Bool := !i.copyFailed && i.cmd.getLsbD 17
def Item.waitEn (i : Item) : Bool := !i.copyFailed && i.cmd.getLsbD 18
def Item.opcode (i : Item) : Nat := nfld i.cmd.toNat 15 8
def Item.ctx (i : Item) : CtxId := BitVec.ofNat 12 (nfld i.cmd.toNat 75 64)

/-- The item ends without a commit: completed, or failed, with a status and a DETAIL. Its staged changes,
holds and attachments go. -/
def Item.endWith (i : Item) (status : Nat) (detail : Nat) (breath : W32) : Item :=
  { i with stage := .ended, status := BitVec.ofNat 8 status, detail := BitVec.ofNat 64 detail,
           breath := breath, staged := [], holdKeys := [], retryFull := false, ready := none, rows := [], tail := [] }

/-- The exchange-unit tag of an operation (R284). -/
def CleOp.tag (o : CleOp) (rank : Nat) : UnitTag :=
  { group := o.group, kind := o.kind, sn := o.sn, attempt := o.attempt, rank := rank, piece := 0 }

def getGroup (s : State) (g : Nat) : Group := tget {} s.cle.groups g
def setGroup (s : State) (g : Nat) (v : Group) : State := { s with cle := { s.cle with groups := tput {} s.cle.groups g v } }
def groupSize (s : State) (g : Nat) : Nat := (getGroup s g).nm1.toNat + 1

/-- The operation that this die has open for an item. -/
def opOf (s : State) (q : Nat) (idx : W32) : Option CleOp := s.cle.ops.find? (fun o => o.q = q && o.idx = idx)

def setOp (s : State) (o : CleOp) : State :=
  let f := fun (x : CleOp) => if x.q = o.q && x.idx = o.idx then o else x
  { s with cle := { s.cle with ops := s.cle.ops.map f } }

/-- MODE, VC and QUOTA of a group from the active image, for items that begin from now on; an operation that has begun keeps its own
MODE and VC (R275, R298). -/
def imageGroup (s : State) (g : Nat) (v : Group) : Group :=
  match s.reed.active with
  | none => v
  | some l =>
    match l.image.groups[g]? with
    | none => v
    | some (mode, vc, quota) => { v with mode := mode ≠ 0, vc := BitVec.ofNat 3 vc.toNat, quota := BitVec.ofNat 9 quota.toNat }

/-- An exchange unit to the member of a rank, on the operation's channel (R296). -/
def toRank (s : State) (o : CleOp) (rank : Nat) (t : UnitTag) (data : List Byte) : State :=
  match (getGroup s o.group).members[rank]? with
  | some m => sendUnit s o.vc.toNat m t data
  | none => s

/-- An exchange unit to every other member. -/
def toOthers (s : State) (o : CleOp) (t : UnitTag) (data : List Byte) : State :=
  ((List.range (groupSize s o.group)).filter (fun r => r ≠ (getGroup s o.group).rank.toNat)).foldl (fun st r => toRank st o r t data) s

/-- The successor's rank on the ring (R273). -/
def nextRank (s : State) (g : Nat) : Nat := ((getGroup s g).rank.toNat + 1) % groupSize s g

/-- An exchange unit to the successor, unless that is its own sender. -/
def toNext (s : State) (o : CleOp) (t : UnitTag) (data : List Byte) : State :=
  if nextRank s o.group = t.rank then s else toRank s o (nextRank s o.group) t data

/-- An operation leaves the engine: its outcome stays for R287 and R357. One of a command returns its grant (R289); a sequence-parallel
item holds none, and leaves the group's command as it is. -/
def closeOp (s : State) (q : Nat) (idx : W32) (status : Byte) (detail : W64) : State :=
  match opOf s q idx with
  | none => s
  | some o =>
    let g := getGroup s o.group
    let rec' : CleEnded := { group := o.group, kind := o.kind, sn := o.sn, status := status, detail := detail, attempt := o.attempt }
    let s1 := { s with cle := { s.cle with
      ops := s.cle.ops.filter (fun x => !(x.q = q && x.idx = idx))
      ended := s.cle.ended.filter (fun x => !(x.group = o.group && x.kind = o.kind && x.sn = o.sn)) ++ [rec'] } }
    if o.kind then s1 else
    { s1 with cle := { s1.cle with
      sharedFree := s.cle.sharedFree + (g.grant - 1)
      granted := s.cle.granted - g.grant
      groups := tput {} s.cle.groups o.group { g with grant := 0, st := if g.st = 0 then 0 else 1 } } }

/-- End an item now: its tasks go, its record waits its turn (R38, R40). -/
def endNow (s : State) (q : Nat) (idx : W32) (status detail : Nat) : State :=
  let s1 := abortItemTasks s q idx
  let s2 := closeOp s1 q idx (BitVec.ofNat 8 status) (BitVec.ofNat 64 detail)
  let s3 := modItem s2 q idx (fun i => i.endWith status detail (lowBreath s))
  let recs := s3.tr.recs.map (fun r => { r with attached := r.attached.filter (fun p => p ≠ (q, idx)) })
  { s3 with tr := { s3.tr with recs := recs } }

/-- The item commits with the status it holds (Table 2.8). -/
def commitNow (s : State) (q : Nat) (idx : W32) : State :=
  match findItem s q idx with
  | none => s
  | some i =>
    let s1 := closeOp s q idx i.status i.detail
    modItem s1 q idx (fun x => { x with stage := .committed, breath := lowBreath s })

/-- The least-ranked failure that a list of reports holds. -/
def leastFail : List (Nat × Byte × W64) → Option (Nat × Byte × W64)
  | [] => none
  | f :: t =>
    match leastFail t with
    | some g => if g.1 < f.1 then some g else some f
    | none => some f

/-- R286: an operation that holds DONE or FAIL from every member completes: committed when every message is
DONE, else failed with the STATUS and DETAIL of the lowest-ranked FAIL. -/
def settleOp (s : State) (q : Nat) (idx : W32) : State :=
  match opOf s q idx with
  | none => s
  | some o =>
    let n := groupSize s o.group
    if (List.range n).all (fun r => o.doneFrom.contains r || o.failFrom.any (fun f => f.1 = r)) then
      match leastFail o.failFrom with
      | some (_, st, d) => endNow s q idx st.toNat d.toNat
      | none => commitNow s q idx
    else s

/-- An item fails or ends without a commit. While it has an operation open, the member sends FAIL and completes
with the operation (R286, R297). -/
def endItem (s : State) (q : Nat) (idx : W32) (status detail : Nat) : State :=
  match opOf s q idx with
  | none => endNow s q idx status detail
  | some o =>
    let rank := (getGroup s o.group).rank.toNat
    if o.failFrom.any (fun f => f.1 = rank) then s else
    let st := BitVec.ofNat 8 status
    let d := BitVec.ofNat 64 detail
    let s1 := abortItemTasks s q idx
    let s2 := send (setOp s1 { o with failFrom := o.failFrom ++ [(rank, st, d)] }) (.fail (o.tag rank) st d)
    let s3 := modItem (toOthers s2 o (o.tag rank) (toLE 1 status ++ toLE 8 detail)) q idx (fun i => { i with holdKeys := [], retryFull := false, ready := none })
    settleOp s3 q idx

/-- Count an uncorrected hardware abort of an item (R349, R350): the eighth fails it. -/
def hwAbort (s : State) (q : Nat) (idx : W32) (unit : W16) : State :=
  let s1 := modItem s q idx (fun i => { i with hwAborts := i.hwAborts + 1, replayed := true })
  match findItem s1 q idx with
  | some i => if 8 ≤ i.hwAborts then endItem s1 q idx 0x24 unit.toNat else s1
  | none => s1

end Sys2Proof.Machine
end

