-- ==== Sys2Proof/Machine/Operands.lean ====
section
/-! DEFINITION. Operand layouts: the fields of a command by byte offset (Tables 2.9, 2.13 to 2.18), address
fields (Table 2.10), and the reserved bits of a command (R9). -/

namespace Sys2Proof.Machine

/-- `n` bytes of a command from byte `off`. -/
def cmdAt (c : BitVec 512) (off n : Nat) : Nat := (c.toNat >>> (8 * off)) % 2 ^ (8 * n)

/-- A 64-bit field of a command. -/
def cmd64 (c : BitVec 512) (off : Nat) : W64 := BitVec.ofNat 64 (cmdAt c off 8)

/-! Header (Table 2.9) -/
def Item.waitQ (i : Item) : Nat := cmdAt i.cmd 10 2
def Item.waitCpl (i : Item) : W32 := BitVec.ofNat 32 (cmdAt i.cmd 12 4)

/-- CLASS of an address field (Table 2.10). -/
def addrCls (a : W64) : Cls := if a.getLsbD 63 then .h else .d
def addrVa (a : W64) : Nat := a.toNat % 2 ^ 52
/-- CLASS and VA alone, as DETAIL and a fault record carry them (Table 2.21). -/
def addrKey (a : W64) : Nat := (a.toNat / 2 ^ 63) * 2 ^ 63 + addrVa a
/-- The address field `k` bytes further on, within the 52-bit space. -/
def addrAdd (a : W64) (k : Nat) : W64 :=
  BitVec.ofNat 64 (a.toNat / 2 ^ 52 * 2 ^ 52 + (addrVa a + k) % 2 ^ 52)
/-- Reserved bits [62:52] are nonzero (R44). -/
def addrRsv (a : W64) : Bool := nfld a.toNat 62 52 ≠ 0

/-- Two operand ranges overlap when they have one CLASS and share a virtual byte (R126). -/
def rangesOverlap (a : W64) (n : Nat) (b : W64) (m : Nat) : Bool :=
  addrCls a = addrCls b && overlaps (addrVa a) n (addrVa b) m

/-- Bytes `a` to `b` − 1 of a command are all zero. -/
def zeroBytes (c : BitVec 512) (a b : Nat) : Bool := cmdAt c a (b - a) = 0

/-- Opcodes of Table 2.12. -/
def opcodeKnown (o : Nat) : Bool :=
  [0x01, 0x02, 0x10, 0x11, 0x20, 0x21, 0x22, 0x23, 0x24, 0x25, 0x26, 0x27, 0x28, 0x30, 0x31, 0x32, 0x33,
   0x34, 0x35, 0x36, 0x40, 0x41, 0x42, 0x50, 0x51].contains o

/-- Engine of an opcode (Table 2.12): 0 ATE to 4 TSE; 5 common to all queues; 6 reserved. -/
def opcodeEngine (o : Nat) : Nat :=
  if !opcodeKnown o then 6 else if o < 0x10 then 5 else if o < 0x20 then 0 else if o < 0x30 then 1
  else if o < 0x40 then 2 else if o < 0x50 then 3 else 4

/-- A reserved field of the command is nonzero (R9, R45; Tables 2.9 and 2.13 to 2.18). The fields that a
layout gives as zero or ignored for an opcode are not reserved. Two of these are the model's choice (log 91): bits [15:9] of WAIT_Q,
which Table 2.9 calls reserved, count with WAIT_EN = 0 too, and of the DESC that R280 reserves in RING_PASS the reserved bits [62:52]
of an address field alone. -/
def reservedSet (c : BitVec 512) : Bool :=
  let o := cmdAt c 1 1
  let hdr := cmdAt c 2 2 / 8 ≠ 0 || cmdAt c 8 2 / 2 ^ 12 ≠ 0 || cmdAt c 10 2 / 2 ^ 9 ≠ 0
  let rsv := fun a b => !zeroBytes c a b
  let ad := fun off => addrRsv (cmd64 c off)
  if o = 0x01 then cmdAt c 2 2 / 8 ≠ 0 || rsv 17 64
  else if o = 0x02 then hdr
  else if o = 0x10 || o = 0x11 then
    hdr || ad 16 || cmdAt c 26 2 ≠ 0 || cmdAt c 43 1 / 16 ≠ 0 || cmdAt c 28 4 / 2 ^ 17 ≠ 0 || rsv 46 64
  else if 0x20 ≤ o ∧ o ≤ 0x28 then
    hdr || (decide (o ≤ 0x25) && cmdAt c 26 2 ≠ 0) || cmdAt c 47 1 ≠ 0
      || (o = 0x21 && ad 16) || (o = 0x27 && ad 16) || (o = 0x22 && cmdAt c 30 2 ≠ 0)
      || (o = 0x26 && ad 48) || (o = 0x28 && cmdAt c 48 8 / 2 ^ 34 ≠ 0)
  else if 0x30 ≤ o ∧ o ≤ 0x36 then
    hdr || (o ≠ 0x36 && ad 16) || (o ≠ 0x36 && ad 24) || ((o = 0x34 || o = 0x36) && ad 48) || rsv 56 64
  else if 0x40 ≤ o ∧ o ≤ 0x42 then
    hdr || ad 16 || ad 24 || cmdAt c 43 1 ≠ 0 || (o = 0x41 && ad 48) || rsv 56 64
  else if o = 0x50 || o = 0x51 then hdr || ad 16 || rsv 38 64
  else false

end Sys2Proof.Machine
end

