-- ==== Sys2Proof/Machine/Xlate.lean ====
section
/-! DEFINITION. Address translation (chapter 11): the walks of R229 to R233, lookups in the active bank of the
Page Translation Cache (R235, R236), reads and writes through an address field, and what a demand
access that fails does to its requester (R242 to R246). -/

namespace Sys2Proof.Machine

/-- Why a demand access fails. -/
inductive MErr where
  | fault (addr : W64) (write : Bool) (reason level : Nat) (pte : W64)   -- Table 11.11
  | noCtx (addr : W64)                                                   -- R231: Class H under 0x000
  | bad (addr : W64) (resp : Resp)                                       -- R242
deriving DecidableEq, Repr

/-- How a walk ends (R229 to R233). -/
inductive Walk where
  | leaf (size : Nat) (base : Nat) (r w : Bool)     -- a page of 2^size bytes at physical `base`
  | fault (reason level : Nat) (pte : W64)
  | bad (resp : Resp)
deriving DecidableEq, Repr

/-- One 8-byte entry read under a context. -/
def readPte (s : State) (ctx : CtxId) (pa : Nat) : Resp × W64 :=
  (memCheck s.mem ctx pa 8 false, BitVec.ofNat 64 (leNat (readBytes s.mem.bytes pa 8)))

/-- Class D walk from level `lvl` of the table at `table` (R229, R230). -/
def walkD (s : State) (va : Nat) (write : Bool) : Nat → Nat → Walk
  | lvl, table =>
    let (resp, e) := readPte s 0 (table + 8 * nfld va (24 + 9 * lvl) (16 + 9 * lvl))
    if resp ≠ .ok then .bad resp
    else if !e.getLsbD 0 then .fault 0x01 lvl e
    else if nfld e.toNat 63 56 ≠ 0 || nfld e.toNat 11 3 ≠ 0 then .fault 0x03 lvl e
    else
      let r := e.getLsbD 1
      let w := e.getLsbD 2
      let base := nfld e.toNat 55 12 * 4096
      match lvl with
      | 0 =>
        if !(r || w) || nfld e.toNat 15 12 ≠ 0 then .fault 0x03 0 e
        else if (if write then !w else !r) then .fault 0x02 0 e
        else .leaf 16 base r w
      | l + 1 => if r || w then .fault 0x03 (l + 1) e else walkD s va write l base

/-- Class H walk from level `lvl` of the table at `table` (R233, Table 11.6). The order of the checks on a
leaf is the privileged architecture's: permission, alignment of a superpage, A and D (log 19). A leaf with D = 0
grants no write: a write through it faults (Table 11.6), so the cache never holds write permission for it (R235). -/
def walkH (s : State) (ctx : CtxId) (va : Nat) (write : Bool) : Nat → Nat → Walk
  | lvl, table =>
    let (resp, e) := readPte s ctx (table + 8 * nfld va (20 + 9 * lvl) (12 + 9 * lvl))
    let n := e.toNat
    let r := e.getLsbD 1
    let w := e.getLsbD 2
    let x := e.getLsbD 3
    if resp ≠ .ok then .bad resp
    else if !e.getLsbD 0 then .fault 0x01 lvl e
    else if nfld n 63 54 ≠ 0 || (w && !r) then .fault 0x03 lvl e
    else
      let ppn := nfld n 53 10
      if r || x then
        if 3 ≤ lvl then .fault 0x03 lvl e
        else if (if write then !w else !r) || !e.getLsbD 4 then .fault 0x02 lvl e
        else if ppn % 2 ^ (9 * lvl) ≠ 0 then .fault 0x03 lvl e
        else if !e.getLsbD 6 || (write && !e.getLsbD 7) then .fault 0x04 lvl e
        else .leaf (12 + 9 * lvl) (ppn * 4096) r (w && e.getLsbD 7)
      else
        match lvl with
        | 0 => .fault 0x03 0 e
        | l + 1 =>
          if e.getLsbD 4 || e.getLsbD 6 || e.getLsbD 7 then .fault 0x03 (l + 1) e
          else walkH s ctx va write l (ppn * 4096)

/-- The first word of a context's Context Table entry: cached, or read (R231, R235). -/
def ctxEntry (s : State) (ctx : CtxId) : Resp × W64 :=
  match s.tr.ctxCache.find? (fun p => p.1 = ctx) with
  | some p => (.ok, p.2)
  | none => readPte s 0 (s.tr.ctxt.toNat * 2 ^ 16 + 16 * ctx.toNat)

/-- Sign extension of the 52-bit VA to 64 bits (R233). -/
def extendVa (va : Nat) : Nat := if va < 2 ^ 51 then va else va + (2 ^ 64 - 2 ^ 52)

/-- A whole translation walk of one access. -/
def walk (s : State) (cls : Cls) (ctx : CtxId) (va : Nat) (write : Bool) : Walk :=
  match cls with
  | .d => if !s.tr.drootEn then .fault 0x05 0 0 else walkD s va write 3 (s.tr.droot.toNat * 4096)
  | .h =>
    if !s.tr.ctxtEn then .fault 0x05 0 0 else
    let (resp, e) := ctxEntry s ctx
    if resp ≠ .ok then .bad resp
    else
      let mode := nfld e.toNat 63 60
      let root := nfld e.toNat 43 0 * 4096
      let v := extendVa va
      if mode = 9 then
        if nfld v 63 47 ≠ 0 && nfld v 63 47 ≠ 2 ^ 17 - 1 then .fault 0x03 3 0
        else walkH s ctx v write 3 root
      else if mode = 10 then walkH s ctx v write 4 root
      else .fault 0x05 0 0

/-- The entry of a bank that maps an access and grants it (R235). -/
def ptcHit (bank : List PtcEntry) (cls : Cls) (ctx : CtxId) (va : Nat) (write : Bool) : Option PtcEntry :=
  bank.find? (fun e => e.cls = cls && (cls = .d || e.ctx = ctx) && va >>> e.size = e.page
    && (if write then e.w else e.r))

/-- The class is enabled: with KQ_TR_DROOT.EN or KQ_TR_CTXT.EN clear every access of the class faults, a cached or
pinned entry or not (Tables 11.2 and 11.3). -/
def clsEnabled (s : State) (cls : Cls) : Bool :=
  match cls with
  | .d => s.tr.drootEn
  | .h => s.tr.ctxtEn

/-- Translate one byte of an address field: the physical address and the bytes left in its page. -/
def translate (s : State) (ctx : CtxId) (addr : W64) (write : Bool) : Except MErr (Nat × Nat) :=
  let cls := addrCls addr
  let va := addrVa addr
  if cls = .h && ctx = 0 then .error (.noCtx addr) else
  if !clsEnabled s cls then .error (.fault addr write 0x05 0 0) else
  match ptcHit s.tr.active cls ctx va write with
  | some e => .ok (e.frame * 4096 + va % 2 ^ e.size, 2 ^ e.size - va % 2 ^ e.size)
  | none =>
    match walk s cls ctx va write with
    | .leaf size base _ _ => .ok (base + va % 2 ^ size, 2 ^ size - va % 2 ^ size)
    | .fault reason level pte => .error (.fault addr write reason level pte)
    | .bad resp => .error (.bad addr resp)

/-- Physical pieces of `n` bytes from an address field: (address field, pa, length), one per page (fuel: pages). -/
def piecesOf (s : State) (ctx : CtxId) (write : Bool) : Nat → W64 → Nat → Except MErr (List (W64 × Nat × Nat))
  | 0, _, _ => .ok []
  | f + 1, addr, n =>
    if n = 0 then .ok [] else
    match translate s ctx addr write with
    | .error e => .error e
    | .ok (pa, left) =>
      let k := min n left
      match piecesOf s ctx write f (addrAdd addr k) (n - k) with
      | .error e => .error e
      | .ok r => .ok ((addr, pa, k) :: r)

def pagesOf (s : State) (ctx : CtxId) (write : Bool) (addr : W64) (n : Nat) : Except MErr (List (W64 × Nat × Nat)) :=
  piecesOf s ctx write (n / 4096 + 2) addr n

/-- First 256 B block of a physical piece whose read the memory side does not answer OK, by its offset. -/
def badBlock (m : MemSide) (ctx : CtxId) (pa n : Nat) : Nat → Nat → Option (Nat × Resp)
  | 0, _ => none
  | f + 1, off =>
    if n ≤ off then none else
    let k := min (256 - (pa + off) % 256) (n - off)
    match memCheck m ctx (pa + off) k false with
    | .ok => badBlock m ctx pa n f (off + k)
    | r => some (off, r)

/-- Bytes of physical pieces, in order. -/
def readPieces (s : State) (ctx : CtxId) : List (W64 × Nat × Nat) → Except MErr (List Byte)
  | [] => .ok []
  | (addr, pa, n) :: t =>
    match (if memCheck s.mem ctx pa n false = .ok then none else badBlock s.mem ctx pa n (n / 256 + 2) 0) with
    | some (off, r) => .error (.bad (addrAdd addr off) r)
    | none =>
      match readPieces s ctx t with
      | .error e => .error e
      | .ok bs => .ok (readBytes s.mem.bytes pa n ++ bs)

/-- A demand read of `n` bytes at an address field under a context. -/
def readVa (s : State) (ctx : CtxId) (addr : W64) (n : Nat) : Except MErr (List Byte) :=
  match pagesOf s ctx false addr n with
  | .error e => .error e
  | .ok ps => readPieces s ctx ps

/-- An untranslated read under context 0x000 (R228). -/
def readPa (s : State) (pa n : Nat) : Resp × List Byte := (memCheck s.mem 0 pa n false, readBytes s.mem.bytes pa n)

/-! ### Page keys and fault records (R246) -/

def keyOf (ctx : CtxId) (addr : W64) : PageKey :=
  match addrCls addr with
  | .h => { cls := .h, ctx := ctx, page := addrVa addr / 2 ^ 12 }
  | .d => { cls := .d, ctx := 0, page := addrVa addr / 2 ^ 16 }

def satInc32 (c : W32) : W32 := satAdd c 1

/-- Open a record for a demand fault of an item, or attach to the outstanding one (R246); the second result
says that a record holds the fault, and is false when the outstanding table is full. -/
def openFault (s : State) (engine : Nat) (q : Nat) (idx : W32) (ctx : CtxId) (addr : W64) (write : Bool)
    (reason level : Nat) (pte : W64) : State × Bool :=
  let key := keyOf ctx addr
  if s.tr.recs.any (fun r => r.key = key) then
    let attach := fun (r : FaultRec) =>
      if r.key = key then { r with attached := if r.attached.contains (q, idx) then r.attached
                                               else r.attached ++ [(q, idx)] } else r
    ({ s with tr := { s.tr with recs := s.tr.recs.map attach, coalesced := satInc32 s.tr.coalesced } }, true)
  else if s.tr.recs.length < 512 then
    let r : FaultRec :=
      { key := key, ctx := ctx, write := write, reason := BitVec.ofNat 8 reason, level := BitVec.ofNat 8 level,
        engine := BitVec.ofNat 8 engine, breath := lowBreath s, va := BitVec.ofNat 64 (addrKey addr), pte := pte,
        attached := [(q, idx)] }
    ({ s with tr := { s.tr with recs := s.tr.recs ++ [r] } }, true)
  else (s, false)

/-- The address field of the item's first faulting access, which R248 reports, after a fault at `addr`. -/
def Item.firstAt (i : Item) (addr : W64) : Option W64 :=
  match i.firstFault with
  | some a => some a
  | none => some (BitVec.ofNat 64 (addrKey addr))

/-- The item waits on a fault: its key is held, or it waits to retry (R244, R246). -/
def Item.holdOn (i : Item) (key : PageKey) (recorded : Bool) (addr : W64) : Item :=
  { i with
    ready := none
    holdKeys := if recorded && !i.holdKeys.contains key then i.holdKeys ++ [key] else i.holdKeys
    retryFull := i.retryFull || !recorded
    firstFault := i.firstAt addr }

/-- `n` unspecified bytes at a physical address. -/
def storeAny (s : State) (pa n : Nat) : State :=
  storeMem { s with free := s.free + n } pa ((List.range n).map (fun k => BitVec.ofNat 8 (Config.freeWord (s.free + k)).toNat))

/-- The output bytes of an item that fails with POISON hold unspecified values (R242). -/
def spoilOutputs (s : State) (it : Item) : State := it.landed.foldl (fun st r => storeAny st r.1 r.2) s

/-- R242, R231, R244 for a Paging or Collective Engine item, or an item before its tasks run: POISON and the
context-0 case fail it; a fault holds it at a record. -/
def itemErr (s : State) (q : Nat) (idx : W32) (e : MErr) : State :=
  match findItem s q idx with
  | none => s
  | some it =>
    match e with
    | .bad addr r =>
      let s1 := spoilOutputs (bellRaise s (if r = .poison then 0x0030 else 0x0031) 0 it.ctx 0 (addrKey addr)) it
      endItem s1 q idx 0x20 (addrKey addr)
    | .noCtx addr => endItem s q idx 0x21 (addrKey addr)
    | .fault addr write reason level pte =>
      let (s1, held) := openFault s (engineOf q) q idx it.ctx addr write reason level pte
      modItem s1 q idx (fun i => i.holdOn (keyOf it.ctx addr) held addr)

/-- The same for a task: a fault aborts it whole, and firmware will reissue it unchanged (R244, R263). -/
def taskErr (s : State) (t : Task) (e : MErr) : State :=
  match e with
  | .fault addr write reason level pte =>
    let (s1, held) := openFault s (engineOf t.q) t.q t.idx t.ctx addr write reason level pte
    let s2 := abortTask s1 t.core t.thread
    let s3 := modCore s2 t.core (fun c => { c with aborts := satAdd c.aborts 1 })
    let s4 := { s3 with reissues := s3.reissues ++ [{ task := t, keys := if held then [keyOf t.ctx addr] else [], full := !held }] }
    modItem s4 t.q t.idx (fun i => { i with firstFault := i.firstAt addr })
  | e => itemErr s t.q t.idx e

/-- A further demand fault of a task already aborted (R244): it posts or attaches to a record, which the reissue
waits for too. -/
def moreFault (s : State) (r : Reissue) (e : MErr) : State :=
  match e with
  | .fault addr write reason level pte =>
    let t := r.task
    let (s1, held) := openFault s (engineOf t.q) t.q t.idx t.ctx addr write reason level pte
    let f := fun (x : Reissue) => if x = r then
        { x with keys := if held && !x.keys.contains (keyOf t.ctx addr) then x.keys ++ [keyOf t.ctx addr] else x.keys
                 full := x.full || !held, ready := none } else x
    { s1 with reissues := s1.reissues.map f }
  | e => itemErr s r.task.q r.task.idx e

/-! ### Writes -/

/-- Cut a physical piece at 256 B block boundaries (R395; fuel: blocks). -/
def blocksOf : Nat → W64 → Nat → List Byte → List (W64 × Nat × List Byte)
  | 0, _, _, _ => []
  | f + 1, addr, pa, bs =>
    if bs.isEmpty then [] else
    let k := min (256 - pa % 256) bs.length
    (addr, pa, bs.take k) :: blocksOf f (addrAdd addr k) (pa + k) (bs.drop k)

/-- Requests of one write through an address field. -/
def writeBlocks (s : State) (ctx : CtxId) (addr : W64) (bs : List Byte) : Except MErr (List (W64 × Nat × List Byte)) :=
  match pagesOf s ctx true addr bs.length with
  | .error e => .error e
  | .ok ps =>
    .ok ((ps.foldl (fun (acc : List (W64 × Nat × List Byte) × List Byte) p =>
      let b := acc.2.take p.2.2
      (acc.1 ++ blocksOf (b.length / 256 + 2) p.1 p.2.1 b, acc.2.drop p.2.2)) ([], bs)).1)

/-- All requests of a list of output writes; the first page that does not translate fails them all (R264). -/
def allBlocks (s : State) (ctx : CtxId) : List Out → Except MErr (List (W64 × Nat × List Byte))
  | [] => .ok []
  | o :: t =>
    match writeBlocks s ctx o.addr o.bytes with
    | .error e => .error e
    | .ok a =>
      match allBlocks s ctx t with
      | .error e => .error e
      | .ok b => .ok (a ++ b)

/-- A write request of an owner, from a tag pool. -/
def writeReq (owner : Owner) (pool : Nat) (thread : Option Nat) (ctx : CtxId) (b : W64 × Nat × List Byte) : Req :=
  { tag := none, pool := pool, owner := owner, write := true, pa := b.2.1, len := b.2.2.length, data := b.2.2, ctx := ctx
    addr := b.1, viaPtc := some (keyOf ctx b.1), thread := thread }

/-- Issue an item's output writes from a tag pool, after all of them have translated (R264). -/
def issueOuts (s : State) (q : Nat) (idx : W32) (pool : Nat) (ctx : CtxId) (outs : List Out) : Except MErr State :=
  match allBlocks s ctx outs with
  | .error e => .error e
  | .ok bs => .ok (bs.foldl (fun st b => issueReq st (writeReq (.output q idx) pool none ctx b)) s)

/-! ### Filling the Page Translation Cache (R235) -/

/-- Set index of an entry (R235). -/
def ptcSet (e : PtcEntry) : Nat :=
  let v := e.page
  ((v ^^^ (v >>> 14)) ^^^ ((v >>> 28) ^^^ (if e.cls = .h then e.ctx.toNat else 0))) % 2 ^ 14

/-- Fill an entry into a bank: an entry of the same page is replaced, else a free way is taken, else one of
the unpinned entries of the set, `pick` choosing which; a set of pinned entries alone takes no fill. -/
def ptcFill (bank : List PtcEntry) (e : PtcEntry) (pick : Nat) : List PtcEntry :=
  let same := fun (x : PtcEntry) => x.cls = e.cls && x.ctx = e.ctx && x.size = e.size && x.page = e.page
  if bank.any (fun x => same x && x.pinned) then bank else
  let rest := bank.filter (fun x => !same x)
  let set := rest.filter (fun x => ptcSet x = ptcSet e)
  if set.length < 8 then rest ++ [e]
  else
    let un := set.filter (fun x => !x.pinned)
    match un[pick % un.length]? with
    | some v => rest.filter (fun x => x ≠ v) ++ [e]
    | none => rest

end Sys2Proof.Machine
end

