-- ==== Sys2Proof/Machine/Check.lean ====
section
/-! DEFINITION. Block check values (R265 to R268): where a block's entry lies, the entries that an item's writes
make, and the verification of whole blocks that a demand read brings in. -/

namespace Sys2Proof.Machine

/-- Checks are kept for a class (Table 12.7). -/
def chkOn (s : State) (c : Cls) : Bool :=
  match c with
  | .d => s.str.chkDEn
  | .h => s.str.chkHEn

def chkBase (s : State) (c : Cls) : Nat :=
  match c with
  | .d => s.str.chkD.toNat
  | .h => s.str.chkH.toNat

/-- The entry of the block at an address field; blocks inside the shadow have none (R265). -/
def entryAddr (s : State) (a : W64) : Option W64 :=
  let c := addrCls a
  let va := addrVa a
  if !chkOn s c || va / 2 ^ 43 = chkBase s c then none
  else some (BitVec.ofNat 64 (a.toNat / 2 ^ 63 * 2 ^ 63 + (chkBase s c * 2 ^ 43 + 8 * (va / 4096)) % 2 ^ 52))

/-- Address fields of the 4 KiB blocks that a range touches. -/
def blocksTouched (a : W64) (n : Nat) : List W64 :=
  if n = 0 then [] else
  let first := addrVa a / 4096
  let last := (addrVa a + n - 1) / 4096
  (List.range (last - first + 1)).map (fun k => BitVec.ofNat 64 (a.toNat / 2 ^ 63 * 2 ^ 63 + ((first + k) * 4096) % 2 ^ 52))

/-- Byte `i` of a block as the last of a list of writes to reach it left it. -/
def writtenByte (outs : List Out) (blk : W64) (i : Nat) : Option Byte :=
  outs.foldl (fun acc o =>
    let va := addrVa blk + i
    if addrCls o.addr = addrCls blk && decide (addrVa o.addr ≤ va) then
      match o.bytes[va - addrVa o.addr]? with
      | some b => some b
      | none => acc
    else acc) none

/-- R267: the entry writes for a list of output writes: V = 1 with the CRC where the item writes a whole block,
0 where it writes part of one. -/
def checkOuts (s : State) (outs : List Out) : List Out :=
  let blks := (outs.flatMap (fun o => if chkOn s (addrCls o.addr) then blocksTouched o.addr o.bytes.length else [])).eraseDups
  blks.filterMap (fun b =>
    match entryAddr s b with
    | none => none
    | some e =>
      let bs := (List.range 4096).map (writtenByte outs b)
      let v := if bs.all (fun x => x.isSome) then 2 ^ 32 + crc32c (bs.map (fun x => x.getD 0)) else 0
      some { addr := e, bytes := toLE 8 v })

/-- How the verification of the blocks of a read ends (R268). -/
inductive Verified where
  | fine (blocks : Nat)          -- blocks verified
  | mismatch (blk : W64) (blocks : Nat)
deriving DecidableEq, Repr

/-- Verify the whole blocks that a read of `bs` at `a` brings in, in ascending order. -/
def verifyGo (s : State) (ctx : CtxId) : List (W64 × List Byte) → Nat → Except MErr Verified
  | [], n => .ok (.fine n)
  | (b, bytes) :: t, n =>
    match entryAddr s b with
    | none => verifyGo s ctx t n
    | some e =>
      match readVa s ctx e 8 with
      | .error x => .error x
      | .ok eb =>
        let w := leNat eb
        if (w / 2 ^ 32) % 2 = 0 then verifyGo s ctx t n
        else if w % 2 ^ 32 = crc32c bytes then verifyGo s ctx t (n + 1)
        else .ok (.mismatch b n)

/-- The whole blocks inside a range, with their bytes. -/
def wholeBlocks (a : W64) (bs : List Byte) : List (W64 × List Byte) :=
  (blocksTouched a bs.length).filterMap (fun b =>
    if decide (addrVa a ≤ addrVa b) && decide (addrVa b + 4096 ≤ addrVa a + bs.length)
    then some (b, (bs.drop (addrVa b - addrVa a)).take 4096) else none)

def verifyRead (s : State) (ctx : CtxId) (a : W64) (bs : List Byte) : Except MErr Verified :=
  if chkOn s (addrCls a) then verifyGo s ctx (wholeBlocks a bs) 0 else .ok (.fine 0)

/-- Bytes of a range that some disjoint ranges bring in. -/
def rangeCover (a : W64) (n : Nat) (rs : List (W64 × Nat)) : Nat :=
  rs.foldl (fun k r => if addrCls r.1 = addrCls a then
    k + (min (addrVa r.1 + r.2) (addrVa a + n) - max (addrVa r.1) (addrVa a)) else k) 0

/-- Verify the blocks that a stream of disjoint ranges brings in whole (R268), each once. -/
def verifyBlocks (s : State) (ctx : CtxId) (rs : List (W64 × Nat)) : List W64 → Nat → Except MErr Verified
  | [], n => .ok (.fine n)
  | b :: t, n =>
    if rangeCover b 4096 rs < 4096 then verifyBlocks s ctx rs t n else
    match readVa s ctx b 4096 with
    | .error e => .error e
    | .ok bs =>
      match verifyGo s ctx [(b, bs)] n with
      | .ok (.fine k) => verifyBlocks s ctx rs t k
      | x => x

def verifyParts (s : State) (ctx : CtxId) (rs : List (W64 × Nat)) : Except MErr Verified :=
  verifyBlocks s ctx rs (((rs.filter (fun r => chkOn s (addrCls r.1))).flatMap (fun r => blocksTouched r.1 r.2)).eraseDups) 0

def countVerified (s : State) (n : Nat) : State :=
  { s with str := { s.str with chkVerified := satAdd s.str.chkVerified n } }

/-- A block check fails a demand access (R268): counted, logged, and the item fails with CHECK_MISMATCH. -/
def blockMismatch (s : State) (q : Nat) (idx : W32) (ctx : CtxId) (blk : W64) (n : Nat) : State :=
  let s1 := countVerified s n
  let s2 := { s1 with str := { s1.str with chkFail := satAdd s1.str.chkFail 1 } }
  endItem (bellRaise s2 0x0032 0 ctx 0 (addrKey blk)) q idx 0x22 (addrKey blk)

end Sys2Proof.Machine
end

