-- ==== Sys2Proof/Machine/Flags.lean ====
section
/-! DEFINITION. Computed flags: interrupt levels and summaries (R409, R410), counters that saturate and clear
on a write of zero, W1C bits (R405), and the event flags of the breath and unit registers. -/

namespace Sys2Proof.Machine

/-- KQ_IRQ[n] (R410): some source is pending, enabled and mapped to line n. -/
def irqLevel (s : State) (n : Nat) : Bool :=
  let g := fun (bit : Nat) (en : Bool) (line : BitVec 3) => s.irq.gstat.getLsbD bit && en && line.toNat = n
  g 0 s.irq.breathEn s.irq.breathLine || g 1 s.irq.mailboxEn s.irq.mailboxLine
    || g 2 s.irq.capacityEn s.irq.capacityLine || g 3 s.bell.irqEn s.irq.bellLine
    || g 4 s.irq.sensorEn s.irq.sensorLine || g 5 s.tr.fIrqEn s.tr.fIrqLine
    || s.queues.any (fun p => s.irq.qpend.getLsbD p.1 && p.2.irqEn && p.2.irqLine.toNat = n)

/-- The eight lines as a byte (KQ_IRQ_LINES.LEVEL); all low while RST_N is low (R385). -/
def irqLines (s : State) : Nat :=
  if s.rstLow then 0 else
  (List.range 8).foldl (fun a n => a + b2n (irqLevel s n) * 2 ^ n) 0

/-- KQ_IRQ_QPEND_k. -/
def qpendWord (s : State) (k : Nat) : Nat := nfld s.irq.qpend.toNat (64 * k + 63) (64 * k)

/-- KQ_IRQ_QSUM.NONZERO. -/
def qsum (s : State) : Nat :=
  (List.range 7).foldl (fun a k => a + b2n (decide (qpendWord s k ≠ 0)) * 2 ^ k) 0

/-- A counter field that a write of zero clears and any other write leaves (R405). -/
def clearOnZero {n : Nat} (c : BitVec n) (v : Nat) : BitVec n := if v = 0 then 0 else c

/-- A W1C bit after a write of `v` to it (R405, Table 0.8). -/
def w1c (b : Bool) (v : Bool) : Bool := b && !v

/-- A stray pulse or marker (R58, R60, R62). -/
def countStray (s : State) : State :=
  { s with breath := { s.breath with stray := true, strayCnt := satAdd s.breath.strayCnt 1 } }

/-- KQ_BRTH_STAT.LAST_ERR of a difference in ps (R58): units of 10 ns, nearest, ties away from zero,
saturating at ±127. -/
def lastErr (diff : Int) : Byte :=
  let m := (diff.natAbs + 5000) / 10000
  let m' := min m 127
  BitVec.ofInt 8 (if diff < 0 then -(m' : Int) else m')

end Sys2Proof.Machine
end

