-- ==== Sys2Proof/Machine/Issue.lean ====
section
/-! DEFINITION. The checks at issue (R45, Table 2.11): version, engine, context, legal ranges (check 5), zero
shapes (check 6) and the shape check against the structure image (check 7, R156, R157). -/

namespace Sys2Proof.Machine

/-- Stage entries of the active image. -/
def stagesOf (s : State) : List StageEntry :=
  match s.reed.active with
  | some l => l.image.stages
  | none => []

/-- The image in force. -/
def imageOf (s : State) : Image :=
  match s.reed.active with
  | some l => l.image
  | none => {}

def holdsLayer (e : StageEntry) (layer : Nat) : Bool :=
  decide (1 ≤ e.threads) && e.coreMask ≠ 0 && decide (e.layerFirst ≤ layer) && decide (layer < e.layerFirst + e.layerCount)

/-- Element width of a KV storage format [bit] and whether it carries scale bytes (R156). -/
def kvWidth (f : Nat) : Nat × Nat :=
  if f = 0x02 then (16, 0) else if f = 0x04 || f = 0x05 then (8, 0)
  else if f = 0x08 || f = 0x09 then (8, 1) else if f = 0x0A || f = 0x0B then (6, 1) else (4, 1)

/-- b_kv of R156 for a KV storage format. -/
def bKv (hd f : Nat) : Nat := ceilDiv' hd 32 * (4 * (kvWidth f).1 + (kvWidth f).2)
/-- b_pic of R156. -/
def bPic (hd : Nat) : Nat := ceilDiv' hd 32 * 17 + 8
def d64 (hd : Nat) : Nat := roundUp hd 64

/-- Footprints of Table 8.3 at TR rows, TK keys, D stack nodes: ACC_TASK, SP_TASK, SP_KV, SP_PIC. -/
structure Footprint where
  acc : Nat
  sp : Nat
  kv : Nat
  pic : Nat
deriving DecidableEq, Repr

def fwdFootprint (tr tk d hd eq bkv : Nat) : Footprint :=
  { acc := tr * (d64 hd + 3)
    sp := tr * (hd * eq + 4 * (d64 hd + 1) * d + 4 * d64 hd + 8)
    kv := 4 * tk * bkv
    pic := 2 * tk * bPic hd }

def bwdFootprint (tr tk d hd eq eo edo bkv : Nat) : Footprint :=
  { acc := tr * (d64 hd + 2) + 2 * tk * d64 hd
    sp := tr * (hd * (eq + eo + edo) + 4 * d64 hd * d + 4 * d64 hd + 8)
    kv := 4 * tk * bkv
    pic := 0 }

/-- The first failing inequality 0x02 to 0x05 of Table 8.4 on one stage entry. -/
def fitCode (e : StageEntry) (f : Footprint) (kvKnown bwd : Bool) : Option Nat :=
  if e.accTask < f.acc then some 0x02
  else if e.spTask < f.sp then some 0x03
  else if kvKnown && decide (e.spKv < f.kv) then some 0x04
  else if !bwd && kvKnown && decide (e.spPic < f.pic) then some 0x05
  else none

/-- KV storage formats of the item's LIVE entries in the active bank (R157). -/
def kvFormats (s : State) (first count : Nat) : List Nat :=
  ((s.pg.active.filter (fun p => first ≤ p.1 && p.1 < first + count && p.2.state = 1)).map
    (fun p => p.2.kvFmt.toNat)).filter isKvFmt

/-- Check 7 for an attention command (R157); `eo`, `edo` are the element sizes of a backward item. -/
def attShape (s : State) (c : BitVec 512) (bwd : Bool) (eo edo : Nat) : Option Nat :=
  let hd := cmdAt c 40 2
  let layer := cmdAt c 44 2
  let fmts := kvFormats s (cmdAt c 24 2) (cmdAt c 28 4)
  let bkv := (fmts.map (bKv hd)).foldl max 0
  let eq := elemBytes (cmdAt c 42 1)
  let fp := if bwd then bwdFootprint 1 64 1 hd eq eo edo bkv else fwdFootprint 1 64 1 hd eq bkv
  let es := (stagesOf s).filter (fun e => holdsLayer e layer)
  match es with
  | [] => some 0x01
  | e0 :: _ =>
    if es.any (fun e => (fitCode e fp (!fmts.isEmpty) bwd).isNone) then none
    else fitCode e0 fp (!fmts.isEmpty) bwd

/-- Check 7 for a Row Engine command. -/
def rowShape (s : State) : Option Nat :=
  if (stagesOf s).any (fun e => decide (e.threads < 32) && decide (4096 ≤ e.spRow)) then none else some 0x06

/-- Legal DTYPE of a reduction code (Table 13.5). -/
def redType (op dt : Nat) : Bool :=
  if op = 0 then decide (1 ≤ dt ∧ dt ≤ 5) || dt = 0x20 || dt = 0x21 || dt = 0x22 || dt = 0x30
  else if op = 1 then dt = 1 || dt = 2
  else if op = 2 || op = 3 || op = 7 || op = 8 then decide (1 ≤ dt ∧ dt ≤ 5) || dt = 0x20 || dt = 0x21 || dt = 0x22
  else if op = 4 || op = 5 || op = 6 then dt = 0x20 || dt = 0x21 || dt = 0x22
  else false

/-- A member of a REDUCE_SCATTER whose range is empty writes nothing (Table 13.6). -/
def writesNothing (op rank n capy : Nat) : Bool := op = 0x31 && decide (capy ≤ rank * ceilDiv' capy n)

/-- Check 5 for a Collective Engine command (R279, Tables 13.5 and 13.6). -/
def cleFields (s : State) (q : Nat) (c : BitVec 512) : Bool :=
  let o := cmdAt c 1 1
  if o = 0x36 then true else
  let g := tget {} s.cle.groups (q - 96)
  let n := g.nm1.toNat + 1
  let capy := cmdAt c 36 4
  let dt := cmdAt c 40 1
  let red := cmdAt c 41 1
  let root := cmdAt c 42 2
  g.st ≠ 0 && cmdAt c 44 4 = g.epoch.toNat && decide (1 ≤ capy ∧ capy ≤ 2 ^ 31) && redType red dt
    && (if o = 0x30 || o = 0x33 || o = 0x34 then red = 0
        else if o = 0x35 then red = 2 && dt = 1 && decide (capy ≤ 16384) else red ≠ 0)
    && (o ≠ 0x33 || decide (root < n))
    && (o ≠ 0x34 || decide (1 ≤ root ∧ root + 1 ≤ n))
    && ((o = 0x33 && root ≠ g.rank.toNat) || cmd64 c 16 ≠ 0) && (writesNothing o g.rank.toNat n capy || cmd64 c 24 ≠ 0)

/-- Check 5 for a Row Engine command (R126, Table 6.1). -/
def roeFields (c : BitVec 512) : Bool :=
  let o := cmdAt c 1 1
  let rows := cmdAt c 32 4
  let cols := cmdAt c 36 4
  let fi := cmdAt c 40 1
  let fo := cmdAt c 41 1
  let src := cmd64 c 16
  let dst := cmd64 c 24
  let w := if o = 0x41 then cmd64 c 48 else 0
  let eps := fmtFP32.decode (BitVec.ofNat 32 (cmdAt c 44 4))
  let epsOk := match eps with
    | .fin n m _ => !n || m = 0
    | _ => false
  decide (cols ≤ 1048576) && isRowFmt fi && isRowFmt fo
    && (o ≠ 0x42 || decide (1 ≤ cmdAt c 42 1 ∧ cmdAt c 42 1 ≤ 0x0B))
    && (o ≠ 0x41 || epsOk) && src ≠ 0 && dst ≠ 0
    && !rangesOverlap dst (rows * cols * elemBytes fo) src (rows * cols * elemBytes fi)
    && !(w ≠ 0 && rangesOverlap dst (rows * cols * elemBytes fo) w (cols * elemBytes fi))

/-- Check 5 for an attention command (Table 2.14, R45, R75). -/
def attFields (c : BitVec 512) : Bool :=
  let cnt := cmdAt c 28 4
  let kvh := cmdAt c 38 2
  let hd := cmdAt c 40 2
  decide (cmdAt c 24 2 + cnt ≤ 65536) && decide (1 ≤ kvh) && cmdAt c 36 2 % kvh = 0
    && decide (1 ≤ hd ∧ hd ≤ 256) && isMainFmt (cmdAt c 42 1)

/-- Check 5 (Table 2.11): WAIT_Q of an item that waits, and the payload's legal ranges. No field of a PGE
payload is examined (R209). -/
def fieldsLegal (s : State) (q : Nat) (c : BitVec 512) : Bool :=
  let o := cmdAt c 1 1
  !(c.getLsbD 18 && decide (392 ≤ cmdAt c 10 2)) &&
  (match opcodeEngine o with
   | 0 => attFields c
   | 2 => cleFields s q c
   | 3 => roeFields c
   | 4 => o ≠ 0x51 || cmdAt c 24 8 % 4096 = 0
   | _ => true)

/-- Check 6: a zero shape field (Tables 2.14 to 2.18). -/
def zeroShape (c : BitVec 512) : Bool :=
  let o := cmdAt c 1 1
  if o = 0x10 || o = 0x11 then cmdAt c 28 4 = 0 || cmdAt c 32 4 = 0 || cmdAt c 36 2 = 0
  else if o = 0x21 then cmdAt c 36 4 = 0 || cmdAt c 42 2 = 0
  else if o = 0x24 then cmdAt c 42 2 = 0
  else if 0x30 ≤ o ∧ o ≤ 0x35 then cmdAt c 32 4 = 0
  else if 0x40 ≤ o ∧ o ≤ 0x42 then cmdAt c 32 4 = 0 || cmdAt c 36 4 = 0
  else if o = 0x50 || o = 0x51 then cmdAt c 24 8 = 0
  else false

/-- What the checks at issue decide. -/
inductive Verdict where
  | pass
  | stop (status detail : Nat)
deriving DecidableEq, Repr

/-- Table 2.11 in order. -/
def issueVerdict (s : State) (q : Nat) (c : BitVec 512) : Verdict :=
  let v := getQ s q
  let o := cmdAt c 1 1
  let neg := decide (o = 0x01)
  if !neg && v.st ≠ 2 then .stop 0x12 0
  else if !neg && cmdAt c 0 1 / 16 ≠ v.negVer.toNat / 16 then .stop 0x10 0
  else if opcodeEngine o ≠ engineOf q && opcodeEngine o ≠ 5 then .stop 0x11 0
  else if opcodeEngine o ≠ 5 && cmdAt c 8 2 % 2 ^ 12 ≠ v.ctx.toNat then .stop 0x13 0
  else if neg then .pass
  else if !fieldsLegal s q c then .stop 0x15 0
  else if zeroShape c then .stop 0x02 0
  else
    match opcodeEngine o with
    | 0 => (match attShape s c (o = 0x11) 1 1 with
            | some k => .stop 0x14 k
            | none => .pass)
    | 3 => (match rowShape s with
            | some k => .stop 0x14 k
            | none => .pass)
    | _ => .pass

end Sys2Proof.Machine
end

