-- ==== Sys2Proof/Machine/Queues.lean ====
section
/-! DEFINITION. Doorbells, queue configuration, command copies, issue, NEGOTIATE, NOP, records and their
acknowledgement (chapter 02). -/

namespace Sys2Proof.Machine

/-! ### Doorbells and configuration (R28, R29, R34, R36, R37) -/

/-- A taken or discarded doorbell write (R28, R29). -/
def doorbell (s : State) (q : Nat) (size64 : Bool) (value : W64) : State :=
  let v := getQ s q
  if !size64 || !queuePresent s q || v.st = 0 then s else
  let tail : W32 := BitVec.ofNat 32 value.toNat
  let head : W32 := BitVec.ofNat 32 (value.toNat / 2 ^ 32)
  if cdiff tail v.accHead > 2 ^ v.log2.toNat || cdiff v.cplTail head > 2 ^ v.log2.toNat then setDbErr s q
  else setQ s q { v with cmdTail := tail, cplHead := head }

/-- A write to KQ_QCTRL (Table 2.4): EN is ignored while the queue is closing (R36), LOG2_SIZE while STATE is
not closed (R34). -/
def qctrl (s : State) (q : Nat) (value : W64) : State :=
  if !queuePresent s q then s else
  let v := getQ s q
  setQ s q { v with
    admitMax := BitVec.ofNat 16 (fld value 47 32)
    irqEn := value.getLsbD 19
    irqLine := BitVec.ofNat 3 (fld value 18 16)
    log2 := if v.st = 0 then BitVec.ofNat 5 (fld value 12 8) else v.log2
    en := if v.closing then v.en else value.getLsbD 0 }

/-- Writing 1 to CPL_ERR (R37): STATE returns to its value before the stop, the failed record is rewritten, and
the held records follow in order through COMPLETION_RECORD_WRITE. -/
def cplErrClear (s : State) (q : Nat) : State :=
  let v := getQ s q
  if !v.cplErr || !queuePresent s q then s else
  setQ s q { v with cplErr := false, st := v.stBeforeStop }

/-! ### Records (R27, R40, R48, R50) -/

/-- PHASE of the record with free-running index k (R27). -/
def phaseOf (k : W32) (n : Nat) : Bool := !((k.toNat >>> n) % 2 = 1)

/-- RFLAGS of Table 2.19. -/
def rflags (i : Item) (phase : Bool) : Nat :=
  b2n phase + 2 * b2n i.maskedRows + 4 * b2n i.rescout + 8 * b2n i.replayed + 16 * b2n i.drops

/-- The 32 bytes of a completion record (Table 2.19). -/
def recordBytes (i : Item) (phase : Bool) : List Byte :=
  toLE 1 i.ver.toNat ++ toLE 1 i.opcode ++ toLE 1 i.status.toNat ++ toLE 1 (rflags i phase)
    ++ toLE 4 (nfld i.cmd.toNat 63 32) ++ toLE 4 i.idx.toNat ++ toLE 4 i.breath.toNat
    ++ toLE 8 i.detail.toNat ++ toLE 4 i.count.toNat ++ toLE 4 0

/-- The item whose record is the queue's next: the oldest one of the queue that the store holds. -/
def oldestItem (s : State) (q : Nat) : Option Item := s.items.find? (fun i => i.q = q)

/-- The record of an item waits for its output writes (R21): those of a failed item too. -/
def recordReady (s : State) (i : Item) : Bool :=
  match i.stage with
  | .committed | .recordFailed => true
  | .ended => outputsLeft s i.q i.idx = 0
  | _ => false

/-- Write the record of the oldest item of a queue, when it has committed, ended, or failed to be written; a
stopped queue holds its records (R37, R40). -/
def writeRecord (s : State) (q : Nat) : State :=
  let v := getQ s q
  match oldestItem s q with
  | none => s
  | some i =>
    if !recordReady s i || v.st = 3 then s else
    let n := v.log2.toNat
    let pa := v.cplBase.toNat + 32 * (v.cplTail.toNat % 2 ^ n)
    let bs := recordBytes i (phaseOf v.cplTail n)
    let s1 := modItem s q i.idx (fun x => { x with stage := .recordSent })
    issueReq s1 { tag := none, pool := 67, owner := .record q i.idx, write := true, pa := pa, len := 32,
                  data := bs, ctx := 0, addr := 0 }

/-! ### Issue (R45, R46, R277) -/

/-- The member table of Table 13.4. -/
def memberBytes (g : Group) : List Byte :=
  g.members.flatMap (fun m => toLE 4 (m.node.toNat + m.die.toNat * 2 ^ 16))

/-- The fields of an agreement record that its digest covers, each in its command width (R285, log 20). -/
def agreementFields (a : Agreement) : List Byte :=
  toLE 1 a.opcode.toNat ++ toLE 1 a.dtype.toNat ++ toLE 1 a.redop.toNat ++ toLE 1 (b2n a.ovl) ++ toLE 2 a.root.toNat ++ toLE 1 a.nm1.toNat
    ++ toLE 4 a.capacity.toNat ++ toLE 4 a.epoch.toNat

/-- The 32 bytes of an agreement record: its fields, the zero-shape flag, the offer and the digest, with zeros to the end (log 20). -/
def agreementBytes (a : Agreement) : List Byte := agreementFields a ++ toLE 1 (b2n a.zeroShape) ++ toLE 4 a.offer ++ toLE 8 a.digest.toNat ++ toLE 4 0

/-- The agreement record of a command: the digest is the CRC-64 of its fields and of the member table (R285). -/
def agreementOf (g : Group) (c : BitVec 512) (zero : Bool) (offer : Nat) : Agreement :=
  let a : Agreement :=
    { opcode := BitVec.ofNat 8 (cmdAt c 1 1), dtype := BitVec.ofNat 8 (cmdAt c 40 1), redop := BitVec.ofNat 8 (cmdAt c 41 1), ovl := g.ovl
      root := BitVec.ofNat 16 (cmdAt c 42 2), nm1 := g.nm1, capacity := BitVec.ofNat 32 (cmdAt c 36 4), epoch := BitVec.ofNat 32 (cmdAt c 44 4)
      zeroShape := zero, offer := offer }
  { a with digest := BitVec.ofNat 64 (crc64 (agreementFields a ++ memberBytes g)) }

/-- Cost c of Table 13.7 in bytes per element; SCOUT_MAX takes the attention area. -/
def cleCost (op red : Nat) (switch : Bool) (e : Nat) : Nat :=
  if op = 0x35 then 0
  else if op = 0x31 || op = 0x32 then
    (if red = 1 then (if switch then 2 * e + 8 else 8) else (if switch then 2 * e else 0))
  else (if switch then 2 * e else 0)

/-- A member's piece offer, in elements (R290): with a cost and no grant, a zero-shape member's, it is 0. -/
def cleOffer (g : Group) (c : BitVec 512) : Nat :=
  let e := elemBytes (cmdAt c 40 1)
  let cost := cleCost (cmdAt c 1 1) (cmdAt c 41 1) g.mode e
  let raw := if cost = 0 then 4194304 / e else min (g.grant * 65536 / cost) (4194304 / e)
  raw / (4096 / e) * (4096 / e)

/-- A zero-shape member still takes part in the epoch (R282): its record and its DONE go to every member, and it keeps its record, to
relay the others' pieces and to send it again after a RESTART. Its record stands for C pad elements. -/
def zeroShapeJoins (s : State) (group : Nat) (a : Agreement) (sn : W32) (attempt : Byte) : State :=
  let g := getGroup s group
  let o : CleOp := { group := group, kind := false, sn := sn, attempt := attempt, q := 0, idx := 0, vc := g.vc }
  let t := o.tag g.rank.toNat
  let e : CleEnded := { group := group, kind := false, sn := sn, status := 0x02, detail := 0, attempt := attempt, zero := some a }
  let old := s.cle.ended.filter (fun x => !(x.group = group && !x.kind && x.sn = sn))
  let s1 := send (send { s with cle := { s.cle with ended := old ++ [e] } } (.agreement t a)) (.done t)
  toOthers (toOthers s1 o t (agreementBytes a)) o t []

/-- The verdict of Table 2.11 on a copied item, and the first case of Table 2.23: a nonzero reserved field fails
the item with a free failure status (log 12). -/
def checkItem (s : State) (i : Item) : State :=
  let v := getQ s i.q
  match issueVerdict s i.q i.cmd with
  | .stop st d =>
    let ver := if st = 0x12 || st = 0x10 then 0 else v.negVer
    -- R283: what fails at checks 1 to 5 consumes no epoch; what ends at check 6 does.
    let s1 := modItem s i.q i.idx (fun x => { x with ver := ver, checked := decide (st = 0x02) })
    let s2 := if st = 0x02 && engineOf i.q = 2 then
        let g := getGroup s1 (i.q - 96)
        zeroShapeJoins s1 (i.q - 96) (agreementOf g i.cmd true (cleOffer { g with grant := 0 } i.cmd)) g.epoch g.attempt
      else s1
    endNow s2 i.q i.idx st d
  | .pass =>
    let s1 := modItem s i.q i.idx (fun x => { x with ver := v.negVer, checked := true })
    if reservedSet i.cmd then
      let (f, s2) := drawFree s1
      endNow s2 i.q i.idx (0x10 + f.toNat % 0x30) 0
    else s1

/-- A NEGOTIATE that has been copied and not executed. -/
def isOpenNegotiate (i : Item) : Bool := i.opcode = 0x01 && !i.copyFailed && (i.stage = .accepted || i.stage = .executing)

/-- Run the checks of a queue's copied items that may be checked now: none behind a NEGOTIATE that has not
executed (R47), and in a group queue only the oldest item (R277). -/
def runChecks : List Item → Bool → State → State
  | [], _, s => s
  | i :: t, first, s =>
    if i.stage = .accepted && !i.checked && !i.copyFailed && i.opcode ≠ 0x01 then
      if engineOf i.q = 2 && !first then runChecks t false s
      else runChecks t false (checkItem s i)
    else if isOpenNegotiate i then s
    else runChecks t false s

def checkQueue (s : State) (q : Nat) : State := runChecks (s.items.filter (fun i => i.q = q)) true s

/-- The read of a command's ring slot that awaits its answer under a tag (R25, R255). -/
def copyReq (s : State) (q : Nat) (idx : W32) : Option Req :=
  s.mem.reqs.find? (fun r => r.owner = .command q idx && r.tag.isSome)

/-- The command's bytes arrive (R33), in ring order; a queue that is closing fails it with ABORTED (R36). A failed read of a
closing queue's command ends POISON as any other (R33; log 77). The record of a failed read carries no field of the command. -/
def copyCommand (s : State) (q : Nat) (resp : Resp) (bytes : BitVec 512) : State :=
  match s.items.find? (fun i => i.q = q && i.stage = .admitted) with
  | none => s
  | some i =>
    match copyReq s q i.idx with
    | none => s
    | some rd =>
    let s1 := releaseReq (modQ s q (fun v => { v with accHead := v.accHead + 1 })) (rd.tag.getD 0)
    match resp with
    | .ok =>
      let s2 := modItem s1 q i.idx (fun x => { x with stage := .accepted, cmd := bytes })
      if (getQ s q).closing then endNow (modItem s2 q i.idx (fun x => { x with ver := (getQ s q).negVer })) q i.idx 0x25 0
      else checkQueue s2 q
    | r =>
      let s2 := modItem s1 q i.idx (fun x => { x with stage := .accepted, copyFailed := true, cmd := 0 })
      let v := getQ s q
      let pa := v.cmdBase.toNat + 64 * (v.accHead.toNat % 2 ^ v.log2.toNat)
      let s3 := bellRaise s2 (if r = .poison then 0x0030 else 0x0031) 0 0 0 pa
      endNow s3 q i.idx 0x20 0

/-- NEGOTIATE (R47), executed at its acceptance: what was in the store of its queue then decides BUSY, whatever has completed
since. -/
def negotiate (s : State) (q : Nat) (idx : W32) : State :=
  match findItem s q idx with
  | none => s
  | some i =>
    if !(isOpenNegotiate i) then s else
    let v := getQ s q
    let swMax : Byte := BitVec.ofNat 8 (nfld i.cmd.toNat 135 128)
    let fin := fun (st : State) (status detail : Nat) =>
      let ver := (getQ st q).negVer
      checkQueue (endNow (modItem st q idx (fun x => { x with ver := ver, checked := true })) q idx status detail) q
    if reservedSet i.cmd then
      let (f, s1) := drawFree s
      fin s1 (0x10 + f.toNat % 0x30) 0
    else if swMax.toNat < 0x10 then fin s 0x16 0
    else if i.behind then fin s 0x17 0
    else
      let ver : Byte := BitVec.ofNat 8 (min swMax.toNat 0x10)
      fin (setQ s q { v with negVer := ver, st := if v.st = 3 then 3 else 2,
                             stBeforeStop := if v.st = 3 then 2 else v.stBeforeStop }) 0x00 ver.toNat

/-! ### Beginning (R40, R41) -/

/-- An unmet WAIT (R41). -/
def waitUnmet (s : State) (i : Item) : Bool :=
  i.waitEn && decide (sgn32 ((getQ s (i.waitQ % 512)).cplTail - i.waitCpl).toNat < 0)

/-- An unmet FENCE: an earlier item of the queue has neither committed nor ended (R41). -/
def fenceUnmet (s : State) (i : Item) : Bool :=
  i.fence && ((s.items.filter (fun x => x.q = i.q)).takeWhile (fun x => x.idx ≠ i.idx)).any (fun x => x.open_)

/-- An earlier item of the queue that has not begun and that no FENCE or WAIT holds back (R40). -/
def orderUnmet (s : State) (i : Item) : Bool :=
  ((s.items.filter (fun x => x.q = i.q)).takeWhile (fun x => x.idx ≠ i.idx)).any
    (fun x => (x.stage = .admitted || x.stage = .accepted) && !waitUnmet s x && !fenceUnmet s x)

/-- The item has passed its checks and nothing holds its beginning back. -/
def mayBegin (s : State) (i : Item) : Bool :=
  i.stage = .accepted && i.checked && !waitUnmet s i && !fenceUnmet s i && !orderUnmet s i && running s

/-- An executing item that no fault record holds. -/
def mayRun (s : State) (i : Item) : Bool :=
  i.stage = .executing && i.holdKeys.isEmpty && !i.retryFull && i.ready.isNone && running s

/-- NOP completes OK (R40, Table 2.12). -/
def nop (s : State) (q : Nat) (idx : W32) : State :=
  match findItem s q idx with
  | none => s
  | some i => if mayBegin s i && i.opcode = 0x02 then endNow s q idx 0x00 0 else s

/-! ### Acknowledgement of a record (R37, R50) -/

/-- The memory side's answer to a completion-record write. A group's EPOCH advances with the record of an item
that consumed it (R283). -/
def recordAck (s : State) (q : Nat) (idx : W32) (resp : Resp) : State :=
  match findItem s q idx with
  | none => s
  | some i =>
    match resp with
    | .ok =>
      let v := getQ s q
      let s1 := setQ s q { v with cplTail := v.cplTail + 1 }
      let s2 := if i.irqFlag || isFailure i.status.toNat then pendQ s1 q else s1
      let consumes := engineOf q = 2 && i.checked && decide (0x30 ≤ i.opcode ∧ i.opcode ≤ 0x35)
      let s3 := if consumes then
          let g := getGroup s2 (q - 96)
          setGroup s2 (q - 96) { g with epoch := g.epoch + 1, attempt := 0 }
        else s2
      checkQueue (dropItem s3 q idx) q
    | r =>
      let v := getQ s q
      let s1 := setQ s q { v with cplErr := true, st := 3, stBeforeStop := v.st }
      let s2 := modItem s1 q idx (fun x => { x with stage := .recordFailed })
      let pa := v.cplBase.toNat + 32 * (v.cplTail.toNat % 2 ^ v.log2.toNat)
      pendQ (bellRaise s2 (if r = .poison then 0x0030 else 0x0031) 0 0 0 pa) q

/-- The first boundary at which a closing queue holds no item (R36). -/
def queueClosed (s : State) (q : Nat) : State :=
  let v := getQ s q
  if v.closing && inflight s q = 0 then
    setQ s q { v with st := 0, closing := false, accHead := 0, cplTail := 0, cmdTail := 0, cplHead := 0,
                      negVer := 0, en := false }
  else s

/-! ### Meanings -/

def execDoorbellWrite (q : Nat) (size64 : Bool) (value : W64) (s : State) : Host.Outcome State Fault Refusal :=
  live s (fun s => doorbell s q size64 value)

def execQctrlWrite (q : Nat) (value : W64) (s : State) : Host.Outcome State Fault Refusal :=
  live s (fun s => qctrl s q value)

def execCplErrClear (q : Nat) (s : State) : Host.Outcome State Fault Refusal :=
  live s (fun s => if (getQ s q).cplErr && queuePresent s q then writeRecord (cplErrClear s q) q else s)

def execQueueClosed (q : Nat) (s : State) : Host.Outcome State Fault Refusal :=
  atEdge s (fun s => queueClosed s q)

def execCommandCopy (q : Nat) (resp : Resp) (bytes : BitVec 512) (s : State) : Host.Outcome State Fault Refusal :=
  work s (fun s => copyCommand s q resp bytes)

def execNegotiate (q : Nat) (idx : W32) (s : State) : Host.Outcome State Fault Refusal :=
  work s (fun s => negotiate s q idx)

def execNop (q : Nat) (idx : W32) (s : State) : Host.Outcome State Fault Refusal :=
  work s (fun s => nop s q idx)

def execCompletionRecordWrite (q : Nat) (s : State) : Host.Outcome State Fault Refusal :=
  work s (fun s => writeRecord s q)

end Sys2Proof.Machine
end

