-- ==== Sys2Proof/Machine/Cle.lean ====
section
/-! DEFINITION. The Collective Engine (chapter 13): groups, agreement, buffer grants, streams and their
checks, the operations of Table 13.6, DONE and FAIL, and rejoining. -/

namespace Sys2Proof.Machine

/-! ### Operations and their data -/

/-- An exchange-unit tag names this operation's current attempt (R284). -/
def tagMatches (o : CleOp) (t : UnitTag) : Bool :=
  o.group = t.group && o.kind = t.kind && o.sn = t.sn && o.attempt = t.attempt

def opByTag (s : State) (t : UnitTag) : Option CleOp := s.cle.ops.find? (fun o => tagMatches o t)

/-- An ended operation of the tag's group, kind and SN. -/
def endedByTag (s : State) (t : UnitTag) : Option CleEnded :=
  s.cle.ended.find? (fun e => e.group = t.group && e.kind = t.kind && e.sn = t.sn)

def cmdOf (s : State) (o : CleOp) : BitVec 512 :=
  match findItem s o.q o.idx with
  | some i => i.cmd
  | none => 0

/-- The pad element of a reduction code and type (Table 13.5). -/
def padElem (red dt : Nat) : W32 :=
  let unsigned := dt = 0x20 || dt = 0x21
  let ones : W32 := if dt = 0x20 then 0xFF else 0xFFFFFFFF
  if red = 2 then
    (match fmtOf dt with
     | some f => f.inf true
     | none => if unsigned then 0 else 0x80000000)
  else if red = 3 then
    (match fmtOf dt with
     | some f => f.inf false
     | none => if unsigned then ones else 0x7FFFFFFF)
  else if red = 4 then ones
  else if red = 7 then elemBool dt true
  else 0

/-- Elements of width e in bytes. -/
def elemsE (e : Nat) (bs : List Byte) : List W32 := (pieces e bs).map (fun b => BitVec.ofNat 32 (leNat b))
def elemsBytesE (e : Nat) (xs : List W32) : List Byte := xs.flatMap (fun x => toLE e x.toNat)

/-- Units that an item requests (R289). -/
def cleWant (g : Group) (c : BitVec 512) : Nat :=
  let e := elemBytes (cmdAt c 40 1)
  let cost := cleCost (cmdAt c 1 1) (cmdAt c 41 1) g.mode e
  if cost = 0 then 0 else min g.quota.toNat (ceilDiv' (cost * min (cmdAt c 36 4) (4194304 / e)) 65536)

/-- Ranks whose contributions this member combines or delivers (Table 13.6). -/
def neededRanks (o : CleOp) (c : BitVec 512) (rank n : Nat) : List Nat :=
  let op := cmdAt c 1 1
  let root := cmdAt c 42 2
  let zero := fun r => o.agreed.any (fun a => a.1 = r && a.2.zeroShape)
  let all := if op = 0x33 then [root]
    else if op = 0x34 then (List.range root).map (fun j => (rank + n - 1 - j % n) % n)
    else List.range n
  (all.filter (fun r => r ≠ rank && !zero r)).eraseDups

/-- This member's own contribution goes out (every opcode but BROADCAST away from the root). -/
def contributes (c : BitVec 512) (rank : Nat) : Bool := cmdAt c 1 1 ≠ 0x33 || cmdAt c 42 2 = rank

/-- Bytes of rank r's stream in ascending piece and chunk order. -/
def streamBytes (o : CleOp) (r : Nat) : List Byte :=
  let mine := o.chunks.filter (fun x => x.1.1 = r)
  let key := fun (x : (Nat × Nat × Nat) × List Byte) => x.1.2.1 * 2 ^ 32 + x.1.2.2
  (sortBy key mine).flatMap (fun x => x.2)

/-- x_r of R280: rank r's C elements, pad elements for a zero-shape member or what is missing. -/
def contribution (o : CleOp) (c : BitVec 512) (r : Nat) : List W32 :=
  let dt := cmdAt c 40 1
  let e := elemBytes dt
  let capy := cmdAt c 36 4
  let xs := (elemsE e (streamBytes o r)).take capy
  xs ++ List.replicate (capy - xs.length) (padElem (cmdAt c 41 1) dt)

/-- y[i] of rank-ordered elements (R94, R281). A SUM writes the canonical NaN, in a group of one member too (R77). -/
def reduceElem (red dt : Nat) (xs : List W32) : W32 :=
  if red = 1 then
    match fmtOf dt with
    | none => 0
    | some f =>
      let leaf := fun (x : W32) => if dt = 1 then x else rnd32 (f.decode x)
      let leaves := (List.range xs.length).zip (xs.map leaf)
      match mergeTree add32 leaves with
      | none => 0
      | some r => if dt = 1 then rnd32 (dec32 r) else toFmt f r
  else
    match xs with
    | [] => 0
    | a :: t =>
      let a' := if red = 6 || red = 4 || red = 5 then a else exactRed (red - 1) dt a a
      t.foldl (fun x y => exactRed (red - 1) dt x y) a'

/-- The lists' elements at one position, list by list. -/
def column (ls : List (List W32)) (i : Nat) : List W32 := ls.map (fun l => l.getD i 0)

/-- Bytes of the kept counts of some ranks (R280). -/
def keptBytes (o : CleOp) (rs : List Nat) : List Byte :=
  rs.flatMap (fun r => toLE 4 (match o.kept.find? (fun k => k.1 = r) with
    | some k => k.2.toNat
    | none => 0))

/-- What the member writes at DST (Table 13.6). -/
def cleOuts (o : CleOp) (c : BitVec 512) (rank n : Nat) : List Out :=
  let op := cmdAt c 1 1
  let dt := cmdAt c 40 1
  let e := elemBytes dt
  let capy := cmdAt c 36 4
  let red := cmdAt c 41 1
  let dst := cmd64 c 24
  let withCounts := fun (bs : List Byte) (rs : List Nat) =>
    let at_ := roundUp (addrVa dst + bs.length) 4 - addrVa dst
    [{ addr := dst, bytes := bs : Out }, { addr := addrAdd dst at_, bytes := keptBytes o rs }]
  if op = 0x30 then
    withCounts ((List.range n).flatMap (fun r => elemsBytesE e (contribution o c r))) (List.range n)
  else if op = 0x33 then
    let root := cmdAt c 42 2
    withCounts (elemsBytesE e (contribution o c root)) [root]
  else if op = 0x34 then
    let rs := (List.range (cmdAt c 42 2)).map (fun j => (rank + n - 1 - j % n) % n)
    withCounts (rs.flatMap (fun r => elemsBytesE e (contribution o c r))) rs
  else
    let xs := (List.range n).map (contribution o c)
    let y := (List.range capy).map (fun i => reduceElem red dt (column xs i))
    if op = 0x31 then
      let z := ceilDiv' capy n
      let part := (y.drop (rank * z)).take z
      if part.isEmpty then [] else [{ addr := dst, bytes := elemsBytesE e part }]
    else [{ addr := dst, bytes := elemsBytesE e y }]

/-! ### Progress of an operation -/

/-- A tag of this operation, whatever its attempt. -/
def sameOp (o : CleOp) (t : UnitTag) : Bool := t.group = o.group && t.kind = o.kind && t.sn = o.sn

def countDups (s : State) (n : Nat) : State := { s with cle := { s.cle with dup := satAdd s.cle.dup n } }
def countDup (s : State) : State := countDups s 1

/-- An operation that this die has not opened yet: the group's next SN or a later one, under the attempt that it will open with.
Its agreement records, DONE and FAIL are kept until it opens (log 22). -/
def ahead (s : State) (t : UnitTag) : Bool :=
  let g := getGroup s t.group
  if g.st = 0 || (endedByTag s t).isSome then false
  else if t.kind then
    let k := BitVec.ofNat 16 t.sn.toNat - g.spSn
    decide (k.toNat < 2 ^ 15) && t.attempt = (if k = 0 then g.spAttempt else 0)
  else
    let k := t.sn - g.epoch
    decide (k.toNat < 2 ^ 31) && t.attempt = (if k = 0 then g.attempt else 0)

/-- Units of this SN that were kept and are not of the current attempt. -/
def staleEarly (s : State) (o : CleOp) : Nat :=
  let stale := fun (t : UnitTag) => sameOp o t && !tagMatches o t
  (s.cle.earlyAgree.filter (fun a => stale a.1)).length + (s.cle.earlyDone.filter stale).length + (s.cle.earlyFail.filter (fun f => stale f.1)).length

/-- Agreement records, DONE and FAIL that arrived before the operation opened; those of another attempt are discarded (R284). -/
def takeEarly (s : State) (o : CleOp) : State :=
  let o' := { o with
    agreed := o.agreed ++ (s.cle.earlyAgree.filter (fun a => tagMatches o a.1)).map (fun a => (a.1.rank, a.2))
    doneFrom := o.doneFrom ++ (s.cle.earlyDone.filter (tagMatches o)).map (fun t => t.rank)
    failFrom := o.failFrom ++ (s.cle.earlyFail.filter (fun f => tagMatches o f.1)).map (fun f => (f.1.rank, f.2.1, f.2.2)) }
  let s1 := setOp (countDups s (staleEarly s o)) o'
  { s1 with cle := { s1.cle with
      earlyAgree := s1.cle.earlyAgree.filter (fun a => !sameOp o a.1)
      earlyDone := s1.cle.earlyDone.filter (fun t => !sameOp o t)
      earlyFail := s1.cle.earlyFail.filter (fun f => !sameOp o f.1) } }

/-- Send this member's agreement record to every other member, and hold it too (R285). -/
def sendAgreement (s : State) (o : CleOp) (r : Agreement) : State :=
  let t := o.tag (getGroup s o.group).rank.toNat
  takeEarly (toOthers (send s (.agreement t r)) o t (agreementBytes r)) { o with begun := true, record := r, agreed := o.agreed ++ [(t.rank, r)] }

/-- The operation begins with the group's MODE and VC, which it keeps (R298): STATE executing, and its agreement record leaves
(R285, R290). One that begins again after a RESTART has its record. -/
def beginOp (s : State) (o : CleOp) : State :=
  let g := getGroup s o.group
  let c := cmdOf s o
  if o.record.opcode ≠ 0 then sendAgreement (setGroup s o.group { g with st := 2 }) o o.record else
  sendAgreement (setGroup s o.group { g with st := 2 }) { o with mode := g.mode, vc := g.vc } (agreementOf g c false (cleOffer g c))

/-- Every member's record is here. -/
def agreementDone (s : State) (o : CleOp) : Bool :=
  (List.range (groupSize s o.group)).all (fun r => o.agreed.any (fun a => a.1 = r))

/-- The lowest rank whose digest differs from rank 0's (R285). -/
def digestDiffers (s : State) (o : CleOp) : Option Nat :=
  let d := fun r => (o.agreed.find? (fun a => a.1 = r)).map (fun a => a.2.digest)
  (List.range (groupSize s o.group)).find? (fun r => d r ≠ d 0)

/-- This member has reported the operation failed (R286). -/
def failedHere (s : State) (o : CleOp) : Bool := o.failFrom.any (fun f => f.1 = (getGroup s o.group).rank.toNat)

/-- Send DONE once every result write is acknowledged (R286). -/
def sendDone (s : State) (o : CleOp) : State :=
  let t := o.tag (getGroup s o.group).rank.toNat
  settleOp (toOthers (send (setOp s { o with sentDone := true, doneFrom := o.doneFrom ++ [t.rank] }) (.done t)) o t []) o.q o.idx

/-- A peer has failed: this member can no longer have every stream. It drops what it computes, and sends DONE once its writes are
acknowledged, so that every member completes with the outcome of R286 (R297, log 87). -/
def yieldFail (s : State) (q : Nat) (idx : W32) : State :=
  match opOf s q idx with
  | none => s
  | some o =>
    if !o.begun || o.failFrom.isEmpty || o.sentDone || failedHere s o || o.rejoining || o.heldFor.isSome then s
    else
      let s1 := modItem (abortItemTasks s q idx) q idx (fun i => { i with holdKeys := [], retryFull := false, ready := none })
      if outputsLeft s1 q idx = 0 then sendDone s1 o else s1

/-! ### Streams (R280, R290, R291, R293) -/

/-- Bytes of a piece: the smallest offer of the members, for elements of `e` bytes. A zero-shape member that holds no grant makes no
offer (log 88). -/
def pieceSize (o : CleOp) (e : Nat) : Nat :=
  (o.agreed.map (fun a => a.2.offer)).foldl (fun m x => if x = 0 then m else min m x) (4194304 / max e 1) * e

/-- A chunk leaves for the successor, which relays it along the ring (R273): its bytes, then its CRC-32C (R302). -/
def sendChunk (s : State) (o : CleOp) (t : UnitTag) (index : Nat) (crc : W32) (data : List Byte) : State :=
  toNext (send s (.chunk t index crc data)) o t (data ++ toLE 4 crc.toNat)

/-- A stream's end marker, with its kept count and its CRC-64. -/
def sendMarker (s : State) (o : CleOp) (t : UnitTag) (kept : W32) (crc : W64) : State :=
  toNext (send s (.streamEnd t kept crc)) o t (toLE 4 kept.toNat ++ toLE 8 crc.toNat)

/-- Chunks of this member's stream: each is kept, and leaves with its CRC-32C. -/
def sendChunks (s : State) (o : CleOp) (us : List (Nat × Nat × List Byte)) : State :=
  let rank := (getGroup s o.group).rank.toNat
  let s1 := setOp s { o with chunks := o.chunks ++ us.map (fun u => ((rank, u.1, u.2.1), u.2.2)) }
  us.foldl (fun st u => sendChunk st o { (o.tag rank) with piece := BitVec.ofNat 32 u.1 } u.2.1 (BitVec.ofNat 32 (crc32c u.2.2)) u.2.2) s1

/-- What a member of a command contributes: `bytes` from SRC, then pad elements to CAPACITY (R280). -/
structure Source where
  ctx : CtxId
  src : W64
  bytes : Nat
  total : Nat
  pad : List Byte
  piece : Nat
  step : Nat
deriving DecidableEq, Repr

/-- The contribution of an operation. OVL gives what is read and verified before it leaves: a piece, or a chunk (R293). -/
def sourceOf (s : State) (o : CleOp) (it : Item) : Source :=
  let c := it.cmd
  let dt := cmdAt c 40 1
  let e := elemBytes dt
  let psz := pieceSize o e
  { ctx := it.ctx, src := cmd64 c 16, bytes := min (cmdAt c 32 4) (cmdAt c 36 4) * e, total := cmdAt c 36 4 * e
    pad := toLE e (padElem (cmdAt c 41 1) dt).toNat, piece := psz, step := if (getGroup s o.group).ovl then 4096 else psz }

/-- The source bytes at offsets `off` to `off + n` of the contribution. -/
def sourceRead (s : State) (x : Source) (off n : Nat) : Except MErr (List Byte) :=
  let m := min x.bytes (off + n) - off
  if m = 0 then .ok [] else readVa s x.ctx (addrAdd x.src off) m

/-- Verify the whole blocks that a part of the contribution reaches and no earlier part did (R268, R293). -/
def sourceVerify (s : State) (x : Source) (off n : Nat) : Except MErr Verified :=
  let va := addrVa x.src
  let lo := if off = 0 then 0 else roundUp (va + off) 4096 - va
  let hi := min x.bytes (roundUp (va + off + n) 4096 - va)
  if hi ≤ lo then .ok (.fine 0) else
  match readVa s x.ctx (addrAdd x.src lo) (hi - lo) with
  | .error e => .error e
  | .ok bs => verifyRead s x.ctx (addrAdd x.src lo) bs

/-- Bytes of a part of the contribution: what was read of it, then pad elements. -/
def sourceFill (x : Source) (off n : Nat) (bs : List Byte) : List Byte :=
  bs ++ (List.range (n - bs.length)).map (fun k => x.pad.getD ((off + bs.length + k) % max 1 x.pad.length) 0)

/-- The chunks of a part that begins at a chunk's start. -/
def sourceChunks (x : Source) (off : Nat) (bs : List Byte) : List (Nat × Nat × List Byte) :=
  ((pieces 4096 bs).zipIdx).map (fun c => let a := off + 4096 * c.2
                                          (a / max 1 x.piece, a % max 1 x.piece / 4096, c.1))

/-- The whole contribution has left: its end marker follows. -/
def endSource (s : State) (o : CleOp) (kept : Nat) : State :=
  let rank := (getGroup s o.group).rank.toNat
  let k := BitVec.ofNat 32 kept
  sendMarker (setOp s { o with sentData := true, kept := o.kept ++ [(rank, k)] }) o (o.tag rank) k (BitVec.ofNat 64 (crc64 (streamBytes o rank)))

/-- Read, verify and send the contribution, part by part; what has left stays when a later part fails or is held. -/
def sendParts (x : Source) (q : Nat) (idx : W32) : List Nat → State → State
  | [], s => s
  | off :: t, s =>
    match opOf s q idx with
    | none => s
    | some o =>
      if off < o.sentBytes then sendParts x q idx t s else
      let n := min x.step (x.total - off)
      match sourceVerify s x off n with
      | .error e => itemErr s q idx e
      | .ok (.mismatch b k) => blockMismatch s q idx x.ctx b k
      | .ok (.fine k) =>
        match sourceRead s x off n with
        | .error e => itemErr s q idx e
        | .ok bs => sendParts x q idx t (sendChunks (countVerified s k) { o with sentBytes := off + n } (sourceChunks x off (sourceFill x off n bs)))

/-- Read this member's contribution, verify its blocks, and send it (R280, R288, R291, R293). -/
def sendContribution (s : State) (o : CleOp) : State :=
  match findItem s o.q o.idx with
  | none => s
  | some it =>
    if !contributes it.cmd (getGroup s o.group).rank.toNat then setOp s { o with sentData := true } else
    let x := sourceOf s o it
    let s1 := sendParts x o.q o.idx ((List.range (ceilDiv' x.total (max 1 x.step))).map (fun k => k * x.step)) s
    match opOf s1 o.q o.idx with
    | none => s1
    | some o1 => if o1.sentBytes = x.total && !failedHere s1 o1 then endSource s1 o1 (min (cmdAt it.cmd 32 4) (cmdAt it.cmd 36 4)) else s1

/-- Write the result once every stream has ended and verified (R286, R292); check entries take the control cores' tags (R255). -/
def writeResult (s : State) (o : CleOp) : State :=
  let g := getGroup s o.group
  let c := cmdOf s o
  match findItem s o.q o.idx with
  | none => s
  | some it =>
    let outs := cleOuts o c g.rank.toNat (groupSize s o.group)
    match issueOuts s o.q o.idx 65 it.ctx outs with
    | .error x => itemErr s o.q o.idx x
    | .ok s0 =>
      match issueOuts s0 o.q o.idx 67 it.ctx (checkOuts s outs) with
      | .error x => itemErr s o.q o.idx x
      | .ok s1 =>
        let dropped := cmdAt c 32 4 - cmdAt c 36 4
        let drops := contributes c g.rank.toNat && decide (0 < dropped)
        let s2 := modItem s1 o.q o.idx (fun i => { i with
          issued := true
          status := if drops then 0x01 else 0x00
          detail := if drops then BitVec.ofNat 64 dropped else 0
          drops := drops })
        setOp s2 { o with wrote := true }

/-- One stage of a kind-0 operation, if it may take it. -/
def cleStage (s : State) (q : Nat) (idx : W32) : State :=
  match opOf s q idx, findItem s q idx with
  | some o, some it =>
    let rank := (getGroup s o.group).rank.toNat
    let c := it.cmd
    if o.kind || !mayRun s it || o.rejoining || o.heldFor.isSome || failedHere s o then s
    else if !o.begun then
      (if (getGroup s o.group).grant ≥ o.want || 5 ≤ o.waiting then beginOp s o else s)
    else if !o.failFrom.isEmpty then yieldFail s q idx
    else if !agreementDone s o then s
    else if !o.sentData then
      (match digestDiffers s o with
       | some r => endItem s q idx 0x23 r
       | none => sendContribution s o)
    else if !o.wrote then
      (if (neededRanks o c rank (groupSize s o.group)).all (fun r => o.ended.contains r) then writeResult s o else s)
    else if !o.sentDone && outputsLeft s q idx = 0 then sendDone s o
    else s
  | _, _ => s

/-- An operation goes as far as it can: begin, contribution, result, DONE. -/
def cleAdvance (s : State) (q : Nat) (idx : W32) : State :=
  let f := fun st => cleStage st q idx
  f (f (f (f s)))

/-- A command of Table 13.6 begins executing (R277, R289): with a cost it asks for buffer, else it opens at once. -/
def cleRun (s : State) (q : Nat) (idx : W32) (op : Nat) : State :=
  match findItem s q idx with
  | none => s
  | some i =>
    if i.opcode ≠ op then s
    else if i.stage = .executing then cleAdvance s q idx
    else if !mayBegin s i then s
    else
      let g := getGroup s (q - 96)
      let want := cleWant g i.cmd
      let o : CleOp := { group := q - 96, kind := false, sn := g.epoch, attempt := g.attempt, q := q, idx := idx, want := want }
      let s1 := modItem s q idx (fun x => { x with stage := .executing, begun := true })
      let s2 := setGroup { s1 with cle := { s1.cle with ops := s1.cle.ops ++ [o] } } (q - 96) { g with st := if want = 0 then 2 else 3 }
      cleAdvance s2 q idx

/-! ### Buffer grants (R289) -/

/-- Take up to what an operation still wants: the floor unit first, then shared units. -/
def grantOne (s : State) (o : CleOp) : State :=
  if o.want = 0 then cleAdvance s o.q o.idx else
  let g := getGroup s o.group
  let floor := if g.grant = 0 then 1 else 0
  let shared := min (o.want - g.grant - floor) s.cle.sharedFree
  let got := g.grant + floor + shared
  let short := decide (got < o.want)
  let s1 := setGroup s o.group { g with grant := got }
  let s2 := { s1 with cle := { s1.cle with
    sharedFree := s1.cle.sharedFree - shared
    granted := s1.cle.granted + floor + shared
    bufStall := if short && decide (o.waiting < 4) then satAdd s1.cle.bufStall 1 else s1.cle.bufStall } }
  let s3 := setOp s2 { o with waiting := o.waiting + 1 }
  if short then s3 else cleAdvance s3 o.q o.idx

/-- At a boundary: operations that wait for buffer are served in rotation order (R70, N = 256). -/
def bufferGrants (s : State) : State :=
  let key := fun (o : CleOp) => (o.group + 256 - s.breath.num.toNat % 256) % 256
  let ws := sortBy key (s.cle.ops.filter (fun o => !o.kind && !o.begun))
  ws.foldl grantOne s

/-- After the fourth boundary of waiting the item begins with what it holds. -/
def bufferExpiry (s : State) (group : Nat) : State :=
  match s.cle.ops.find? (fun o => o.group = group && !o.kind && !o.begun && decide (5 ≤ o.waiting)) with
  | some o => cleAdvance s o.q o.idx
  | none => s

/-! ### Units that arrive (R282, R284 to R286, R291) -/

/-- An agreement record (R285); one for an operation that this die has not opened yet is kept. -/
def agreementArrives (s : State) (t : UnitTag) (r : Agreement) : State :=
  match opByTag s t with
  | some o =>
    if o.agreed.any (fun a => a.1 = t.rank) then s
    else cleAdvance (setOp s { o with agreed := o.agreed ++ [(t.rank, r)] }) o.q o.idx
  | none =>
    if ahead s t then { s with cle := { s.cle with earlyAgree := s.cle.earlyAgree ++ [(t, r)] } } else countDup s

/-- The zero-shape operation of a tag's attempt, which this member only relays (R282), as an operation of its group. -/
def relayOp (s : State) (t : UnitTag) : Option (CleOp × Agreement) :=
  match endedByTag s t with
  | none => none
  | some e =>
    match e.zero with
    | some a => if e.attempt = t.attempt then
        some ({ group := e.group, kind := e.kind, sn := e.sn, attempt := e.attempt, q := 0, idx := 0, vc := (getGroup s e.group).vc }, a)
      else none
    | none => none

/-- Members that a stream of a command passes, from its sender on (Table 13.6): RING_PASS goes ROOT steps. -/
def streamHops (op root n : Nat) : Nat := if op = 0x34 then root else n - 1

/-- Steps along the ring from a sender to this member. -/
def ringSteps (s : State) (t : UnitTag) : Nat :=
  let n := groupSize s t.group
  ((getGroup s t.group).rank.toNat + n - t.rank % n) % n

/-- A unit goes on to the successor while the stream reaches it. -/
def goesOn (s : State) (t : UnitTag) (op root : Nat) : Bool := decide (ringSteps s t < streamHops op root (groupSize s t.group))

/-- Opcode and ROOT of an open operation; a sequence-parallel item's streams go to every member. -/
def passes (s : State) (o : CleOp) (t : UnitTag) : Bool := o.kind || goesOn s t (cmdAt (cmdOf s o) 1 1) (cmdAt (cmdOf s o) 42 2)

/-- Bytes of one exchange of a kind-1 operation from rank r: each exchange is a stream of its own (log 31). -/
def pieceBytes (o : CleOp) (r p : Nat) : List Byte :=
  let mine := o.chunks.filter (fun x => x.1.1 = r && x.1.2.1 = p)
  (sortBy (fun a => a.1.2.2) mine).flatMap (fun x => x.2)

/-- A chunk of the stream has been asked for again and is not here (R291). -/
def chunkMissing (o : CleOp) (r p : Nat) : Bool :=
  o.mismatches.any (fun m => m.1.1 = r && (!o.kind || m.1.2.1 = p) && !o.chunks.any (fun x => x.1 = m.1))

/-- Every chunk before the end marker is here: none is to come again, and a command's stream has its whole length. -/
def streamHere (s : State) (o : CleOp) (r p : Nat) : Bool :=
  let c := cmdOf s o
  !chunkMissing o r p && (o.kind || decide (cmdAt c 36 4 * elemBytes (cmdAt c 40 1) ≤ (streamBytes o r).length))

/-- Judge the end markers whose streams are here: the CRC-64 verifies the stream, or the operation fails (R291). -/
def judgeStreams (s : State) (q : Nat) (idx : W32) : State :=
  match opOf s q idx with
  | none => s
  | some o =>
    match o.markers.find? (fun m => streamHere s o m.1 m.2.1) with
    | none => s
    | some (r, p, kept, crc) =>
      let o1 := { o with markers := o.markers.filter (fun m => !(m.1 = r && m.2.1 = p)) }
      if crc64 (if o.kind then pieceBytes o r p else streamBytes o r) = crc.toNat then
        cleAdvance (setOp s { o1 with ended := o.ended ++ [if o.kind then r + 256 * p else r], kept := o.kept ++ [(r, kept)] }) q idx
      else
        endItem { (setOp s o1) with cle := { (setOp s o1).cle with digestFail := satAdd s.cle.digestFail 1 } } q idx 0x23 r

/-- The DST address that a chunk is bound for: copies in direct mode; everything else is bound for the buffer (R288, R291). -/
def chunkDst (s : State) (o : CleOp) (t : UnitTag) (index : Nat) : Nat :=
  let c := cmdOf s o
  let op := cmdAt c 1 1
  let e := elemBytes (cmdAt c 40 1)
  let n := groupSize s o.group
  let slot := if op = 0x30 then some t.rank else if op = 0x33 then some 0
    else if op = 0x34 then some (((getGroup s o.group).rank.toNat + n - 1 - t.rank) % n) else none
  match slot with
  | some k => if o.kind || o.mode then 0
    else addrKey (addrAdd (cmd64 c 24) (k * cmdAt c 36 4 * e + t.piece.toNat * pieceSize o e + 4096 * index))
  | none => 0

/-- A chunk's CRC-32C fails: it is asked for again, and the operation fails at its fourth mismatch (R291). -/
def chunkBad (s : State) (o : CleOp) (t : UnitTag) (index : Nat) : State :=
  let key := (t.rank, t.piece.toNat, index)
  let seen := (match o.mismatches.find? (fun m => m.1 = key) with
    | some m => m.2
    | none => 0) + 1
  let s1 := setOp s { o with mismatches := o.mismatches.filter (fun m => m.1 ≠ key) ++ [(key, seen)] }
  if seen < 4 then
    toRank (send { s1 with cle := { s1.cle with chunkResend := satInc32 s1.cle.chunkResend } } (.chunkAgain t index)) o t.rank t (toLE 4 index)
  else
    let ctx := match findItem s o.q o.idx with
      | some i => i.ctx
      | none => 0
    let s2 := bellRaise { s1 with cle := { s1.cle with chunkFail := satAdd s1.cle.chunkFail 1 } } 0x0032 0 ctx 0 (chunkDst s o t index)
    endItem s2 o.q o.idx 0x22 (chunkDst s o t index)

/-- A chunk arrives (R291): it goes on along the ring, and is kept; a zero-shape member only relays it (R282); any other is DUP
(R284). -/
def chunkArrives (s : State) (t : UnitTag) (index : Nat) (crc : W32) (data : List Byte) : State :=
  match opByTag s t with
  | none =>
    (match relayOp s t with
     | some (o, a) => if goesOn s t a.opcode.toNat a.root.toNat then sendChunk s o t index crc data else s
     | none => countDup s)
  | some o =>
    if crc32c data ≠ crc.toNat then chunkBad s o t index else
    let key := (t.rank, t.piece.toNat, index)
    let s1 := setOp s { o with chunks := o.chunks.filter (fun x => x.1 ≠ key) ++ [(key, data)] }
    judgeStreams (if passes s o t then sendChunk s1 o t index crc data else s1) o.q o.idx

/-- A stream's end marker (R291). -/
def streamEnds (s : State) (t : UnitTag) (kept : W32) (crc : W64) : State :=
  match opByTag s t with
  | none =>
    (match relayOp s t with
     | some (o, a) => if goesOn s t a.opcode.toNat a.root.toNat then sendMarker s o t kept crc else s
     | none => countDup s)
  | some o =>
    let s1 := setOp s { o with markers := o.markers ++ [(t.rank, t.piece.toNat, kept, crc)] }
    judgeStreams (if passes s o t then sendMarker s1 o t kept crc else s1) o.q o.idx

/-- DONE from a member (R286). -/
def doneArrives (s : State) (t : UnitTag) : State :=
  match opByTag s t with
  | some o =>
    let s1 := setOp s { o with doneFrom := o.doneFrom ++ [t.rank] }
    if o.heldFor.isSome then s1 else settleOp s1 o.q o.idx
  | none =>
    if (relayOp s t).isSome then s
    else if ahead s t then { s with cle := { s.cle with earlyDone := s.cle.earlyDone ++ [t] } } else countDup s

/-- FAIL from a member (R286): the others can no longer have its stream. -/
def failArrives (s : State) (t : UnitTag) (status : Byte) (detail : W64) : State :=
  match opByTag s t with
  | some o =>
    let s1 := setOp s { o with failFrom := o.failFrom ++ [(t.rank, status, detail)] }
    if o.heldFor.isSome then s1 else settleOp (yieldFail s1 o.q o.idx) o.q o.idx
  | none =>
    if (relayOp s t).isSome then s
    else if ahead s t then { s with cle := { s.cle with earlyFail := s.cle.earlyFail ++ [(t, status, detail)] } } else countDup s

/-! ### Rejoining (R287, R357) -/

/-- An operation by group, kind and SN, whatever its attempt. -/
def opBySn (s : State) (t : UnitTag) : Option CleOp := s.cle.ops.find? (fun o => sameOp o t)

/-- The reply to a member that rejoins. -/
def sendReply (s : State) (t : UnitTag) (vc : BitVec 3) (a : RejoinAnswer) : State :=
  let o : CleOp := { group := t.group, kind := t.kind, sn := t.sn, attempt := t.attempt, q := 0, idx := 0, vc := vc }
  let bytes := match a with
    | .holdsAllDone => toLE 1 1
    | .notAll => toLE 1 0
    | .failed st d => toLE 1 2 ++ toLE 1 st.toNat ++ toLE 8 d.toNat
  toRank (send s (.rejoinReply t a)) o t.rank (o.tag (getGroup s t.group).rank.toNat) bytes

/-- A peer rejoins: answer whether DONE is held from every member, or the failure its peers completed with;
an operation still open holds its state until COMMIT or RESTART. A zero-shape member completed without its peers' DONE. -/
def rejoinArrives (s : State) (t : UnitTag) : State :=
  match opBySn s t with
  | some o =>
    let all := (List.range (groupSize s o.group)).all (fun r => o.doneFrom.contains r)
    sendReply (setOp s { o with heldFor := some t.rank }) t o.vc (if all then .holdsAllDone else .notAll)
  | none =>
    let vc := (getGroup s t.group).vc
    match endedByTag s t with
    | none => sendReply s t vc .notAll
    | some e =>
      if e.zero.isSome then sendReply s t vc .notAll
      else if isFailure e.status.toNat then sendReply s t vc (.failed e.status e.detail)
      else sendReply s t vc .holdsAllDone

/-- What an item computed under the attempt before is dropped. -/
def dropResults (i : Item) : Item :=
  { i with issued := false, rows := [], tail := [], drained := [], replay := [], written := [], groups := [], pieces := [], cuts := []
           holdKeys := [], retryFull := false, ready := none }

/-- The operation under the next ATTEMPT, with nothing received or sent. -/
def CleOp.again (o : CleOp) : CleOp :=
  { o with
    attempt := o.attempt + 1, begun := false, sentData := false, wrote := false, sentDone := false, sentBytes := 0
    agreed := [], chunks := [], mismatches := [], markers := [], kept := [], ended := [], doneFrom := [], failFrom := []
    rejoining := false, replies := 0, heldFor := none, phase := 0, exch := if o.record.opcode = 0x11 then 1 else 0 }

/-- This member's operation runs again from the agreement record under the next ATTEMPT (R287); a sequence-parallel item's goes
out at once, as its command has begun. -/
def restartOp (s : State) (o : CleOp) : State :=
  let s1 := abortItemTasks s o.q o.idx
  let g := getGroup s1 o.group
  let s2 := if o.kind then s1 else setGroup s1 o.group { g with attempt := o.attempt + 1 }
  let s3 := modItem (setOp s2 o.again) o.q o.idx dropResults
  let s4 := { s3 with mem := { s3.mem with reqs := s3.mem.reqs.filter (fun r => !(r.owner = .output o.q o.idx && r.tag.isNone)) } }
  if o.kind then sendAgreement s4 o.again o.record else cleAdvance s4 o.q o.idx

/-- A reply decides, once it is "yes" or the last: COMMIT, the peers' failure, or RESTART. -/
def rejoinReply (s : State) (t : UnitTag) (a : RejoinAnswer) : State :=
  match opByTag s t with
  | none => countDup s
  | some o =>
    if !o.rejoining then s else
    let tag := o.tag (getGroup s o.group).rank.toNat
    match a with
    | .failed st d => endNow (setOp s { o with rejoining := false }) o.q o.idx st.toNat d.toNat
    | .holdsAllDone =>
      let c := cmdOf s o
      let dropped := cmdAt c 32 4 - cmdAt c 36 4
      let drops := !o.kind && contributes c tag.rank && decide (0 < dropped)
      let s1 := modItem s o.q o.idx (fun i => { i with
        replayed := true, issued := true, drops := drops
        status := if drops then 0x01 else 0x00
        detail := if drops then BitVec.ofNat 64 dropped else if o.kind then i.detail else 0 })
      commitNow (toOthers (send s1 (.commit tag)) o tag []) o.q o.idx
    | .notAll =>
      let o' := { o with replies := o.replies + 1 }
      if o'.replies + 1 < groupSize s o.group then setOp s o'
      else restartOp (modItem (toOthers (send (setOp s o') (.restart tag)) o tag []) o.q o.idx (fun i => { i with replayed := true })) o'

/-- COMMIT: the peers complete with the earlier outcome (R287). -/
def commitArrives (s : State) (t : UnitTag) : State :=
  match opByTag s t with
  | none => if (relayOp s t).isSome then s else countDup s
  | some o => settleOp (setOp s { o with heldFor := none, doneFrom := o.doneFrom ++ [t.rank] }) o.q o.idx

/-- RESTART: the member discards the SN's state and runs the operation again (R287). A zero-shape member sends its record again; one that
has not opened the operation will open it under the next ATTEMPT. -/
def restartArrives (s : State) (t : UnitTag) : State :=
  match opByTag s t with
  | some o => restartOp s o
  | none =>
    match relayOp s t with
    | some (o, a) => zeroShapeJoins s o.group a o.sn (o.attempt + 1)
    | none =>
      let g := getGroup s t.group
      if !ahead s t then countDup s
      else if t.kind then (if t.sn.toNat = g.spSn.toNat then setGroup s t.group { g with spAttempt := t.attempt + 1 } else s)
      else if t.sn = g.epoch then setGroup s t.group { g with attempt := t.attempt + 1 }
      else s

/-- An uncommitted operation of this die is re-executed (R39, R348): it sends REJOIN. With no peer it restarts. -/
def rejoin (s : State) (o : CleOp) : State :=
  let tag := o.tag (getGroup s o.group).rank.toNat
  if groupSize s o.group ≤ 1 then restartOp s o
  else toOthers (send (setOp s { o with rejoining := true, replies := 0 }) (.rejoin tag)) o tag []

/-! ### GROUP_SET (R276) -/

/-- A destination node is unreachable under the route table (R311, R312). -/
def unreachable (s : State) (node : W16) : Bool :=
  node ≠ s.link.node && decide ((s.link.routes.getD node.toNat 0).toNat / 16 = 0)

def parseMembers (bs : List Byte) (n : Nat) : List Member :=
  (List.range n).map (fun r =>
    let w := leAt bs (64 + 4 * r) 4
    { node := BitVec.ofNat 16 w, die := BitVec.ofNat 2 (w / 2 ^ 16) })

def noDup : List Member → Bool
  | [] => true
  | m :: t => !t.contains m && noDup t

/-- A sequence-parallel attention item of a group is executing. -/
def spOpen (s : State) (g : Nat) : Bool := s.cle.ops.any (fun o => o.group = g && o.kind)

/-- An outcome kept under an SN of the group that comes again after GROUP_SET gives it an EPOCH. -/
def comesAgain (g : Nat) (epoch : W32) (e : CleEnded) : Bool :=
  decide (e.group = g) && (e.kind || decide ((e.sn - epoch).toNat < 2 ^ 31))

/-- GROUP_SET (R276). A descriptor whose VER is not 0x10 has no outcome in R276: the model reads no VER (log 89). -/
def groupSet (s : State) (q : Nat) (idx : W32) : State :=
  match findItem s q idx with
  | none => s
  | some i =>
    let g := q - 96
    if i.opcode ≠ 0x36 || !(mayBegin s i || mayRun s i) || spOpen s g then s else
    let s0 := modItem s q idx (fun x => { x with stage := .executing, begun := true })
    let desc := cmd64 i.cmd 48
    if desc = 0 then endItem s0 q idx 0x15 0 else
    match readVa s0 i.ctx desc 64 with
    | .error e => itemErr s0 q idx e
    | .ok hd =>
      let n := leAt hd 1 1 + 1
      match readVa s0 i.ctx desc (64 + 4 * n) with
      | .error e => itemErr s0 q idx e
      | .ok bs =>
        let rank := leAt bs 2 1
        let ms := parseMembers bs n
        let rsv := leAt bs 3 1 / 2 ≠ 0 || leAt bs 4 60 ≠ 0 || (List.range n).any (fun r => leAt bs (64 + 4 * r) 4 / 2 ^ 18 ≠ 0)
        if rsv then
          let (f, s1) := drawFree s0
          endItem s1 q idx (0x10 + f.toNat % 0x30) 0
        else if n ≤ rank || ms[rank]? ≠ some { node := s.link.node, die := s.cascId } || !noDup ms
            || ms.any (fun m => unreachable s m.node) then endItem s0 q idx 0x15 0
        else
          let old := getGroup s0 g
          let v := { old with
            epoch := BitVec.ofNat 32 (cmdAt i.cmd 44 4), spSn := 0, spAttempt := 0, rank := BitVec.ofNat 8 rank,
            nm1 := BitVec.ofNat 8 (n - 1), ovl := leAt bs 3 1 % 2 = 1, members := ms, st := 1, attempt := 0 }
          commitNow { setGroup s0 g v with cle := { (setGroup s0 g v).cle with ended := s0.cle.ended.filter (fun e => !comesAgain g v.epoch e) } } q idx

/-! ### Meanings -/

def execAllGather (q : Nat) (idx : W32) (s : State) : Host.Outcome State Fault Refusal :=
  work s (fun s => cleRun s q idx 0x30)
def execReduceScatter (q : Nat) (idx : W32) (s : State) : Host.Outcome State Fault Refusal :=
  work s (fun s => cleRun s q idx 0x31)
def execAllReduce (q : Nat) (idx : W32) (s : State) : Host.Outcome State Fault Refusal :=
  work s (fun s => cleRun s q idx 0x32)
def execBroadcast (q : Nat) (idx : W32) (s : State) : Host.Outcome State Fault Refusal :=
  work s (fun s => cleRun s q idx 0x33)
def execRingPass (q : Nat) (idx : W32) (s : State) : Host.Outcome State Fault Refusal :=
  work s (fun s => cleRun s q idx 0x34)
def execScoutMax (q : Nat) (idx : W32) (s : State) : Host.Outcome State Fault Refusal :=
  work s (fun s => cleRun s q idx 0x35)
def execGroupSet (q : Nat) (idx : W32) (s : State) : Host.Outcome State Fault Refusal :=
  work s (fun s => groupSet s q idx)
def execAgreementRecord (tag : UnitTag) (record : Agreement) (s : State) : Host.Outcome State Fault Refusal :=
  work s (fun s => agreementArrives s tag record)
def execPieceChunk (tag : UnitTag) (index : Nat) (crc : W32) (data : List Byte) (s : State) :
    Host.Outcome State Fault Refusal := work s (fun s => chunkArrives s tag index crc data)
def execStreamEndMarker (tag : UnitTag) (kept : W32) (crc : W64) (s : State) : Host.Outcome State Fault Refusal :=
  work s (fun s => streamEnds s tag kept crc)
def execDoneMsg (tag : UnitTag) (s : State) : Host.Outcome State Fault Refusal := work s (fun s => doneArrives s tag)
def execFailMsg (tag : UnitTag) (status : Byte) (detail : W64) (s : State) : Host.Outcome State Fault Refusal :=
  work s (fun s => failArrives s tag status detail)
def execRejoin (tag : UnitTag) (s : State) : Host.Outcome State Fault Refusal := work s (fun s => rejoinArrives s tag)
def execRejoinReply (tag : UnitTag) (answer : RejoinAnswer) (s : State) : Host.Outcome State Fault Refusal :=
  work s (fun s => rejoinReply s tag answer)
def execCommitMsg (tag : UnitTag) (s : State) : Host.Outcome State Fault Refusal := work s (fun s => commitArrives s tag)
def execRestartMsg (tag : UnitTag) (s : State) : Host.Outcome State Fault Refusal := work s (fun s => restartArrives s tag)
def execBufferWaitExpiry (group : Nat) (s : State) : Host.Outcome State Fault Refusal :=
  work s (fun s => bufferExpiry s group)

end Sys2Proof.Machine
end

