-- ==== Sys2Proof/Machine/Kv.lean ====
section
/-! DEFINITION. The paged key/value cache as it lies in memory (chapter 10): Sequence Table entries and their
image, held positions, page geometry, page-information entries, page lists, and the reads of keys, values and
piccolo records. -/

namespace Sys2Proof.Machine

/-! ### Sequence Table entries (Table 10.1) -/

def getSeq (s : State) (i : Nat) : SeqEntry := tget {} s.pg.active i

def SeqEntry.live (e : SeqEntry) : Bool := e.state = 1
def SeqEntry.complete (e : SeqEntry) : Bool := e.nextLayer = e.layerCount

/-- The 64 bytes of an entry (Table 10.1). -/
def seqBytes (e : SeqEntry) : List Byte :=
  toLE 1 e.ver.toNat ++ toLE 1 e.state.toNat ++ toLE 1 e.kvFmt.toNat ++ toLE 1 e.srcFmt.toNat
    ++ toLE 2 e.headDim.toNat ++ toLE 2 e.kvHeads.toNat ++ toLE 2 e.layerFirst.toNat ++ toLE 2 e.layerCount.toNat
    ++ toLE 2 e.ctx.toNat ++ toLE 2 e.nextLayer.toNat ++ toLE 4 e.len.toNat ++ toLE 4 e.step.toNat
    ++ toLE 4 e.lastSn.toNat ++ toLE 1 e.shIdx.toNat ++ toLE 1 e.shN.toNat
    ++ toLE 2 (e.log2Blk.toNat + 32 * b2n e.mirror) ++ toLE 4 e.kvRoot.toNat ++ toLE 4 e.picRoot.toNat
    ++ toLE 4 e.lastUse.toNat ++ toLE 4 e.resv.toNat ++ toLE 4 e.capacity.toNat ++ toLE 1 e.picFmt.toNat
    ++ toLE 1 e.hint.toNat ++ toLE 1 (b2n e.homeTier + 2 * e.kvLv.toNat + 8 * e.picLv.toNat) ++ toLE 9 0

/-- An entry of an image (Table 10.1). -/
def parseSeq (bs : List Byte) : SeqEntry :=
  let b := fun off n => leAt bs off n
  { ver := BitVec.ofNat 8 (b 0 1), state := BitVec.ofNat 8 (b 1 1), kvFmt := BitVec.ofNat 8 (b 2 1)
    srcFmt := BitVec.ofNat 8 (b 3 1), headDim := BitVec.ofNat 16 (b 4 2), kvHeads := BitVec.ofNat 16 (b 6 2)
    layerFirst := BitVec.ofNat 16 (b 8 2), layerCount := BitVec.ofNat 16 (b 10 2), ctx := BitVec.ofNat 12 (b 12 2)
    nextLayer := BitVec.ofNat 16 (b 14 2), len := BitVec.ofNat 32 (b 16 4), step := BitVec.ofNat 32 (b 20 4)
    lastSn := BitVec.ofNat 32 (b 24 4), shIdx := BitVec.ofNat 8 (b 28 1), shN := BitVec.ofNat 8 (b 29 1)
    log2Blk := BitVec.ofNat 5 (b 30 1), mirror := nfld (b 30 1) 5 5 = 1
    kvRoot := BitVec.ofNat 32 (b 32 4), picRoot := BitVec.ofNat 32 (b 36 4), lastUse := BitVec.ofNat 32 (b 40 4)
    resv := BitVec.ofNat 32 (b 44 4), capacity := BitVec.ofNat 32 (b 48 4), picFmt := BitVec.ofNat 8 (b 52 1)
    hint := BitVec.ofNat 8 (b 53 1), homeTier := b 54 1 % 2 = 1, kvLv := BitVec.ofNat 2 (b 54 1 / 2)
    picLv := BitVec.ofNat 2 (b 54 1 / 8) }

/-- A reserved field of an image entry is nonzero (R9, Table 10.1). -/
def seqRsv (bs : List Byte) : Bool :=
  leAt bs 12 2 / 2 ^ 12 ≠ 0 || leAt bs 28 4 / 2 ^ 22 ≠ 0 || leAt bs 54 1 / 32 ≠ 0 || leAt bs 55 9 ≠ 0

/-- The length of a sequence for a layer (R198). -/
def SeqEntry.lenAt (e : SeqEntry) (layer : Nat) : Nat :=
  if e.complete || decide (layer - e.layerFirst.toNat < e.nextLayer.toNat) then e.len.toNat
  else e.len.toNat - e.step.toNat

/-! ### Held positions (R200) -/

/-- Numbers below b that are r modulo p. -/
def cntMod (b p r : Nat) : Nat := (b + p - 1 - r) / p

/-- The member holds shard block β. -/
def holdsBlk (e : SeqEntry) (b : Nat) : Bool :=
  let m := e.shN.toNat + 1
  let i := e.shIdx.toNat
  if e.mirror then b % (2 * m) = i || b % (2 * m) = 2 * m - 1 - i else b % m = i

/-- The member holds segment x. -/
def holdsSeg (e : SeqEntry) (x : Nat) : Bool := holdsBlk e (x >>> e.log2Blk.toNat)

/-- ρ: held segments below segment x. -/
def heldSegs (e : SeqEntry) (x : Nat) : Nat :=
  let m := e.shN.toNat + 1
  let i := e.shIdx.toNat
  let b := x >>> e.log2Blk.toNat
  let full := if e.mirror then cntMod b (2 * m) i + cntMod b (2 * m) (2 * m - 1 - i) else cntMod b m i
  full * 2 ^ e.log2Blk.toNat + (if holdsBlk e b then x % 2 ^ e.log2Blk.toNat else 0)

def holdsPos (e : SeqEntry) (kpos : Nat) : Bool := holdsSeg e (kpos / 512)

/-- π of a held position. -/
def localPos (e : SeqEntry) (kpos : Nat) : Nat := 512 * heldSegs e (kpos / 512) + kpos % 512

/-- Held positions below a position. -/
def heldBelow (e : SeqEntry) (n : Nat) : Nat :=
  512 * heldSegs e (n / 512) + (if holdsSeg e (n / 512) then n % 512 else 0)

/-! ### Geometry (R201) -/

def SeqEntry.nb (e : SeqEntry) : Nat := ceilDiv' e.headDim.toNat 32
def SeqEntry.mx (e : SeqEntry) : Bool := (kvWidth e.kvFmt.toNat).2 = 1
def SeqEntry.bD (e : SeqEntry) : Nat := e.nb * 4 * (kvWidth e.kvFmt.toNat).1
def SeqEntry.bP (e : SeqEntry) : Nat := e.nb * (17 + 2 * b2n e.mx) + 8
def SeqEntry.kpp (e : SeqEntry) : Nat := 64 * (1024 / e.bD)
def SeqEntry.ppp (e : SeqEntry) : Nat := 64 * (1024 / e.bP)

/-- Frames of n held positions (R212). -/
def SeqEntry.framesFor (e : SeqEntry) (n : Nat) : Nat :=
  e.layerCount.toNat * e.kvHeads.toNat * (2 * ceilDiv' n e.kpp + ceilDiv' n e.ppp)

/-- List index of K (t = 0) or V (t = 1) page p of relative layer r and head g (R205). -/
def SeqEntry.kvIndex (e : SeqEntry) (p r g t : Nat) : Nat :=
  ((p * e.layerCount.toNat + r) * e.kvHeads.toNat + g) * 2 + t

def SeqEntry.picIndex (e : SeqEntry) (p r g : Nat) : Nat := (p * e.layerCount.toNat + r) * e.kvHeads.toNat + g

/-! ### Regions, pages and lists (R204 to R206) -/

/-- A Class D address field. -/
def dAddr (va : Nat) : W64 := BitVec.ofNat 64 (va % 2 ^ 52)

def infoAddr (s : State) (lpn : Nat) : W64 := dAddr (s.pg.info.toNat * 2 ^ 16 + 16 * lpn)
def blkAddr (s : State) (blk slot : Nat) : W64 := dAddr (s.pg.list.toNat * 2 ^ 16 + 4096 * blk + 4 * slot)

/-- Address of byte `off` of a frame. -/
def frameAddr (s : State) (far : Bool) (f off : Nat) : W64 :=
  dAddr ((if far then s.pg.arena1 else s.pg.arena0).toNat * 2 ^ 16 + 65536 * f + off)

/-- A page-information entry (Table 10.6). -/
structure InfoEntry where
  far : Bool := false
  frame : Nat := 0
  altFar : Bool := false
  alt : Nat := 0
  refcnt : Nat := 0
  st : Nat := 0
  kind : Nat := 0
  switchBr : Nat := 0
deriving DecidableEq, Repr

def parseInfo (bs : List Byte) : InfoEntry :=
  let f := leAt bs 0 4
  let a := leAt bs 4 4
  { far := f / 2 ^ 31 = 1, frame := f % 2 ^ 28, altFar := a / 2 ^ 31 = 1, alt := a % 2 ^ 28
    refcnt := leAt bs 8 2, st := leAt bs 10 1, kind := leAt bs 11 1, switchBr := leAt bs 12 4 }

/-- The 16 bytes of an entry; bits [30:28] of FRAME and ALT are written as zero (R204). -/
def infoBytes (i : InfoEntry) : List Byte :=
  toLE 4 (i.frame % 2 ^ 28 + b2n i.far * 2 ^ 31) ++ toLE 4 (i.alt % 2 ^ 28 + b2n i.altFar * 2 ^ 31) ++ toLE 2 i.refcnt
    ++ toLE 1 i.st ++ toLE 1 i.kind ++ toLE 4 i.switchBr

/-- Read a page-information entry; every region access carries context 0x000. -/
def readInfo (s : State) (lpn : Nat) : Except MErr InfoEntry :=
  match readVa s 0 (infoAddr s lpn) 16 with
  | .error e => .error e
  | .ok bs => .ok (parseInfo bs)

/-- Digit of a list index at level l. -/
def listDigit (j l : Nat) : Nat := j / 1024 ^ l % 1024

/-- Walk a list tree from a block at level l (R205): the value at index j, 0 for absent. -/
def listWalk (s : State) (j : Nat) : Nat → Nat → Except MErr Nat
  | 0, v => .ok v
  | l + 1, blk =>
    if blk = 0 then .ok 0 else
    match readVa s 0 (blkAddr s blk (listDigit j l)) 4 with
    | .error e => .error e
    | .ok bs => listWalk s j l (leNat bs)

/-- The LPN that a list names at index j; 0 for absent. -/
def listLookup (s : State) (root lv j : Nat) : Except MErr Nat :=
  if lv = 0 || decide (1024 ^ lv ≤ j) then .ok 0 else listWalk s j lv root

/-- The frame of K or V page p; none when the list names no page. -/
def pageFrame (s : State) (root lv j : Nat) : Except MErr (Option (Nat × Bool × Nat)) :=
  match listLookup s root lv j with
  | .error e => .error e
  | .ok 0 => .ok none
  | .ok lpn =>
    match readInfo s lpn with
    | .error e => .error e
    | .ok i => .ok (some (lpn, i.far, i.frame))

/-! ### Reading keys, values and piccolo records -/

/-- Unspecified bytes (R225): an item that reaches a key through a list entry that names no page. -/
def unspecBytes (s : State) (salt n : Nat) : List Byte :=
  (List.range n).map (fun i => BitVec.ofNat 8 (Config.freeWord (s.free + 65536 * salt + i)).toNat)

/-- `n` bytes at `off` of a page, or unspecified ones. -/
def pageBytes (s : State) (p : Option (Nat × Bool × Nat)) (salt off n : Nat) : Except MErr (List Byte) :=
  match p with
  | none => .ok (unspecBytes s (salt + off) n)
  | some (_, far, f) => readVa s 0 (frameAddr s far f off) n

/-- Where a key lies: relative layer, head, position. -/
structure KeyAt where
  r : Nat
  g : Nat
  kpos : Nat
deriving DecidableEq, Repr

/-- The exact decoded elements of K (t = 0) or V (t = 1) of a held position (R79, R202), without pad. -/
def readKvVec (s : State) (e : SeqEntry) (k : KeyAt) (t : Nat) : Except MErr (List Num) :=
  let pi := localPos e k.kpos
  let x := pi % e.kpp
  let w := (kvWidth e.kvFmt.toNat).1
  match pageFrame s e.kvRoot.toNat e.kvLv.toNat (e.kvIndex (pi / e.kpp) k.r k.g t) with
  | .error m => .error m
  | .ok pg =>
    match pageBytes s pg (4 * k.kpos + t) (x * e.bD) e.bD with
    | .error m => .error m
    | .ok bs =>
      let n := leNat bs
      match mxElemFmt e.kvFmt.toNat with
      | none => .ok ((List.range e.headDim.toNat).map (fun c => decodeCode e.kvFmt.toNat (packedElem w n c)))
      | some f =>
        -- the scale bytes lie in the piccolo-key page (Table 10.5)
        let y := pi % e.ppp
        match pageFrame s e.picRoot.toNat e.picLv.toNat (e.picIndex (pi / e.ppp) k.r k.g) with
        | .error m => .error m
        | .ok pp =>
          match pageBytes s pp (4 * k.kpos + 2 + t) (e.ppp * ((17 + t) * e.nb + 8) + y * e.nb) e.nb with
          | .error m => .error m
          | .ok sc => .ok ((List.range e.headDim.toNat).map (fun c =>
              mxDecode f (n >>> (32 * w * (c / 32))) (sc.getD (c / 32) 0) (c % 32)))

/-- The piccolo record of a held position (Table 10.5). -/
def readPicKey (s : State) (e : SeqEntry) (k : KeyAt) : Except MErr PicKey :=
  let pi := localPos e k.kpos
  let y := pi % e.ppp
  match pageFrame s e.picRoot.toNat e.picLv.toNat (e.picIndex (pi / e.ppp) k.r k.g) with
  | .error m => .error m
  | .ok pp =>
    let rd := fun off n => pageBytes s pp (4 * k.kpos + 2) off n
    match rd (y * e.nb * 16) (16 * e.nb), rd (e.ppp * 16 * e.nb + y * e.nb) e.nb,
          rd (e.ppp * 17 * e.nb + 4 * y) 4, rd (e.ppp * (17 * e.nb + 4) + 4 * y) 4 with
    | .ok els, .ok scs, .ok ep, .ok l1 =>
      .ok { blocks := (List.zipWith picRead (pieces 16 els) scs)
            eps := BitVec.ofNat 32 (leNat ep), l1 := BitVec.ofNat 32 (leNat l1) }
    | .error m, _, _, _ => .error m
    | _, .error m, _, _ => .error m
    | _, _, .error m, _ => .error m
    | _, _, _, .error m => .error m

/-- Far-tier pages among the K, V and piccolo pages of a key (R220: promotion on read). -/
def farPages (s : State) (e : SeqEntry) (k : KeyAt) : List Nat :=
  let pi := localPos e k.kpos
  let f := fun (p : Except MErr (Option (Nat × Bool × Nat))) => match p with
    | .ok (some (lpn, far, _)) => if far then [lpn] else []
    | _ => []
  f (pageFrame s e.kvRoot.toNat e.kvLv.toNat (e.kvIndex (pi / e.kpp) k.r k.g 0))
    ++ f (pageFrame s e.kvRoot.toNat e.kvLv.toNat (e.kvIndex (pi / e.kpp) k.r k.g 1))
    ++ f (pageFrame s e.picRoot.toNat e.picLv.toNat (e.picIndex (pi / e.ppp) k.r k.g))

end Sys2Proof.Machine
end

