-- ==== Sys2Proof/Machine/AttCommon.lean ====
section
/-! DEFINITION. What both attention commands share (chapters 05 and 07): the row numbering, masks, the reads of a
row's keys, the begin of an item, and the exchanges of a sequence-parallel item (R294). -/

namespace Sys2Proof.Machine

/-! ### Command fields (Table 2.14) -/

def aSeq (i : Item) : Nat := cmdAt i.cmd 24 2
def aCount (i : Item) : Nat := cmdAt i.cmd 28 4 % 2 ^ 17
def aRows (i : Item) : Nat := cmdAt i.cmd 32 4
def aHeads (i : Item) : Nat := cmdAt i.cmd 36 2
def aKvh (i : Item) : Nat := cmdAt i.cmd 38 2
def aHd (i : Item) : Nat := cmdAt i.cmd 40 2
def aFmt (i : Item) : Nat := cmdAt i.cmd 42 1
def aMask (i : Item) (bit : Nat) : Bool := cmdAt i.cmd 43 1 / 2 ^ bit % 2 = 1
def aLayer (i : Item) : Nat := cmdAt i.cmd 44 2
def isBwd (i : Item) : Bool := i.opcode = 0x11

/-- A field of the item's descriptor. -/
def dF (i : Item) (off n : Nat) : Nat := leAt i.desc off n
def d64F (i : Item) (off : Nat) : W64 := BitVec.ofNat 64 (dF i off 8)

/-- A row of R97. -/
structure RowId where
  s : Nat
  h : Nat
  i : Nat
deriving DecidableEq, Repr

/-- Row of a row index n (Table 5.1). -/
def rowOf (it : Item) (n : Nat) : RowId :=
  { s := n / (aHeads it * aRows it), h := n / aRows it % aHeads it, i := n % aRows it }

def RowId.tau (r : RowId) (it : Item) : Nat := r.s * aRows it + r.i
def RowId.g (r : RowId) (it : Item) : Nat := r.h / (aHeads it / aKvh it)

def totalRows (i : Item) : Nat := aCount i * aHeads i * aRows i

/-- The entry of a row's sequence, its length for the layer (R198), and the relative layer. -/
def rowEntry (it : Item) (s : Nat) : SeqEntry := it.entries.getD s {}
def rowLen (it : Item) (s : Nat) : Nat := (rowEntry it s).lenAt (aLayer it)
def relLayer (it : Item) (s : Nat) : Nat := aLayer it - (rowEntry it s).layerFirst.toNat

/-! ### Masks (R103 to R105) -/

/-- Address fields of PAD and BITMAP by descriptor kind (Tables 5.2 and 7.1). -/
def padField (it : Item) : W64 := d64F it (if isBwd it then 120 else 112)
def bitmapField (it : Item) : W64 := d64F it (if isBwd it then 128 else 120)

/-- The row lies before the sequence: qpos < 0, so it is fully masked (R98). -/
def beforeStart (it : Item) (r : RowId) : Bool := decide (rowLen it r.s + r.i < aRows it)

/-- Key positions that the enabled predicates other than BLOCK_SPARSE leave a row, on every member (R103). -/
def openKeys (it : Item) (r : RowId) (pad : Nat) : List Nat :=
  let len := rowLen it r.s
  if len + r.i < aRows it then [] else
  let qpos := len + r.i - aRows it
  let w := dF it 24 4
  let hi0 := if aMask it 0 then min len (qpos + 1) else len
  let hi1 := if aMask it 2 then min hi0 pad else hi0
  let hi := if aMask it 1 && !aMask it 0 then min hi1 (qpos + w) else hi1
  let lo := if aMask it 1 then qpos + 1 - w else 0
  (List.range (hi - lo)).map (fun k => lo + k)

/-- Bitmap bits of a row's key blocks (R104): the 64-key blocks among `blocks` whose bit is 1. -/
def sparseBlocks (s : State) (it : Item) (g qpos : Nat) : List Nat → Except MErr (List Nat)
  | [] => .ok []
  | b :: t =>
    let bit := (qpos / 64) * dF it 32 4 + b
    match readVa s it.ctx (addrAdd (bitmapField it) (g * dF it 36 4 + bit / 8)) 1 with
    | .error e => .error e
    | .ok bs =>
      match sparseBlocks s it g qpos t with
      | .error e => .error e
      | .ok r => .ok (if leNat bs / 2 ^ (bit % 8) % 2 = 1 then b :: r else r)

/-- The unmasked key positions of a row that `held` keeps, rising. A row before the sequence reads nothing (R143, R147). -/
def rowKeysOf (s : State) (it : Item) (r : RowId) (held : Nat → Bool) : Except MErr (List Nat) :=
  if beforeStart it r then .ok [] else
  let pad := if aMask it 2 then readVa s it.ctx (addrAdd (padField it) (4 * r.s)) 4 else .ok []
  match pad with
  | .error e => .error e
  | .ok pb =>
    let ks := (openKeys it r (leNat pb)).filter held
    if !aMask it 3 then .ok ks else
    let qpos := rowLen it r.s + r.i - aRows it
    match sparseBlocks s it (r.g it) qpos ((ks.map (fun k => k / 64)).eraseDups) with
    | .error e => .error e
    | .ok bs => .ok (ks.filter (fun k => bs.contains (k / 64)))

/-- The unmasked held key positions of a row (R110, R414). -/
def rowKeys (s : State) (it : Item) (r : RowId) : Except MErr (List Nat) := rowKeysOf s it r (holdsPos (rowEntry it r.s))

/-- The row's query position, for rows with qpos ≥ 0 (R98). -/
def qposOf (it : Item) (r : RowId) : Nat := rowLen it r.s + r.i - aRows it

/-! ### Reads -/

/-- A row slice of a tensor of format code `fmt` with a token stride: HEAD_DIM elements of head h of token τ. -/
def readSlice (s : State) (it : Item) (base : W64) (stride fmt tau h : Nat) : Except MErr (List Num) :=
  let e := elemBytes fmt
  match readVa s it.ctx (addrAdd base (tau * stride + h * aHd it * e)) (aHd it * e) with
  | .error m => .error m
  | .ok bs => .ok ((elems fmt bs).map (decodeCode fmt))

/-- K, V and, forward, the piccolo record of the keys of a row. -/
def readKeys (s : State) (it : Item) (r : RowId) : List Nat → Except MErr (List KeyData)
  | [] => .ok []
  | kpos :: t =>
    let e := rowEntry it r.s
    let at_ : KeyAt := { r := relLayer it r.s, g := r.g it, kpos := kpos }
    match readKvVec s e at_ 0, readKvVec s e at_ 1,
          (if isBwd it then .ok { blocks := [], eps := 0, l1 := 0 } else readPicKey s e at_), readKeys s it r t with
    | .ok k, .ok v, .ok p, .ok tl => .ok ({ kpos := kpos, pic := p, k := k, v := v } :: tl)
    | .error m, _, _, _ => .error m
    | _, .error m, _, _ => .error m
    | _, _, .error m, _ => .error m
    | _, _, _, .error m => .error m

/-- Runs of consecutive member-local positions inside one page of `per` positions: (first, count). -/
def runsOf (per : Nat) (l : List Nat) : List (Nat × Nat) :=
  l.foldr (fun k acc => match acc with
    | (f, n) :: t => if k + 1 = f && f % per ≠ 0 then (k, n + 1) :: t else (k, 1) :: (f, n) :: t
    | [] => [(k, 1)]) []

/-- The page ranges that a run of keys occupies: (is piccolo, list index, offset, bytes) (Tables 10.4 and 10.5). -/
def keyRanges (it : Item) (s g : Nat) (keys : List Nat) : List (Bool × Nat × Nat × Nat) :=
  let e := rowEntry it s
  let r := relLayer it s
  let pis := keys.map (localPos e)
  let kv := (runsOf e.kpp pis).flatMap (fun u =>
    [0, 1].map (fun t => (false, e.kvIndex (u.1 / e.kpp) r g t, u.1 % e.kpp * e.bD, u.2 * e.bD)))
  let pic := (runsOf e.ppp pis).flatMap (fun u =>
    let j := e.picIndex (u.1 / e.ppp) r g
    let y := u.1 % e.ppp
    let scales := if e.mx then
        [(true, j, e.ppp * (17 * e.nb + 8) + y * e.nb, u.2 * e.nb), (true, j, e.ppp * (18 * e.nb + 8) + y * e.nb, u.2 * e.nb)]
      else []
    (if isBwd it then [] else
      [(true, j, y * e.nb * 16, u.2 * e.nb * 16), (true, j, e.ppp * 16 * e.nb + y * e.nb, u.2 * e.nb),
       (true, j, e.ppp * 17 * e.nb + 4 * y, 4 * u.2), (true, j, e.ppp * (17 * e.nb + 4) + 4 * y, 4 * u.2)]) ++ scales)
  kv ++ pic

/-- Page ranges as address fields and lengths; a range of a page that no list names has none. -/
def rangesAt (s : State) (e : SeqEntry) : List (Bool × Nat × Nat × Nat) → Except MErr (List (W64 × Nat))
  | [] => .ok []
  | (pic, j, off, len) :: t =>
    let tree := if pic then (e.picRoot.toNat, e.picLv.toNat) else (e.kvRoot.toNat, e.kvLv.toNat)
    match pageFrame s tree.1 tree.2 j, rangesAt s e t with
    | .error m, _ => .error m
    | _, .error m => .error m
    | .ok none, .ok r => .ok r
    | .ok (some (_, far, f)), .ok r => .ok ((frameAddr s far f off, len) :: r)

def concatR (f : Nat × Nat → Except MErr (List (W64 × Nat))) : List (Nat × Nat) → Except MErr (List (W64 × Nat))
  | [] => .ok []
  | a :: t =>
    match f a, concatR f t with
    | .ok x, .ok y => .ok (x ++ y)
    | .error m, _ => .error m
    | _, .error m => .error m

/-- The K, V and piccolo-key bytes that some rows read: for each sequence and key/value head, the keys that some row of it
leaves unmasked, once. -/
def keyBytesOf (s : State) (it : Item) (keysOf : List (RowId × List Nat)) : Except MErr (List (W64 × Nat)) :=
  let used := keysOf.filter (fun p => !p.2.isEmpty)
  concatR (fun (x : Nat × Nat) =>
    let ks := ((used.filter (fun p => p.1.s = x.1 && p.1.g it = x.2)).flatMap (fun p => p.2)).foldl insUp []
    rangesAt s (rowEntry it x.1) (keyRanges it x.1 x.2 ks)) ((used.map (fun p => (p.1.s, p.1.g it))).eraseDups)

/-- Verify what some rows read of the arenas (R268). -/
def verifyKeys (s : State) (it : Item) (keysOf : List (RowId × List Nat)) : Except MErr Verified :=
  if !s.str.chkDEn then .ok (.fine 0) else
  match keyBytesOf s it keysOf with
  | .error m => .error m
  | .ok rs => verifyParts s 0 rs

/-- Far-tier pages that the item's attention reads ask to promote (R220). -/
def wantPromotion (s : State) (it : Item) (keysOf : List (RowId × List Nat)) : State :=
  if !s.pg.promoteEn || isK5 s then s else
  let far := keysOf.flatMap (fun p =>
    let e := rowEntry it p.1.s
    if e.hint = 2 then [] else
    p.2.flatMap (fun k => farPages s e { r := relLayer it p.1.s, g := p.1.g it, kpos := k }))
  { s with pg := { s.pg with promoWanted := far.foldl insUp s.pg.promoWanted } }

def mapE {α β : Type} (f : α → Except MErr β) : List α → Except MErr (List β)
  | [] => .ok []
  | a :: t =>
    match f a with
    | .error e => .error e
    | .ok b =>
      match mapE f t with
      | .error e => .error e
      | .ok r => .ok (b :: r)

/-- Every row of the item with its unmasked keys. -/
def allKeys (s : State) (it : Item) : Except MErr (List (RowId × List Nat)) :=
  mapE (fun n =>
    let r := rowOf it n
    match rowKeys s it r with
    | .error e => .error e
    | .ok ks => .ok (r, ks)) (List.range (totalRows it))

/-! ### Begin (R98, R100, R102, R139, R140, R198) -/

/-- Descriptor bytes of an opcode (Tables 5.2 and 7.1). -/
def descBytes (i : Item) : Nat := if isBwd i then 192 else 128

/-- Reserved bits of a descriptor that are nonzero (R9). -/
def descRsv (i : Item) : Bool :=
  let sp := dF i 52 2
  let ad := fun offs => (offs : List Nat).any (fun o => addrRsv (d64F i o))
  sp / 2 ^ 8 % 2 ^ 7 ≠ 0 || dF i 54 2 ≠ 0 ||
  (if isBwd i then dF i 4 2 / 4 ≠ 0 || dF i 136 56 ≠ 0 || ad [64, 72, 80, 88, 96, 104, 112, 120, 128]
   else dF i 4 2 / 2 ^ 10 ≠ 0 || ad [56, 64, 72, 80, 88, 96, 104, 112, 120])

/-- SCALE is finite and greater than zero. -/
def scaleLegal (w : Nat) : Bool :=
  match fmtFP32.decode (BitVec.ofNat 32 w) with
  | .fin n m _ => !n && m ≠ 0
  | _ => false

def strideLegal (stride width e : Nat) : Bool := decide (width * e ≤ stride) && decide (stride % e = 0)

/-- Steps 1 to 6 of Table 5.4. -/
def fwdDescLegal (i : Item) : Bool :=
  let d := dF i 4 2
  let row := aHeads i * aHd i
  let nz := fun off => dF i off 8 ≠ 0
  let wide := fun f => decide (1 ≤ f ∧ f ≤ 3)
  dF i 0 1 / 16 = 1 && dF i 1 1 = 1
    && (dF i 2 1 = 0x02 || dF i 2 1 = 0x08) && isRowFmt (dF i 3 1) && decide (d / 2 ^ 8 % 4 ≤ 1) && decide (d / 2 ^ 4 % 16 ≤ 5)
    && (d / 2 % 2 = 0 || wide (dF i 6 1)) && (d / 4 % 2 = 0 || wide (dF i 7 1))
    && scaleLegal (dF i 8 4) && (d % 2 = 0 || isFin32 (BitVec.ofNat 32 (dF i 12 4)))
    && (!aMask i 1 || dF i 24 4 ≠ 0)
    && nz 56 && nz 64 && nz 72 && (d / 2 % 2 = 0 || nz 88) && (d / 4 % 2 = 0 || nz 96) && (d / 8 % 2 = 0 || nz 104)
    && (!aMask i 2 || nz 112) && (!aMask i 3 || nz 120)
    && strideLegal (dF i 40 4) row (elemBytes (aFmt i)) && strideLegal (dF i 44 4) row (elemBytes (dF i 3 1))
    && (d / 4 % 2 = 0 || strideLegal (dF i 48 4) row (elemBytes (dF i 7 1)))

/-- Steps 1 to 6 of Table 7.2. -/
def bwdDescLegal (i : Item) : Bool :=
  let row := aHeads i * aHd i
  let nz := fun off => dF i off 8 ≠ 0
  let gf := dF i 3 1
  dF i 0 1 / 16 = 1 && dF i 1 1 = 2
    && dF i 2 1 = 0x02 && decide (1 ≤ gf ∧ gf ≤ 3) && decide (dF i 4 2 % 4 ≤ 1) && isMainFmt (dF i 6 1) && isRowFmt (dF i 7 1)
    && scaleLegal (dF i 8 4) && (!aMask i 1 || dF i 24 4 ≠ 0)
    && nz 64 && nz 72 && nz 80 && nz 88 && nz 96 && nz 104 && nz 112 && (!aMask i 2 || nz 120) && (!aMask i 3 || nz 128)
    && strideLegal (dF i 40 4) row (elemBytes (aFmt i)) && strideLegal (dF i 44 4) row (elemBytes (dF i 7 1))
    && strideLegal (dF i 48 4) row (elemBytes (dF i 6 1)) && strideLegal (dF i 56 4) row (elemBytes gf)
    && strideLegal (dF i 60 4) (aKvh i * aHd i) (elemBytes gf)

def spEn (i : Item) : Bool := dF i 52 2 / 2 ^ 15 = 1
def spGroup (i : Item) : Nat := dF i 52 2 % 256

/-- Step 7 of both tables. -/
def spLegal (s : State) (i : Item) : Bool := !spEn i || (nfld (cap s 0).toNat 4 4 = 1 && (getGroup s (spGroup i)).st ≠ 0)

/-- One entry's checks (R198): the status of its failure, if any. -/
def entryFails (i : Item) (e : SeqEntry) : Option Nat :=
  if !e.live || e.ctx ≠ i.ctx then some 0x13
  else if e.kvHeads.toNat ≠ aKvh i || e.headDim.toNat ≠ aHd i
      || decide (aLayer i < e.layerFirst.toNat) || decide (e.layerFirst.toNat + e.layerCount.toNat ≤ aLayer i)
      || !isKvFmt e.kvFmt.toNat then some 0x15
  else none

def itemEntries (s : State) (i : Item) : List SeqEntry := (List.range (aCount i)).map (fun k => getSeq s (aSeq i + k))

/-- LAST_USE := the current breath, for each entry of the item (R198). -/
def touchEntries (s : State) (i : Item) : State :=
  let f := fun (t : Tab SeqEntry) k => let e := tget {} t (aSeq i + k)
                                       tput {} t (aSeq i + k) { e with lastUse := lowBreath s }
  { s with pg := { s.pg with active := (List.range (aCount i)).foldl f s.pg.active } }

/-- The digest of a kind-1 agreement record (R285): command bytes 28 to 45, descriptor bytes, member table. -/
def spDigest (s : State) (i : Item) : W64 :=
  let c := toLE 18 (cmdAt i.cmd 28 18)
  let cut := fun a b => (i.desc.drop a).take (b - a)
  let d := if isBwd i then cut 0 12 ++ cut 16 40 ++ cut 52 54 else cut 0 40 ++ cut 52 54
  BitVec.ofNat 64 (crc64 (c ++ d ++ memberBytes (getGroup s (spGroup i))))

/-- An SP item takes its SP_SN and opens its operation; its agreement record leaves (R285, R294). -/
def openSp (s : State) (i : Item) : State :=
  let g := spGroup i
  let v := getGroup s g
  let o : CleOp := { group := g, kind := true, sn := BitVec.ofNat 32 v.spSn.toNat, attempt := v.spAttempt, q := i.q, idx := i.idx
                     vc := v.vc, mode := v.mode, exch := if isBwd i then 1 else 0 }
  let s1 := setGroup s g { v with spSn := v.spSn + 1, spAttempt := 0 }
  let s2 := modItem { s1 with cle := { s1.cle with ops := s1.cle.ops ++ [o] } } i.q i.idx (fun x => { x with spSn := some v.spSn })
  sendAgreement s2 o { opcode := BitVec.ofNat 8 i.opcode, digest := spDigest s2 i }

/-- What the first begin reads and checks, once (R98, R100): an item that fails after it stays begun. The result says whether
the item goes on. -/
def attBegin (s : State) (q : Nat) (idx : W32) : State × Bool :=
  match findItem s q idx with
  | none => (s, false)
  | some i0 =>
    match readVa s i0.ctx (cmd64 i0.cmd 16) (descBytes i0) with
    | .error e => (itemErr s q idx e, false)
    | .ok bs =>
      let i := { i0 with desc := bs }
      -- the item's unspecified page bytes draw from here (R225)
      let s1 := { modItem s q idx (fun x => { x with desc := bs, begun := true, freeBase := s.free }) with free := s.free + 2 ^ 52 }
      if descRsv i then
        let (f, s2) := drawFree s1
        (endItem s2 q idx (0x10 + f.toNat % 0x30) 0, false)
      else
      let sp := spEn i && spLegal s1 i
      let s2 := if sp then openSp s1 i else s1
      let legal := if isBwd i then bwdDescLegal i else fwdDescLegal i
      if !legal || !spLegal s1 i then (endItem s2 q idx 0x15 0, false) else
      let es := itemEntries s2 i
      match (es.filterMap (entryFails i)).head? with
      | some st => (endItem s2 q idx st 0, false)
      | none =>
        let s3 := touchEntries (modItem s2 q idx (fun x => { x with entries := es, nRows := totalRows i })) i
        if isBwd i then
          if es.any (fun e => decide (dF i 12 4 < e.lenAt (aLayer i))) then (endItem s3 q idx 0x15 0, false)
          else
            match attShape s3 i.cmd true (elemBytes (dF i 7 1)) (elemBytes (dF i 6 1)) with
            | some k => (endItem s3 q idx 0x14 k, false)
            | none => (s3, true)
        else (s3, true)

/-- The item as its page reads see it: unspecified bytes are drawn once for the whole item (R225). -/
def pageView (s : State) (it : Item) : State := { s with free := it.freeBase }

/-- The item of an attention event, begun: the begin runs at most once (R98). -/
def attEnter (s : State) (q : Nat) (idx : W32) (op : Nat) : State × Bool :=
  match findItem s q idx with
  | none => (s, false)
  | some i =>
    if i.opcode ≠ op || !(mayBegin s i || mayRun s i) then (s, false)
    else
      let s1 := modItem s q idx (fun x => { x with stage := .executing })
      if i.begun then (s1, true) else attBegin s1 q idx

/-! ### Exchanges of a sequence-parallel item (R110, R149, R294, Table 13.8) -/

/-- One contribution of this member in the exchange under way: its chunks, sent as one stream under piece
number `phase` (log 31). -/
def sendExchange (s : State) (o : CleOp) (chunks : List (Nat × List Byte)) : State :=
  let rank := (getGroup s o.group).rank.toNat
  let t := { (o.tag rank) with piece := BitVec.ofNat 32 o.phase }
  let s1 := sendChunks s { o with sentData := true, ended := o.ended ++ [rank + 256 * o.phase] } (chunks.map (fun c => (o.phase, c.1, c.2)))
  sendMarker s1 o t 0 (BitVec.ofNat 64 (crc64 (chunks.flatMap (fun c => c.2))))

/-- Every member's contribution to the exchange under way is here. -/
def exchangeFull (s : State) (o : CleOp) : Bool :=
  (List.range (groupSize s o.group)).all (fun r => o.ended.contains (r + 256 * o.phase))

/-- Bytes of a member's contribution, in chunk order. -/
def exchangeBytes (o : CleOp) (rank : Nat) : List Byte :=
  let mine := o.chunks.filter (fun x => x.1.1 = rank && x.1.2.1 = o.phase)
  (sortBy (fun a => a.1.2.2) mine).flatMap (fun x => x.2)

/-- FP32 words of every member's contribution at word `k` of a record of `w` words, row `n`. -/
def exchangeWords (s : State) (o : CleOp) (w k n : Nat) : List W32 :=
  (List.range (groupSize s o.group)).map (fun r => BitVec.ofNat 32 (leAt (exchangeBytes o r) (4 * (w * n + k)) 4))

/-- A stream of fixed records, cut into 4 KiB chunks. -/
def fixedChunks (bs : List Byte) : List (Nat × List Byte) := ((pieces 4096 bs).zipIdx).map (fun p => (p.2, p.1))

/-- A node of the merge tree: level, index at that level, values. -/
structure Node where
  level : Nat
  idx : Nat
  vals : List Acc
deriving DecidableEq, Repr

/-- The highest nodes whose whole subtree lies with this member (R294): from the root of 2^f segments down. -/
def topNodes (mine : Nat → Bool) (nSeg : Nat) (add : List Acc → List Acc → List Acc) (leaves : List (Nat × List Acc)) :
    Nat → Nat → List Node
  | 0, x => (leaves.filter (fun l => l.1 = x && mine x)).map (fun l => { level := 0, idx := x, vals := l.2 })
  | f + 1, x =>
    let inside := leaves.filter (fun l => l.1 / 2 ^ (f + 1) = x)
    if inside.isEmpty then [] else
    if (List.range (2 ^ (f + 1))).all (fun k => let seg := x * 2 ^ (f + 1) + k
                                                decide (nSeg ≤ seg) || mine seg) then
      match mergeTree add (inside.map (fun l => (l.1 % 2 ^ (f + 1), l.2))) with
      | some v => [{ level := f + 1, idx := x, vals := v }]
      | none => []
    else topNodes mine nSeg add leaves f (2 * x) ++ topNodes mine nSeg add leaves f (2 * x + 1)

/-- Merge nodes of different levels (R87): carry the nodes of one level up, joined by those given at the next. -/
def mergeNodes (add : List Acc → List Acc → List Acc) (ns : List Node) : Option (List Acc) :=
  let top := ns.foldl (fun m n => max m ((n.idx + 1) * 2 ^ n.level)) 1
  let levels := List.range (Nat.log2 top + 2)
  let up := levels.foldl (fun (cur : List (Nat × List Acc)) l =>
    let here := (ns.filter (fun n => n.level = l)).map (fun n => (n.idx, n.vals))
    let all := sortBy (fun a => a.1) (cur ++ here)
    mergeLevel add all) []
  (up.head?).map (fun p => p.2)

/-- The chunk number of a node of a row (log 31). -/
def nodeChunk (row : Nat) (n : Node) : Nat := row * 2 ^ 40 + n.level * 2 ^ 32 + n.idx

/-- Nodes of a row from every member; `vals` words each, the rest of the record being steps. -/
def rowNodes (o : CleOp) (row vals : Nat) : List Node :=
  (o.chunks.filter (fun x => x.1.2.1 = o.phase && x.1.2.2 / 2 ^ 40 = row)).map (fun x =>
    { level := x.1.2.2 / 2 ^ 32 % 256, idx := x.1.2.2 % 2 ^ 32
      vals := ((pieces 4 x.2).take vals).map (fun b => { v := BitVec.ofNat 32 (leNat b), ovf := false }) })

/-- The next exchange begins. -/
def nextExchange (s : State) (o : CleOp) (exch : Nat) : State :=
  setOp s { o with phase := o.phase + 1, exch := exch, sentData := false }

/-- The FwdAcc that the item holds for a row. -/
def accOf (it : Item) (n : Nat) : FwdAcc :=
  match it.rows.find? (fun p => p.1 = n) with
  | some (_, .fwd a) => a
  | _ => {}

def setAccs (s : State) (q : Nat) (idx : W32) (as : List FwdAcc) : State :=
  modItem s q idx (fun x => { x with rows := (List.range as.length).zip (as.map RowRes.fwd) })

end Sys2Proof.Machine
end

