-- ==== Sys2Proof/Machine/AttFwd.lean ====
section
/-! DEFINITION. ATT_FWD (chapter 05): the scout and the main pass of a row in a task of this die, or of every row across a
group, and what a row's drain writes. The event begins the item; its rows are computed when a task of them drains, or, in
a sequence-parallel item, by the events themselves (log 79). -/

namespace Sys2Proof.Machine

/-- Drain fields of the forward descriptor (Tables 5.2 and 5.3). -/
def drainCfg (it : Item) : DrainCfg :=
  let d := dF it 4 2
  { outFmt := dF it 3 1, rnd := d / 2 ^ 8 % 4, act := d / 2 ^ 4 % 16, ssq := d / 8 % 2 = 1, res := d / 4 % 2 = 1
    bias := d / 2 % 2 = 1, scale := d % 2 = 1, dscale := BitVec.ofNat 32 (dF it 12 4), seed := d64F it 16, thresh := dF it 28 4 }

/-- Read what pass 1 and pass 2 of a row need. -/
def fwdInputs (s : State) (it : Item) (r : RowId) (keys : List Nat) : Except MErr RowIn :=
  let base : RowIn :=
    { scale := BitVec.ofNat 32 (dF it 8 4), pFmt := dF it 2 1, hd := aHd it, q := [], keys := []
      keep := keepPair (d64F it 16) (dF it 28 4) (aLayer it) r.h r.s (qposOf it r) }
  if keys.isEmpty then .ok base else
  match readSlice s it (d64F it 56) (dF it 40 4) (aFmt it) (r.tau it) r.h with
  | .error e => .error e
  | .ok q =>
    match readKeys s it r keys with
    | .error e => .error e
    | .ok ks => .ok { base with q := q, keys := ks }

/-- A row's scout on the keys of one task (R108): Q and piccolo keys alone. -/
def scoutRow (s : State) (it : Item) (r : RowId) (keys : List Nat) : Except MErr W32 :=
  if keys.isEmpty then .ok negInf32 else
  match readSlice s it (d64F it 56) (dF it 40 4) (aFmt it) (r.tau it) r.h,
        mapE (fun k => readPicKey s (rowEntry it r.s) { r := relLayer it r.s, g := r.g it, kpos := k }) keys with
  | .ok q, .ok ps =>
    let qv := picRowOf q
    .ok (scoutBound (BitVec.ofNat 32 (dF it 8 4)) (ps.foldl (fun b p => max32 b (keyBound (aHd it) qv p)) negInf32))
  | .error e, _ => .error e
  | _, .error e => .error e

/-- The node of one row over the keys of a part task, at the bound and steps of the pass (R152, R160). -/
def fwdPart (r : RowIn) (a : FwdAcc) : NodeRow :=
  if r.keys.isEmpty then {} else
  let ss := rowScores r a.ks
  let root := fwdRoot r ss a.mHat a.kv
  { present := true, vals := root.map (fun x => x.v), m := rowMax ss, ovfS := ss.any (fun x => x.2.ovf), ovf := root.any (fun x => x.ovf) }

/-- What a merge task finds in a row's nodes (R161): the row, and whether it is settled; else the bound or step of the next pass. -/
def fwdJoin (hd : Nat) (a : FwdAcc) (ns : List (Nat × Nat × NodeRow)) : FwdAcc × Bool :=
  let here := ns.filter (fun n => n.2.2.present)
  if here.isEmpty then ({ a with masked := true }, true)
  else if here.any (fun n => n.2.2.ovfS) && decide (a.ks < 128) then ({ a with ks := a.ks + 4 }, false)
  else
    let m := here.foldl (fun x n => max32 x n.2.2.m) negInf32
    if !a.resc && needsRescout a.mHat m then ({ a with m := m, resc := true, mHat := m, kv := 0 }, false)
    else
      match mergeNodes addLeaves (here.map (fun n => { level := n.1, idx := n.2.1, vals := n.2.2.vals.map (fun v => { v := v, ovf := n.2.2.ovf }) })) with
      | none => ({ a with masked := true }, true)
      | some v =>
        if v.any (fun x => x.ovf) && decide (a.kv < 128) then ({ a with m := m, kv := a.kv + 4 }, false)
        else ({ a with m := m, l := (v.headD zeroAcc).v, o := ((v.drop 1).take hd).map (fun x => x.v) }, true)

/-- Inputs of every row of the item. -/
def fwdAll (s : State) (it : Item) (keys : List (RowId × List Nat)) : Except MErr (List RowIn) :=
  mapE (fun p => fwdInputs s it p.1 p.2) keys

/-! ### Across a group (R110, R294) -/

def wordsLE (ws : List W32) : List Byte := ws.flatMap (fun w => toLE 4 w.toNat)

/-- The nodes of R87 whose every present segment this member holds, over a row's leaves. -/
def localNodes (it : Item) (s : Nat) (leaves : List (Nat × List Acc)) : List Node :=
  let nSeg := ceilDiv' (rowLen it s) 512
  topNodes (holdsSeg (rowEntry it s)) nSeg addLeaves leaves (clog2 nSeg) 0

/-- The value step as far as this member can settle it: no addition of a node of R87 that it forms overflows (R89). -/
def localValueStep (it : Item) (n : Nat) (r : RowIn) (ss : List (KeyData × Acc)) (mHat : W32) (lo : Nat) : Nat :=
  settle lo (fun k => (localNodes it (rowOf it n).s (fwdLeaves r ss mHat k)).any (fun nd => nd.vals.any (fun a => a.ovf)))

/-- The local part of one row's statistics at the bound and steps agreed so far. -/
def fwdStat (it : Item) (n : Nat) (r : RowIn) (a : FwdAcc) : List W32 :=
  let ks := scoreStep r a.ks
  let ss := rowScores r ks
  [rowMax ss, BitVec.ofNat 32 ks, BitVec.ofNat 32 (localValueStep it n r ss a.mHat a.kv)]

/-- Combine a row's statistics (R89, R109, R115); the second result says that the row is settled. -/
def fwdSettle (s : State) (o : CleOp) (n : Nat) (a : FwdAcc) : FwdAcc × Bool :=
  let ms := exchangeWords s o 3 0 n
  let kss := (exchangeWords s o 3 1 n).map (fun w => w.toNat)
  let kvs := (exchangeWords s o 3 2 n).map (fun w => w.toNat)
  let ks := kss.foldl max 0
  let kv := kvs.foldl max 0
  if kss.any (fun k => k ≠ ks) then ({ a with ks := ks }, false)
  else
    let m := ms.foldl max32 negInf32
    if !a.resc && needsRescout a.mHat m then ({ a with ks := ks, m := m, resc := true, mHat := m, kv := 0 }, false)
    else ({ a with ks := ks, m := m, kv := kv }, true)

/-- The nodes of one row that this member sends (Table 13.8): o padded to d64, l, m, the two steps. -/
def fwdNodes (it : Item) (n : Nat) (r : RowIn) (a : FwdAcc) : List (Nat × List Byte) :=
  let ls := fwdLeaves r (rowScores r a.ks) a.mHat a.kv
  (localNodes it (rowOf it n).s ls).map (fun nd =>
    let vs := nd.vals.map (fun x => x.v)
    let o := vs.drop 1 ++ List.replicate (d64 (aHd it) - aHd it) 0
    (nodeChunk n nd, wordsLE (o ++ [vs.headD 0, a.m, BitVec.ofNat 32 a.ks, BitVec.ofNat 32 a.kv])))

/-- Merge a row's nodes from every member; the second result says that no merge addition overflowed. -/
def fwdMerge (it : Item) (o : CleOp) (n : Nat) (a : FwdAcc) : FwdAcc × Bool :=
  match mergeNodes addLeaves (rowNodes o n (d64 (aHd it) + 1)) with
  | none => ({ a with masked := true }, true)
  | some v =>
    if v.any (fun x => x.ovf) && decide (a.kv < 128) then ({ a with kv := a.kv + 4 }, false)
    else ({ a with o := (v.take (aHd it)).map (fun x => x.v), l := (v.getD (d64 (aHd it)) zeroAcc).v }, true)

/-- One stage of the exchanges of a forward item. -/
def fwdStage (s : State) (q : Nat) (idx : W32) (ins : List RowIn) : State :=
  match opOf s q idx, findItem s q idx with
  | some o, some it =>
    if !agreementDone s o || o.exch = 3 || o.rejoining || o.heldFor.isSome || !o.failFrom.isEmpty then s else
    match digestDiffers s o with
    | some r => endItem s q idx 0x23 r
    | none =>
      let as := (List.range (totalRows it)).map (accOf it)
      if !o.sentData then
        if o.exch = 0 then sendExchange s o (fixedChunks (wordsLE (ins.map rowBound)))
        else if o.exch = 1 then
          sendExchange s o (fixedChunks (wordsLE (((ins.zip as).zipIdx).flatMap (fun p => fwdStat it p.2 p.1.1 p.1.2))))
        else sendExchange s o (((ins.zip as).zipIdx).flatMap (fun p => fwdNodes it p.2 p.1.1 p.1.2))
      else if !exchangeFull s o then s
      else if o.exch = 0 then
        let bs := as.mapIdx (fun n a => { a with mHat := (exchangeWords s o 1 0 n).foldl max32 negInf32 })
        nextExchange (setAccs s q idx bs) o 1
      else if o.exch = 1 then
        let rs := as.mapIdx (fun n a => fwdSettle s o n a)
        nextExchange (setAccs s q idx (rs.map (fun p => p.1))) o (if rs.all (fun p => p.2) then 2 else 1)
      else
        let rs := as.mapIdx (fun n a => fwdMerge it o n a)
        nextExchange (setAccs s q idx (rs.map (fun p => p.1))) o (if rs.all (fun p => p.2) then 3 else 2)
  | _, _ => s

/-- The passes of a sequence-parallel item that has begun, as far as its peers have come. -/
def fwdCompute (s : State) (q : Nat) (idx : W32) : State :=
  match findItem s q idx, opOf s q idx with
  | some it, some o =>
    if !mayRun s it || failedHere s o then s else
    if !o.failFrom.isEmpty then yieldFail s q idx else
    let sv := pageView s it
    match allKeys sv it with
    | .error e => itemErr s q idx e
    | .ok keys =>
      match verifyKeys sv it keys with
      | .error e => itemErr s q idx e
      | .ok (.mismatch b n) => blockMismatch s q idx it.ctx b n
      | .ok (.fine n) =>
        match fwdAll sv it keys with
        | .error e => itemErr s q idx e
        | .ok ins =>
          -- blocks are verified, and pages asked for, when the rows are first read
          let s0 := if o.phase = 0 && !o.sentData then wantPromotion (countVerified s n) it keys else s
          let f := fun st => fwdStage st q idx ins
          f (f (f (f (f (f (f (f s0)))))))
  | _, _ => s

/-- ATT_FWD. -/
def attFwd (s : State) (q : Nat) (idx : W32) : State :=
  let r := attEnter s q idx 0x10
  if r.2 then fwdCompute r.1 q idx else r.1

/-! ### The drain of a row (R117 to R123) -/

/-- Output, LSE, row flag and sum of squares of one row (Table 5.1). -/
def fwdOuts (s : State) (it : Item) (n : Nat) (a : FwdAcc) : Except MErr (List Out) :=
  let r := rowOf it n
  let d := drainCfg it
  let tau := r.tau it
  let hd := aHd it
  let bias := if d.bias then readSlice s it (d64F it 88) 0 (dF it 6 1) 0 r.h else .ok []
  let res := if d.res then readSlice s it (d64F it 96) (dF it 48 4) (dF it 7 1) tau r.h else .ok []
  match bias, res with
  | .ok b, .ok x =>
    let z : Num := .fin false 0 0
    let ys := (List.range hd).map (fun c => drainElem d a (nonfinite a) (tau * aHeads it + r.h) c (b.getD c z) (x.getD c z))
    let e := elemBytes d.outFmt
    .ok ([{ addr := addrAdd (d64F it 64) (tau * dF it 44 4 + r.h * hd * e), bytes := elemsBytes d.outFmt ys },
          { addr := addrAdd (d64F it 72) (4 * n), bytes := toLE 4 (rowLse a).toNat }]
      ++ (if dF it 80 8 ≠ 0 then [{ addr := addrAdd (d64F it 80) n, bytes := toLE 1 (rowFlag a) }] else [])
      ++ (if d.ssq then [{ addr := addrAdd (d64F it 104) (8 * (tau * aHeads it + r.h)), bytes := ssqEntry d.outFmt ys }] else []))
  | .error e, _ => .error e
  | _, .error e => .error e

/-- What the record of a forward item reports (R90, R124). -/
def fwdReport (it : Item) : Item :=
  let as := (List.range (totalRows it)).map (accOf it)
  let masked := (as.filter (fun a => a.masked)).length
  let resc := (as.filter (fun a => a.resc)).length
  let steps := as.foldl (fun k a => max k (max a.ks a.kv / 4)) 0
  { it with maskedCnt := masked, rescouted := resc, steps := steps, maskedRows := masked ≠ 0, rescout := resc ≠ 0
            count := BitVec.ofNat 32 resc, detail := BitVec.ofNat 64 (masked % 2 ^ 32 + steps * 2 ^ 32), status := 0 }

def execAttFwd (q : Nat) (idx : W32) (s : State) : Host.Outcome State Fault Refusal := work s (fun s => attFwd s q idx)

end Sys2Proof.Machine
end

