-- ==== Sys2Proof/Machine/AttBwd.lean ====
section
/-! DEFINITION. ATT_BWD (chapter 07): the recomputed pairs of a row, dQ in the tree of R87, dK and dV over the query groups,
and what the drains write. The rows are computed when a task of them drains, or, in a sequence-parallel item, by the
events (log 79). -/

namespace Sys2Proof.Machine

def gradFmt (it : Item) : Nat := dF it 3 1
def grndOf (it : Item) : Nat := dF it 4 2 % 4
def scaleNum (it : Item) : Num := dec32 (BitVec.ofNat 32 (dF it 8 4))

/-- LSE of a row. -/
def readLse (s : State) (it : Item) (n : Nat) : Except MErr W32 :=
  match readVa s it.ctx (addrAdd (d64F it 80) (4 * n)) 4 with
  | .error e => .error e
  | .ok bs => .ok (BitVec.ofNat 32 (leNat bs))

/-- What decides how much of a row is read (R143): its held unmasked keys, whether it is fully masked, and LSE. -/
structure BwdHead where
  n : Nat
  keys : List Nat
  live : Bool
  lse : W32
deriving DecidableEq, Repr

/-- A row that its masks leave no key, on any member, reads nothing; one whose LSE is −∞ reads no K or V byte. -/
def bwdHead (s : State) (it : Item) (sp : Bool) (n : Nat) : Except MErr BwdHead :=
  let r := rowOf it n
  let none_ : BwdHead := { n := n, keys := [], live := false, lse := negInf32 }
  match rowKeys s it r, (if sp then rowKeysOf s it r (fun _ => true) else rowKeys s it r) with
  | .ok ks, .ok every =>
    if every.isEmpty then .ok none_ else
    (match readLse s it n with
     | .error e => .error e
     | .ok lse => .ok (if lse = negInf32 then none_ else { n := n, keys := ks, live := true, lse := lse }))
  | .error e, _ => .error e
  | _, .error e => .error e

/-- A row as the backward pass reads it (R143, R149). -/
def bwdInputs (s : State) (it : Item) (hd : BwdHead) : Except MErr BwdIn :=
  let r := rowOf it hd.n
  let base : BwdIn :=
    { live := hd.live, scale := BitVec.ofNat 32 (dF it 8 4), lse := hd.lse, thresh := dF it 28 4, hd := aHd it, q := [], o := [], dO := []
      keys := [], keep := keepPair (d64F it 16) (dF it 28 4) (aLayer it) r.h r.s (qposOf it r) }
  if !hd.live then .ok base else
  let tau := r.tau it
  match readSlice s it (d64F it 64) (dF it 40 4) (aFmt it) tau r.h, readSlice s it (d64F it 72) (dF it 44 4) (dF it 7 1) tau r.h,
        readSlice s it (d64F it 88) (dF it 48 4) (dF it 6 1) tau r.h, readKeys s it r hd.keys with
  | .ok q, .ok o, .ok dO, .ok ks => .ok { base with q := q, o := o, dO := dO, keys := ks }
  | .error e, _, _, _ => .error e
  | _, .error e, _, _ => .error e
  | _, _, .error e, _ => .error e
  | _, _, _, .error e => .error e

/-- A row with its settled steps and pairs (Table 7.5). -/
structure BwdRow where
  n : Nat
  r : RowId
  inp : BwdIn
  st : BwdSteps
  pairs : List BwdPair

def bwdRow (it : Item) (n : Nat) (inp : BwdIn) (a : FwdAcc) : BwdRow :=
  let st := bwdSteps inp a.ks a.kv
  { n := n, r := rowOf it n, inp := inp, st := st, pairs := bwdPairs inp st }

/-- The dQ bytes of a row from its merged root (R147). -/
def dqOut (it : Item) (n : Nat) (root : List W32) (k : Nat) : Out :=
  let r := rowOf it n
  let tau := r.tau it
  let hd := aHd it
  let gf := gradFmt it
  let xs := (List.range hd).map (fun c => gradElem gf (grndOf it) (root.getD c 0) k (scaleNum it)
    (srWord (d64F it 16) (tau * aHeads it + r.h) c 0xFFFFFFFF))
  { addr := addrAdd (d64F it 96) (tau * dF it 56 4 + r.h * hd * elemBytes gf), bytes := elemsBytes gf xs }

/-- Query slots of a key of head g, for dK (`kk`) or dV (R146). -/
def keySlots (it : Item) (rows : List BwdRow) (s g kpos : Nat) (kk : Bool) : List QSlot :=
  let grp := aHeads it / aKvh it
  let qpad := roundUp (aRows it) 64
  (rows.filter (fun w => w.r.s = s && w.r.g it = g)).filterMap (fun w =>
    match w.pairs.find? (fun p => p.kpos = kpos) with
    | some p => some { x := (w.r.h - g * grp) * qpad + w.r.i, a := if kk then p.ds else p.pd, b := if kk then w.inp.q else w.inp.dO }
    | none => none)

/-- dK and dV of one key (R146, R147): writes and the larger of its two steps. -/
def keyGrad (it : Item) (rows : List BwdRow) (s g kpos : Nat) : List Out × Nat :=
  let hd := aHd it
  let gf := gradFmt it
  let kappa := s * dF it 12 4 + kpos
  let at_ := kappa * dF it 60 4 + g * hd * elemBytes gf
  let one := fun (kk : Bool) (sl : List QSlot) (k : Nat) =>
    let xs := (List.range hd).map (fun c => gradElem gf (grndOf it) (foldQueries sl c k).v k
      (if kk then scaleNum it else .fin false 1 0)
      (srWord (d64F it 16) (2 * (kappa * aKvh it + g) + (if kk then 0 else 1)) c (kpos / 512)))
    ({ addr := addrAdd (d64F it (if kk then 104 else 112)) at_, bytes := elemsBytes gf xs } : Out)
  let sk := keySlots it rows s g kpos true
  let sv := keySlots it rows s g kpos false
  let k1 := foldStep sk hd
  let k2 := foldStep sv hd
  ([one true sk k1, one false sv k2], max k1 k2)

/-- dK and dV of every held key position below L, every head (R147, R149, R414). -/
def tailGrads (it : Item) (rows : List BwdRow) : List Out × Nat :=
  let keys := (List.range (aCount it)).flatMap (fun s =>
    ((List.range (rowLen it s)).filter (holdsPos (rowEntry it s))).flatMap (fun kpos =>
      (List.range (aKvh it)).map (fun g => (s, g, kpos))))
  keys.foldl (fun acc x =>
    let r := keyGrad it rows x.1 x.2.1 x.2.2
    (acc.1 ++ r.1, max acc.2 r.2)) ([], 0)

/-- What the record of a backward item reports (R148, R150). -/
def bwdReport (it : Item) (masked steps : Nat) : Item :=
  { it with maskedCnt := masked, steps := steps / 4, maskedRows := masked ≠ 0, rescout := false, count := 0, status := 0
            detail := BitVec.ofNat 64 (masked % 2 ^ 32 + steps / 4 * 2 ^ 32) }

/-- Largest step of a row's own kinds: k_S, k_Δ and k_dP (R148). -/
def rowStepsMax (w : BwdRow) : Nat := if w.inp.live then max w.st.s (max w.st.delta w.st.dp) else 0

/-- A row on one die, as its report keeps it: whether it is masked, its steps, and its dQ root. -/
def bwdAcc (w : BwdRow) : FwdAcc :=
  let k := dqStep w.inp w.pairs 0
  if w.inp.live then { ks := rowStepsMax w, kx := k, o := (dqRoot w.inp w.pairs k).map (fun x => x.v) } else { masked := true }

/-- The node of one row over the keys of a part task, at the steps of the pass (R152). -/
def bwdPart (inp : BwdIn) (a : FwdAcc) : NodeRow :=
  if inp.keys.isEmpty then { present := inp.live } else
  let ps := bwdPairs inp { s := a.ks, delta := settle 0 (fun k => (dot inp.dO inp.o k).ovf), dp := a.kv }
  let root := dqRoot inp ps a.kx
  { present := true, vals := root.map (fun x => x.v), ovf := root.any (fun x => x.ovf)
    ovfS := inp.keys.any (fun x => (scoreAt inp.scale a.ks inp.q x.k).ovf), ovfP := inp.keys.any (fun x => (dot inp.dO x.v a.kv).ovf) }

/-- What a merge task finds in a row's dQ nodes (R148, R161). -/
def bwdJoin (hd : Nat) (a : FwdAcc) (ns : List (Nat × Nat × NodeRow)) : FwdAcc × Bool :=
  let here := ns.filter (fun n => n.2.2.present && !n.2.2.vals.isEmpty)
  if here.isEmpty then ({ a with masked := !ns.any (fun n => n.2.2.present) }, true)
  else
    let up := fun (hit : NodeRow → Bool) (k : Nat) => if here.any (fun n => hit n.2.2) && decide (k < 128) then k + 4 else k
    let a1 := { a with ks := up (fun n => n.ovfS) a.ks, kv := up (fun n => n.ovfP) a.kv }
    if a1 ≠ a then (a1, false)
    else
      match mergeNodes addLeaves (here.map (fun n => { level := n.1, idx := n.2.1, vals := n.2.2.vals.map (fun v => { v := v, ovf := n.2.2.ovf }) })) with
      | none => ({ a with masked := true }, true)
      | some v =>
        if v.any (fun x => x.ovf) && decide (a.kx < 128) then ({ a with kx := a.kx + 4 }, false)
        else ({ a with o := (v.take hd).map (fun x => x.v) }, true)

/-- Finish a sequence-parallel item on its merged dQ roots: row writes, dK and dV, and the report, with the largest dK or dV
step of any member. -/
def bwdFinish (s : State) (q : Nat) (idx : W32) (it : Item) (rows : List BwdRow) (accs : List FwdAcc) (peerSteps : Nat) : State :=
  let tl := tailGrads it rows
  let masked := (rows.filter (fun w => !w.inp.live)).length
  let steps := max peerSteps (max (accs.foldl (fun k a => max k a.kx) 0) (rows.foldl (fun k w => max k (rowStepsMax w)) 0))
  let outs := (rows.zip accs).map (fun p => (p.1.n, RowRes.outs [dqOut it p.1.n p.2.o p.2.kx]))
  modItem s q idx (fun x => bwdReport { x with rows := outs, tail := tl.1 } masked steps)

/-! ### Across a group (R149, Table 13.8) -/

/-- The dQ step as far as this member can settle it: no addition of a node of R87 that it forms overflows (R89, R148). -/
def localDqStep (it : Item) (w : BwdRow) (lo : Nat) : Nat :=
  settle lo (fun k => (localNodes it w.r.s (dqLeaves w.inp w.pairs k)).any (fun nd => nd.vals.any (fun a => a.ovf)))

/-- k_S, k_dP and k_dQ of a row at the steps agreed so far. -/
def bwdStat (it : Item) (n : Nat) (inp : BwdIn) (a : FwdAcc) : List W32 :=
  let w := bwdRow it n inp a
  [BitVec.ofNat 32 w.st.s, BitVec.ofNat 32 w.st.dp, BitVec.ofNat 32 (localDqStep it w a.kx)]

/-- Combine a row's steps; the second result says that no member has to compute again. A k_dQ found before k_S and k_dP agree
is dropped. -/
def bwdSettle (s : State) (o : CleOp) (n : Nat) (a : FwdAcc) : FwdAcc × Bool :=
  let g := fun k => (exchangeWords s o 3 k n).map (fun w => w.toNat)
  let top := fun k => (g k).foldl max 0
  let agree := !((g 0).any (fun k => k ≠ top 0) || (g 1).any (fun k => k ≠ top 1))
  ({ a with ks := top 0, kv := top 1, kx := if agree then top 2 else 0 }, agree)

/-- The dQ nodes of a row (Table 13.8): accumulators padded to d64, then one word of step and presence. -/
def bwdNodes (it : Item) (w : BwdRow) (a : FwdAcc) : List (Nat × List Byte) :=
  (localNodes it w.r.s (dqLeaves w.inp w.pairs a.kx)).map (fun nd =>
    (nodeChunk w.n nd, wordsLE (nd.vals.map (fun x => x.v) ++ List.replicate (d64 (aHd it) - aHd it) 0
      ++ [BitVec.ofNat 32 (a.kx + 2 ^ 31)])))

def bwdMerge (it : Item) (o : CleOp) (n : Nat) (a : FwdAcc) : FwdAcc × Bool :=
  match mergeNodes addLeaves (rowNodes o n (d64 (aHd it))) with
  | none => ({ a with o := [] }, true)
  | some v =>
    if v.any (fun x => x.ovf) && decide (a.kx < 128) then ({ a with kx := a.kx + 4 }, false)
    else ({ a with o := (v.take (aHd it)).map (fun x => x.v) }, true)

/-- One stage of the exchanges of a backward item: 1 statistics, 2 nodes, 4 the largest dK or dV step, which R150 has every
member report (log 80). -/
def bwdStage (s : State) (q : Nat) (idx : W32) (ins : List BwdIn) : State :=
  match opOf s q idx, findItem s q idx with
  | some o, some it =>
    if !agreementDone s o || o.exch = 3 || o.rejoining || o.heldFor.isSome || !o.failFrom.isEmpty then s else
    match digestDiffers s o with
    | some r => endItem s q idx 0x23 r
    | none =>
      let as := (List.range (totalRows it)).map (accOf it)
      let rows := ((ins.zip as).zipIdx).map (fun p => (bwdRow it p.2 p.1.1 p.1.2, p.1.2))
      let bare := rows.map (fun p => p.1)
      if !o.sentData then
        if o.exch = 1 then
          sendExchange s o (fixedChunks (wordsLE (((ins.zip as).zipIdx).flatMap (fun p => bwdStat it p.2 p.1.1 p.1.2))))
        else if o.exch = 2 then sendExchange s o (rows.flatMap (fun p => bwdNodes it p.1 p.2))
        else sendExchange s o (fixedChunks (wordsLE [BitVec.ofNat 32 (tailGrads it bare).2]))
      else if !exchangeFull s o then s
      else if o.exch = 1 then
        let rs := as.mapIdx (fun n a => bwdSettle s o n a)
        nextExchange (setAccs s q idx (rs.map (fun p => p.1))) o (if rs.all (fun p => p.2) then 2 else 1)
      else if o.exch = 2 then
        let rs := as.mapIdx (fun n a => bwdMerge it o n a)
        nextExchange (setAccs s q idx (rs.map (fun p => p.1))) o (if rs.all (fun p => p.2) then 4 else 2)
      else
        bwdFinish (nextExchange s o 3) q idx it bare as (((exchangeWords s o 1 0 0).map (fun w => w.toNat)).foldl max 0)
  | _, _ => s

/-- The passes of a sequence-parallel backward item that has begun, as far as its peers have come. -/
def bwdCompute (s : State) (q : Nat) (idx : W32) : State :=
  match findItem s q idx, opOf s q idx with
  | some it, some o =>
    if !mayRun s it || failedHere s o then s else
    if !o.failFrom.isEmpty then yieldFail s q idx else
    if o.exch = 3 then s else
    let sv := pageView s it
    match mapE (bwdHead sv it true) (List.range (totalRows it)) with
    | .error e => itemErr s q idx e
    | .ok heads =>
      let keys := heads.map (fun h => (rowOf it h.n, h.keys))
      match verifyKeys sv it keys with
      | .error e => itemErr s q idx e
      | .ok (.mismatch b n) => blockMismatch s q idx it.ctx b n
      | .ok (.fine n) =>
        match mapE (bwdInputs sv it) heads with
        | .error e => itemErr s q idx e
        | .ok ins =>
          let s0 := if o.phase = 0 && !o.sentData then wantPromotion (countVerified s n) it keys else s
          let f := fun st => bwdStage st q idx ins
          f (f (f (f (f (f (f (f s0)))))))
  | _, _ => s

/-- ATT_BWD. -/
def attBwd (s : State) (q : Nat) (idx : W32) : State :=
  let r := attEnter s q idx 0x11
  if r.2 then bwdCompute r.1 q idx else r.1

def execAttBwd (q : Nat) (idx : W32) (s : State) : Host.Outcome State Fault Refusal := work s (fun s => attBwd s q idx)

end Sys2Proof.Machine
end

