-- ==== Sys2Proof/Machine/Cache.lean ====
section
/-! DEFINITION. The cluster cache (R169, R261): the lines of the KV arenas that a cluster holds, its hits, misses and fills. -/

namespace Sys2Proof.Machine

/-- A Class D address inside a KV arena. -/
def inArenas (s : State) (a : W64) : Bool :=
  let ins := fun (base : BitVec 36) (size : W32) =>
    decide (base.toNat * 65536 ≤ addrVa a) && decide (addrVa a < (base.toNat + size.toNat) * 65536)
  decide (addrCls a = .d) && (ins s.pg.arena0 s.pg.size0 || ins s.pg.arena1 s.pg.size1)

def cacheLine (a : W64) : Nat := addrVa a / 256

def cacheHit (s : State) (core : Nat) (a : W64) (ctx : CtxId) : Bool :=
  inArenas s a && (getCluster s (core / 8)).lines.contains (cacheLine a, ctx)

/-- Lines of a core's cluster cache: 4,096 of 256 B for each of its 16 slices in service (R353). -/
def cacheLines (s : State) (core : Nat) : Nat :=
  let p := (getCluster s (core / 8)).phys
  4096 * ((List.range 16).filter (fun k => (tget {} s.history (0x2000 + 16 * p + k)).role ≠ 2)).length

/-- A fill: a full cache gives up a line of the machine's choice (log 10). -/
def fillLine (s : State) (core : Nat) (a : W64) (ctx : CtxId) : State :=
  if !inArenas s a then s else
  let c := getCluster s (core / 8)
  if c.lines.contains (cacheLine a, ctx) then s
  else if cacheLines s core = 0 then s
  else if c.lines.length < cacheLines s core then setCluster s (core / 8) { c with lines := c.lines ++ [(cacheLine a, ctx)] }
  else
    let (f, s1) := drawFree s
    setCluster s1 (core / 8) { c with lines := c.lines.eraseIdx (f.toNat % c.lines.length) ++ [(cacheLine a, ctx)] }

/-- The 256 B lines of an address range. -/
def linesOf (a : W64) (n : Nat) : List W64 :=
  if n = 0 then [] else
  let first := addrVa a / 256
  (List.range ((addrVa a + n - 1) / 256 - first + 1)).map (fun k => BitVec.ofNat 64 (a.toNat / 2 ^ 63 * 2 ^ 63 + ((first + k) * 256) % 2 ^ 52))

/-- A core reads one line: a hit, or a miss whose data fills the line. -/
def cacheRead (core : Nat) (ctx : CtxId) (s : State) (a : W64) : State :=
  let n := core / 8
  let c := getCluster s n
  if cacheHit s core a ctx then setCluster s n { c with hits := satInc32 c.hits }
  else if inArenas s a then fillLine (setCluster s n { c with misses := satInc32 c.misses }) core a ctx
  else s

/-- Some ranges of the arenas are read through a core's cluster cache, each line once. -/
def cacheReads (s : State) (core : Nat) (ctx : CtxId) (rs : List (W64 × Nat)) : State :=
  ((rs.flatMap (fun r => linesOf r.1 r.2)).eraseDups).foldl (cacheRead core ctx) s

/-- The ranges that no line of which hits, so that memory brings them in whole (R268). -/
def coldRanges (s : State) (core : Nat) (ctx : CtxId) (rs : List (W64 × Nat)) : List (W64 × Nat) :=
  rs.flatMap (fun r => ((linesOf r.1 r.2).filter (fun l => !cacheHit s core l ctx)).map (fun l =>
    let lo := max (addrVa l) (addrVa r.1)
    (BitVec.ofNat 64 (r.1.toNat / 2 ^ 63 * 2 ^ 63 + lo), min (addrVa l + 256) (addrVa r.1 + r.2) - lo)))

end Sys2Proof.Machine
end

