-- ==== Sys2Proof/Machine/Pages.lean ====
section
/-! DEFINITION. The Paging Engine's working view of one item (R210): overlays over page-information entries, list
blocks and page bytes, the pools it takes from, and the changes and writes that the item stages. Beside it,
migrations (R218 to R220) and the return of units to their pools (R208). -/

namespace Sys2Proof.Machine

/-- Why a Paging Engine command stops. -/
inductive PErr where
  | shape                              -- R209 step 3, R207
  | mem (e : MErr)
  | check (blk : W64) (blocks : Nat)   -- a read's block failed its check
  | page (lpn : Nat) (blk : W64) (blocks : Nat)   -- a block of a page copied failed its check (R218, R269)
deriving DecidableEq, Repr

/-- Bytes of a page that an item writes: `base` holds the whole page when it is a copy (Table 10.9). -/
structure PageBuf where
  far : Bool
  frame : Nat
  base : Option (List Byte)
  writes : List (Nat × List Byte)
deriving DecidableEq, Repr

/-- The working view. -/
structure Work where
  s : State
  entry : SeqEntry
  info : List (Nat × InfoEntry) := []
  slots : List ((Nat × Nat) × Nat) := []     -- (block, slot), value
  fresh : List Nat := []                     -- list blocks taken, zeroed
  pages : List PageBuf := []
  taken : List PoolUnit := []
  dropped : List PoolUnit := []
  resv : List (Bool × Int) := []
  cows : Nat := 0
  cancels : List Nat := []
  verified : Nat := 0                        -- blocks verified (R268, R269)
  free : Nat
deriving DecidableEq, Repr

def workOf (s : State) (e : SeqEntry) : Work := { s := s, entry := e, free := s.free }

/-! ### Pools (R207, R208) -/

/-- Units that items have staged and not yet committed. -/
def stagedTakes (s : State) : List PoolUnit :=
  s.items.flatMap (fun i => i.staged.filterMap (fun c => match c with
    | .take u => some u
    | _ => none))

def frameNo (far : Bool) (u : PoolUnit) : Option Nat :=
  match u with
  | .frame t f => if t = far then some f else none
  | _ => none

def lpnNo (u : PoolUnit) : Option Nat :=
  match u with
  | .lpn n => some n
  | _ => none

def blkNo (u : PoolUnit) : Option Nat :=
  match u with
  | .blk b => some b
  | _ => none

/-- Frames of a tier that are in use or staged, rising. -/
def busyFrames (s : State) (more : List PoolUnit) (far : Bool) : List Nat :=
  ((stagedTakes s ++ more).filterMap (frameNo far)).foldl insUp (if far then s.pg.used1 else s.pg.used0)

/-- Frames reserved in a tier, staged changes counted. -/
def resvNow (s : State) (far : Bool) (more : List (Bool × Int)) : Int :=
  let add := fun (a : Int) (l : List (Bool × Int)) => l.foldl (fun x p => if p.1 = far then x + p.2 else x) a
  let staged := s.items.flatMap (fun i => i.staged.filterMap (fun c => match c with
    | .resv t d => some (t, d)
    | _ => none))
  add (add (((if far then s.pg.resv1 else s.pg.resv0).toNat : Nat) : Int) staged) more

def tierSize (s : State) (far : Bool) : Nat := (if far then s.pg.size1 else s.pg.size0).toNat

/-- Frame numbers of a tier: a frame index has 28 bits (R204). -/
def tierFrames (s : State) (far : Bool) : Nat := min (tierSize s far) (2 ^ 28)

/-- Free unreserved frames of a tier (R207). -/
def freeUnreserved (s : State) (more : List PoolUnit) (rs : List (Bool × Int)) (far : Bool) : Int :=
  (tierSize s far : Int) - ((busyFrames s more far).length : Int) - resvNow s far rs

/-- A free number of a pool, chosen by a free value (R208, log 10). -/
def pickFree (used : List Nat) (lo size free : Nat) : Option Nat :=
  let n := size - lo - (used.filter (fun u => lo ≤ u && u < size)).length
  if n = 0 then none else nthFree used lo size ((Config.freeWord free).toNat % n)

/-- Take a frame for the entry (R207): from its reservation, else from the free unreserved ones of its home tier. -/
def Work.takeFrame (w : Work) : Except PErr (Bool × Nat × Work) :=
  let far := w.entry.homeTier
  let reserved := decide (0 < w.entry.resv.toNat)
  if !reserved && decide (freeUnreserved w.s w.taken w.resv far ≤ 0) then .error .shape else
  match pickFree (busyFrames w.s w.taken far) 0 (tierFrames w.s far) w.free with
  | none => .error .shape
  | some f =>
    let w1 := { w with taken := w.taken ++ [.frame far f], free := w.free + 1 }
    .ok (far, f, if reserved then
        { w1 with entry := { w.entry with resv := w.entry.resv - 1 }, resv := w.resv ++ [(far, -1)] }
      else w1)

def Work.takeLpn (w : Work) : Except PErr (Nat × Work) :=
  let used := ((stagedTakes w.s ++ w.taken).filterMap lpnNo).foldl insUp w.s.pg.usedLpn
  match pickFree used 1 (min w.s.pg.infoSize.toNat (2 ^ 28)) w.free with
  | none => .error .shape
  | some n => .ok (n, { w with taken := w.taken ++ [.lpn n], free := w.free + 1 })

/-- Take a list block; it is zeroed before any entry is written into it (R205). -/
def Work.takeBlk (w : Work) : Except PErr (Nat × Work) :=
  let used := ((stagedTakes w.s ++ w.taken).filterMap blkNo).foldl insUp w.s.pg.usedBlk
  match pickFree used 1 w.s.pg.listSize.toNat w.free with
  | none => .error .shape
  | some b => .ok (b, { w with taken := w.taken ++ [.blk b], fresh := w.fresh ++ [b], free := w.free + 1 })

/-! ### Page-information entries and list blocks under the overlay -/

def Work.getInfo (w : Work) (lpn : Nat) : Except PErr InfoEntry :=
  match w.info.find? (fun p => p.1 = lpn) with
  | some p => .ok p.2
  | none =>
    match readInfo w.s lpn with
    | .error e => .error (.mem e)
    | .ok i => .ok i

def Work.setInfo (w : Work) (lpn : Nat) (i : InfoEntry) : Work :=
  { w with info := w.info.filter (fun p => p.1 ≠ lpn) ++ [(lpn, i)] }

def Work.getSlot (w : Work) (blk slot : Nat) : Except PErr Nat :=
  match w.slots.find? (fun p => p.1 = (blk, slot)) with
  | some p => .ok p.2
  | none =>
    if w.fresh.contains blk then .ok 0 else
    match readVa w.s 0 (blkAddr w.s blk slot) 4 with
    | .error e => .error (.mem e)
    | .ok bs => .ok (leNat bs)

def Work.setSlot (w : Work) (blk slot v : Nat) : Work :=
  { w with slots := w.slots.filter (fun p => p.1 ≠ (blk, slot)) ++ [((blk, slot), v)] }

/-- The value at index j of a tree, from a block at level l. -/
def Work.find (w : Work) (j : Nat) : Nat → Nat → Except PErr Nat
  | 0, v => .ok v
  | l + 1, blk =>
    if blk = 0 then .ok 0 else
    match w.getSlot blk (listDigit j l) with
    | .error e => .error e
    | .ok v => Work.find w j l v

def Work.lookup (w : Work) (root lv j : Nat) : Except PErr Nat :=
  if lv = 0 || decide (1024 ^ lv ≤ j) then .ok 0 else w.find j lv root

/-- Write a leaf at index j below a block at level l, taking interior blocks where they are absent. -/
def Work.plant (w : Work) (j v : Nat) : Nat → Nat → Except PErr Work
  | 0, _ => .ok w
  | 1, blk => .ok (w.setSlot blk (listDigit j 0) v)
  | l + 2, blk =>
    match w.getSlot blk (listDigit j (l + 1)) with
    | .error e => .error e
    | .ok c =>
      if c ≠ 0 then Work.plant w j v (l + 1) c else
      match w.takeBlk with
      | .error e => .error e
      | .ok (b, w1) => Work.plant (w1.setSlot blk (listDigit j (l + 1)) b) j v (l + 1) b

/-- Levels that an index needs: the least from 1 to 3 with j < 1,024^LV. -/
def levelsFor (j : Nat) : Option Nat :=
  if j < 1024 then some 1 else if j < 1024 ^ 2 then some 2 else if j < 1024 ^ 3 then some 3 else none

/-- Add levels one at a time until the index fits (R205). -/
def Work.grow (w : Work) (root lv j : Nat) : Nat → Except PErr (Nat × Nat × Work)
  | 0 => .error .shape
  | f + 1 =>
    if j < 1024 ^ lv then .ok (root, lv, w)
    else if 3 ≤ lv then .error .shape
    else
      match w.takeBlk with
      | .error e => .error e
      | .ok (b, w1) => Work.grow (w1.setSlot b 0 root) b (lv + 1) j f

/-- Put a value at index j of a tree (R205); the result is the tree's root and levels. -/
def Work.insert (w : Work) (root lv j v : Nat) : Except PErr (Nat × Nat × Work) :=
  if lv = 0 then
    match levelsFor j with
    | none => .error .shape
    | some n =>
      match w.takeBlk with
      | .error e => .error e
      | .ok (b, w1) =>
        match w1.plant j v n b with
        | .error e => .error e
        | .ok w2 => .ok (b, n, w2)
  else
    match w.grow root lv j 4 with
    | .error e => .error e
    | .ok (r, n, w1) =>
      match w1.plant j v n r with
      | .error e => .error e
      | .ok w2 => .ok (r, n, w2)

/-- Which list of an entry. -/
def Work.treeOf (w : Work) (pic : Bool) : Nat × Nat :=
  if pic then (w.entry.picRoot.toNat, w.entry.picLv.toNat) else (w.entry.kvRoot.toNat, w.entry.kvLv.toNat)

def Work.setTree (w : Work) (pic : Bool) (root lv : Nat) : Work :=
  let e := w.entry
  { w with entry := if pic then { e with picRoot := BitVec.ofNat 32 root, picLv := BitVec.ofNat 2 lv }
                    else { e with kvRoot := BitVec.ofNat 32 root, kvLv := BitVec.ofNat 2 lv } }

def Work.setList (w : Work) (pic : Bool) (j v : Nat) : Except PErr Work :=
  let t := w.treeOf pic
  match w.insert t.1 t.2 j v with
  | .error e => .error e
  | .ok (r, n, w1) => .ok (w1.setTree pic r n)

/-! ### Trees as a whole -/

/-- The 1,024 values of a block. -/
def blockVals (s : State) (blk : Nat) : Except MErr (List Nat) :=
  match readVa s 0 (blkAddr s blk 0) 4096 with
  | .error e => .error e
  | .ok bs => .ok ((pieces 4 bs).map leNat)

/-- The blocks of a tree and its leaves (index, LPN), from level l on; `base` is the index of the subtree. -/
def leaves (s : State) : Nat → Nat → Nat → Except MErr (List Nat × List (Nat × Nat))
  | 0, _, _ => .ok ([], [])
  | l + 1, blk, base =>
    if blk = 0 then .ok ([], []) else
    match blockVals s blk with
    | .error e => .error e
    | .ok vs =>
      let named := (vs.zipIdx).filter (fun p => p.1 ≠ 0)
      if l = 0 then .ok ([blk], named.map (fun p => (base + p.2, p.1))) else
      named.foldl (fun acc p =>
        match acc with
        | .error e => .error e
        | .ok (bs, ls) =>
          match leaves s l p.1 (base + p.2 * 1024 ^ l) with
          | .error e => .error e
          | .ok (bs', ls') => .ok (bs ++ bs', ls ++ ls')) (.ok ([blk], []))

/-- Relative layer of an index of an entry's list (R205). -/
def layerOfIndex (e : SeqEntry) (pic : Bool) (j : Nat) : Nat :=
  (if pic then j / e.kvHeads.toNat else j / 2 / e.kvHeads.toNat) % e.layerCount.toNat

/-- LPNs that an entry's lists name for relative layers `first` to `first + n − 1`, once each. -/
def entryPages (s : State) (e : SeqEntry) (first n : Nat) : Except MErr (List Nat) :=
  match leaves s e.kvLv.toNat e.kvRoot.toNat 0, leaves s e.picLv.toNat e.picRoot.toNat 0 with
  | .ok (_, a), .ok (_, b) =>
    let inR := fun pic (p : Nat × Nat) => first ≤ layerOfIndex e pic p.1 && layerOfIndex e pic p.1 < first + n
    .ok (((a.filter (inR false)) ++ (b.filter (inR true))).map (fun p => p.2)).eraseDups
  | .error x, _ => .error x
  | _, .error x => .error x

/-! ### Page buffers -/

/-- Whole blocks of a range under context 0x000 whose entry has V = 1: those that a read of it verifies (R268). -/
def v1Blocks (s : State) (a : W64) (n : Nat) : Nat :=
  if !chkOn s (addrCls a) then 0 else
  ((blocksTouched a n).filter (fun b =>
    decide (addrVa a ≤ addrVa b) && decide (addrVa b + 4096 ≤ addrVa a + n) &&
    (match entryAddr s b with
     | none => false
     | some e => match readVa s 0 e 8 with
       | .ok bs => nfld (leNat bs) 32 32 = 1
       | .error _ => false))).length

/-- The page buffer of a frame, and the rest. -/
def Work.buf (w : Work) (far : Bool) (f : Nat) : PageBuf :=
  match w.pages.find? (fun p => p.far = far && p.frame = f) with
  | some b => b
  | none => { far := far, frame := f, base := none, writes := [] }

def Work.setBuf (w : Work) (b : PageBuf) : Work :=
  { w with pages := w.pages.filter (fun p => !(p.far = b.far && p.frame = b.frame)) ++ [b] }

def Work.write (w : Work) (far : Bool) (f off : Nat) (bs : List Byte) : Work :=
  let b := w.buf far f
  w.setBuf { b with writes := b.writes ++ [(off, bs)] }

/-- Write `bs` over a list of bytes at an offset. -/
def patch (old : List Byte) (off : Nat) (bs : List Byte) : List Byte :=
  old.take off ++ bs ++ old.drop (off + bs.length)

/-- A byte of a block at `lo` of the page that some write reaches. -/
def touches (b : PageBuf) (lo : Nat) : Bool :=
  b.base.isSome || b.writes.any (fun p => overlaps p.1 p.2.length lo 4096)

/-- The part of a write that falls into the block at `lo`, as an offset in the block. -/
def clip (lo : Nat) (p : Nat × List Byte) : Nat × List Byte :=
  if lo ≤ p.1 then (p.1 - lo, p.2.take (lo + 4096 - p.1)) else (0, (p.2.drop (lo - p.1)).take 4096)

/-- Writes that reach the block at `lo`. -/
def blockWrites (b : PageBuf) (lo : Nat) : List (Nat × List Byte) := b.writes.filter (fun p => overlaps p.1 p.2.length lo 4096)

/-- The item holds the whole block at `lo` without reading it (R214): a key is written once, so its writes are disjoint. -/
def holdsBlock (b : PageBuf) (lo : Nat) : Bool :=
  b.base.isSome || decide (4096 ≤ (blockWrites b lo).foldl (fun n p => n + (clip lo p).2.length) 0)

/-- Blocks that are read, and so verified, to set the check values of a page's writes (R214). -/
def bufVerified (s : State) (b : PageBuf) : Nat :=
  (((List.range 16).map (fun k => 4096 * k)).filter (fun lo => touches b lo && !holdsBlock b lo)).foldl (fun n lo =>
    n + v1Blocks s (frameAddr s b.far b.frame lo) 4096) 0

/-- The writes of one page. -/
def bodyOuts (s : State) (b : PageBuf) : List Out :=
  match b.base with
  | some bs => [{ addr := frameAddr s b.far b.frame 0, bytes := b.writes.foldl (fun x p => patch x p.1 p.2) bs }]
  | none => b.writes.map (fun p => { addr := frameAddr s b.far b.frame p.1, bytes := p.2 })

/-- The writes of the check entries of its blocks (R214). -/
def entryOuts (s : State) (b : PageBuf) : Except PErr (List Out) :=
  if !chkOn s .d then .ok [] else
  let blocks := ((List.range 16).map (fun k => 4096 * k)).filter (touches b)
  blocks.foldl (fun acc lo =>
    match acc with
    | .error e => .error e
    | .ok outs =>
      let a := frameAddr s b.far b.frame lo
      match entryAddr s a with
      | none => .ok outs
      | some ea =>
        let old : Except PErr (List Byte) := match b.base with
          | some bs => .ok ((bs.drop lo).take 4096)
          | none =>
            if holdsBlock b lo then .ok (List.replicate 4096 0) else
            match readVa s 0 a 4096 with
            | .error e => .error (.mem e)
            | .ok bs =>
              match verifyRead s 0 a bs with
              | .error e => .error (.mem e)
              | .ok (.mismatch k n) => .error (.check k n)
              | .ok (.fine _) => .ok bs
        match old with
        | .error e => .error e
        | .ok bs =>
          let full := (blockWrites b lo).foldl (fun x p => patch x (clip lo p).1 (clip lo p).2) bs
          .ok (outs ++ [{ addr := ea, bytes := toLE 8 (2 ^ 32 + crc32c full) }])) (.ok [])

/-- A whole page of a frame, every block with V = 1 verified (R269). -/
def readPage (s : State) (far : Bool) (f : Nat) : Except PErr (List Byte) :=
  match readVa s 0 (frameAddr s far f 0) 65536 with
  | .error e => .error (.mem e)
  | .ok bs =>
    match verifyRead s 0 (frameAddr s far f 0) bs with
    | .error e => .error (.mem e)
    | .ok (.mismatch k n) => .error (.check k n)
    | .ok (.fine _) => .ok bs

/-- Make page j of a list ready for a write (Table 10.9): absent pages are allocated, shared ones copied, and
a copy under way is to be discarded (Table 10.11). The result is the frame to write. -/
def Work.ensure (w : Work) (pic : Bool) (j kind : Nat) : Except PErr (Bool × Nat × Work) :=
  let t := w.treeOf pic
  match w.lookup t.1 t.2 j with
  | .error e => .error e
  | .ok lpn =>
    let fresh := fun (w0 : Work) =>
      match w0.takeLpn with
      | .error e => Except.error e
      | .ok (n, w1) =>
        match w1.takeFrame with
        | .error e => .error e
        | .ok (far, f, w2) =>
          match (w2.setInfo n { far := far, frame := f, refcnt := 1, st := 1, kind := kind }).setList pic j n with
          | .error e => .error e
          | .ok w3 => .ok (far, f, w3)
    if lpn = 0 then fresh w else
    match w.getInfo lpn with
    | .error e => .error e
    | .ok i =>
      if 1 < i.refcnt then
        match readPage w.s i.far i.frame with
        | .error (.check b n) => .error (.page lpn b n)
        | .error e => .error e
        | .ok bs =>
          match fresh (w.setInfo lpn { i with refcnt := i.refcnt - 1 }) with
          | .error e => .error e
          | .ok (far, f, w1) =>
            .ok (far, f, { (w1.setBuf { far := far, frame := f, base := some bs, writes := [] }) with
              cows := w.cows + 1, verified := w.verified + v1Blocks w.s (frameAddr w.s i.far i.frame 0) 65536 })
      else if (i.st = 2 || i.st = 3) && !w.cancels.contains lpn then
        .ok (i.far, i.frame, { w with cancels := w.cancels ++ [lpn] })
      else .ok (i.far, i.frame, w)

/-! ### What an item stages -/

/-- Physical pieces of a region write under context 0x000. -/
def regionWrite (s : State) (mk : W64 → Nat → List Byte → Change) (a : W64) (bs : List Byte) : Except PErr (List Change) :=
  match pagesOf s 0 true a bs.length with
  | .error e => .error (.mem e)
  | .ok ps => .ok ((ps.foldl (fun (acc : List Change × List Byte) p =>
      (acc.1 ++ [mk p.1 p.2.1 (acc.2.take p.2.2)], acc.2.drop p.2.2)) ([], bs)).1)

/-- The journal write of an application (R210): unspecified bytes, at the start of the journal that follows the entries
(R206, log 83). -/
def journalWrite (s : State) (free : Nat) : Except PErr (List Change) :=
  regionWrite s .journal (infoAddr s s.pg.infoSize.toNat)
    ((List.range 16).map (fun k => BitVec.ofNat 8 (Config.freeWord (free + k)).toNat))

def appendAll {α β : Type} (f : α → Except PErr (List β)) : List α → Except PErr (List β)
  | [] => .ok []
  | a :: t =>
    match f a with
    | .error e => .error e
    | .ok x =>
      match appendAll f t with
      | .error e => .error e
      | .ok y => .ok (x ++ y)

/-- The changes of a finished working view, in the order of R210: page information, lists, then the entry; with
them the pools and reservations. -/
def Work.changes (w : Work) (idx : Nat) : Except PErr (List Change) :=
  let blkBytes := fun (b : Nat) =>
    (w.slots.filter (fun p => p.1.1 = b)).foldl (fun x p => patch x (4 * p.1.2) (toLE 4 p.2)) (List.replicate 4096 0)
  -- an entry that stays in use changes in REFCNT alone, so that a migration under way keeps its own fields
  let whole := fun (p : Nat × InfoEntry) => w.taken.contains (.lpn p.1) || p.2.st = 0
  match appendAll (fun p => if whole p then regionWrite w.s .info (infoAddr w.s p.1) (infoBytes p.2)
          else regionWrite w.s .info (addrAdd (infoAddr w.s p.1) 8) (toLE 2 p.2.refcnt)) w.info,
        appendAll (fun b => regionWrite w.s .list (blkAddr w.s b 0) (blkBytes b)) w.fresh,
        appendAll (fun (p : (Nat × Nat) × Nat) =>
          if w.fresh.contains p.1.1 then .ok [] else
          regionWrite w.s .list (blkAddr w.s p.1.1 p.1.2) (toLE 4 p.2)) w.slots, journalWrite w.s w.free with
  | .ok a, .ok b, .ok c, .ok j =>
    .ok (j ++ a ++ b ++ c ++ w.taken.map Change.take ++ w.dropped.map Change.drop
      ++ w.resv.map (fun p => Change.resv p.1 p.2) ++ List.replicate w.cows .cow
      ++ (w.pages.map (fun p => Change.wrote p.far p.frame))
      ++ [.entry idx w.entry])
  | .error e, _, _, _ => .error e
  | _, .error e, _, _ => .error e
  | _, _, .error e, _ => .error e
  | _, _, _, .error e => .error e

/-! ### Units that leave use (R208, R261) -/

/-- Lines of a frame leave every cluster cache (R261). Lines are numbered by Class D address / 256. -/
def dropLines (s : State) (far : Bool) (f : Nat) : State :=
  let base := addrVa (frameAddr s far f 0) / 256
  { s with clusters := (s.clusters.foldl (fun t p =>
      tput {} t p.1 { p.2 with lines := p.2.lines.filter (fun l => !(base ≤ l.1 && l.1 < base + 256)) }) s.clusters) }

/-- A unit stops being used: it returns by R208. -/
def leaveUse (s : State) (u : PoolUnit) : State :=
  { s with pg := { s.pg with returning := s.pg.returning ++ [{ unit := u, at_ := s.breath.num, before := s.dispatches }] } }

/-- A unit is free again. -/
def freeUnit (s : State) (u : PoolUnit) : State :=
  match u with
  | .frame far f =>
    let s1 := dropLines s far f
    if far then { s1 with pg := { s1.pg with used1 := dropOne s1.pg.used1 f } }
    else { s1 with pg := { s1.pg with used0 := dropOne s1.pg.used0 f } }
  | .lpn n => { s with pg := { s.pg with usedLpn := dropOne s.pg.usedLpn n, autoWait := s.pg.autoWait.filter (fun p => p.1 ≠ n) } }
  | .blk b => { s with pg := { s.pg with usedBlk := dropOne s.pg.usedBlk b } }

def takeUnit (s : State) (u : PoolUnit) : State :=
  match u with
  | .frame far f =>
    if far then { s with pg := { s.pg with used1 := insUp s.pg.used1 f } }
    else { s with pg := { s.pg with used0 := insUp s.pg.used0 f } }
  | .lpn n => { s with pg := { s.pg with usedLpn := insUp s.pg.usedLpn n } }
  | .blk b => { s with pg := { s.pg with usedBlk := insUp s.pg.usedBlk b } }

/-- A discarded copy's write into a frame is still outstanding. -/
def copyPending (s : State) (u : PoolUnit) : Bool :=
  match u with
  | .frame far f => s.mem.reqs.any (fun r => match r.owner with
      | .copy _ t x => t = far && x = f
      | _ => false)
  | _ => false

/-- R208: at a boundary, every unit goes back for which no task dispatched before its change still runs, and into which no
write of a discarded copy is outstanding (log 84). -/
def poolReturn (s : State) : State :=
  let ready := fun (r : Returning) => decide (r.at_.toNat < s.breath.num.toNat) && !s.tasks.any (fun t => decide (t.serial < r.before))
    && !copyPending s r.unit
  let go := s.pg.returning.filter ready
  let s1 := { s with pg := { s.pg with returning := s.pg.returning.filter (fun r => !ready r) } }
  go.foldl (fun st r => freeUnit st r.unit) s1

/-! ### Migrations (R218) -/

/-- Write a page-information entry now; a region address that does not translate is left as it stands. -/
def putInfo (s : State) (lpn : Nat) (i : InfoEntry) : State :=
  match pagesOf s 0 true (infoAddr s lpn) 16 with
  | .error _ => s
  | .ok ps =>
    (ps.foldl (fun (acc : State × List Byte) p =>
      (storeMem acc.1 p.2.1 (acc.2.take p.2.2), acc.2.drop p.2.2)) (s, infoBytes i)).1

def countCancelled (s : State) : State := { s with pg := { s.pg with cancelled := satInc32 s.pg.cancelled } }

def findMig (s : State) (lpn : Nat) : Option Migration := s.pg.migrations.find? (fun m => m.lpn = lpn)

def dropMig (s : State) (lpn : Nat) : State :=
  { s with pg := { s.pg with migrations := s.pg.migrations.filter (fun m => m.lpn ≠ lpn) } }

/-- Discard the copy of a page in COPYING or COPIED (Table 10.11): its writes that no tag carries yet go, ALT returns by R208 and
the migration counts as cancelled. `keep` writes the entry back as RESIDENT; a page that goes while SWITCHED gives up its left
frame. -/
def cancelMig (s : State) (lpn : Nat) (keep : Bool) : State :=
  let s0 := { s with mem := { s.mem with reqs := s.mem.reqs.filter (fun r => match r.owner with
    | .copy l _ _ => l ≠ lpn || r.tag.isSome
    | _ => true) } }
  match findMig s lpn, readInfo s lpn with
  | some _, .ok i =>
    if i.st = 2 || i.st = 3 then
      let s1 := leaveUse (countCancelled (dropMig s0 lpn)) (.frame i.altFar i.alt)
      if keep then putInfo s1 lpn { i with st := 1, alt := 0, altFar := false } else s1
    else if i.st = 4 && !keep then leaveUse (dropMig s lpn) (.frame i.altFar i.alt)
    else s
  | some _, .error _ => countCancelled (dropMig s0 lpn)
  | none, _ => s

/-- How a request to move a page ends. -/
inductive MigStart where
  | placed             -- in its tier already, RESIDENT or SWITCHED, or in no state that Table 10.11 gives it (R225)
  | waits              -- a copy is under way
  | switched           -- SWITCHED the other way
  | writing            -- an append is writing the page
  | started (s : State)
  | noFrame
  | mismatch (blk : W64) (blocks : Nat)
  | err (e : MErr)

/-- An append has writes of the frame outstanding: a copy of the page would be discarded (Table 10.11). -/
def frameWritten (s : State) (far : Bool) (f : Nat) : Bool :=
  s.items.any (fun i => i.stage = .executing && i.staged.contains (.wrote far f))

/-- The requests of a copy of a page (R218, R241, R269): its bytes from the Paging Engine's pool, the check entries from the control
cores' (Table 12.3), all under context 0x000. -/
def copyReqs (s : State) (lpn : Nat) (far : Bool) (f : Nat) (bs : List Byte) : Except PErr (List Req) :=
  let b : PageBuf := { far := far, frame := f, base := some bs, writes := [] }
  let make := fun (pool : Nat) (o : Out) => match writeBlocks s 0 o.addr o.bytes with
    | .error e => Except.error (PErr.mem e)
    | .ok l => .ok (l.map (writeReq (.copy lpn far f) pool none 0))
  match entryOuts s b with
  | .error e => .error e
  | .ok es =>
    match appendAll (make 64) (bodyOuts s b), appendAll (make 67) es with
    | .ok x, .ok y => .ok (x ++ y)
    | .error e, _ => .error e
    | _, .error e => .error e

/-- Start moving a RESIDENT page to a tier: ALT takes a frame, and the copy's writes are issued. -/
def startCopy (s : State) (lpn : Nat) (i : InfoEntry) (far : Bool) (item : Option (Nat × W32)) : MigStart :=
  match pickFree (busyFrames s [] far) 0 (tierFrames s far) s.free with
  | none => .noFrame
  | some f =>
    match readPage s i.far i.frame, pagesOf s 0 true (infoAddr s lpn) 16 with
    | .error (.mem e), _ => .err e
    | .error (.check b n), _ => .mismatch b n
    | .error _, _ => .placed
    | _, .error e => .err e
    | .ok bs, .ok _ =>
      match copyReqs s lpn far f bs with
      | .error (.mem e) => .err e
      | .error _ => .placed
      | .ok rs =>
        let s1 := countVerified (takeUnit { s with free := s.free + 1 } (.frame far f)) (v1Blocks s (frameAddr s i.far i.frame 0) 65536)
        let s2 := { s1 with pg := { s1.pg with migrations := s1.pg.migrations ++ [{ lpn := lpn, far := far, item := item }] } }
        .started (rs.foldl issueReq (putInfo (dropLines s2 far f) lpn { i with st := 2, altFar := far, alt := f }))

/-- A request to move a page to a tier (Table 10.11). A page whose entry is in no state that the table gives it, which an image
that breaks R225 may bring, is left where it stands, so that no item waits for it (log 12). -/
def startMig (s : State) (lpn : Nat) (far : Bool) (item : Option (Nat × W32)) : MigStart :=
  match readInfo s lpn with
  | .error e => .err e
  | .ok i =>
    if (i.st = 1 || i.st = 4) && i.far = far then .placed
    else if i.st = 1 then
      if freeUnreserved s [] [] far ≤ 0 then .noFrame
      else if frameWritten s i.far i.frame then .writing
      else startCopy s lpn i far item
    else if (findMig s lpn).isNone then .placed
    else if i.st = 4 then .switched
    else if i.st = 2 || i.st = 3 then .waits
    else .placed

/-- A demand access that no item waits on is answered badly: the event is logged (R217, R242). -/
def badAccess (s : State) (e : MErr) : State :=
  match e with
  | .bad a r => bellRaise s (if r = .poison then 0x0030 else 0x0031) 0 0 0 (addrKey a)
  | _ => s

/-- A page of a copy failed its check (R218, Table 17.2). -/
def pageCheck (s : State) (lpn n : Nat) : State := bellRaise (countVerified s n) 0x0033 0 0 0 (lpn % 2 ^ 28)

/-- An automatic migration (R220): dropped and counted when no frame is available or its copy cannot be made, discarded and
counted while an append writes the page, waiting while the page is SWITCHED; it never fails an item. -/
def autoMig (s : State) (far : Bool) (lpn : Nat) : State :=
  if isK5 s then s else
  match startMig s lpn far none with
  | .started s1 => s1
  | .noFrame | .writing => countCancelled s
  | .mismatch _ n => countCancelled (pageCheck s lpn n)
  | .err e => countCancelled (badAccess s e)
  | .switched => if s.pg.autoWait.contains (lpn, far) then s
      else { s with pg := { s.pg with autoWait := s.pg.autoWait ++ [(lpn, far)] } }
  | .placed | .waits => s

/-- A page is RESIDENT again: the automatic migrations that waited for it are requested. -/
def autoResume (s : State) (lpn : Nat) : State :=
  let ws := s.pg.autoWait.filter (fun p => p.1 = lpn)
  ws.foldl (fun st p => autoMig st p.2 lpn) { s with pg := { s.pg with autoWait := s.pg.autoWait.filter (fun p => p.1 ≠ lpn) } }

/-- Demote the pages of relative layers of an entry that one sequence alone names (R220, Table 10.13). -/
def demotePages (s : State) (e : SeqEntry) (first n : Nat) : State :=
  match entryPages s e first n with
  | .error x => badAccess s x
  | .ok ps => ps.foldl (fun st lpn =>
      match readInfo st lpn with
      | .ok i => if i.refcnt = 1 && !i.far then autoMig st true lpn else st
      | .error x => badAccess st x) s

def promotePages (s : State) (e : SeqEntry) (first n : Nat) : State :=
  match entryPages s e first n with
  | .error x => badAccess s x
  | .ok ps => ps.foldl (fun st lpn => autoMig st false lpn) s

/-- A BANK_STAGE of TARGET 0 has begun executing and its image has not been swapped in (R224). -/
def seqStaging (s : State) : Bool :=
  s.pg.staged.isSome || s.items.any (fun i => i.opcode = 0x27 && decide (i.stage = Stage.executing) && cmdAt i.cmd 46 1 = 0)

/-- The demotion walk of one breath (R220): SCAN entries of the active bank from the walk's place on, in rising
index. It stops while a staged image waits (R224) and on a Kiqua-5 (R223). -/
def demotionScan (s : State) : State :=
  if isK5 s || seqStaging s || !running s then s else
  let n := min s.pg.scan.toNat 65536
  let start := s.pg.walkPos
  let hit := fun (k : Nat) => decide ((k + 65536 - start % 65536) % 65536 < n)
  let rot := (s.pg.active.filter (fun p => start ≤ p.1)) ++ (s.pg.active.filter (fun p => p.1 < start))
  let due := rot.filter (fun p => hit p.1 && p.2.live &&
    ((p.2.hint = 0 && s.pg.demoteAge ≠ 0 && decide (s.pg.demoteAge.toNat ≤ cdiff (lowBreath s) p.2.lastUse)) || p.2.hint = 2))
  let s1 := due.foldl (fun st p => demotePages st p.2 0 p.2.layerCount.toNat) s
  { s1 with pg := { s1.pg with walkPos := (start + n) % 65536 } }

/-- Start the promotions that attention reads asked for (R220). -/
def promoteWanted (s : State) : State :=
  let ps := s.pg.promoWanted
  ps.foldl (fun st lpn => autoMig st false lpn) { s with pg := { s.pg with promoWanted := [] } }

/-! ### Commit of a Paging Engine item (R210) -/

/-- What a staged change does once its memory writes have landed. -/
def applyChange (s : State) (c : Change) : State :=
  match c with
  | .journal _ _ _ | .info _ _ _ | .list _ _ _ => s
  | .take u => takeUnit s u
  | .drop u => leaveUse s u
  | .resv far d =>
    let v := fun (r : W32) => BitVec.ofInt 32 ((r.toNat : Int) + d)
    if far then { s with pg := { s.pg with resv1 := v s.pg.resv1 } } else { s with pg := { s.pg with resv0 := v s.pg.resv0 } }
  | .cow => { s with pg := { s.pg with cow := satInc32 s.pg.cow } }
  | .cancel lpn => cancelMig s lpn false
  | .wrote far f => dropLines s far f
  | .entry i e =>
    -- LAST_USE and HINT are not the item's to change
    let old := getSeq s i
    let e' := if e.live && old.live then { e with lastUse := old.lastUse, hint := old.hint } else e
    { s with pg := { s.pg with active := tput {} s.pg.active i e' } }

def isCancel (c : Change) : Bool :=
  match c with
  | .cancel _ => true
  | _ => false

/-- Memory writes of one part of an application: 1 the journal, 2 page information, 3 lists, cut into requests' blocks. -/
def partWrites (cs : List Change) (part : Nat) : List (W64 × Nat × List Byte) :=
  let cut := fun (a : W64) (pa : Nat) (bs : List Byte) => blocksOf (bs.length / 256 + 2) a pa bs
  cs.flatMap (fun c => match c with
    | .journal a pa bs => if part = 1 then cut a pa bs else []
    | .info a pa bs => if part = 2 then cut a pa bs else []
    | .list a pa bs => if part = 3 then cut a pa bs else []
    | _ => [])

/-- Every part has landed: the pools, reservations and the Sequence Table entry change, and the item commits. -/
def applyEnd (s : State) (q : Nat) (idx : W32) (cs : List Change) : State :=
  let s1 := (cs.filter (fun c => !isCancel c)).foldl applyChange s
  commitNow (modItem s1 q idx (fun x => { x with staged := [] })) q idx

/-- The next part of an application that writes memory is issued under context 0x000 (R206, R241); after the last, the item
commits. -/
def applyPart (s : State) (q : Nat) (idx : W32) (cs : List Change) : List Nat → State
  | [] => applyEnd s q idx cs
  | part :: t =>
    match partWrites cs part with
    | [] => applyPart s q idx cs t
    | ws => (ws.map (writeReq (.output q idx) 64 none 0)).foldl issueReq (modItem s q idx (fun x => { x with applying := part }))

/-- An item whose effect is issued, and whose writes are acknowledged, goes on with its application, in the order of R210. Copies of
pages that go are discarded before, while their entries still stand. -/
def commitPaging (s : State) (q : Nat) (idx : W32) : State :=
  match findItem s q idx with
  | none => s
  | some i =>
    let s1 := if i.applying = 0 then (i.staged.filter isCancel).foldl applyChange s else s
    applyPart s1 q idx i.staged (([1, 2, 3] : List Nat).drop i.applying)

/-- A reset met an application under way: it is completed on recovery (R210). -/
def recoverApply (s : State) (q : Nat) (idx : W32) : State :=
  match findItem s q idx with
  | none => s
  | some i =>
    let ws := (([1, 2, 3] : List Nat).drop (i.applying - 1)).flatMap (partWrites i.staged)
    applyEnd (ws.foldl (fun st w => storeMem st w.2.1 w.2.2) s) q idx i.staged

/-- Stop an item with an error (R209, R210, R242, R244, R269). -/
def pErr (s : State) (q : Nat) (idx : W32) (e : PErr) : State :=
  match e with
  | .shape => endItem s q idx 0x15 0
  | .mem m => itemErr s q idx m
  | .check b n =>
    match findItem s q idx with
    | some i => blockMismatch s q idx i.ctx b n
    | none => s
  | .page lpn b n => endItem (pageCheck s lpn n) q idx 0x22 (addrKey b)

end Sys2Proof.Machine
end

