-- ==== Sys2Proof/Machine/Paging.lean ====
section
/-! DEFINITION. The Paging Engine's commands on the Sequence Table and on pages (R209 to R224), and its page
events. -/

namespace Sys2Proof.Machine

def pSeq (i : Item) : Nat := cmdAt i.cmd 24 2
def pSeq2 (i : Item) : Nat := cmdAt i.cmd 28 2
def pOpSn (i : Item) : W32 := BitVec.ofNat 32 (cmdAt i.cmd 32 4)
def pTokens (i : Item) : Nat := cmdAt i.cmd 36 4
def pLayer (i : Item) : Nat := cmdAt i.cmd 40 2
def pLayers (i : Item) : Nat := cmdAt i.cmd 42 2
def pTier (i : Item) : Nat := cmdAt i.cmd 44 1
def pHint (i : Item) : Nat := cmdAt i.cmd 45 1
def pTarget (i : Item) : Nat := cmdAt i.cmd 46 1

/-- The layer range of a command lies inside the entry's layers. -/
def layersInside (i : Item) (e : SeqEntry) : Bool :=
  decide (e.layerFirst.toNat ≤ pLayer i) && decide (pLayer i + pLayers i ≤ e.layerFirst.toNat + e.layerCount.toNat)

/-- Sequence Table entries that a state-changing command names (R211). -/
def pEntries (i : Item) : List Nat := if i.opcode = 0x22 then [pSeq i, pSeq2 i] else [pSeq i]

/-- An earlier item of the queue that changes one of the same entries has begun and not ended: from one queue they are applied in
order (R211, log 27). A PAGE_MIGRATE waits for earlier ones, and holds none back (Table 10.11). -/
def orderHeld (s : State) (i : Item) : Bool :=
  decide (0x20 ≤ i.opcode ∧ i.opcode ≤ 0x25) &&
  (s.items.takeWhile (fun j => !isItem i.q i.idx j)).any (fun j =>
    j.q = i.q && j.stage = .executing && decide (0x20 ≤ j.opcode ∧ j.opcode ≤ 0x23) && (pEntries j).any (pEntries i).contains)

/-- Another item has staged changes and not committed them: the engine carries out one such item at a time. -/
def stagingBusy (s : State) (q : Nat) (idx : W32) : Bool :=
  s.items.any (fun i => !isItem q idx i && i.staged ≠ [])

/-- Steps 1 and 2 of R209: the status that ends the item, if one does. -/
def pChecks (s : State) (i : Item) (hint : Bool) : Option (Nat × Nat) :=
  let e := getSeq s (pSeq i)
  if e.live && e.ctx ≠ i.ctx then some (0x13, 0)
  else if !hint && decide (sgn32 (pOpSn i - e.lastSn).toNat ≤ 0) then some (0x04, e.lastSn.toNat)
  else none

/-- A geometry in range (R199, R212, Tables 10.2 and 10.3). -/
def geomLegal (g : Geometry) : Bool :=
  decide (1 ≤ g.kvHeads.toNat) && decide (1 ≤ g.headDim.toNat ∧ g.headDim.toNat ≤ 256) && isPicFmt g.picFmt.toNat
    && isRowFmt g.srcFmt.toNat && isKvFmt g.kvFmt.toNat && decide (g.shIdx.toNat ≤ g.shN.toNat)

/-- TIER is legal (R212, R219, R223). -/
def tierLegal (s : State) (t : Nat) : Bool := t = 0 || (t = 1 && !isK5 s)

/-! ### What each command stages -/

/-- SEQ_ALLOC (R212). -/
def stageAlloc (s : State) (i : Item) : Except PErr Work :=
  let old := getSeq s (pSeq i)
  let g := tget {} s.pg.geometry i.ctx.toNat
  if old.live || pLayers i = 0 || decide (65536 < pLayer i + pLayers i) || !tierLegal s (pTier i) || !geomLegal g
  then .error .shape else
  let far := pTier i = 1
  let e : SeqEntry :=
    { ver := 0x10, state := 1, kvFmt := g.kvFmt, srcFmt := g.srcFmt, headDim := BitVec.ofNat 16 g.headDim.toNat
      kvHeads := g.kvHeads, layerFirst := BitVec.ofNat 16 (pLayer i), layerCount := BitVec.ofNat 16 (pLayers i)
      ctx := i.ctx, nextLayer := BitVec.ofNat 16 (pLayers i), lastSn := pOpSn i, shIdx := g.shIdx, shN := g.shN
      log2Blk := g.log2Blk, mirror := g.mirror, capacity := BitVec.ofNat 32 (pTokens i), picFmt := g.picFmt
      homeTier := far }
  let n := e.framesFor (heldBelow e (pTokens i))
  if freeUnreserved s [] [] far < (n : Int) || decide (2 ^ 32 ≤ n) then .error .shape else
  let w := workOf s { e with resv := BitVec.ofNat 32 n }
  .ok (if n = 0 then w else { w with resv := [(far, (n : Int))] })

/-- Encoded K or V of one key: data bytes, scale bytes, exact decoded values (R79, R80, R82, R202). -/
structure Encoded where
  data : List Byte
  scales : List Byte
  exact : List Num
deriving DecidableEq, Repr

def encodeKv (e : SeqEntry) (xs : List Num) : Encoded :=
  let padded := xs ++ List.replicate (32 * e.nb - xs.length) (.fin false 0 0)
  let w := (kvWidth e.kvFmt.toNat).1
  match mxElemFmt e.kvFmt.toNat with
  | some f =>
    let bs := (pieces 32 padded).map (fun b => mxEncode f (b.map rnd32))
    { data := bs.flatMap (fun b => toLE (4 * w) (packElems w b.1))
      scales := bs.map (fun b => b.2)
      exact := (bs.flatMap (fun b => (List.range 32).map (fun k => mxDecode f (packElems w b.1) b.2 k))).take xs.length }
  | none =>
    let cs := padded.map (roundCode e.kvFmt.toNat)
    { data := cs.flatMap (fun c => toLE (w / 8) c.toNat), scales := []
      exact := (cs.take xs.length).map (decodeCode e.kvFmt.toNat) }

/-- Write one key of one head: K, V and piccolo record (R202, R203, R214). -/
def writeKey (w : Work) (r g kpos : Nat) (k v : List Num) : Except PErr Work :=
  let e := w.entry
  let pi := localPos e kpos
  let x := pi % e.kpp
  let y := pi % e.ppp
  let ek := encodeKv e k
  let ev := encodeKv e v
  let rec' := picKeyOf ek.exact
  match w.ensure false (e.kvIndex (pi / e.kpp) r g 0) 0 with
  | .error m => .error m
  | .ok (far0, f0, w1) =>
    match (w1.write far0 f0 (x * e.bD) ek.data).ensure false (e.kvIndex (pi / e.kpp) r g 1) 1 with
    | .error m => .error m
    | .ok (far1, f1, w2) =>
      match (w2.write far1 f1 (x * e.bD) ev.data).ensure true (e.picIndex (pi / e.ppp) r g) 2 with
      | .error m => .error m
      | .ok (far2, f2, w3) =>
        let put := fun (w0 : Work) off bs => w0.write far2 f2 off bs
        let w4 := put w3 (y * e.nb * 16) (rec'.blocks.flatMap picBytes)
        let w5 := put w4 (e.ppp * 16 * e.nb + y * e.nb) (rec'.blocks.map (fun b => b.scale))
        let w6 := put w5 (e.ppp * 17 * e.nb + 4 * y) (toLE 4 rec'.eps.toNat)
        let w7 := put w6 (e.ppp * (17 * e.nb + 4) + 4 * y) (toLE 4 rec'.l1.toNat)
        if e.mx then
          .ok (put (put w7 (e.ppp * (17 * e.nb + 8) + y * e.nb) ek.scales) (e.ppp * (18 * e.nb + 8) + y * e.nb) ev.scales)
        else .ok w7

/-- Keys of one token of one layer: its source bytes hold K then V, head by head (R214). -/
def writeToken (w : Work) (r kpos : Nat) (src : List Byte) : Except PErr Work :=
  let e := w.entry
  let hd := e.headDim.toNat
  let xs := (elems e.srcFmt.toNat src).map (decodeCode e.srcFmt.toNat)
  (List.range e.kvHeads.toNat).foldl (fun acc g =>
    match acc with
    | .error m => .error m
    | .ok w0 =>
      let at_ := fun t => (xs.drop ((t * e.kvHeads.toNat + g) * hd)).take hd
      writeKey w0 r g kpos (at_ 0) (at_ 1)) (.ok w)

/-- The source of one held token: relative layer, token, bytes, and the blocks verified with it. -/
structure SrcTok where
  r : Nat
  tok : Nat
  bytes : List Byte
  verified : Nat
deriving DecidableEq, Repr

/-- The source bytes of an append, block checks verified over each run of held tokens (R214, R268). -/
def appendSource (s : State) (i : Item) (e : SeqEntry) (start : Nat) : Except PErr (List SrcTok) :=
  let sz := 2 * e.kvHeads.toNat * e.headDim.toNat * elemBytes e.srcFmt.toNat
  let src := cmd64 i.cmd 16
  let t := pTokens i
  let held := (List.range t).filter (fun k => holdsPos e (start + k))
  -- runs of consecutive held tokens: (first, count)
  let runs := held.foldr (fun k acc =>
    match acc with
    | (f, n) :: tl => if k + 1 = f then (k, n + 1) :: tl else (k, 1) :: (f, n) :: tl
    | [] => [(k, 1)]) []
  appendAll (fun r => appendAll (fun (run : Nat × Nat) =>
    let a := addrAdd src ((r * t + run.1) * sz)
    match readVa s i.ctx a (run.2 * sz) with
    | .error m => .error (.mem m)
    | .ok bs =>
      match verifyRead s i.ctx a bs with
      | .error m => .error (.mem m)
      | .ok (.mismatch b n) => .error (.check b n)
      | .ok (.fine n) => .ok ((List.range run.2).map (fun k =>
          { r := r, tok := run.1 + k, bytes := (bs.drop (k * sz)).take sz, verified := if k = 0 then n else 0 }))) runs)
    (List.range (pLayers i))

/-- SEQ_APPEND (R213, R214). -/
def stageAppend (s : State) (i : Item) : Except PErr Work :=
  let e := getSeq s (pSeq i)
  let t := pTokens i
  let rel := pLayer i - e.layerFirst.toNat
  let opening := e.complete && pLayer i = e.layerFirst.toNat
  let continuing := !e.complete && pLayer i = e.layerFirst.toNat + e.nextLayer.toNat && t = e.step.toNat
  if !e.live || !layersInside i e || !(opening || continuing) || (opening && decide (2 ^ 32 ≤ e.len.toNat + t))
  then .error .shape else
  let start := if opening then e.len.toNat else e.len.toNat - e.step.toNat
  match appendSource s i e start with
  | .error m => .error m
  | .ok toks =>
    let fin := toks.foldl (fun acc p =>
      match acc with
      | .error m => .error m
      | .ok w => writeToken { w with verified := w.verified + p.verified } (rel + p.r) (start + p.tok) p.bytes)
      (Except.ok (workOf s e))
    match fin with
    | .error m => .error m
    | .ok w =>
      let e1 := w.entry
      let e2 := if opening then
          { e1 with len := e1.len + BitVec.ofNat 32 t, step := BitVec.ofNat 32 t, nextLayer := BitVec.ofNat 16 (pLayers i) }
        else { e1 with nextLayer := e1.nextLayer + BitVec.ofNat 16 (pLayers i) }
      .ok { w with entry := { e2 with lastSn := pOpSn i } }

/-- Name a page of SEQ in SEQ2's list, if SEQ's list names one. -/
def sharePage (src : SeqEntry) (w : Work) (pic : Bool) (j : Nat) : Except PErr Work :=
  let t := if pic then (src.picRoot.toNat, src.picLv.toNat) else (src.kvRoot.toNat, src.kvLv.toNat)
  match w.lookup t.1 t.2 j with
  | .error m => .error m
  | .ok lpn =>
    if lpn = 0 then .ok w else
    match w.getInfo lpn with
    | .error m => .error m
    | .ok inf => (w.setInfo lpn { inf with refcnt := inf.refcnt + 1 }).setList pic j lpn

def foldWork {α : Type} (f : Work → α → Except PErr Work) (w : Work) (l : List α) : Except PErr Work :=
  l.foldl (fun acc a =>
    match acc with
    | .error m => .error m
    | .ok w0 => f w0 a) (.ok w)

/-- SEQ_FORK (R215). The destination index is entered by `runStaged`. -/
def stageFork (s : State) (i : Item) : Except PErr Work :=
  let e := getSeq s (pSeq i)
  if !e.live || !e.complete || decide (e.len.toNat < pTokens i) || (getSeq s (pSeq2 i)).live then .error .shape else
  let d : SeqEntry :=
    { e with len := BitVec.ofNat 32 (pTokens i), step := 0, nextLayer := e.layerCount, capacity := 0, resv := 0
             lastSn := pOpSn i, kvRoot := 0, picRoot := 0, kvLv := 0, picLv := 0, lastUse := 0 }
  let n := heldBelow e (pTokens i)
  let lg := (List.range e.layerCount.toNat).flatMap (fun r => (List.range e.kvHeads.toNat).map (fun g => (r, g)))
  let kv := (List.range (ceilDiv' n e.kpp)).flatMap (fun p => lg.flatMap (fun x => [e.kvIndex p x.1 x.2 0, e.kvIndex p x.1 x.2 1]))
  let pic := (List.range (ceilDiv' n e.ppp)).flatMap (fun p => lg.map (fun x => e.picIndex p x.1 x.2))
  match foldWork (fun w j => sharePage e w false j) (workOf s d) kv with
  | .error m => .error m
  | .ok w => foldWork (fun w j => sharePage e w true j) w pic

/-- One list's naming of a page goes (R216): at zero the page is freed, and a copy under way is discarded. -/
def releasePage (w : Work) (lpn : Nat) : Except PErr Work :=
  match w.getInfo lpn with
  | .error m => .error m
  | .ok inf =>
    if 1 < inf.refcnt then .ok (w.setInfo lpn { inf with refcnt := inf.refcnt - 1 })
    else
      let w1 := w.setInfo lpn {}
      .ok { w1 with dropped := w1.dropped ++ [.frame inf.far inf.frame, .lpn lpn],
                    cancels := if 2 ≤ inf.st then w1.cancels ++ [lpn] else w1.cancels }

/-- An entry's pages, list blocks and reservation go (R216). -/
def releaseAll (s : State) (e : SeqEntry) : Except PErr Work :=
  match leaves s e.kvLv.toNat e.kvRoot.toNat 0, leaves s e.picLv.toNat e.picRoot.toNat 0 with
  | .ok (b1, l1), .ok (b2, l2) =>
    match foldWork releasePage (workOf s e) ((l1 ++ l2).map (fun p => p.2)) with
    | .error m => .error m
    | .ok w => .ok { w with dropped := w.dropped ++ (b1 ++ b2).map PoolUnit.blk,
                            resv := if e.resv = 0 then [] else [(e.homeTier, -((e.resv.toNat : Nat) : Int))] }
  | .error m, _ => .error (.mem m)
  | _, .error m => .error (.mem m)

/-- SEQ_FREE (R216). -/
def stageFree (s : State) (i : Item) : Except PErr Work :=
  let e := getSeq s (pSeq i)
  if !e.live then .error .shape else
  match releaseAll s e with
  | .error m => .error m
  | .ok w => .ok { w with entry := { ver := e.ver, lastSn := pOpSn i } }

/-! ### Running a command that stages changes -/

/-- The page writes of a working view go out, data from the Paging Engine's pool and check entries from the control cores' (Table
12.3), all translated before the first is issued. -/
def issuePages (s : State) (i : Item) (ps : List PageBuf) : Except PErr State :=
  match appendAll (entryOuts s) ps with
  | .error m => .error m
  | .ok es =>
    match allBlocks s 0 (ps.flatMap (bodyOuts s)), allBlocks s 0 es with
    | .ok a, .ok b => .ok ((a.map (writeReq (.output i.q i.idx) 64 none 0) ++ b.map (writeReq (.output i.q i.idx) 67 none 0)).foldl issueReq s)
    | .error m, _ => .error (.mem m)
    | _, .error m => .error (.mem m)

/-- LAST_SN of SEQ after the item: DETAIL of a success (Table 2.21). -/
def stageDone (s : State) (i : Item) (w : Work) (extra : List Change) : State :=
  let target := if i.opcode = 0x22 then pSeq2 i else pSeq i
  match w.changes target, issuePages s i w.pages with
  | .ok cs, .ok s1 =>
    let appends := i.opcode = 0x21
    -- an append discards copies of the pages it writes now; a free discards them at its commit
    let s2 := if appends then w.cancels.foldl (fun st l => cancelMig st l true) s1 else s1
    let drops := if appends then [] else w.cancels.map Change.cancel
    let s3 := modItem (countVerified { s2 with free := w.free + 16 }
        (w.verified + w.pages.foldl (fun n b => n + bufVerified s b) 0)) i.q i.idx (fun x => { x with
      issued := true, staged := cs ++ extra ++ drops, status := 0, detail := BitVec.ofNat 64 (pOpSn i).toNat })
    if outputsLeft s3 i.q i.idx = 0 then commitPaging s3 i.q i.idx else s3
  | .error m, _ => pErr s i.q i.idx m
  | _, .error m => pErr s i.q i.idx m

/-- A Paging Engine command begins, or resumes at its faulting request (R209, R244); steps 1 and 2 of R209 are made when it begins. -/
def pgRun (s : State) (q : Nat) (idx : W32) (op : Nat) (hint waits : Bool) (f : State → Item → State) : State :=
  match findItem s q idx with
  | none => s
  | some i =>
    let begins := mayBegin s i && !(waits && seqStaging s) && !orderHeld s i
    if i.opcode ≠ op || !(begins || (mayRun s i && !i.issued)) then s else
    let s1 := modItem s q idx (fun x => { x with stage := .executing, begun := true })
    if op = 0x26 || op = 0x27 || op = 0x28 || i.stage = .executing then f s1 i else
    match pChecks s i hint with
    | some (st, d) => endNow s1 q idx st d
    | none => f s1 i

/-- The same for a command that stages changes. -/
def pgStage (s : State) (q : Nat) (idx : W32) (op : Nat) (f : State → Item → Except PErr Work) : State :=
  if stagingBusy s q idx then s else
  pgRun s q idx op false true (fun s1 i =>
    match f s1 i with
    | .error e => pErr s1 q idx e
    | .ok w =>
      -- SEQ's own LAST_SN moves with a fork too (R210)
      let e := getSeq s1 (pSeq i)
      let extra := if op = 0x22 then [Change.entry (pSeq i) { e with lastSn := pOpSn i }] else []
      stageDone s1 i w extra)

/-! ### PAGE_MIGRATE and TIER_HINT -/

/-- The later of two operation numbers (R209). -/
def laterSn (a b : W32) : W32 := if 0 < sgn32 (b - a).toNat then b else a

/-- Go over the pages of a commanded migration: start what may start; the result says whether all are placed. -/
def migGo (q : Nat) (idx : W32) (far : Bool) : List Nat → State → Bool → Except PErr (State × Bool)
  | [], s, all => .ok (s, all)
  | lpn :: t, s, all =>
    match startMig s lpn far (some (q, idx)) with
    | .placed => migGo q idx far t s all
    | .waits | .switched | .writing => migGo q idx far t s false
    | .started s1 => migGo q idx far t s1 false
    | .noFrame => .error .shape
    | .mismatch b n => .error (.page lpn b n)
    | .err m => .error (.mem m)

/-- Discard the copies that an item commanded and that have not switched. -/
def dropMigs (s : State) (q : Nat) (idx : W32) : State :=
  (s.pg.migrations.filter (fun m => m.item = some (q, idx))).foldl (fun st m => cancelMig st m.lpn true) s

/-- An executing PAGE_MIGRATE goes on (R219): it commits once every page is placed. -/
def migAdvance (s : State) (q : Nat) (idx : W32) : State :=
  match findItem s q idx with
  | none => s
  | some i =>
    if i.opcode ≠ 0x24 || i.issued || !mayRun s i || stagingBusy s q idx then s else
    let e := getSeq s (pSeq i)
    match entryPages s e (pLayer i - e.layerFirst.toNat) (pLayers i) with
    | .error m => itemErr s q idx m
    | .ok ps =>
      match migGo q idx (pTier i = 1) ps s true with
      | .error (.mem m) => itemErr s q idx m
      | .error (.page l b n) => pErr (countCancelled (dropMigs s q idx)) q idx (.page l b n)
      | .error m => pErr (dropMigs s q idx) q idx m
      | .ok (s1, all) =>
        if !all then s1 else
        match journalWrite s1 s1.free with
        | .error m => pErr s1 q idx m
        | .ok js =>
          -- a later command of the entry may have been applied before it, and LAST_SN never falls
          let sn := laterSn (getSeq s1 (pSeq i)).lastSn (pOpSn i)
          let cs := js ++ [Change.entry (pSeq i) { getSeq s1 (pSeq i) with lastSn := sn }]
          commitPaging (modItem { s1 with free := s1.free + 16 } q idx (fun x => { x with
            issued := true, staged := cs, detail := BitVec.ofNat 64 sn.toNat })) q idx

/-- PAGE_MIGRATE (R219). -/
def pageMigrate (s : State) (q : Nat) (idx : W32) : State :=
  match findItem s q idx with
  | none => s
  | some i0 =>
    if i0.stage = .executing then migAdvance s q idx else
    pgRun s q idx 0x24 false true (fun s1 i =>
      let e := getSeq s1 (pSeq i)
      if !e.live || !layersInside i e || !tierLegal s1 (pTier i) then endItem s1 q idx 0x15 0
      else migAdvance s1 q idx)

/-- TIER_HINT (R221, R223, Table 10.13). -/
def tierHint (s : State) (q : Nat) (idx : W32) : State :=
  pgRun s q idx 0x25 true true (fun s1 i =>
    let e := getSeq s1 (pSeq i)
    let h := pHint i
    if !e.live || decide (4 < h) || (decide (3 ≤ h) && !layersInside i e) then endItem s1 q idx 0x15 0
    else
      let first := pLayer i - e.layerFirst.toNat
      let s2 := if h = 3 then promotePages s1 e first (pLayers i)
        else if h = 4 then demotePages s1 e first (pLayers i)
        else { s1 with pg := { s1.pg with active := tput {} s1.pg.active (pSeq i) { e with hint := BitVec.ofNat 8 h } } }
      commitNow (modItem s2 q idx (fun x => { x with detail := BitVec.ofNat 64 e.lastSn.toNat })) q idx)

/-! ### Page events (Table 10.11) -/

/-- The item that commanded a migration has ended without a commit: its copy is discarded (R210, R219). -/
def orphan (s : State) (m : Migration) : Bool :=
  match m.item with
  | some (q, x) => !(s.items.any (fun y => isItem q x y && decide (y.stage = Stage.executing)))
  | none => false

/-- A write of a copy awaits the memory side. -/
def copyWriting (s : State) (lpn : Nat) : Bool :=
  s.mem.reqs.any (fun r => match r.owner with
    | .copy l _ _ => l = lpn
    | _ => false)

/-- Every block of a copy is written and acknowledged (R218). -/
def pageCopyDone (s : State) (lpn : Nat) : State :=
  match findMig s lpn, readInfo s lpn with
  | some m, .ok i =>
    if i.st ≠ 2 || copyWriting s lpn then s else
    if orphan s m then cancelMig s lpn true else
    let s2 := putInfo s lpn { i with st := 3 }
    let f := fun (x : Migration) => if x.lpn = lpn then { x with at_ := s.breath.num } else x
    { s2 with pg := { s2.pg with migrations := s2.pg.migrations.map f } }
  | _, _ => s

/-- A write of a copy is answered (R242): a bad answer fails the item that commanded the migration, and discards an automatic one. -/
def copyAck (s : State) (lpn : Nat) (addr : W64) (resp : Resp) : State :=
  match resp with
  | .ok => s
  | x =>
    match findMig s lpn with
    | none => badAccess s (.bad addr x)
    | some m =>
      match m.item with
      | some (q, k) => itemErr (cancelMig s lpn true) q k (.bad addr x)
      | none => cancelMig (badAccess s (.bad addr x)) lpn true

/-- At the boundary after the copy was finished, FRAME and ALT are exchanged. -/
def pageSwitch (s : State) (lpn : Nat) : State :=
  match findMig s lpn, readInfo s lpn with
  | some m, .ok i =>
    if i.st ≠ 3 || decide (s.breath.num.toNat ≤ m.at_.toNat) then s else
    if orphan s m then cancelMig s lpn true else
    let i' := { i with far := i.altFar, frame := i.alt, altFar := i.far, alt := i.frame, st := 4, switchBr := (lowBreath s).toNat }
    let s1 := putInfo s lpn i'
    let f := fun (x : Migration) => if x.lpn = lpn then { x with at_ := s.breath.num } else x
    let pg := { s1.pg with
      migrations := s1.pg.migrations.map f
      demoted := if m.far then satInc32 s1.pg.demoted else s1.pg.demoted
      promoted := if m.far then s1.pg.promoted else satInc32 s1.pg.promoted }
    let s2 := { s1 with pg := pg }
    (match m.item with
     | some (q, x) => migAdvance s2 q x
     | none => s2)
  | _, _ => s

/-- The frame that a switched page left returns once no task dispatched before the switch runs. -/
def altFrameReturn (s : State) (lpn : Nat) : State :=
  match findMig s lpn, readInfo s lpn with
  | some m, .ok i =>
    if i.st ≠ 4 || s.tasks.any (fun t => decide (t.dispatched.toNat < m.at_.toNat)) then s
    else
      let s1 := freeUnit (putInfo (dropMig s lpn) lpn { i with st := 1, alt := 0, altFar := false }) (.frame i.altFar i.alt)
      let s2 := (s1.items.filter (fun x => x.opcode = 0x24 && x.stage = .executing)).foldl (fun st x => migAdvance st x.q x.idx) s1
      autoResume s2 lpn
  | _, _ => s

/-! ### The entries of a released context (R217) -/

/-- What the freeing of an entry has come to: the state, and what it could not process. -/
structure Freeing where
  s : State
  left : List MErr := []
deriving DecidableEq, Repr

/-- The pages that a list names and its blocks, as far as they can be read: a block that cannot keeps itself and what lies below
it. -/
def freeTree (f : Freeing) : Nat → Nat → Freeing × List Nat × List Nat
  | 0, lpn => (f, [], [lpn])
  | l + 1, blk =>
    match blockVals f.s blk with
    | .error e => ({ f with left := f.left ++ [e] }, [], [])
    | .ok vs => (vs.filter (fun v => v ≠ 0)).foldl (fun acc v =>
        let r := freeTree acc.1 l v
        (r.1, acc.2.1 ++ r.2.1, acc.2.2 ++ r.2.2)) (f, [blk], [])

/-- One list's naming of a page goes, as far as its entry can be read and written. -/
def freePage (f : Freeing) (lpn : Nat) : Freeing :=
  match readInfo f.s lpn, pagesOf f.s 0 true (infoAddr f.s lpn) 16 with
  | .ok inf, .ok _ =>
    if 1 < inf.refcnt then { f with s := putInfo f.s lpn { inf with refcnt := inf.refcnt - 1 } }
    else
      let s1 := if 2 ≤ inf.st then cancelMig f.s lpn false else f.s
      { f with s := leaveUse (leaveUse (putInfo s1 lpn {}) (.frame inf.far inf.frame)) (.lpn lpn) }
  | .error e, _ => { f with left := f.left ++ [e] }
  | _, .error e => { f with left := f.left ++ [e] }

/-- Free one LIVE entry as SEQ_FREE does, LAST_SN unchanged: what cannot be processed stays as it stands, and each bad response is
logged. The second result says that pages or list blocks were left held. -/
def freeEntry (s : State) (k : Nat) : State × Bool :=
  let e := getSeq s k
  let tree := fun (f : Freeing) (lv root : Nat) => if lv = 0 || root = 0 then (f, [], []) else freeTree f lv root
  let a := tree { s := s } e.kvLv.toNat e.kvRoot.toNat
  let b := tree a.1 e.picLv.toNat e.picRoot.toNat
  let f1 := (a.2.2 ++ b.2.2).foldl freePage b.1
  let s1 := (a.2.1 ++ b.2.1).foldl (fun st x => leaveUse st (.blk x)) f1.s
  let s2 := applyChange s1 (.entry k { ver := e.ver, lastSn := e.lastSn })
  let s3 := if e.resv = 0 then s2 else applyChange s2 (.resv e.homeTier (-((e.resv.toNat : Nat) : Int)))
  (f1.left.foldl badAccess s3, !f1.left.isEmpty)

/-- Every LIVE entry of context x; the count of entries whose pages were left held. -/
def freeCtxEntries (s : State) (x : CtxId) : State × Nat :=
  ((s.pg.active.filter (fun p => p.2.live && p.2.ctx = x)).map (fun p => p.1)).foldl (fun acc k =>
    let r := freeEntry acc.1 k
    (r.1, acc.2 + b2n r.2)) (s, 0)

/-! ### Meanings -/

def execSeqAlloc (q : Nat) (idx : W32) (s : State) : Host.Outcome State Fault Refusal :=
  work s (fun s => pgStage s q idx 0x20 stageAlloc)

def execSeqAppend (q : Nat) (idx : W32) (s : State) : Host.Outcome State Fault Refusal :=
  work s (fun s => pgStage s q idx 0x21 stageAppend)

def execSeqFork (q : Nat) (idx : W32) (s : State) : Host.Outcome State Fault Refusal :=
  work s (fun s => pgStage s q idx 0x22 stageFork)

def execSeqFree (q : Nat) (idx : W32) (s : State) : Host.Outcome State Fault Refusal :=
  work s (fun s => pgStage s q idx 0x23 stageFree)

def execPageMigrate (q : Nat) (idx : W32) (s : State) : Host.Outcome State Fault Refusal :=
  work s (fun s => pageMigrate s q idx)

def execTierHint (q : Nat) (idx : W32) (s : State) : Host.Outcome State Fault Refusal :=
  work s (fun s => tierHint s q idx)

def execPoolReturn (s : State) : Host.Outcome State Fault Refusal := atEdge s poolReturn

def execPageCopyDone (lpn : Nat) (s : State) : Host.Outcome State Fault Refusal := work s (fun s => pageCopyDone s lpn)

def execPageSwitch (lpn : Nat) (s : State) : Host.Outcome State Fault Refusal := atEdge s (fun s => pageSwitch s lpn)

def execAltFrameReturn (lpn : Nat) (s : State) : Host.Outcome State Fault Refusal := atEdge s (fun s => altFrameReturn s lpn)

end Sys2Proof.Machine
end

