-- ==== Sys2Proof/Machine/Trans.lean ====
section
/-! DEFINITION. Translation commands and events (chapter 11): walks and fills, the fault ring, FAULT_DONE,
PTC_INVAL, BANK_STAGE and the bank swaps, and the reissue of what a fault held. -/

namespace Sys2Proof.Machine

/-! ### Walks (R233, R235, R243, R244, R259) -/

/-- The requester's context is cached beside the bank (R235). -/
def cacheCtx (s : State) (ctx : CtxId) : State :=
  if s.tr.ctxCache.any (fun p => p.1 = ctx) then s else
  match ctxEntry s ctx with
  | (.ok, e) => { s with tr := { s.tr with ctxCache := s.tr.ctxCache ++ [(ctx, e)] } }
  | _ => s

def countWalk (s : State) : State := { s with tr := { s.tr with walks := satInc32 s.tr.walks } }
def countPfDrop (s : State) : State := { s with str := { s.str with pfDrop := satInc32 s.str.pfDrop } }
def countPfDiscard (s : State) : State := { s with str := { s.str with pfDiscard := satInc32 s.str.pfDiscard } }

/-- Fill the active bank from a walk that ended in a leaf with the needed permission. -/
def fillPtc (s : State) (cls : Cls) (ctx : CtxId) (va size base : Nat) (r w : Bool) : State :=
  let (f, s1) := drawFree s
  let x := match cls with
    | .h => ctx
    | .d => 0
  let e : PtcEntry := { cls := cls, ctx := x, size := size, page := va >>> size, frame := base / 4096, r := r, w := w, pinned := false }
  { s1 with tr := { s1.tr with active := ptcFill s1.tr.active e f.toNat } }

/-- The address field of a class and a virtual address. -/
def fieldOf (cls : Cls) (va : Nat) : W64 :=
  BitVec.ofNat 64 ((match cls with
    | .h => 2 ^ 63
    | .d => 0) + va % 2 ^ 52)

/-- A demand access fails for its requester (R242, R244); the requester may have gone, and a task that was aborted
already attaches its further faults. -/
def requesterErr (s : State) (who : Requester) (e : MErr) : State :=
  match who with
  | .task core th =>
    (match findTask s core th with
     | some t => taskErr s t e
     | none =>
       match s.reissues.find? (fun r => r.task.core = core && r.task.thread = th) with
       | some r => moreFault s r e
       | none => s)
  | .item q idx => itemErr s q idx e
  | .prefetch => s

/-- A walk for one access ends. -/
def pageWalk (s : State) (cls : Cls) (ctx : CtxId) (va : Nat) (write : Bool) (who : Requester) : State :=
  let a := fieldOf cls va
  let key := keyOf ctx a
  let pf := decide (who = .prefetch)
  if cls = .h && ctx = 0 then requesterErr s who (.noCtx a) else
  let out := walk s cls ctx va write
  let noWalk := match out with
    | .fault 0x05 _ _ => true
    | _ => false
  let s1 := if noWalk then s else countWalk s
  let s2 := match cls with
    | .h => if noWalk then s1 else cacheCtx s1 ctx
    | .d => s1
  match out with
  | .leaf size base r w =>
    if pf && (s2.tr.recs.any (fun x => x.key = key) || decide (512 ≤ s2.tr.recs.length)) then countPfDrop s2
    else fillPtc s2 cls ctx va size base r w
  | .fault reason level pte => if pf then countPfDrop s2 else requesterErr s2 who (.fault a write reason level pte)
  | .bad resp => if pf then countPfDiscard s2 else requesterErr s2 who (.bad a resp)

/-! ### The fault ring (R245, Tables 11.10 and 11.12) -/

/-- The 32 bytes of a fault record. -/
def faultBytes (r : FaultRec) (n : Nat) : List Byte :=
  let num := (r.number.getD 0)
  let info := b2n (phaseOf num n) + 2 * b2n (decide (r.key.cls = .h)) + 4 * b2n r.write
  toLE 1 0x10 ++ toLE 1 info ++ toLE 1 r.reason.toNat ++ toLE 1 r.level.toNat ++ toLE 2 r.ctx.toNat
    ++ toLE 1 r.engine.toNat ++ toLE 1 0 ++ toLE 4 num.toNat ++ toLE 4 r.breath.toNat
    ++ toLE 8 r.va.toNat ++ toLE 8 r.pte.toNat

/-- Write a record into its slot. -/
def writeFault (s : State) (r : FaultRec) : State :=
  let n := s.tr.fLog2.toNat
  let pa := s.tr.fring.toNat + 32 * ((r.number.getD 0).toNat % 2 ^ n)
  issueReq s { tag := none, pool := 67, owner := .faultRecord, write := true, pa := pa, len := 32,
               data := faultBytes r n, ctx := 0, addr := 0 }

/-- A fault-record write awaits the memory side. -/
def faultInFlight (s : State) : Bool := s.mem.reqs.any (fun r => r.owner = .faultRecord)

/-- The ring has room. -/
def ringRoom (s : State) : Bool := decide (cdiff s.tr.tail s.tr.head < 2 ^ s.tr.fLog2.toNat)

/-- Post the oldest waiting record; one whose write failed comes first. -/
def faultPost (s : State) : State :=
  if !s.tr.fEn || s.tr.ringErr || faultInFlight s || !ringRoom s then s else
  match s.tr.failedRec, s.tr.recs.find? (fun r => r.number.isNone) with
  | some r, _ => writeFault s r
  | none, none => s
  | none, some r =>
    let r' := { r with number := some s.tr.tail }
    let f := fun (x : FaultRec) => if x.key = r.key then r' else x
    writeFault { s with tr := { s.tr with recs := s.tr.recs.map f } } r'

/-- The memory side answers a fault-record write (R242, R245). -/
def faultAck (s : State) (resp : Resp) : State :=
  match resp with
  | .ok => pendG { s with tr := { s.tr with tail := s.tr.tail + 1, failedRec := none } } 5
  | r =>
    let rec' := match s.tr.failedRec with
      | some x => some x
      | none => s.tr.recs.find? (fun x => x.number = some s.tr.tail)
    let pa := s.tr.fring.toNat + 32 * (s.tr.tail.toNat % 2 ^ s.tr.fLog2.toNat)
    bellRaise { s with tr := { s.tr with ringErr := true, failedRec := rec' } } (if r = .poison then 0x0030 else 0x0031) 0 0 0 pa

/-- RING_ERR is cleared: the failed record is rewritten, once EN = 1 lets records be posted (Table 11.12). -/
def ringErrClear (s : State) : State :=
  if !s.tr.ringErr then s else
  let s1 := { s with tr := { s.tr with ringErr := false } }
  match s1.tr.failedRec with
  | some r => if s1.tr.fEn then writeFault s1 r else s1
  | none => s1

/-- A write to KQ_TR_FCTRL. -/
def fctrlWrite (s : State) (v : W64) : State :=
  let log2 := if s.tr.fEn then s.tr.fLog2 else BitVec.ofNat 5 (fld v 12 8)
  let n := log2.toNat
  let sets := v.getLsbD 0 && (s.tr.fEn || (decide (1 ≤ n ∧ n ≤ 16) && s.tr.fring.toNat % 2 ^ (5 + n) = 0))
  let s1 := { s with tr := { s.tr with fIrqEn := v.getLsbD 19, fIrqLine := BitVec.ofNat 3 (fld v 18 16), fLog2 := log2, fEn := sets } }
  if v.getLsbD 1 then ringErrClear s1 else s1

/-! ### FAULT_DONE (R247) and what resumes (R244, R246) -/

/-- A record closes: what waited on it alone may resume at the next boundary; so may every requester that a full
table held. -/
def closeRec (s : State) (r : FaultRec) : State :=
  let now := some s.breath.num
  let fi := fun (i : Item) =>
    let mine := r.attached.any (fun p => isItem p.1 p.2 i)
    let keys := if mine then i.holdKeys.filter (fun k => k ≠ r.key) else i.holdKeys
    if keys.isEmpty && i.ready.isNone && ((mine && !i.holdKeys.isEmpty) || i.retryFull) then { i with holdKeys := keys, ready := now }
    else { i with holdKeys := keys }
  let fr := fun (x : Reissue) =>
    let mine := r.attached.contains (x.task.q, x.task.idx)
    let keys := if mine then x.keys.filter (fun k => k ≠ r.key) else x.keys
    if keys.isEmpty && x.ready.isNone && ((mine && !x.keys.isEmpty) || x.full) then { x with keys := keys, ready := now }
    else { x with keys := keys }
  { s with tr := { s.tr with recs := s.tr.recs.filter (fun x => x.key ≠ r.key) },
           items := s.items.map fi, reissues := s.reissues.map fr }

def faultDone (s : State) (q : Nat) (idx : W32) : State :=
  pgRun s q idx 0x28 true false (fun s1 i =>
    let va := cmd64 i.cmd 48
    let disp := fld va 33 32
    if i.ctx ≠ 0 then endItem s1 q idx 0x13 0
    else if 2 ≤ disp then endItem s1 q idx 0x15 0
    else
      match s1.tr.recs.find? (fun r => r.number = some (BitVec.ofNat 32 va.toNat) && s1.tr.tail ≠ BitVec.ofNat 32 va.toNat) with
      | none => commitNow s1 q idx
      | some r =>
        let s2 := if disp = 1 then
            r.attached.foldl (fun st p => endItem st p.1 p.2 0x21 r.va.toNat) s1
          else s1
        commitNow (closeRec s2 r) q idx)

/-- At the boundary after the records closed: the item's hold and its aborted tasks are released (R244). -/
def taskReissue (s : State) (q : Nat) (idx : W32) : State :=
  let now := s.breath.num.toNat
  let past := fun (r : Option W64) => match r with
    | some b => decide (b.toNat < now)
    | none => false
  let s1 := modItem s q idx (fun i =>
    if i.holdKeys.isEmpty && past i.ready then { i with retryFull := false, ready := none } else i)
  { s1 with reissues := s1.reissues.filter (fun r => !(r.task.q = q && r.task.idx = idx && r.keys.isEmpty && past r.ready)) }

/-! ### PTC_INVAL (R238) -/

/-- The range of an invalidation: its class, its bounds (none: the whole class), and the one context of Class H. -/
structure Inval where
  cls : Cls
  range : Option (Nat × Nat)
  ctx : Option CtxId
deriving DecidableEq, Repr

def invalOf (i : Item) : Inval :=
  let a := cmd64 i.cmd 48
  let len := cmdAt i.cmd 56 8
  { cls := addrCls a, range := if len = 0 then none else some (addrVa a, len)
    ctx := if addrCls a = .h && i.ctx ≠ 0 then some i.ctx else none }

/-- A page of 2^size bytes falls under an invalidation. -/
def Inval.covers (v : Inval) (cls : Cls) (ctx : CtxId) (base n : Nat) : Bool :=
  cls = v.cls && (match v.ctx with
    | some x => ctx = x
    | none => true) && (match v.range with
    | some (a, len) => overlaps base n a len
    | none => true)

def Inval.hits (v : Inval) (e : PtcEntry) : Bool := v.covers e.cls e.ctx (e.page <<< e.size) (2 ^ e.size)

/-- First address of a page key, and its bytes. -/
def PageKey.span (k : PageKey) : Nat × Nat :=
  match k.cls with
  | .h => (k.page * 2 ^ 12, 2 ^ 12)
  | .d => (k.page * 2 ^ 16, 2 ^ 16)

/-- An entry maps the page of a key. -/
def ptcMaps (e : PtcEntry) (k : PageKey) : Bool :=
  e.cls = k.cls && e.ctx = k.ctx && overlaps (e.page <<< e.size) (2 ^ e.size) k.span.1 k.span.2

/-- A request translated through an entry that goes: one of the range, or any that a removed entry maps, which may
be larger than the range. -/
def Inval.carries (v : Inval) (gone : List PtcEntry) (r : Req) : Bool :=
  match r.viaPtc with
  | some k => v.covers k.cls k.ctx k.span.1 k.span.2 || gone.any (fun e => ptcMaps e k)
  | none => false

/-- Commit an executing PTC_INVAL that waits for no request any more. -/
def invalCheck (s : State) (q : Nat) (idx : W32) : State :=
  if s.mem.reqs.any (fun r => r.waiters.contains (q, idx)) then s else
  match findItem s q idx with
  | some i => if i.opcode = 0x26 && i.issued && decide (i.stage = Stage.executing) then commitNow s q idx else s
  | none => s

def ptcInval (s : State) (q : Nat) (idx : W32) : State :=
  pgRun s q idx 0x26 true false (fun s1 i =>
    if i.issued then s1 else
    let v := invalOf i
    let keep := fun (l : List PtcEntry) => l.filter (fun e => !v.hits e)
    let ctxs := if v.cls = .h && v.range.isNone then
        s1.tr.ctxCache.filter (fun p => match v.ctx with
          | some x => p.1 ≠ x
          | none => false)
      else s1.tr.ctxCache
    let gone := (s1.tr.active ++ s1.tr.inactive).filter v.hits
    let mark := fun (r : Req) => if v.carries gone r then { r with waiters := r.waiters ++ [(q, idx)] } else r
    let s2 := { s1 with tr := { s1.tr with active := keep s1.tr.active, inactive := keep s1.tr.inactive, ctxCache := ctxs },
                        mem := { s1.mem with reqs := s1.mem.reqs.map mark } }
    invalCheck (modItem s2 q idx (fun x => { x with issued := true })) q idx)

/-! ### BANK_STAGE (R224, R237, R240) -/

/-- An entry of a Page Translation Cache image (Table 11.8), with its SIZE code. -/
def parsePtc (bs : List Byte) : Option (Nat × PtcEntry) :=
  let a := leAt bs 0 8
  let b := leAt bs 8 8
  if a / 2 ^ 63 = 0 then none else
  let sz := nfld a 61 60
  let size := if sz = 0 then 12 else if sz = 1 then 16 else if sz = 2 then 21 else 30
  let va := a % 2 ^ 52 / 4096 * 4096
  some (sz, { cls := if nfld a 62 62 = 1 then .h else .d, ctx := BitVec.ofNat 12 a, size := size, page := va >>> size
              frame := nfld b 55 12, r := nfld b 56 56 = 1, w := nfld b 57 57 = 1, pinned := true })

/-- A reserved field of a valid image entry is nonzero (R9). -/
def ptcRsv (bs : List Byte) : Bool :=
  leAt bs 0 8 / 2 ^ 63 = 1 && (nfld (leAt bs 0 8) 59 52 ≠ 0 || leAt bs 8 8 / 2 ^ 58 ≠ 0 || leAt bs 8 8 % 2 ^ 12 ≠ 0)

/-- A valid entry by itself is legal (R237). -/
def ptcEntryLegal (bs : List Byte) (p : Nat × PtcEntry) : Bool :=
  let va := leAt bs 0 8 % 2 ^ 52 / 4096 * 4096
  (match p.2.cls with
   | .d => p.1 = 1 && p.2.ctx = 0
   | .h => p.1 ≠ 1) && va % 2 ^ p.2.size = 0

def ptcOverlap (a b : PtcEntry) : Bool :=
  a.cls = b.cls && a.ctx = b.ctx && overlaps (a.page <<< a.size) (2 ^ a.size) (b.page <<< b.size) (2 ^ b.size)

/-- No two entries of a list overlap. -/
def ptcDisjoint : List PtcEntry → Bool
  | [] => true
  | e :: t => !t.any (ptcOverlap e) && ptcDisjoint t

/-- The pinned entries of an image, when the image breaks none of R237's conditions. -/
def ptcImage (bs : List Byte) : Option (List PtcEntry) :=
  let es := (pieces 16 bs).filterMap (fun b => (parsePtc b).map (fun p => (b, p)))
  let vs := es.map (fun x => x.2.2)
  if es.all (fun x => ptcEntryLegal x.1 x.2) && ptcDisjoint vs
      && vs.all (fun e => decide ((vs.filter (fun x => ptcSet x = ptcSet e)).length ≤ 6)) then some vs
  else none

/-- The Sequence Table of an image: entry i at 64 × i (R224). -/
def seqImage (bs : List Byte) : Tab SeqEntry :=
  ((pieces 64 bs).zipIdx).filterMap (fun p =>
    let e := parseSeq p.1
    if e = {} then none else some (p.2, e))

def bankStage (s : State) (q : Nat) (idx : W32) : State :=
  pgRun s q idx 0x27 true false (fun s1 i =>
    let n := if pTarget i = 0 then 65536 * 64 else 131072 * 16
    let src := cmd64 i.cmd 16
    if i.ctx ≠ 0 then endItem s1 q idx 0x13 0
    else if 2 ≤ pTarget i then endItem s1 q idx 0x15 0
    else
      match readVa s1 i.ctx src n with
      | .error e => itemErr s1 q idx e
      | .ok bs =>
        match verifyRead s1 i.ctx src bs with
        | .error e => itemErr s1 q idx e
        | .ok (.mismatch b k) => blockMismatch s1 q idx i.ctx b k
        | .ok (.fine k) =>
          let s2 := countVerified s1 k
          let rsv := if pTarget i = 0 then (pieces 64 bs).any seqRsv else (pieces 16 bs).any ptcRsv
          if rsv then
            let (f, s3) := drawFree s2
            endItem s3 q idx (0x10 + f.toNat % 0x30) 0
          else if pTarget i = 0 then
            commitNow { s2 with pg := { s2.pg with inactive := seqImage bs, staged := some s2.breath.num } } q idx
          else
            match ptcImage bs with
            | none => endItem s2 q idx 0x15 0
            | some vs => commitNow { s2 with tr := { s2.tr with inactive := vs, staged := some s2.breath.num } } q idx)

/-- The first boundary after a staging commit: the banks are swapped (R224, R237). -/
def bankSwap (s : State) : State :=
  let due := fun (b : Option W64) => match b with
    | some x => decide (x.toNat < s.breath.num.toNat)
    | none => false
  let s1 := if due s.pg.staged then
      { s with pg := { s.pg with active := s.pg.inactive, inactive := s.pg.active, staged := none } } else s
  if due s1.tr.staged then
    { s1 with tr := { s1.tr with active := s1.tr.inactive, inactive := [], staged := none } } else s1

/-! ### Meanings -/

def execPageWalk (cls : Cls) (ctx : CtxId) (va : BitVec 52) (write : Bool) (who : Requester) (s : State) :
    Host.Outcome State Fault Refusal := work s (fun s => pageWalk s cls ctx va.toNat write who)

def execFaultRecordPost (s : State) : Host.Outcome State Fault Refusal := live s faultPost

def execFctrlWrite (value : W64) (s : State) : Host.Outcome State Fault Refusal := live s (fun s => fctrlWrite s value)

def execRingErrClear (s : State) : Host.Outcome State Fault Refusal := live s ringErrClear

/-- A write to KQ_TR_FPTR: HEAD alone is writable (Table 11.12). -/
def execFaultHeadWrite (value : W64) (s : State) : Host.Outcome State Fault Refusal :=
  live s (fun s => { s with tr := { s.tr with head := BitVec.ofNat 32 (fld value 63 32) } })

def execFaultDone (q : Nat) (idx : W32) (s : State) : Host.Outcome State Fault Refusal := work s (fun s => faultDone s q idx)

def execTaskReissue (q : Nat) (idx : W32) (s : State) : Host.Outcome State Fault Refusal := atEdge s (fun s => taskReissue s q idx)

def execPtcInval (q : Nat) (idx : W32) (s : State) : Host.Outcome State Fault Refusal := work s (fun s => ptcInval s q idx)

def execBankStage (q : Nat) (idx : W32) (s : State) : Host.Outcome State Fault Refusal := work s (fun s => bankStage s q idx)

def execBankSwap (s : State) : Host.Outcome State Fault Refusal := atEdge s bankSwap

end Sys2Proof.Machine
end

