-- ==== Sys2Proof/Machine/Row.lean ====
section
/-! DEFINITION. The Row Engine (chapter 06): SOFTMAX, RMS_NORM and FUNC over the rows of an item. The event
begins the item; a task reads, computes and writes its rows, or its columns of a wide row, when it drains. -/

namespace Sys2Proof.Machine

/-! ### Command fields (Table 2.17) -/

def rRows (i : Item) : Nat := cmdAt i.cmd 32 4
def rCols (i : Item) : Nat := cmdAt i.cmd 36 4
def rIn (i : Item) : Nat := cmdAt i.cmd 40 1
def rOut (i : Item) : Nat := cmdAt i.cmd 41 1
def rWeight (i : Item) : W64 := cmd64 i.cmd 48

/-! ### Sums and maxima over a row (R127) -/

/-- The sum of a row of FP32 values: block leaves of 512 columns merged in the tree of R87. -/
def blockSum (ps : List W32) : W32 :=
  let leaves := ((pieces 512 ps).zipIdx).map (fun b => (b.2, reduceAcc none (b.1.map (fun v => { v := v, ovf := false }))))
  ((mergeTree addAcc leaves).getD zeroAcc).v

/-! ### SOFTMAX (R128, R129, Table 6.2) -/

def isPosInf (x : Num) : Bool := x.isInf && !x.neg
def isNegInf (x : Num) : Bool := x.isInf && x.neg

def softmaxRow (f : Fmt) (xs : List Num) : List W32 :=
  let k := (xs.filter isPosInf).length
  if xs.any Num.isNan then xs.map (fun _ => f.nan)
  else if 0 < k then xs.map (fun x => if isPosInf x then f.roundMag false (.rat 1 k 0) else f.zero false)
  else if xs.all isNegInf then xs.map (fun _ => f.zero false)
  else
    let ws := xs.map rnd32
    let m := ws.foldl max32 negInf32
    let ps := ws.map (fun w => exp32 (sub32 w m))
    let l := dec32 (blockSum ps)
    ps.map (fun p => f.roundDiv (dec32 p) l)

/-! ### RMS_NORM (R130, R131, Table 6.3) -/

/-- y of R130: z × w / √(SUM / COLS + EPS × 2^(−2 EXP)), rounded once; `s` is SUM and `eps` is scaled already. -/
def rmsElem (f : Fmt) (cols : Nat) (s eps z w : Num) : W32 :=
  match z.mul w, s, eps with
  | .fin n m e, .fin _ ms es, .fin _ me ee =>
    if m = 0 then f.zero n
    else
      let q := min es ee
      let a := ms <<< (es - q).toNat + cols * (me <<< (ee - q).toNat)
      f.roundMag n (.sqrt (m * m * cols) a (2 * e - q))
  | x, _, _ => f.round x

def rmsRow (f : Fmt) (eps : Num) (xs ws : List Num) : List W32 :=
  if xs.any (fun x => !x.isFin) then xs.map (fun _ => f.nan)
  else if xs.all Num.isZero then List.zipWith (fun x w => f.round (x.mul w)) xs ws
  else
    let e := magLog2 (amax xs)
    let zs := xs.map (fun x => x.ldexp (-e))
    let s := dec32 (blockSum (zs.map (fun z => rnd32 (z.mul z))))
    List.zipWith (fun z w => rmsElem f xs.length s (eps.ldexp (-2 * e)) z w) zs ws

/-! ### FUNC (R132, R133) -/

def funcRow (f : Fmt) (fmt code : Nat) (xs : List Num) : List W32 := xs.map (fun x => funcVal f fmt code (rnd32 x) x)

/-- Output elements of one row. -/
def rowEngine (i : Item) (xs ws : List Num) : List W32 :=
  match fmtOf (rOut i) with
  | none => []
  | some f =>
    if i.opcode = 0x40 then softmaxRow f xs
    else if i.opcode = 0x41 then rmsRow f (dec32 (BitVec.ofNat 32 (cmdAt i.cmd 44 4))) xs ws
    else funcRow f (rOut i) (cmdAt i.cmd 42 1) xs

/-! ### A task's rows -/

/-- The write of some columns of row n, from column `c` on (R125). -/
def rowOut (i : Item) (n c : Nat) (ys : List W32) : Out :=
  { addr := addrAdd (cmd64 i.cmd 24) ((n * rCols i + c) * elemBytes (rOut i)), bytes := elemsBytes (rOut i) ys }

/-- A demand read with the verification of its whole blocks (R268). -/
def readChecked (s : State) (ctx : CtxId) (a : W64) (n : Nat) : Except MErr (List Byte × Verified) :=
  match readVa s ctx a n with
  | .error e => .error e
  | .ok bs =>
    match verifyRead s ctx a bs with
    | .error e => .error e
    | .ok v => .ok (bs, v)

/-- The weights of the columns (R125): 1 when WEIGHT is zero. -/
def rowWeights (i : Item) (bs : List Byte) : List Num :=
  if i.opcode = 0x41 && rWeight i ≠ 0 then (elems (rIn i) bs).map (decodeCode (rIn i))
  else List.replicate (rCols i) (.fin false 1 0)

/-- The 512-column blocks of a row. -/
def rowBlocks (i : Item) : Nat := ceilDiv' (rCols i) 512

/-- The writes of a task: whole rows, or the columns of its blocks of one wide row, whose sums still run over the whole row (R127,
R128). -/
def rowResults (i : Item) (t : TaskShape) (src w : List Byte) : List Out :=
  let e := elemBytes (rIn i)
  let ws := rowWeights i w
  ((pieces (rCols i * e) src).zipIdx).map (fun p =>
    let ys := rowEngine i ((elems (rIn i) p.1).map (decodeCode (rIn i))) ws
    if t.segCount = 0 then rowOut i (t.rowFirst + p.2) 0 ys
    else rowOut i (t.rowFirst + p.2) (512 * t.segFirst) ((ys.drop (512 * t.segFirst)).take (512 * t.segCount)))

/-- What a task of the item reads and writes, with the verification of what it reads. -/
def roeTask (s : State) (i : Item) (t : TaskShape) : Except MErr (Verified × List Out) :=
  let e := elemBytes (rIn i)
  let hasW := decide (i.opcode = 0x41) && rWeight i ≠ 0
  match readChecked s i.ctx (addrAdd (cmd64 i.cmd 16) (t.rowFirst * rCols i * e)) (t.rows * rCols i * e),
        (if hasW then readChecked s i.ctx (rWeight i) (rCols i * e) else .ok ([], .fine 0)) with
  | .error m, _ => .error m
  | _, .error m => .error m
  | .ok (_, .mismatch b n), _ => .ok (.mismatch b n, [])
  | .ok (_, .fine k), .ok (_, .mismatch b n) => .ok (.mismatch b (k + n), [])
  | .ok (src, .fine k), .ok (w, .fine n) => .ok (.fine (k + n), rowResults i t src w)

/-! ### The item -/

/-- A Row Engine command begins (Table 2.8); its tasks do the rest (R125 to R136). -/
def roe (s : State) (q : Nat) (idx : W32) (op : Nat) : State :=
  match findItem s q idx with
  | none => s
  | some i =>
    if i.opcode ≠ op || !(mayBegin s i || mayRun s i) || i.begun then s else
    modItem s q idx (fun x => { x with stage := .executing, begun := true, nRows := rRows i, status := 0, detail := 0, count := 0 })

def execSoftmax (q : Nat) (idx : W32) (s : State) : Host.Outcome State Fault Refusal := work s (fun s => roe s q idx 0x40)
def execRmsNorm (q : Nat) (idx : W32) (s : State) : Host.Outcome State Fault Refusal := work s (fun s => roe s q idx 0x41)
def execFunc (q : Nat) (idx : W32) (s : State) : Host.Outcome State Fault Refusal := work s (fun s => roe s q idx 0x42)

end Sys2Proof.Machine
end

