-- ==== Sys2Proof/Machine/Tiling.lean ====
section
/-! DEFINITION. How Ensemble firmware tiles an item (chapter 08): stage entries, the keys, pipe time and footprint of a task,
the choice of TR and of whole-row, part and merge tasks, the split of overrun tasks, the tile-order program that orders
their creation, and the sizes of Row Engine tasks. -/

namespace Sys2Proof.Machine

/-! ### Stage entries (R153, R154, R327) -/

/-- The stage entry of a logical core (R154). -/
def entryOf (s : State) (core : Nat) : Option (StageEntry × Nat) :=
  ((stagesOf s).zipIdx).find? (fun e => e.1.cluster = core / 8 && e.1.coreMask.getLsbD (core % 8))

/-- The entry whose partitions lay out a core: the old one while tasks of the image before still run (R327). -/
def layoutOf (s : State) (core : Nat) : Option StageEntry :=
  match (getCore s core).old with
  | some e => some e
  | none => (entryOf s core).map (fun p => p.1)

/-- Logical cores of a stage entry, in ring order (R170). -/
def coresIn (e : StageEntry) : List Nat := ((List.range 8).filter (fun c => e.coreMask.getLsbD c)).map (fun c => 8 * e.cluster + c)

/-- Ring position of a core on its entry. -/
def ringPos (e : StageEntry) (core : Nat) : Nat := ((coresIn e).filter (fun c => decide (c < core))).length

/-- The pipe-time budget B of a core per breath, in ac (R159). -/
def budgetOf (s : State) (e : StageEntry) : Nat := e.fill * s.breath.period.toNat * 2700 / 256

/-! ### The keys and the time of a task (R151, R152, R159) -/

/-- The task takes every segment of its rows: a whole-row task, or the merge task that divides. -/
def wholeRange (t : TaskShape) : Bool := decide (t.kind = .wholeRow) || (decide (t.kind = .merge) && t.segCount = 0)

/-- The rows of a task. -/
def taskRows (t : TaskShape) : List Nat := (List.range t.rows).map (fun k => t.rowFirst + k)

def inTask (t : TaskShape) (kpos : Nat) : Bool :=
  wholeRange t || (decide (t.segFirst ≤ kpos / 512) && decide (kpos / 512 < t.segFirst + t.segCount))

/-- The unmasked keys of a task's rows inside its key range (R152); a row's keys are those its begin read. -/
def taskKeys (s : State) (it : Item) (t : TaskShape) : List Nat :=
  let ks := (taskRows t).flatMap (fun n => match rowKeys s it (rowOf it n) with
    | .ok l => l
    | .error _ => [])
  (ks.filter (inTask t)).foldl insUp []

/-- Segments that a key range spans. -/
def spanOf (keys : List Nat) : Nat :=
  match keys.head?, keys.getLast? with
  | some a, some b => b / 512 - a / 512 + 1
  | _, _ => 1

/-- A long task of R68: one row against one segment. -/
def isLong (s : State) (it : Item) (t : TaskShape) : Bool :=
  decide (t.kind = .wholeRow ∨ t.kind = .part) && t.rows = 1 && spanOf (taskKeys s it t) = 1

/-- Both main-pass operands are 8 bits wide or narrower (R159). -/
def narrowOperands (it : Item) (n : Nat) : Bool :=
  elemBytes (aFmt it) = 1 && decide ((kvWidth (rowEntry it (rowOf it n).s).kvFmt.toNat).1 ≤ 8)

/-- T of R159 for an attention task: its rows, the key slots of the tiles it visits, d64. A merge task visits no tile. -/
def pipeTime (s : State) (it : Item) (e : StageEntry) (t : TaskShape) : Nat :=
  if t.kind = .merge then 0 else
  let tiles := (((taskKeys s it t).map (fun k => k / max e.tk 1)).eraseDups).length
  ceilDiv' (t.rows * (tiles * e.tk) * d64 (aHd it)) (if narrowOperands it t.rowFirst then 4096 else 2048)

/-! ### Footprints (R156, Table 8.3) -/

/-- The footprint of a tile of `tr` rows on an entry, with `d` nodes in the merge stack. -/
def itemFootprint (it : Item) (e : StageEntry) (tr d : Nat) : Footprint :=
  let hd := aHd it
  let bkv := (it.entries.map (fun x => bKv hd x.kvFmt.toNat)).foldl max 0
  if isBwd it then bwdFootprint tr e.tk d hd (elemBytes (aFmt it)) (elemBytes (dF it 7 1)) (elemBytes (dF it 6 1)) bkv
  else fwdFootprint tr e.tk d hd (elemBytes (aFmt it)) bkv

def fits (it : Item) (e : StageEntry) (tr d : Nat) : Bool := (fitCode e (itemFootprint it e tr d) true (isBwd it)).isNone

/-- D of a task whose key range spans some segments (R152). -/
def stackOf (span : Nat) : Nat := clog2 span + 1

/-! ### Choosing tiles (R158) -/

/-- D of the longest row of the item, as the pseudo-code of R158 takes it. -/
def longestStack (s : State) (it : Item) : Nat :=
  stackOf (((List.range (totalRows it)).map (fun n => spanOf (taskKeys s it { kind := .wholeRow, rowFirst := n, rows := 1, segFirst := 0, segCount := 0 }))).foldl max 1)

/-- TR_MAX and its halves down to 1. -/
def trSizes (e : StageEntry) : List Nat := ((List.range 9).map (fun k => e.trMax / 2 ^ k)).filter (fun t => decide (1 ≤ t))

/-- choose_tr of R158. -/
def chooseTr (s : State) (it : Item) (e : StageEntry) : Nat :=
  let d := longestStack s it
  match (trSizes e).find? (fun t => decide (t ≤ 2 ^ clog2 (aRows it)) && fits it e t d) with
  | some t => t
  | none => ((trSizes e).find? (fun t => decide (1 < t) && fits it e t 1)).getD 1

def wholeShape (first rows : Nat) : TaskShape := { kind := .wholeRow, rowFirst := first, rows := rows, segFirst := 0, segCount := 0 }
def mergeShape (first rows : Nat) : TaskShape := { kind := .merge, rowFirst := first, rows := rows, segFirst := 0, segCount := 0 }

/-- Part tasks of aligned blocks of 2^j segments that hold a segment of some keys. -/
def partShapes (first rows j : Nat) (keys : List Nat) : List TaskShape :=
  ((keys.map (fun k => k / 512 / 2 ^ j)).eraseDups).map (fun b =>
    { kind := .part, rowFirst := first, rows := rows, segFirst := b * 2 ^ j, segCount := 2 ^ j })

/-- The largest j ≤ `top` whose part tasks all fit the budget, and whose stack fits (R158 step 3). -/
def partSize (s : State) (it : Item) (e : StageEntry) (tr first rows : Nat) (keys : List Nat) : Nat → Option Nat
  | 0 => if fits it e tr 1 && (partShapes first rows 0 keys).all (fun p => decide (pipeTime s it e p ≤ budgetOf s e)) then some 0 else none
  | j + 1 =>
    if fits it e tr (j + 2) && (partShapes first rows (j + 1) keys).all (fun p => decide (pipeTime s it e p ≤ budgetOf s e)) then some (j + 1)
    else partSize s it e tr first rows keys j

/-- The tasks of a row block, as groups: one whole-row task, or part tasks with their merge task; smaller row blocks where none of
these fits (R158; fuel: halvings). -/
def planRows (s : State) (it : Item) (e : StageEntry) : Nat → Nat → Nat → Nat → List (List TaskShape)
  | 0, _, _, _ => []
  | f + 1, tr, first, rows =>
    let w := wholeShape first rows
    let keys := taskKeys s it w
    let span := spanOf keys
    if fits it e tr (longestStack s it) && decide (pipeTime s it e w ≤ budgetOf s e) then [[w]]
    else
      match partSize s it e tr first rows keys (clog2 span) with
      | some j => [partShapes first rows j keys ++ [mergeShape first rows]]
      | none =>
        if tr ≤ 1 then (if span = 1 && fits it e 1 1 then [[w]] else [partShapes first rows 0 keys ++ [mergeShape first rows]])
        else if rows ≤ tr / 2 then planRows s it e f (tr / 2) first rows
        else planRows s it e f (tr / 2) first (tr / 2) ++ planRows s it e f (tr / 2) (first + tr / 2) (rows - tr / 2)

/-! ### The split of overrun tasks (R68) -/

/-- A part task, or what stands for it once it was aborted for overrun: smaller parts and the merge task that forms its node. -/
def cutPart (s : State) (it : Item) : Nat → TaskShape → List TaskShape
  | 0, p => [p]
  | f + 1, p =>
    let keys := taskKeys s it p
    let span := spanOf keys
    if !it.cuts.contains p || p.rows ≠ 1 || span < 2 then [p]
    else (partShapes p.rowFirst 1 (clog2 span - 1) keys).flatMap (cutPart s it f) ++ [{ p with kind := .merge }]

/-- The rows of a group halved: ⌈rows / 2⌉ first. -/
def halves (g : List TaskShape) : List (List TaskShape) :=
  [g.map (fun t => { t with rows := (t.rows + 1) / 2 }),
   g.map (fun t => { t with rowFirst := t.rowFirst + (t.rows + 1) / 2, rows := t.rows / 2 })]

/-- A planned group, or what stands for it after overruns. -/
def cutGroup (s : State) (it : Item) : Nat → List TaskShape → List (List TaskShape)
  | 0, g => [g]
  | f + 1, g =>
    let cut := g.any (fun t => it.cuts.contains t)
    let rows := (g.headD (wholeShape 0 1)).rows
    if cut && decide (2 ≤ rows) then (halves g).flatMap (cutGroup s it f)
    else
      match g with
      | [w] =>
        let keys := taskKeys s it w
        let span := spanOf keys
        if cut && decide (2 ≤ span) then
          [(partShapes w.rowFirst 1 (clog2 span - 1) keys).flatMap (cutPart s it f) ++ [mergeShape w.rowFirst 1]]
        else [g]
      | _ => [g.flatMap (fun t => if t.kind = .part then cutPart s it 32 t else [t])]

/-! ### Row blocks and the walk (R151, R165 to R167) -/

/-- A row block: sequence, key/value head, query head within its group, and number. -/
structure RowBlk where
  sq : Nat
  g : Nat
  h : Nat
  b : Nat
deriving DecidableEq, Repr

def headGroup (it : Item) : Nat := aHeads it / aKvh it
def blkCount (it : Item) (tr : Nat) : Nat := ceilDiv' (aRows it) tr

/-- The row block of a row. -/
def blkOf (it : Item) (tr n : Nat) : RowBlk :=
  let r := rowOf it n
  { sq := r.s, g := r.g it, h := r.h % headGroup it, b := r.i / tr }

/-- First row and rows of a row block; rows past Q_ROWS are left out (R163). -/
def blkRows (it : Item) (tr : Nat) (x : RowBlk) : Nat × Nat :=
  ((x.sq * aHeads it + (x.g * headGroup it + x.h)) * aRows it + x.b * tr, min tr (aRows it - x.b * tr))

/-- Every row block of the item. -/
def blks (it : Item) (tr : Nat) : List RowBlk :=
  (List.range (aCount it)).flatMap (fun sq => (List.range (aKvh it)).flatMap (fun g =>
    (List.range (headGroup it)).flatMap (fun h => (List.range (blkCount it tr)).map (fun b => { sq := sq, g := g, h := h, b := b }))))

/-- Level word of a stage entry's program: 0 scratchpad, 1 cluster cache, 2 near tier (R165). -/
def wordOf (s : State) (e : StageEntry) (lvl : Nat) : W64 := (imageOf s).tops.getD (3 * e.topIndex + lvl) 0
def loopSlot (w : W64) (k : Nat) : Nat := fld w (12 * k + 11) (12 * k)
def pfDepth (w : W64) : Nat := fld w 55 48
def splitDim (w : W64) : Nat := fld w 58 56
def interleaved (w : W64) : Bool := w.getLsbD 59

/-- A row block's unit of a dimension, and the units there are (Table 8.8): 1 SEQ, 2 KVHEAD, 3 HEAD, 4 ROWBLK. -/
def dimUnit (it : Item) (tr : Nat) (x : RowBlk) (d : Nat) : Nat × Nat :=
  match d with
  | 1 => (x.sq, aCount it)
  | 2 => (x.g, aKvh it)
  | 3 => (x.h, headGroup it)
  | 4 => (x.b, blkCount it tr)
  | _ => (0, 1)

/-- Place of a row block in one loop: its block of 2^LOG2_BLK units, counted from the end when DESC is set. -/
def loopPlace (it : Item) (tr : Nat) (x : RowBlk) (slot : Nat) : Nat :=
  let u := dimUnit it tr x (slot / 2 ^ 9)
  let b := 2 ^ (slot % 2 ^ 5)
  if slot / 2 ^ 8 % 2 = 1 then (u.2 - 1) / b - u.1 / b else u.1 / b

/-- The loops of the scratchpad word outside KTILE, outermost first: dimensions that no slot names, ascending, then the named ones
as far as KTILE; a word that does not name KTILE walks it outside every named one. -/
def scratchLoops (w : W64) : List Nat :=
  let named := ([3, 2, 1, 0].map (loopSlot w)).filter (fun x => x / 2 ^ 9 ≠ 0)
  let has := fun d => named.any (fun x => x / 2 ^ 9 = d)
  let bare := ([1, 2, 3, 4].filter (fun d => !has d)).map (fun d => d * 2 ^ 9)
  if has 5 then bare ++ named.takeWhile (fun x => x / 2 ^ 9 ≠ 5) else bare

/-- The loops of an outer word: those it names; a dimension that it does not name is one block of it (log 81). -/
def outerLoops (w : W64) : List Nat := ([3, 2, 1, 0].map (loopSlot w)).filter (fun x => x / 2 ^ 9 ≠ 0 && x / 2 ^ 9 ≠ 5)

/-- The place of a row block in the loop nest: near tier outermost, then cluster cache, then scratchpad (R167). -/
def walkPlace (s : State) (it : Item) (e : StageEntry) (tr : Nat) (x : RowBlk) : List Nat :=
  (outerLoops (wordOf s e 2) ++ outerLoops (wordOf s e 1) ++ scratchLoops (wordOf s e 0)).map (loopPlace it tr x)

/-- Lexicographic order of places. -/
def before : List Nat → List Nat → Bool
  | [], _ => false
  | _ :: _, [] => false
  | a :: s, b :: t => decide (a < b) || (a = b && before s t)

/-- Ring position that the near-tier word gives a row block; none when it splits no dimension of row blocks (Table 8.7). -/
def splitPos (s : State) (it : Item) (e : StageEntry) (tr : Nat) (x : RowBlk) : Option Nat :=
  let w := wordOf s e 2
  let d := splitDim w
  let n := (coresIn e).length
  if d = 0 || d = 5 || n = 0 then none else
  let u := dimUnit it tr x d
  some (if interleaved w then u.1 % n else u.1 / max (ceilDiv' u.2 n) 1)

/-- A row block has been created. -/
def isCreated (it : Item) (first : Nat) : Bool := it.created.any (fun c => decide (c.rowFirst ≤ first ∧ first < c.rowFirst + c.rows))

/-- The entry that R70 gives a sequence among those that hold the layer (Table 3.6, N = 64). -/
def chooseEntry (s : State) (layer : Nat) : Option Nat :=
  let key := fun (i : Nat) => (i + 64 - s.breath.num.toNat % 64) % 64
  ((((stagesOf s).zipIdx).filter (fun e => holdsLayer e.1 layer)).map (fun e => e.2)).foldl (fun m i =>
    match m with
    | some j => if key i < key j then some i else some j
    | none => some i) none

/-- The entry on whose cores a sequence's rows run (R155). -/
def homeEntry (s : State) (it : Item) (sq : Nat) : Option Nat :=
  match it.placed.find? (fun p => p.1 = sq) with
  | some p => some p.2
  | none => chooseEntry s (aLayer it)

/-- The row block comes next for this core: none that is still to be created on the entry, and that the split does not keep from
the core, comes before it in the walk (R167). -/
def walkNext (s : State) (it : Item) (e : StageEntry) (k core tr : Nat) (x : RowBlk) : Bool :=
  let mine := fun (y : RowBlk) => match splitPos s it e tr y with
    | some p => p = ringPos e core
    | none => true
  let place := walkPlace s it e tr x
  mine x && (blks it tr).all (fun y =>
    isCreated it (blkRows it tr y).1 || homeEntry s it y.sq ≠ some k || !mine y || !before (walkPlace s it e tr y) place)

/-- The planned group of a task's rows on an entry, after its splits, with the row block that it belongs to. -/
def groupOf (s : State) (it : Item) (e : StageEntry) (t : TaskShape) : Option (TaskShape × List TaskShape) :=
  let tr := chooseTr s it e
  let p := blkRows it tr (blkOf it tr t.rowFirst)
  (((planRows s it e 9 tr p.1 p.2).flatMap (cutGroup s it 40)).find? (fun g => g.contains t)).map (fun g => (wholeShape p.1 p.2, g))

/-! ### Row Engine tasks (R173) -/

/-- C_task: columns that one task holds. -/
def taskColumns (e : StageEntry) : Nat := 512 * (e.spRow / 4096)

/-- Rows of a narrow item that one task takes. -/
def rowsPerTask (it : Item) (e : StageEntry) : Nat := max 1 (taskColumns e / (512 * max (rowBlocks it) 1))

/-- The first row, and block of a row, that no task has been created for. -/
def roeNext (it : Item) : Nat × Nat :=
  match it.created.getLast? with
  | none => (0, 0)
  | some c => if c.segCount ≠ 0 && decide (c.segFirst + c.segCount < rowBlocks it) then (c.rowFirst, c.segFirst + c.segCount) else (c.rowFirst + c.rows, 0)

/-- The next Row Engine task on an entry: whole rows, or a piece of a row wider than C_task, cut at multiples of 512 columns. -/
def roePlan (it : Item) (e : StageEntry) : Option TaskShape :=
  let at_ := roeNext it
  if taskColumns e = 0 || rRows it ≤ at_.1 then none
  else if at_.2 = 0 && decide (rCols it ≤ taskColumns e) then
    some { kind := .rowEngine, rowFirst := at_.1, rows := min (rowsPerTask it e) (rRows it - at_.1), segFirst := 0, segCount := 0 }
  else
    some { kind := .rowEngine, rowFirst := at_.1, rows := 1, segFirst := at_.2, segCount := min (taskColumns e / 512) (rowBlocks it - at_.2) }

/-- A created Row Engine task, or the halves that stand for it after overruns (R68). -/
def roeCut (it : Item) : Nat → TaskShape → List TaskShape
  | 0, t => [t]
  | f + 1, t => if it.cuts.contains t && decide (2 ≤ t.rows) then (halves [t]).flatMap (fun g => g.flatMap (roeCut it f)) else [t]

/-- The footprint of a Row Engine task fits its partition: 8 bytes a column (Table 8.3). -/
def roeFits (it : Item) (e : StageEntry) (t : TaskShape) : Bool :=
  decide (8 * (512 * (if t.segCount = 0 then t.rows * rowBlocks it else t.segCount)) ≤ e.spRow)
    || (t.segCount = 0 && t.rows = 1 && decide (rCols it ≤ taskColumns e))

end Sys2Proof.Machine
end

