-- ==== Sys2Proof/Machine/Halo.lean ====
section
/-! DEFINITION. The halo exchange (R170 to R172): when an ATT_FWD item runs in halo mode, the slots and counters of its windows,
the conditions of Table 8.9, and the restart. -/

namespace Sys2Proof.Machine

/-! ### Partitions of SP_KV and SP_WIN (Table 9.2) -/

def kvUnits (e : StageEntry) : Nat × Nat :=
  let a := e.threads * e.spTask / 256
  (a, a + e.spKv / 256)
def winUnits (e : StageEntry) : Nat × Nat :=
  let a := (e.threads * e.spTask + e.spKv + e.spPic) / 256
  (a, a + e.spWin / 256)

def inRangeU (r : Nat × Nat) (base len : Nat) : Bool := decide (r.1 ≤ base) && decide (base + len ≤ r.2)

/-- The window's counters at their opening. -/
def openCounters (c : Core) (w first n : Nat) : Tab Counter :=
  (List.range n).foldl (fun t i => tput {} t (first + i) { count := 0, ctx := c.ctx, st := 1, win := BitVec.ofNat 6 w }) c.counters

/-! ### Halo mode (R170) -/

/-- Unmasked keys of some rows of one sequence's every head, from row number `first` on. -/
def bandKeys (s : State) (it : Item) (first rows : Nat) : List Nat :=
  ((List.range (aHeads it)).flatMap (fun h => taskKeys s it (wholeShape (h * aRows it + first) rows))).foldl insUp []

/-- V_seg: the most segments that the rows of one band of n row blocks need. -/
def bandSegs (s : State) (it : Item) (e : StageEntry) : Nat :=
  let rows := (coresIn e).length * chooseTr s it e
  ((List.range (ceilDiv' (aRows it) (max rows 1))).map (fun b =>
    spanOf (bandKeys s it (b * rows) (min rows (aRows it - b * rows))))).foldl max 0

/-- S and U of R170 and R171. -/
def haloSlots (s : State) (it : Item) (e : StageEntry) : Nat :=
  bandSegs s it e + ceilDiv' (pfDepth (wordOf s e 0) * e.tk) 512
def haloUnits (it : Item) : Nat := 4 * aKvh it * (it.entries.map (fun x => bKv (aHd it) x.kvFmt.toNat)).foldl max 0

/-- No core of the entry has a halo window of another item open. -/
def haloAlone (s : State) (it : Item) (e : StageEntry) : Bool :=
  (coresIn e).all (fun k => (getCore s k).windows.all (fun p => p.2.st ≠ 1 || p.2.halo.isNone || p.2.halo = some (it.q, it.idx)))

/-- S and U when the item runs in halo mode on the entry: R170, for an item of one sequence (log 82). -/
def haloPlan (s : State) (it : Item) (e : StageEntry) : Option (Nat × Nat) :=
  let w := wordOf s e 2
  let n := haloSlots s it e
  if it.opcode = 0x10 && aMask it 1 && aCount it = 1 && splitDim w = 4 && interleaved w && decide (2 ≤ (coresIn e).length)
      && haloAlone s it e && decide (256 * (n * haloUnits it) ≤ e.spKv) then some (n, haloUnits it)
  else none

/-! ### Windows and counters of the exchange (R171) -/

/-- The core's open window of slots, and its open release window of one unit (log 82). -/
def slotWindow (c : Core) (it : Item) : Option (Nat × Window) :=
  c.windows.find? (fun p => p.2.st = 1 && p.2.halo = some (it.q, it.idx) && decide (1 < p.2.lenU.toNat))
def releaseWindow (c : Core) (it : Item) : Option (Nat × Window) :=
  c.windows.find? (fun p => p.2.st = 1 && p.2.halo = some (it.q, it.idx) && p.2.lenU = 1)

/-- F_k and R of a core. -/
def fillCount (c : Core) (it : Item) (k : Nat) : Nat :=
  match slotWindow c it with
  | some (_, v) => (getCtr c (v.acFirst.toNat + k)).count.toNat
  | none => 0
def releaseCount (c : Core) (it : Item) : Nat :=
  match releaseWindow c it with
  | some (_, v) => (getCtr c v.acFirst.toNat).count.toNat
  | none => 0

/-- Segment u is complete in its slot on a core. -/
def haloHeld (c : Core) (it : Item) (S U u : Nat) : Bool := decide ((u / S + 1) * U ≤ fillCount c it (u % S))

/-- Neighbours of a core in its entry's ring. -/
def ringAt (e : StageEntry) (pos : Nat) : Nat := (coresIn e).getD (pos % max (coresIn e).length 1) 0
def ringNext (e : StageEntry) (core : Nat) : Nat := ringAt e (ringPos e core + 1)
def ringPrev (e : StageEntry) (core : Nat) : Nat := ringAt e (ringPos e core + (coresIn e).length - 1)
/-- The home core of segment u. -/
def haloHome (e : StageEntry) (u : Nat) : Nat := ringAt e u

/-- Row blocks with a row that no drain has written. -/
def openBlks (s : State) (it : Item) (e : StageEntry) : List RowBlk :=
  let tr := chooseTr s it e
  (blks it tr).filter (fun x =>
    let p := blkRows it tr x
    (List.range p.2).any (fun k => !it.drained.contains (p.1 + k)))

def blkKeys (s : State) (it : Item) (e : StageEntry) (x : RowBlk) : List Nat :=
  let p := blkRows it (chooseTr s it e) x
  taskKeys s it (wholeShape p.1 p.2)

/-- A task of the core still needs a segment. -/
def haloNeeds (s : State) (it : Item) (e : StageEntry) (core x : Nat) : Bool :=
  (openBlks s it e).any (fun b =>
    splitPos s it e (chooseTr s it e) b = some (ringPos e core) && (blkKeys s it e b).any (fun k => k / 512 = x))

/-- The lowest and the last segment that rows still need (R171, R172). -/
def neededKeys (s : State) (it : Item) : List Nat :=
  (((List.range it.nRows).filter (fun n => !it.drained.contains n)).flatMap (fun n => match rowKeys s it (rowOf it n) with
    | .ok l => l
    | .error _ => [])).foldl insUp []
def lowestSegment (s : State) (it : Item) : Nat :=
  match (neededKeys s it).head? with
  | some k => k / 512
  | none => it.x0
def lastSegment (s : State) (it : Item) : Nat := ((bandKeys s it 0 (aRows it)).getLast?.getD 0) / 512

/-- A core's forward of segment u is acknowledged, or it is the home's ring predecessor, which forwards none. -/
def haloForwarded (s : State) (it : Item) (e : StageEntry) (S U core u : Nat) : Bool :=
  core = ringPrev e (haloHome e u) || haloHeld (getCore s (ringNext e core)) it S U u

/-- Step 2: the home core fetches the segment that its slot takes next, within PF_DEPTH key tiles of the lowest undrained band's
last key, once its own tasks and its forward are done with what the slot holds. -/
def haloFetch (s : State) (it : Item) (e : StageEntry) (S U core k : Nat) : Bool :=
  let c := getCore s core
  let u := fillCount c it k / U * S + k
  let n := max (coresIn e).length 1
  let bs := openBlks s it e
  let band := (bs.map (fun b => b.b / n)).foldl min (aRows it)
  let last := ((bs.filter (fun b => b.b / n = band)).flatMap (blkKeys s it e)).foldl max 0
  core = haloHome e u && decide ((it.x0 + u) * 512 ≤ last + pfDepth (wordOf s e 0) * e.tk)
    && (decide (u < S) || (!haloNeeds s it e core (it.x0 + u - S) && haloForwarded s it e S U core (u - S)))

/-- Step 3: a core that holds a segment writes it into its ring successor's slot, with the bytes of its own. -/
def haloForward (s : State) (it : Item) (e : StageEntry) (S U writer core unit : Nat) : Bool :=
  let c := getCore s core
  let w := getCore s writer
  let u := fillCount c it (unit / U) / U * S + unit / U
  core = ringNext e writer && writer ≠ ringPrev e (haloHome e u) && haloHeld w it S U u
    && (decide (u < S) || decide (u - S + 1 ≤ releaseCount w it))

/-- Step 5: a core releases the next segment that its tasks no longer need to its ring predecessor. -/
def haloRelease (s : State) (it : Item) (e : StageEntry) (S U writer core : Nat) : Bool :=
  let u := releaseCount (getCore s core) it
  core = ringPrev e writer && !haloNeeds s it e writer (it.x0 + u) && haloHeld (getCore s writer) it S U u
    && haloForwarded s it e S U writer u && decide (it.x0 + u + S ≤ lastSegment s it)

/-- A 256 B unit that a core presents to a window; into a halo window, one that Table 8.9 lets its writer send. -/
def haloMay (s : State) (core w unit writer : Nat) (bs : List Byte) : Bool :=
  let v := getWin (getCore s core) w
  match v.halo with
  | none => true
  | some (q, idx) =>
    match findItem s q idx, layoutOf s core with
    | some it, some e =>
      (match haloPlan s it e, slotWindow (getCore s writer) it, physOf s writer with
       | some (S, U), some (_, x), some p =>
         if v.lenU = 1 then haloRelease s it e S U writer core
         else haloForward s it e S U writer core unit
           && bs = readBytes (tget {} s.phys p).scratch (256 * (x.baseU.toNat + unit)) 256
       | _, _, _ => false)
    | _, _ => false

/-- Step 2 for a stream that counts into a halo window: its range lies in one slot, which this core may fill. -/
def haloArm (s : State) (core win sp len : Nat) : Bool :=
  let v := getWin (getCore s core) win
  match v.halo with
  | none => true
  | some (q, idx) =>
    match findItem s q idx, layoutOf s core with
    | some it, some e =>
      (match haloPlan s it e with
       | some (S, U) =>
         let a := sp / 256 - v.baseU.toNat
         decide (256 * v.baseU.toNat ≤ sp) && decide (1 < v.lenU.toNat) && a / U = (a + len / 256 - 1) / U
           && haloFetch s it e S U core (a / U)
       | none => false)
    | _, _ => false

/-- Step 4: a task drains only on segments that are complete in their slots; an item not in halo mode reads memory. -/
def haloReady (s : State) (it : Item) (e : StageEntry) (core : Nat) (t : TaskShape) : Bool :=
  match haloPlan s it e with
  | none => true
  | some (S, U) =>
    let c := getCore s core
    (slotWindow c it).isSome && (taskKeys s it t).all (fun k => decide (it.x0 ≤ k / 512) && haloHeld c it S U (k / 512 - it.x0))

/-- A window that an ATT_FWD task opens in halo mode: the slots, then the core's release window (R171, log 82). -/
def haloOf (s : State) (core base len n : Nat) (t : Task) : Option (Nat × W32) :=
  match layoutOf s core, findItem s t.q t.idx with
  | some e, some it =>
    (match haloPlan s it e with
     | some (S, U) =>
       let c := getCore s core
       let mine := some (t.q, t.idx)
       if (slotWindow c it).isNone && inRangeU (kvUnits e) base len && len = S * U && n = S then mine
       else if (slotWindow c it).isSome && (releaseWindow c it).isNone && len = 1 then mine
       else none
     | none => none)
  | _, _ => none

/-! ### Step 6 and the restart (R172) -/

/-- Step 6: the core's last task of the item has drained. -/
def haloDone (s : State) (it : Item) (e : StageEntry) (core : Nat) : State :=
  let mine := (halosOf s it.q it.idx).filter (fun p => p.1 = core)
  if mine.isEmpty then s
  else if (openBlks s it e).any (fun b => splitPos s it e (chooseTr s it e) b = some (ringPos e core)) then s
  else mine.foldl (fun st p => dropHalo st p.1 p.2) s

/-- Windows of an item's exchange, with those that a substitution of their core closed. -/
def haloWindows (s : State) (q : Nat) (idx : W32) : List (Nat × Nat) :=
  s.cores.flatMap (fun p => (p.2.windows.filter (fun w => w.2.halo = some (q, idx))).map (fun w => (p.1, w.1)))

/-- Close a window of the exchange and, while halo mode goes on, reopen it with every counter at zero. -/
def reopenHalo (again : Bool) (s : State) (p : Nat × Nat) : State :=
  if !again then dropHalo s p.1 p.2 else
  modCore (closeWindow s p.1 p.2) p.1 (fun c =>
    let v := getWin c p.2
    let g := v.gen + 1
    { c with counters := openCounters c p.2 v.acFirst.toNat v.acNum.toNat
             windows := tput {} c.windows p.2 { v with st := 1, gen := g, ctx := c.ctx, lateLogged := dropOne v.lateLogged g.toNat } })

/-- Halo mode still fits a window's core. -/
def haloStays (s : State) (it : Item) (p : Nat × Nat) : Bool :=
  let v := getWin (getCore s p.1) p.2
  match layoutOf s p.1 with
  | some e => (match haloPlan s it e with
    | some (S, U) => v.lenU = 1 || (v.lenU.toNat = S * U && inRangeU (kvUnits e) v.baseU.toNat v.lenU.toNat)
    | none => false)
  | none => false

/-- R172 for one item. -/
def restartHalo (s : State) (it : Item) : State :=
  let ws := haloWindows s it.q it.idx
  let again := ws.all (haloStays s it)
  let s1 := ws.foldl (reopenHalo again) s
  modItem s1 it.q it.idx (fun i => { i with haloHit := false, x0 := if ws.isEmpty then i.x0 else lowestSegment s it })

/-- Halo exchanges that restart at a boundary. -/
def restartHalos (s : State) : State := (s.items.filter (fun i => i.haloHit)).foldl restartHalo s

end Sys2Proof.Machine
end

