-- ==== Sys2Proof/Machine/Windows.lean ====
section
/-! DEFINITION. Windows and arrival counters (R183 to R192), and the records that part and merge tasks exchange through them
(R160). -/

namespace Sys2Proof.Machine

/-- The range overlaps no other open window of the core. -/
def winClear (c : Core) (w base len : Nat) : Bool :=
  c.windows.all (fun p => p.1 = w || p.2.st ≠ 1 || !overlaps base len p.2.baseU.toNat p.2.lenU.toNat)

/-- The counters are within the core's 1,024 and none is owned by an open window. -/
def ctrsFree (c : Core) (first n : Nat) : Bool :=
  decide (first + n ≤ 1024) && c.counters.all (fun p => !(decide (first ≤ p.1) && decide (p.1 < first + n)) || p.2.st ≠ 1)

/-- R184, with the field ranges of Table 9.4. -/
def mayOpen (s : State) (core w base len first n : Nat) : Bool :=
  let c := getCore s core
  decide (w < 64) && c.bind ≠ 2 && decide (1 ≤ len ∧ len ≤ 12288) && decide (1 ≤ n ∧ n ≤ 1024) && len % n = 0
    && (match layoutOf s core with
        | some e => inRangeU (kvUnits e) base len || inRangeU (winUnits e) base len
        | none => false)
    && winClear c w base len && ctrsFree c first n

/-- The descriptor of a window that a thread's task opens. -/
def openedWindow (c : Core) (thread w base len first n : Nat) (halo : Option (Nat × W32)) : Window :=
  let v := getWin c w
  let g := v.gen + 1
  { baseU := BitVec.ofNat 14 base, lenU := BitVec.ofNat 14 len, acNum := BitVec.ofNat 11 n, acFirst := BitVec.ofNat 10 first
    ctx := c.ctx, st := 1, gen := g, late := v.late, lateLogged := dropOne v.lateLogged g.toNat, openedBy := some thread, halo := halo }

/-- The first halo window of an item fixes x₀ (R171). -/
def markHalo (s : State) (halo : Option (Nat × W32)) : State :=
  match halo with
  | some (q, idx) =>
    (match findItem s q idx with
     | some it => if (halosOf s q idx).isEmpty then modItem s q idx (fun i => { i with x0 := lowestSegment s it }) else s
     | none => s)
  | none => s

/-- WINDOW_OPEN by the task of a thread (R184). A window that is still open closes first (log 32). -/
def windowOpen (s : State) (core thread w base len first n : Nat) : State :=
  match findTask s core thread with
  | none => s
  | some t =>
    if t.wait.isSome then s
    else if !mayOpen s core w base len first n then abortTask s core thread
    else
      let halo := haloOf s core base len n t
      modCore (closeWindow (markHalo s halo) core w) core (fun c => { c with
        counters := openCounters c w first n
        windows := tput {} c.windows w (openedWindow c thread w base len first n halo) })

/-- A wait is satisfied (R190). -/
def waitMet (c : Core) (w : Wait) : Bool := decide (0 ≤ sgn32 ((getCtr c w.counter).count - w.threshold).toNat)

/-- Threads of a core whose wait is satisfied wake. -/
def wakeCore (s : State) (core : Nat) : State :=
  let c := getCore s core
  let f := fun (t : Task) =>
    if t.core = core then
      match t.wait with
      | some w => if waitMet c w then { t with wait := none } else t
      | none => t
    else t
  { s with tasks := s.tasks.map f }

/-- COUNTER_WAIT (R190). -/
def counterWait (s : State) (core thread j : Nat) (threshold : W32) : State :=
  match findTask s core thread with
  | none => s
  | some t =>
    let c := getCore s core
    if t.wait.isSome || (getCtr c j).st ≠ 1 then s
    else
      let w : Wait := { counter := j, threshold := threshold, boundaries := 0 }
      if waitMet c w then s
      else modTask (modCore s core (fun c => { c with counters := tmod {} c.counters j (fun k => { k with waited := true }) }))
        core thread (fun x => { x with wait := some w })

/-- Store bytes into the scratchpad of the physical core that serves a logical one. -/
def scratchWrite (s : State) (core at_ : Nat) (bs : List Byte) : State :=
  match physOf s core with
  | none => s
  | some p => { s with phys := tmod {} s.phys p (fun m => { m with scratch := writeBytes m.scratch at_ bs }) }

/-- The conditions of R187. -/
def writeAccepted (c : Core) (v : Window) (gen : Byte) (u : Nat) (ctx : CtxId) : Bool :=
  v.st = 1 && v.gen = gen && ctx = v.ctx && decide (u < v.lenU.toNat) && c.bind ≠ 2

/-- One more unit on the counter of unit u of window w. -/
def countUnit (c : Core) (v : Window) (u : Nat) : Core :=
  let j := v.acFirst.toNat + u / (v.lenU.toNat / v.acNum.toNat)
  { c with counters := tmod {} c.counters j (fun k => { k with count := k.count + 1 }) }

/-- A late write (R187). -/
def lateWrite (s : State) (core w : Nat) (gen : Byte) (writer : Nat) : State :=
  let v := getWin (getCore s core) w
  let first := !v.lateLogged.contains gen.toNat
  let s1 := modCore s core (fun c => { c with
    windows := tput {} c.windows w { v with late := satAdd v.late 1, lateLogged := insUp v.lateLogged gen.toNat } })
  if first then bellRaise s1 0x0020 0 v.ctx 0 (w % 64 + gen.toNat * 2 ^ 8 + writer % 64 * 2 ^ 16) else s1

/-- A 256 B unit for a window (R187, R189). -/
def windowWrite (s : State) (core w : Nat) (gen : Byte) (u : Nat) (ctx : CtxId) (writer : Nat) (bs : List Byte) : State :=
  if !coreLive s core || !decide (w < 64) then s else
  let c := getCore s core
  let v := getWin c w
  if writeAccepted c v gen u ctx then
    wakeCore (modCore (scratchWrite s core (256 * (v.baseU.toNat + u)) bs) core (fun c => countUnit c v u)) core
  else lateWrite s core w gen writer

/-- WINDOW_WRITE: a unit that a core's task sends (R186); into a halo window, one that Table 8.9 lets it send. -/
def windowSend (s : State) (core w : Nat) (gen : Byte) (u : Nat) (ctx : CtxId) (writer : Nat) (bs : List Byte) : State :=
  let c := getCore s core
  if !writeAccepted c (getWin c w) gen u ctx || haloMay s core w u writer bs then windowWrite s core w gen u ctx writer bs else s

/-! ### Records of part and merge tasks (R160, Table 8.5) -/

/-- The merge task that takes a task's records: the one of the smallest key range above it. -/
def mergeOf (g : RowGroup) (x : TaskShape) : Option TaskShape :=
  g.shapes.foldl (fun best m =>
    if m.kind ≠ .merge || !underMerge m x then best
    else match best with
      | none => some m
      | some b => if m.segCount ≠ 0 && (b.segCount = 0 || decide (m.segCount < b.segCount)) then some m else best) none

/-- The tasks whose records a merge task takes. -/
def feeders (g : RowGroup) (m : TaskShape) : List TaskShape := g.shapes.filter (fun x => mergeOf g x = some m)

def boundUnits (rows : Nat) : Nat := ceilDiv' rows 64
def nodeUnits (it : Item) (rows : Nat) : Nat := ceilDiv' (rows * (d64 (aHd it) + 4)) 64

def findGroup (it : Item) (t : TaskShape) : Option RowGroup := it.groups.find? (fun g => g.shapes.contains t)

def modGroup (s : State) (q : Nat) (idx : W32) (t : TaskShape) (f : RowGroup → RowGroup) : State :=
  modItem s q idx (fun i => { i with groups := i.groups.map (fun g => if g.shapes.contains t then f g else g) })

/-- The running task of a shape. -/
def runnerOf (s : State) (it : Item) (x : TaskShape) : Option Task := s.tasks.find? (fun t => isItem t.q t.idx it && t.shape = x)

/-- The open window of a length that a task has opened for its exchange. -/
def exchangeWindow (s : State) (t : Task) (len : Nat) : Option (Nat × Window) :=
  (getCore s t.core).windows.find? (fun p => p.2.st = 1 && p.2.openedBy = some t.thread && p.2.halo.isNone && p.2.lenU.toNat = len)

/-- Units that a window's counters have counted. -/
def windowTotal (c : Core) (v : Window) : Nat :=
  (List.range v.acNum.toNat).foldl (fun n i => n + (getCtr c (v.acFirst.toNat + i)).count.toNat) 0

/-- A record goes into a window in 256 B units from unit `u` on, zeros after its last word. -/
def sendRecord (s : State) (t : Task) (core w u units : Nat) (v : Window) (bs : List Byte) : State :=
  let full := bs ++ List.replicate (256 * units - bs.length) 0
  (List.range units).foldl (fun st i => windowWrite st core w v.gen (u + i) t.ctx t.core ((full.drop (256 * i)).take 256)) s

/-- Position of a task among those that feed its merge task. -/
def feederPos (g : RowGroup) (m x : TaskShape) : Nat := (feeders g m).idxOf x

/-- m̂ of a task's rows over its own keys (R108). -/
def scoutTask (s : State) (it : Item) (t : TaskShape) : Except MErr (List W32) :=
  mapE (fun n =>
    let r := rowOf it n
    match rowKeys s it r with
    | .error e => .error e
    | .ok ks => scoutRow s it r (ks.filter (inTask t))) (taskRows t)

def maxBounds (rows : Nat) (bs : List (List W32)) : List W32 :=
  (List.range rows).map (fun k => bs.foldl (fun m b => max32 m (b.getD k negInf32)) negInf32)

/-- A bound record goes up to a merge task's bound window. -/
def raiseBound (s : State) (it : Item) (g : RowGroup) (t : Task) (bs : Unit → Except MErr (List W32)) : State :=
  if g.bounds.any (fun b => b.1 = t.shape) then s else
  match mergeOf g t.shape with
  | none => s
  | some m =>
    match runnerOf s it m with
    | none => s
    | some k =>
      let n := boundUnits t.shape.rows
      match exchangeWindow s k ((feeders g m).length * n) with
      | none => s
      | some (w, v) =>
        match bs () with
        | .error e => taskErr s t e
        | .ok ws =>
          sendRecord (modGroup s it.q it.idx t.shape (fun g => { g with bounds := g.bounds ++ [(t.shape, ws)] }))
            t k.core w (feederPos g m t.shape * n) n v (wordsLE ws)

/-- The bounds that have reached a merge task, when every one has. -/
def boundsIn (g : RowGroup) (m : TaskShape) : Option (List (List W32)) :=
  let got := (feeders g m).filterMap (fun x => (g.bounds.find? (fun b => b.1 = x)).map (fun b => b.2))
  if got.length = (feeders g m).length then some got else none

/-- The combined bound goes down to a part's bound window. -/
def lowerBound (s : State) (g : RowGroup) (t : Task) : State :=
  let n := boundUnits t.shape.rows
  match exchangeWindow s t n with
  | none => s
  | some (w, v) =>
    if !g.bounded || decide (n ≤ windowTotal (getCore s t.core) v) then s
    else sendRecord s t t.core w 0 n v (wordsLE (g.accs.map (fun a => a.mHat)))

/-- What one running task of a row block contributes to its bounds (Table 8.5); a row to rescout keeps the bound of R115. -/
def boundStep (s : State) (t : Task) : State :=
  match findItem s t.q t.idx with
  | none => s
  | some it =>
    if it.opcode ≠ 0x10 || it.stage ≠ .executing || (opOf s t.q t.idx).isSome then s else
    match findGroup it t.shape with
    | none => s
    | some g =>
      if t.shape.kind = .part then
        lowerBound (raiseBound s it g t (fun _ => scoutTask (pageView s it) it t.shape)) g t
      else
        match boundsIn g t.shape with
        | none => s
        | some bs =>
          let m := maxBounds g.rows bs
          if t.shape.segCount ≠ 0 then raiseBound s it g t (fun _ => .ok m)
          else if g.bounded then s
          else modGroup s t.q t.idx t.shape (fun g => { g with
            bounded := true
            accs := (List.range g.rows).map (fun k => let a := g.accs.getD k {}
                                                      if a.resc then a else { a with mHat := m.getD k negInf32 }) })

/-- The bound exchange of the row blocks that run as part and merge tasks, as far as their windows are open (fuel: levels). -/
def boundExchange : Nat → State → State
  | 0, s => s
  | f + 1, s =>
    let ts := s.tasks.filter (fun t => t.shape.kind = .part || t.shape.kind = .merge)
    if ts.isEmpty then s else boundExchange f (ts.foldl boundStep s)

def execWindowOpen (core thread win baseU lenU acFirst acNum : Nat) (s : State) : Host.Outcome State Fault Refusal :=
  work s (fun s => boundExchange 20 (windowOpen s core thread win baseU lenU acFirst acNum))
def execWindowClose (core win : Nat) (s : State) : Host.Outcome State Fault Refusal := work s (fun s => dropHalo s core win)
def execCounterWait (core thread counter : Nat) (threshold : W32) (s : State) : Host.Outcome State Fault Refusal :=
  work s (fun s => counterWait s core thread counter threshold)
def execWindowWrite (core win : Nat) (gen : Byte) (unit : Nat) (ctx : CtxId) (writer : Nat) (data : BitVec 2048) (s : State) :
    Host.Outcome State Fault Refusal := work s (fun s => windowSend s core win gen unit ctx writer (toLE 256 data.toNat))

end Sys2Proof.Machine
end

