-- ==== Sys2Proof/Machine/Stream.lean ====
section
/-! DEFINITION. Stream slots (R250 to R264): arming, the requests of a stream, what lands, and the verification of what a
demand read brings in. -/

namespace Sys2Proof.Machine

/-! ### Stream descriptors (Table 12.1) -/

/-- `n` bytes of a descriptor from byte `off`. -/
def sdAt (d : BitVec 256) (off n : Nat) : Nat := (d.toNat >>> (8 * off)) % 2 ^ (8 * n)

def sdAddr (d : BitVec 256) : W64 := BitVec.ofNat 64 d.toNat
def sdRowBytes (d : BitVec 256) : Nat := sdAt d 8 4
def sdRows (d : BitVec 256) : Nat := sdAt d 12 4
def sdStride (d : BitVec 256) : Nat := sdAt d 16 4
def sdSp (d : BitVec 256) : Nat := 4 * (sdAt d 20 4 % 2 ^ 20)
def sdKind (d : BitVec 256) : Nat := sdAt d 24 4 % 4
def sdCount (d : BitVec 256) : Bool := sdAt d 24 4 / 4 % 2 = 1
def sdWin (d : BitVec 256) : Nat := sdAt d 24 4 / 16 % 64
/-- Packed bytes of a row, and of the stream (R251). -/
def sdPacked (d : BitVec 256) : Nat := roundUp (sdRowBytes d) 4
def sdTotal (d : BitVec 256) : Nat := sdRows d * sdPacked d

/-- A reserved field or the reserved KIND (R9). -/
def sdReserved (d : BitVec 256) : Bool :=
  sdAt d 20 4 / 2 ^ 20 ≠ 0 || sdAt d 24 4 / 8 % 2 = 1 || sdAt d 24 4 / 2 ^ 10 ≠ 0 || sdAt d 28 4 ≠ 0 || sdKind d = 3
    || addrRsv (sdAddr d)

/-- The ranges of Table 12.1 and R252. -/
def sdLegal (d : BitVec 256) : Bool :=
  decide (1 ≤ sdRowBytes d ∧ sdRowBytes d ≤ 65536) && decide (1 ≤ sdRows d)
    && (sdKind d ≠ 2 || decide (sdRowBytes d ≤ sdStride d)) && decide (sdSp d + sdTotal d ≤ 3145728)
    && (!sdCount d || sdTotal d % 256 = 0)

/-- The requests of one row, cut at 256 B-aligned virtual addresses (R251; fuel: blocks). -/
def rowParts : Nat → W64 → Nat → Nat → List StreamPart
  | 0, _, _, _ => []
  | f + 1, a, n, sp =>
    if n = 0 then [] else
    let k := min (256 - addrVa a % 256) n
    { addr := a, len := k, sp := sp } :: rowParts f (addrAdd a k) (n - k) (sp + k)

def streamParts (d : BitVec 256) : List StreamPart :=
  (List.range (sdRows d)).flatMap (fun r =>
    rowParts (sdRowBytes d / 256 + 2) (addrAdd (sdAddr d) (r * sdStride d)) (sdRowBytes d) (sdSp d + r * sdPacked d))

/-! ### Landing (R251 to R253) -/

/-- The task of a slot (R250). -/
def slotTask (s : State) (core i : Nat) : Option Task := findTask s core (i / 4)

def modSlot (s : State) (core i : Nat) (f : StreamSlot → StreamSlot) : State :=
  modCore s core (fun c => { c with slots := tmod {} c.slots i f })

/-- A stream with nothing left is DONE. -/
def settleSlot (s : State) (core i : Nat) : State :=
  modSlot s core i (fun v => if v.st = 1 && v.todo.isEmpty && v.left = 0 then { v with st := 2 } else v)

/-- Zero bytes that end the row's last word after this part (R251). -/
def padAfter (d : BitVec 256) (sp len : Nat) : Nat :=
  if (sp - sdSp d) % sdPacked d + len = sdRowBytes d then sdPacked d - sdRowBytes d else 0

/-- Bytes of [a, a + n) that landed ranges cover (fuel: ranges). -/
def covered (got : List (Nat × Nat)) (a n : Nat) : Nat :=
  (got.map (fun g => min (g.1 + g.2) (a + n) - max g.1 a)).foldl (fun x y => x + y) 0

/-- Window unit at a scratchpad byte; past the window's end when the byte lies before it. -/
def unitAt (v : Window) (sp : Nat) : Nat := if sp / 256 < v.baseU.toNat then v.lenU.toNat else sp / 256 - v.baseU.toNat

/-- Bytes from a scratchpad byte on, cut at the 256 B units of the stream's packed range: unit, first byte, bytes (fuel: units). -/
def unitCuts (d : BitVec 256) : Nat → Nat → List Byte → List (Nat × Nat × List Byte)
  | 0, _, _ => []
  | f + 1, sp, bs =>
    if bs.isEmpty then [] else
    let k := min (256 - (sp - sdSp d) % 256) bs.length
    ((sp - sdSp d) / 256, sp, bs.take k) :: unitCuts d f (sp + k) (bs.drop k)

/-- The bytes of one request that fall in one unit land. A counting stream's unit is a window write under the GEN that its window
had at the arming: bytes that R187 does not accept are discarded, and a unit counts once its 64 words are all written (R189,
R252), or is late once its last bytes have come. -/
def landCut (core i : Nat) (ctx : CtxId) (s : State) (x : Nat × Nat × List Byte) : State :=
  let v := getSlot (getCore s core) i
  let d := v.desc
  let c := getCore s core
  let w := getWin c (sdWin d)
  let k := unitAt w (sdSp d + 256 * x.1)
  let ok := !sdCount d || writeAccepted c w v.wgen k ctx
  let range := (x.2.1, x.2.2.length)
  let v' := if ok then { v with got := v.got ++ [range] } else { v with lost := v.lost ++ [range] }
  let s1 := modSlot (if ok then scratchWrite s core x.2.1 x.2.2 else s) core i (fun _ => v')
  let a := sdSp d + 256 * x.1
  if !sdCount d || decide (covered v'.got a 256 + covered v'.lost a 256 < 256) then s1
  else if covered v'.lost a 256 = 0 && ok then wakeCore (modCore s1 core (fun c => countUnit c w k)) core
  else lateWrite s1 core (sdWin d) v.wgen core

/-- The context of an access: 0x000 inside an arena (R206). -/
def accessCtx (s : State) (ctx : CtxId) (a : W64) : CtxId := if inArenas s a then 0 else ctx

/-- Verify the blocks that ranges of the arenas, and other ranges of the task's context, bring in whole (R268). -/
def verifyMixed (s : State) (ctx : CtxId) (rs : List (W64 × Nat)) : Except MErr Verified :=
  match verifyParts s 0 (rs.filter (fun r => inArenas s r.1)), verifyParts s ctx (rs.filter (fun r => !inArenas s r.1)) with
  | .ok (.fine a), .ok (.fine b) => .ok (.fine (a + b))
  | .ok (.fine a), .ok (.mismatch k b) => .ok (.mismatch k (a + b))
  | .ok (.fine _), .error e => .error e
  | x, _ => x

/-- A task ends at a check mismatch, and its item fails (R263, R268, R271). -/
def taskMismatch (s : State) (t : Task) (blk : W64) (n : Nat) : State :=
  blockMismatch (modCore s t.core (fun c => { c with aborts := satAdd c.aborts 1 })) t.q t.idx t.ctx blk n

/-- The blocks that a finished read stream has brought in whole are verified; a prefetch that fails is discarded (R260). -/
def streamVerify (s : State) (core i : Nat) : State :=
  let v := getSlot (getCore s core) i
  if v.st ≠ 2 || v.cold.isEmpty then s else
  match slotTask s core i with
  | none => s
  | some t =>
    match verifyMixed s t.ctx v.cold with
    | .ok (.fine n) => countVerified s n
    | .ok (.mismatch b n) => if v.kind = 1 then countPfDiscard (countVerified s n) else taskMismatch s t b n
    | .error e => if v.kind = 1 then countPfDiscard s else taskErr s t e

/-- Bytes of one request of a stream land in the scratchpad, with the zeros that end its row's last word. -/
def landPart (s : State) (core i : Nat) (ctx : CtxId) (sp : Nat) (bs : List Byte) : State :=
  let d := (getSlot (getCore s core) i).desc
  let full := bs ++ List.replicate (padAfter d sp bs.length) 0
  let s1 := (unitCuts d 4 sp full).foldl (landCut core i ctx) s
  streamVerify (settleSlot (modSlot s1 core i (fun x => { x with landed := x.landed + 1, left := x.left - 1 })) core i) core i

/-! ### Issue (R251, R256, R259, R262) -/

/-- A prefetch that misses the Page Translation Cache meets an outstanding record of its page, or a full table (R259). -/
def pfBlocked (s : State) (ctx : CtxId) (a : W64) : Bool :=
  (ptcHit s.tr.active (addrCls a) ctx (addrVa a) false).isNone
    && (s.tr.recs.any (fun r => r.key = keyOf ctx a) || decide (512 ≤ s.tr.recs.length))

/-- A read of a stream finds no translation: a prefetch is dropped, a demand aborts its task (R259, R263). A home fetch that faults
restarts its halo exchange (R172). -/
def readFaults (s : State) (core i : Nat) (t : Task) (e : MErr) : State :=
  let v := getSlot (getCore s core) i
  let s1 := if sdCount v.desc && (getWin (getCore s core) (sdWin v.desc)).halo.isSome
    then modItem s t.q t.idx (fun x => { x with haloHit := true }) else s
  if v.kind = 1 then (match e with
    | .bad _ _ => countPfDiscard s1
    | _ => countPfDrop s1)
  else taskErr s1 t e

/-- One read of a stream, under the task's context, or under 0x000 inside an arena (R206): it hits in the cluster cache, or goes
out under a tag. -/
def issuePart (s : State) (core i : Nat) (t : Task) (p : StreamPart) : State :=
  let v := getSlot (getCore s core) i
  let pf := decide (v.kind = 1)
  if pf && pfBlocked s t.ctx p.addr then countPfDrop s else
  match translate s t.ctx p.addr false with
  | .error e => readFaults s core i t e
  | .ok (pa, _) =>
    let cl := getCluster s (core / 8)
    if cacheHit s core p.addr t.ctx then
      let s1 := setCluster s (core / 8) { cl with hits := satInc32 cl.hits }
      landPart (modSlot s1 core i (fun x => { x with left := x.left + 1 })) core i t.ctx p.sp (readBytes s.mem.bytes pa p.len)
    else
      let s1 := if inArenas s p.addr then setCluster s (core / 8) { cl with misses := satInc32 cl.misses } else s
      issueReq (modSlot s1 core i (fun x => { x with left := x.left + 1 }))
        { tag := none, pool := core, owner := .stream core i v.gen p.sp pf t.ctx, write := false, pa := pa, len := p.len
          ctx := accessCtx s t.ctx p.addr, addr := p.addr, viaPtc := some (keyOf t.ctx p.addr), thread := some (i / 4) }

/-- A request of this core would find a tag. -/
def tagFree (s : State) (core : Nat) (pf : Bool) : Bool :=
  (freeTag s { tag := none, pool := core, owner := .stream core 0 0 0 pf 0, write := false, pa := 0, len := 0, ctx := 0, addr := 0 }).isSome

/-- Issue the waiting reads of a slot while it is ACTIVE and tags are free. A write stream waits for its task's drain (R20, R264). -/
def feedParts : List StreamPart → State → Nat → Nat → State
  | [], s, core, i => settleSlot s core i
  | p :: t, s, core, i =>
    let v := getSlot (getCore s core) i
    match slotTask s core i with
    | none => s
    | some k =>
      if v.st ≠ 1 || v.kind = 2 then s
      else if !tagFree s core (decide (sdKind v.desc = 1)) then s
      else feedParts t (issuePart (modSlot s core i (fun x => { x with todo := t })) core i k p) core i

def feedSlot (s : State) (core i : Nat) : State := feedParts (getSlot (getCore s core) i).todo s core i

/-- Threads of a core in the order of R70 (N = 32). -/
def threadOrder (s : State) : List Nat := (List.range 32).map (fun k => (k + s.breath.num.toNat) % 32)

/-- Free tags go to one thread: its requests that wait, oldest first, then its streams. -/
def feedThread (core : Nat) (s : State) (th : Nat) : State :=
  (List.range 4).foldl (fun st k => feedSlot st core (4 * th + k))
    (grantTags (fun r => r.pool = core && r.thread = some th) s)

/-- Freed tags go to the threads of a core in their order (R256). -/
def feedCore (s : State) (core : Nat) : State := if core < 64 then (threadOrder s).foldl (feedThread core) s else s

/-! ### Arming (R250, R254, R258) -/

/-- A prefetch reads only K, V and piccolo-key bytes that its item's rows read (R258). -/
def prefetchLegal (s : State) (t : Task) (parts : List StreamPart) : Bool :=
  match findItem s t.q t.idx with
  | none => false
  | some it =>
    if engineOf it.q ≠ 0 then false else
    match allKeys (pageView s it) it with
    | .error _ => false
    | .ok keys =>
      (match keyBytesOf (pageView s it) it keys with
       | .error _ => false
       | .ok rs => parts.all (fun p => decide (p.len ≤ rangeCover p.addr p.len rs.eraseDups)))

/-- What the tile order, and the halo protocol, ask of an arming. -/
def armable (s : State) (core : Nat) (t : Task) (d : BitVec 256) : Bool :=
  (sdKind d ≠ 1 || prefetchLegal s t (streamParts d)) && (!sdCount d || sdKind d = 2 || haloArm s core (sdWin d) (sdSp d) (sdTotal d))

/-- The cases of Table 2.23 on a stream descriptor: the item fails with a free failure status (log 12). -/
def undefinedStream (s : State) (t : Task) : State :=
  let (f, s1) := drawFree s
  endItem s1 t.q t.idx (0x10 + f.toNat % 0x30) 0

/-- A slot as its arming leaves it. -/
def armedSlot (c : Core) (v : StreamSlot) (d : BitVec 256) : StreamSlot :=
  { gen := v.gen + 1, st := 1, landed := 0, desc := d, todo := streamParts d, wgen := (getWin c (sdWin d)).gen }

/-- STREAM_ARM (R250, R254). -/
def streamArm (s : State) (core i : Nat) (d : BitVec 256) : State :=
  match slotTask s core i with
  | none => s
  | some t =>
    let v := getSlot (getCore s core) i
    if !decide (i < 128) then s
    else if v.st = 1 || sdReserved d then undefinedStream s t
    else if !sdLegal d || !armable s core t d then s
    else feedSlot (modSlot s core i (fun x => armedSlot (getCore s core) x d)) core i

def execStreamArm (core slot : Nat) (desc : BitVec 256) (s : State) : Host.Outcome State Fault Refusal :=
  work s (fun s => streamArm s core slot desc)

end Sys2Proof.Machine
end

