-- ==== Sys2Proof/Machine/Tasks.lean ====
section
/-! DEFINITION. Tasks (R67, R68, R152 to R164, R173, R182, R192, R264): dispatch, what a task reads and computes, drains,
overruns, wait timeouts, and the commit of an item whose writes are acknowledged. -/

namespace Sys2Proof.Machine

/-! ### Commit (Table 2.8, R21, R286) -/

/-- An item whose effect is issued commits once the memory side has acknowledged its writes. -/
def tryCommit (s : State) (q : Nat) (idx : W32) : State :=
  match findItem s q idx with
  | none => s
  | some i =>
    if i.stage ≠ .executing || outputsLeft s q idx ≠ 0 then s
    else if (opOf s q idx).any (fun o => !o.failFrom.isEmpty) then yieldFail s q idx
    else if !i.issued then s
    else if engineOf q = 1 then commitPaging s q idx
    else
      match opOf s q idx with
      | some o => if o.sentDone || o.rejoining || o.heldFor.isSome then s else sendDone s o
      | none => commitNow s q idx

/-! ### Dispatch (R155, R158, R159, R173, R182) -/

/-- A core accepts the task (R182): bound to its context and in service, not taken by the Test and Scrub Engine for this
breath (R69); its cluster is not resetting, and firmware has restarted (R328, R351). -/
def coreAccepts (s : State) (core : Nat) (ctx : CtxId) : Bool :=
  let c := getCore s core
  coreLive s core && c.bind = 1 && c.ctx = ctx && c.rebind.isNone && c.old.isNone && !c.tse
    && !(getCluster s (core / 8)).resetting && !s.reed.fwWait

/-- Nothing of the task is running, or held at a fault record (R244), and its rows are not drained. -/
def taskOpen (s : State) (it : Item) (t : TaskShape) : Bool :=
  !(s.tasks.any (fun x => isItem x.q x.idx it && x.shape = t))
    && !(s.reissues.any (fun r => isItem r.task.q r.task.idx it && r.task.shape = t))
    && (decide (t.kind = .test) || ((taskRows t).any (fun n => !it.drained.contains n) && !it.pieces.contains t))

/-- Free attention threads of an entry's cores. -/
def freeThreads (s : State) (e : StageEntry) (ctx : CtxId) : Nat :=
  ((coresIn e).map (fun k => if coreAccepts s k ctx then
    ((List.range e.threads).filter (fun th => (findTask s k th).isNone)).length else 0)).foldl (fun x y => x + y) 0

/-- A core could take a Row Engine task of the item (R173). -/
def rowRoom (s : State) (ctx : CtxId) (core : Nat) : Bool :=
  coreAccepts s core ctx && (match entryOf s core with
    | some (e, _) => decide (4096 ≤ e.spRow) && (List.range (32 - e.threads)).any (fun k => (findTask s core (e.threads + k)).isNone)
    | none => false)

/-- Placement of Row Engine tasks (R173): no core with a free row thread comes before this one (N = 64). -/
def rowFirstCore (s : State) (ctx : CtxId) (core : Nat) : Bool :=
  let key := fun (i : Nat) => (i + 64 - s.breath.num.toNat % 64) % 64
  (List.range 64).all (fun k => key core ≤ key k || !rowRoom s ctx k)

/-- What a dispatch records on its item. -/
structure Placing where
  time : Nat                        -- pipe time on the core (R159)
  home : Option (Nat × Nat)         -- the entry that its sequence keeps to (R155)
  create : Option TaskShape         -- a row block, or Row Engine task, that it creates (R167, R173)
  group : Option RowGroup           -- its row block's tasks, as the dispatch leaves them
deriving DecidableEq, Repr

/-- The row block's record after this task's dispatch: the first dispatch needs threads free for all of its tasks; the others
follow in its breath; a task that was aborted goes out again by itself (R159, R161). -/
def groupPlace (s : State) (it : Item) (e : StageEntry) (k : Nat) (g : List TaskShape) (t : TaskShape) : Option RowGroup :=
  let first := g.headD t
  let old := it.groups.find? (fun x => x.shapes = g)
  let room := decide (g.length ≤ freeThreads s e it.ctx)
  let busy := s.tasks.any (fun x => isItem x.q x.idx it && overlaps x.shape.rowFirst x.shape.rows first.rowFirst first.rows)
  match old with
  | none => if room && !busy then some { rowFirst := first.rowFirst, rows := first.rows, shapes := g, entry := k, at_ := some s.breath.num, out := [t] }
            else none
  | some r =>
    match r.at_ with
    | none => if room && r.entry = k then some { r with at_ := some s.breath.num, out := [t] } else none
    | some b =>
      if r.entry ≠ k || r.nodes.any (fun n => n.1 = t) then none
      else if r.out.contains t then some r
      else if b = s.breath.num then some { r with out := r.out ++ [t] } else none

/-- An attention task's place: on cores that hold its layer and its sequence, as R158 plans it, in the order of the walk, within
the budget. -/
def placeAtt (s : State) (it : Item) (core thread : Nat) (t : TaskShape) : Option Placing :=
  match entryOf s core with
  | none => none
  | some (e, k) =>
    let sq := (rowOf it t.rowFirst).s
    let tm := pipeTime s it e t
    let b := budgetOf s e
    match groupOf s it e t with
    | none => none
    | some (blk, g) =>
      let tr := chooseTr s it e
      let x := blkOf it tr t.rowFirst
      let made := isCreated it blk.rowFirst
      if decide (thread < e.threads) && holdsLayer e (aLayer it) && homeEntry s it sq = some k
          && (made || walkNext s it e k core tr x)
          && (decide (2 ≤ g.length) || (match splitPos s it e tr x with
              | some p => p = ringPos e core
              | none => true))
          && (isLong s it t || (decide (tm ≤ b) && decide ((getCore s core).budget + tm ≤ b))) then
        let p : Placing := { time := tm, home := some (sq, k), create := if made then none else some blk, group := none }
        if g.length < 2 then some p
        else (groupPlace s it e k g t).map (fun r => { p with group := some r })
      else none

/-- A Row Engine task's place: the next one that R173 sizes, or one created before. -/
def placeRow (s : State) (it : Item) (core thread : Nat) (t : TaskShape) : Option Placing :=
  match entryOf s core with
  | none => none
  | some (e, _) =>
    if !(decide (e.threads ≤ thread) && rowFirstCore s it.ctx core && roeFits it e t) then none
    else if (it.created.flatMap (roeCut it 10)).contains t then some { time := 0, home := none, create := none, group := none }
    else if roePlan it e = some t then some { time := 0, home := none, create := some t, group := none }
    else none

/-- Where a task may run, and what its dispatch records. A test task takes a core's idle breath slot (R69). -/
def placeTask (s : State) (it : Item) (core thread : Nat) (t : TaskShape) : Option Placing :=
  match engineOf it.q with
  | 0 => if t.kind = .rowEngine || t.kind = .test || !it.begun then none else placeAtt s it core thread t
  | 3 => if t.kind = .rowEngine && it.begun then placeRow s it core thread t else none
  | 4 => if t.kind = .test && !(getCore s core).taken && busyCount s core = 0 then some { time := 0, home := none, create := none, group := none } else none
  | _ => none

/-- The core's memories no longer hold what the model knows; Row Engine tasks reach no accumulator (R180). -/
def soil (s : State) (core : Nat) (acc : Bool) : State :=
  match physOf s core with
  | some p => { s with phys := tmod {} s.phys p (fun m => { m with dirty := true, accDirty := m.accDirty || acc }) }
  | none => s

/-- The item's record of a dispatch. -/
def placeOn (p : Placing) (i : Item) : Item :=
  { i with
    placed := match p.home with
      | some h => if i.placed.contains h then i.placed else i.placed ++ [h]
      | none => i.placed
    created := match p.create with
      | some b => i.created ++ [b]
      | none => i.created
    groups := match p.group with
      | some g => i.groups.filter (fun x => !overlaps x.rowFirst x.rows g.rowFirst g.rows) ++ [g]
      | none => i.groups }

/-- Far-tier pages of the segments that the near-tier word names ahead of a task are asked for, whatever PROMOTE_EN holds
(R220, R258). -/
def promoteAhead (s : State) (it : Item) (core : Nat) (t : TaskShape) : State :=
  match entryOf s core with
  | none => s
  | some (e, _) =>
    let d := pfDepth (wordOf s e 2)
    let last := ((taskKeys s it t).getLast?.getD 0) / 512
    if engineOf it.q ≠ 0 || d = 0 || isK5 s then s else
    match allKeys (pageView s it) it with
    | .error _ => s
    | .ok keys =>
      let far := keys.flatMap (fun p =>
        let x := rowEntry it p.1.s
        if x.hint = 2 || p.1.s ≠ (rowOf it t.rowFirst).s then [] else
        (p.2.filter (fun k => decide (last < k / 512 ∧ k / 512 ≤ last + d))).flatMap (fun k =>
          farPages s x { r := relLayer it p.1.s, g := p.1.g it, kpos := k }))
      { s with pg := { s.pg with promoWanted := far.foldl insUp s.pg.promoWanted } }

/-- TASK_DISPATCH; a dispatch that breaks a rule does not happen. -/
def dispatch (s : State) (q : Nat) (idx : W32) (core thread : Nat) (t : TaskShape) : State :=
  match findItem s q idx with
  | none => s
  | some it =>
    if !mayRun s it || !taskOpen s it t || !coreAccepts s core it.ctx || !decide (thread < 32) || (findTask s core thread).isSome then s
    else
      match placeTask s it core thread t with
      | none => s
      | some p =>
        let k : Task := { core := core, thread := thread, q := q, idx := idx, ctx := it.ctx, shape := t
                          dispatched := s.breath.num, serial := s.dispatches }
        let s1 := { s with tasks := s.tasks ++ [k], dispatches := s.dispatches + 1 }
        let s2 := modCore s1 core (fun c => { c with budget := c.budget + p.time, tse := c.tse || decide (t.kind = .test) })
        promoteAhead (modItem (soil s2 core (t.kind ≠ .rowEngine)) q idx (placeOn p)) it core t

/-! ### What a task reads (R163, R244, R263, R268, R169) -/

/-- What a task reads: rows with their keys, and ranges of other operands. -/
structure Reads where
  keys : List (RowId × List Nat) := []
  others : List (W64 × Nat) := []
deriving DecidableEq, Repr

/-- The unmasked keys of a task's rows in its key range. -/
def taskRowKeys (s : State) (it : Item) (t : TaskShape) : Except MErr (List (RowId × List Nat)) :=
  mapE (fun n =>
    let r := rowOf it n
    match rowKeys s it r with
    | .error e => .error e
    | .ok ks => .ok (r, ks.filter (inTask t))) (taskRows t)

/-- Range of a row's slice of a tensor. -/
def sliceRange (it : Item) (base : W64) (stride fmt : Nat) (r : RowId) : W64 × Nat :=
  let e := elemBytes fmt
  (addrAdd base (r.tau it * stride + r.h * aHd it * e), aHd it * e)

/-- Operand ranges, besides keys, of the rows of a forward task that have a key. -/
def fwdOperands (it : Item) (rs : List RowId) : List (W64 × Nat) :=
  rs.map (sliceRange it (d64F it 56) (dF it 40 4) (aFmt it))
    ++ (if (drainCfg it).res then rs.map (sliceRange it (d64F it 96) (dF it 48 4) (dF it 7 1)) else [])

/-- The same of a backward task: Q, O and dO. -/
def bwdOperands (it : Item) (rs : List RowId) : List (W64 × Nat) :=
  rs.map (sliceRange it (d64F it 64) (dF it 40 4) (aFmt it)) ++ rs.map (sliceRange it (d64F it 72) (dF it 44 4) (dF it 7 1))
    ++ rs.map (sliceRange it (d64F it 88) (dF it 48 4) (dF it 6 1))

/-- A task reads its operands: pages asked for, lines hit or filled, blocks verified that memory brings in whole; then it goes on.
A fault aborts it, a mismatch fails its item (R263). -/
def taskRead (s : State) (t : Task) (it : Item) (rd : Reads) (go : State → State) : State :=
  match keyBytesOf (pageView s it) it rd.keys with
  | .error e => taskErr s t e
  | .ok arena =>
    let cold := coldRanges s t.core t.ctx arena
    match verifyMixed s t.ctx (cold ++ rd.others) with
    | .error e => taskErr s t e
    | .ok (.mismatch b n) => taskMismatch s t b n
    | .ok (.fine n) => go (cacheReads (wantPromotion (countVerified s n) it rd.keys) t.core t.ctx arena)

/-! ### Drains (R123, R163, R264, R267) -/

/-- A pending write: its owner and tag pool with its bytes. -/
structure DrainOut where
  owner : Owner
  pool : Nat
  out : Out
deriving DecidableEq, Repr

/-- The write streams of a thread that wait for their task's drain (R20, R251). -/
def streamOuts (s : State) (t : Task) : List DrainOut :=
  let c := getCore s t.core
  (List.range 4).flatMap (fun k =>
    let i := 4 * t.thread + k
    let v := getSlot c i
    if v.st ≠ 1 || v.kind ≠ 2 then [] else
    v.todo.map (fun p =>
      let bs := match physOf s t.core with
        | some ph => readBytes (tget {} s.phys ph).scratch p.sp p.len
        | none => []
      { owner := .drain t.core i v.gen t.q t.idx, pool := t.core, out := { addr := p.addr, bytes := bs } }))

/-- Requests of a drain, all translated before the first is issued. -/
def drainBlocks (s : State) (ctx : CtxId) : List DrainOut → Except MErr (List (DrainOut × W64 × Nat × List Byte))
  | [] => .ok []
  | d :: t =>
    match writeBlocks s ctx d.out.addr d.out.bytes, drainBlocks s ctx t with
    | .ok a, .ok b => .ok (a.map (fun x => (d, x)) ++ b)
    | .error e, _ => .error e
    | _, .error e => .error e

/-- The requests go out; a write stream has issued all of its own. -/
def drainIssue (s : State) (t : Task) (bs : List (DrainOut × W64 × Nat × List Byte)) : State :=
  let s1 := (List.range 4).foldl (fun st k => modSlot st t.core (4 * t.thread + k) (fun v =>
    if v.st = 1 && v.kind = 2 then
      { v with todo := [], left := v.left + (bs.filter (fun b => match b.1.owner with
          | .drain _ i _ _ _ => i = 4 * t.thread + k
          | _ => false)).length }
    else v)) s
  bs.foldl (fun st b => issueReq st (writeReq b.1.owner b.1.pool (some t.thread) t.ctx b.2)) s1

/-- The end of a drain that writes: its outputs, write streams and, at the item's last drain, check entries are issued once all of
them, and the entries of what it writes, have translated; the task ends and its item may commit. -/
def drainWrites (s : State) (t : Task) (it : Item) (outs : List Out) (step : Item → Item) : State :=
  let streams := streamOuts s t
  let all := outs ++ streams.map (fun d => d.out)
  let it' := step it
  let last := decide (it.nRows ≤ it'.drained.length)
  let entry := fun (o : Out) => ({ owner := .output t.q t.idx, pool := 67, out := o } : DrainOut)
  let mine := outs.map (fun o => ({ owner := .output t.q t.idx, pool := t.core, out := o } : DrainOut)) ++ streams
  match allBlocks s t.ctx (checkOuts s all),
        drainBlocks s t.ctx (mine ++ (if last then (checkOuts s (it.written ++ all)).map entry else [])) with
  | .ok _, .ok bs =>
    let s1 := modItem (endTask (drainIssue s t bs) t.core t.thread) t.q t.idx (fun i =>
      let i1 := step i
      { i1 with written := i1.written ++ all, issued := last })
    tryCommit s1 t.q t.idx
  | .error e, _ => taskErr s t e
  | _, .error e => taskErr s t e

/-- The item after rows have drained with their accumulators. -/
def rowsDone (rows : List (Nat × RowRes)) (i : Item) : Item :=
  { i with drained := (rows.map (fun r => r.1)).foldl insUp i.drained
           rows := i.rows.filter (fun r => !rows.any (fun x => x.1 = r.1)) ++ rows }

/-- Every row of the item is drained after these. -/
def completes (it : Item) (rows : List Nat) : Bool := decide (it.nRows ≤ (rows.foldl insUp it.drained).length)

/-- Rows of a forward task drain with their accumulators (R117 to R123). -/
def drainFwd (s : State) (t : Task) (it : Item) (accs : List (Nat × FwdAcc)) : State :=
  match mapE (fun (p : Nat × FwdAcc) => fwdOuts s it p.1 p.2) accs with
  | .error e => taskErr s t e
  | .ok outs =>
    drainWrites s t it outs.flatten (fun i =>
      let i1 := rowsDone (accs.map (fun p => (p.1, RowRes.fwd p.2))) i
      if decide (i.nRows ≤ i1.drained.length) then fwdReport i1 else i1)

/-- dK and dV, and the report, of a backward item: the recomputed rows of all of it. -/
def bwdTail (s : State) (it : Item) : Except MErr (List BwdRow) :=
  match mapE (bwdHead s it false) (List.range (totalRows it)) with
  | .error e => .error e
  | .ok hs =>
    match mapE (bwdInputs s it) hs with
    | .error e => .error e
    | .ok ins => .ok ((ins.zipIdx).map (fun p => bwdRow it p.2 p.1 {}))

/-- Rows of a backward task drain; the last drain also writes dK and dV (R147). -/
def drainBwd (s : State) (t : Task) (it : Item) (accs : List (Nat × FwdAcc)) : State :=
  let outs := accs.map (fun p => dqOut it p.1 p.2.o p.2.kx)
  let done := fun (i : Item) => rowsDone (accs.map (fun p => (p.1, RowRes.fwd p.2))) i
  if !completes it (accs.map (fun p => p.1)) then drainWrites s t it outs done
  else
    match bwdTail (pageView s it) it with
    | .error e => taskErr s t e
    | .ok rows =>
      let tl := tailGrads it rows
      let masked := (rows.filter (fun w => !w.inp.live)).length
      drainWrites s t it (outs ++ tl.1) (fun i =>
        let i1 := done i
        let kx := ((List.range (totalRows i1)).map (fun n => (accOf i1 n).kx)).foldl max 0
        bwdReport i1 masked (max tl.2 (max kx ((rows.map rowStepsMax).foldl max 0))))

/-- A whole-row task of an item on one die reads, computes and drains its rows. -/
def drainRows (s : State) (t : Task) (it : Item) : State :=
  let sv := pageView s it
  if isBwd it then
    match mapE (bwdHead sv it false) (taskRows t.shape) with
    | .error e => taskErr s t e
    | .ok hs =>
      match mapE (bwdInputs sv it) hs with
      | .error e => taskErr s t e
      | .ok ins =>
        let live := hs.filter (fun h => h.live)
        taskRead s t it { keys := hs.map (fun h => (rowOf it h.n, h.keys)), others := bwdOperands it (live.map (fun h => rowOf it h.n)) }
          (fun s1 => drainBwd s1 t it ((hs.zip ins).map (fun p => (p.1.n, bwdAcc (bwdRow it p.1.n p.2 {})))))
  else
    match taskRowKeys sv it t.shape with
    | .error e => taskErr s t e
    | .ok keys =>
      match mapE (fun (p : RowId × List Nat) => fwdInputs sv it p.1 p.2) keys with
      | .error e => taskErr s t e
      | .ok ins =>
        let open_ := (keys.filter (fun p => !p.2.isEmpty)).map (fun p => p.1)
        taskRead s t it { keys := keys, others := fwdOperands it open_ }
          (fun s1 => drainFwd s1 t it ((taskRows t.shape).zip (ins.map fwdRow)))

/-! ### Part and merge tasks (R152, R160, R161) -/

/-- Level and index of a task's node in the tree of R87. -/
def nodeAt (t : TaskShape) : Nat × Nat := (clog2 (max t.segCount 1), t.segFirst / max t.segCount 1)

/-- A node record, rows of o padded to d64, l, m and the steps (Table 8.5). -/
def nodeRecord (it : Item) (ns : List NodeRow) (as : List FwdAcc) : List Byte :=
  (ns.zip as).flatMap (fun p =>
    let o := if isBwd it then p.1.vals else p.1.vals.drop 1
    let l := if isBwd it then 0 else p.1.vals.headD 0
    wordsLE (o ++ List.replicate (d64 (aHd it) - o.length) 0
      ++ [l, p.1.m, BitVec.ofNat 32 p.2.ks, BitVec.ofNat 32 (if isBwd it then p.2.kx else p.2.kv)]))

/-- A task's node record goes into its merge task's node window, and the task ends. -/
def sendNode (s : State) (t : Task) (it : Item) (g : RowGroup) (ns : List NodeRow) : State :=
  match mergeOf g t.shape with
  | none => s
  | some m =>
    match runnerOf s it m with
    | none => s
    | some k =>
      let n := nodeUnits it t.shape.rows
      match exchangeWindow s k ((feeders g m).length * n) with
      | none => s
      | some (w, v) =>
        let s1 := modGroup s it.q it.idx t.shape (fun x => { x with nodes := x.nodes ++ [(t.shape, ns)] })
        let as := (List.range g.rows).map (fun r => g.accs.getD r {})
        endTask (sendRecord s1 t k.core w (feederPos g m t.shape * n) n v (nodeRecord it ns as)) t.core t.thread

/-- The combined bound has reached the part's own bound window (Table 8.5). -/
def boundHere (s : State) (it : Item) (g : RowGroup) (t : Task) : Bool :=
  isBwd it || (opOf s t.q t.idx).isSome || (g.bounded && (match exchangeWindow s t (boundUnits t.shape.rows) with
    | some (_, v) => decide (boundUnits t.shape.rows ≤ windowTotal (getCore s t.core) v)
    | none => false))

/-- A part task drains: the node of its key range at the bound and steps of the pass. -/
def drainPart (s : State) (t : Task) (it : Item) (g : RowGroup) : State :=
  let sv := pageView s it
  let as := (List.range g.rows).map (fun r => g.accs.getD r {})
  if !boundHere s it g t then s
  else if (opOf s t.q t.idx).isSome then sendNode s t it g (as.map (fun _ => {}))
  else if isBwd it then
    match mapE (bwdHead sv it false) (taskRows t.shape) with
    | .error e => taskErr s t e
    | .ok hs0 =>
      let hs := hs0.map (fun h => { h with keys := h.keys.filter (inTask t.shape) })
      match mapE (bwdInputs sv it) hs with
      | .error e => taskErr s t e
      | .ok ins =>
        let live := hs.filter (fun h => h.live && !h.keys.isEmpty)
        taskRead s t it { keys := hs.map (fun h => (rowOf it h.n, h.keys)), others := bwdOperands it (live.map (fun h => rowOf it h.n)) }
          (fun s1 => sendNode s1 t it g ((ins.zip as).map (fun p => bwdPart p.1 p.2)))
  else
    match taskRowKeys sv it t.shape with
    | .error e => taskErr s t e
    | .ok keys =>
      match mapE (fun (p : RowId × List Nat) => fwdInputs sv it p.1 p.2) keys with
      | .error e => taskErr s t e
      | .ok ins =>
        taskRead s t it { keys := keys, others := fwdOperands it ((keys.filter (fun p => !p.2.isEmpty)).map (fun p => p.1)) }
          (fun s1 => sendNode s1 t it g ((ins.zip as).map (fun p => fwdPart p.1 p.2)))

/-- The nodes of one row that a merge task holds: level, index, node. -/
def rowNodesOf (g : RowGroup) (m : TaskShape) (row : Nat) : List (Nat × Nat × NodeRow) :=
  (feeders g m).filterMap (fun x => (g.nodes.find? (fun n => n.1 = x)).map (fun n => ((nodeAt x).1, (nodeAt x).2, n.2.getD row {})))

/-- A node record has come from every task below, and the node window has counted it. -/
def nodesHere (s : State) (it : Item) (g : RowGroup) (t : Task) : Bool :=
  let n := (feeders g t.shape).length * nodeUnits it t.shape.rows
  (feeders g t.shape).all (fun x => g.nodes.any (fun y => y.1 = x)) && (match exchangeWindow s t n with
    | some (_, v) => decide (n ≤ windowTotal (getCore s t.core) v)
    | none => false)

/-- The node that a lower merge task forms of one row (R152). -/
def joinNode (ns : List (Nat × Nat × NodeRow)) : NodeRow :=
  let here := ns.filter (fun n => n.2.2.present)
  let any := fun (f : NodeRow → Bool) => here.any (fun n => f n.2.2)
  let vs := here.filter (fun n => !n.2.2.vals.isEmpty)
  match mergeNodes addLeaves (vs.map (fun n => { level := n.1, idx := n.2.1, vals := n.2.2.vals.map (fun v => { v := v, ovf := false }) })) with
  | none => { present := !here.isEmpty }
  | some v =>
    { present := true, vals := v.map (fun x => x.v), m := here.foldl (fun x n => max32 x n.2.2.m) negInf32
      ovfS := any (fun n => n.ovfS), ovfP := any (fun n => n.ovfP), ovf := any (fun n => n.ovf) || v.any (fun x => x.ovf) }

/-- R161: a row is to be scouted again, or an overflow needs a larger step: the merge task ends without a drain, its windows close,
the records go, and the row block's tasks wait for their next dispatch with the new bound or step. -/
def reissueGroup (s : State) (t : Task) (as : List FwdAcc) : State :=
  let s1 := (windowsOf s t.core t.thread).foldl (fun st w => closeWindow st t.core w) s
  let s2 := modGroup s1 t.q t.idx t.shape (fun g => { g with at_ := none, out := [], bounds := [], nodes := [], accs := as })
  endTask s2 t.core t.thread

/-- A merge task drains (R152, R161). -/
def drainMerge (s : State) (t : Task) (it : Item) (g : RowGroup) : State :=
  if !nodesHere s it g t then s
  else if t.shape.segCount ≠ 0 then
    sendNode s t it g ((List.range g.rows).map (fun r => joinNode (rowNodesOf g t.shape r)))
  else
    let join := fun (r : Nat) (a : FwdAcc) =>
      if isBwd it then bwdJoin (aHd it) a (rowNodesOf g t.shape r) else fwdJoin (aHd it) a (rowNodesOf g t.shape r)
    let rs := (List.range g.rows).map (fun r => join r (g.accs.getD r {}))
    if rs.any (fun r => !r.2) then reissueGroup s t (rs.map (fun r => r.1))
    else
      let accs := (taskRows t.shape).zip (rs.map (fun r => r.1))
      if isBwd it then drainBwd s t it accs else drainFwd s t it accs

/-- Rows of a sequence-parallel item, computed across its group, drain (R294). -/
def drainShared (s : State) (t : Task) (it : Item) : State :=
  if isBwd it then
    let rows := taskRows t.shape
    let outs := rows.flatMap (fun n => match it.rows.find? (fun p => p.1 = n) with
      | some (_, .outs w) => w
      | _ => [])
    drainWrites s t it (outs ++ (if completes it rows then it.tail else [])) (fun i => { i with drained := rows.foldl insUp i.drained })
  else drainFwd s t it ((taskRows t.shape).map (fun n => (n, accOf it n)))

/-- The rows of a sequence-parallel item are computed. -/
def sharedReady (s : State) (it : Item) : Bool :=
  match opOf s it.q it.idx with
  | some o => !it.rows.isEmpty && o.exch = 3 && o.failFrom.isEmpty
  | none => false

/-! ### Row Engine drains (R125, R173) -/

/-- The item after a Row Engine task's drain: its rows, or a piece of one, whose last piece completes the row. -/
def roeDone (t : TaskShape) (i : Item) : Item :=
  if t.segCount = 0 then { i with drained := (taskRows t).foldl insUp i.drained }
  else
    let pieces := i.pieces ++ [t]
    let got := ((pieces.filter (fun p => p.rowFirst = t.rowFirst)).map (fun p => p.segCount)).foldl (fun x y => x + y) 0
    { i with pieces := pieces, drained := if rowBlocks i ≤ got then insUp i.drained t.rowFirst else i.drained }

def drainRoe (s : State) (t : Task) (it : Item) : State :=
  match roeTask s it t.shape with
  | .error e => taskErr s t e
  | .ok (.mismatch b n, _) => taskMismatch s t b n
  | .ok (.fine n, outs) => drainWrites (countVerified s n) t it outs (roeDone t.shape)

/-! ### TASK_DRAIN -/

/-- The task has passed the deadline of R67. -/
def pastDeadline (s : State) (t : Task) : Bool := decide (t.dispatched.toNat + 2 ≤ s.breath.num.toNat)

/-- A task of this item may run on past its deadline (R68). -/
def longTask (s : State) (t : Task) : Bool :=
  match findItem s t.q t.idx with
  | some it => isLong s it t.shape
  | none => false

/-- A demand stream of the task has not completed (R253). -/
def streamsOpen (s : State) (t : Task) : Bool :=
  (List.range 4).any (fun k => let v := getSlot (getCore s t.core) (4 * t.thread + k)
                               v.st = 1 && v.kind = 0)

/-- A task may begin its drain: awake, its demand streams complete, its deadline not passed unless it is long (R67, R68), and its
halo segments complete (R171). -/
def mayDrain (s : State) (t : Task) (it : Item) : Bool :=
  decide (it.stage = .executing) && t.wait.isNone && running s && !streamsOpen s t && (!pastDeadline s t || isLong s it t.shape)
    && (match layoutOf s t.core with
        | some e => engineOf it.q ≠ 0 || decide (t.shape.kind = .merge) || haloReady s it e t.core t.shape
        | none => true)

/-- The drain of a task that may drain, by its kind. -/
def drainKind (s : State) (t : Task) (it : Item) : State :=
  let shared := (opOf s t.q t.idx).isSome
  match t.shape.kind with
  | .test => s
  | .rowEngine => drainRoe s t it
  | .wholeRow => if shared then (if sharedReady s it then drainShared s t it else s) else drainRows s t it
  | .part => (match findGroup it t.shape with
    | some g => if shared && !sharedReady s it then s else drainPart s t it g
    | none => s)
  | .merge => (match findGroup it t.shape with
    | some g =>
      if shared && !sharedReady s it then s
      else if shared && t.shape.segCount = 0 then (if nodesHere s it g t then drainShared s t it else s)
      else drainMerge s t it g
    | none => s)

/-- TASK_DRAIN. -/
def drainTask (s : State) (core thread : Nat) : State :=
  match findTask s core thread with
  | none => s
  | some t =>
    match findItem s t.q t.idx with
    | none => s
    | some it =>
      if !mayDrain s t it then s else
      let s1 := boundExchange 20 (drainKind s t it)
      match layoutOf s1 core, findItem s1 t.q t.idx with
      | some e, some i => haloDone s1 i e core
      | _, _ => s1

/-! ### Overruns and timeouts (R68, R192) -/

def taskArg (t : Task) : Nat := t.idx.toNat + t.q * 2 ^ 32

/-- An overrun task is reissued as smaller ones, with the other tasks of its row block (R68, R159). -/
def cutTask (t : TaskShape) (i : Item) : Item :=
  { i with cuts := if i.cuts.contains t then i.cuts else i.cuts ++ [t], groups := i.groups.filter (fun g => !g.shapes.contains t) }

/-- One task at or past its deadline boundary: aborted and split, or a long task, counted when it first runs past it. -/
def overrunOne (s : State) (t : Task) : State :=
  if (findTask s t.core t.thread).isNone || !pastDeadline s t then s else
  if longTask s t then
    (if t.counted then s
     else modTask { s with breath := { s.breath with long := satAdd s.breath.long 1 } } t.core t.thread (fun x => { x with counted := true }))
  else
    let s1 := modItem (abortTask s t.core t.thread) t.q t.idx (cutTask t.shape)
    let s2 := { s1 with breath := { s1.breath with overrun := true, overrunCnt := satAdd s1.breath.overrunCnt 1 } }
    bellRaise s2 0x0012 0 t.ctx 0 (taskArg t)

/-- A part or merge task whose row block's record is gone. -/
def strayPart (s : State) (t : Task) : Bool :=
  (decide (t.shape.kind = .part) || decide (t.shape.kind = .merge)) && (match findItem s t.q t.idx with
    | some it => (findGroup it t.shape).isNone
    | none => true)

/-- TASK_OVERRUN, at a boundary, over every task that has not begun its drain; the other tasks of a split row block end too. -/
def overrun (s : State) : State :=
  let s1 := s.tasks.foldl overrunOne s
  (s1.tasks.filter (strayPart s1)).foldl (fun st t => abortTask st t.core t.thread) s1

/-- WAIT_TIMEOUT: the fourth consecutive boundary of a long task's sleep on one counter. -/
def waitTimeout (s : State) (core thread : Nat) : State :=
  match findTask s core thread with
  | none => s
  | some t =>
    match t.wait with
    | none => s
    | some w =>
      if !longTask s t || decide (w.boundaries < 4) then s else
      let s1 := modCore (abortTask s core thread) core (fun c => { c with waitTmo := satAdd c.waitTmo 1 })
      bellRaise s1 0x0013 0 t.ctx 0 (taskArg t)

def execTaskDispatch (q : Nat) (idx : W32) (core thread : Nat) (shape : TaskShape) (s : State) :
    Host.Outcome State Fault Refusal := work s (fun s => boundExchange 20 (dispatch s q idx core thread shape))
def execTaskDrain (core thread : Nat) (s : State) : Host.Outcome State Fault Refusal := work s (fun s => drainTask s core thread)
def execTaskOverrun (s : State) : Host.Outcome State Fault Refusal := atEdge s overrun
def execWaitTimeout (core thread : Nat) (s : State) : Host.Outcome State Fault Refusal :=
  atEdge s (fun s => waitTimeout s core thread)

end Sys2Proof.Machine
end

