-- ==== Sys2Proof/Machine/Ports.lean ====
section
/-! DEFINITION. The memory ports' responses (R242, R253, R255, R262, R394 to R397) and what each lets happen. -/

namespace Sys2Proof.Machine

/-- RESP of a read from its two beats (R396). -/
def beatResp (a b : Resp) : Resp := if a = .ok then b else a

/-- A response of an earlier generation, or of a slot that is not ACTIVE (R254, R262). -/
def staleSlot (s : State) (core i : Nat) (gen : Byte) : Bool :=
  let v := getSlot (getCore s core) i
  v.st ≠ 1 || v.gen ≠ gen

def countDiscarded (s : State) (core : Nat) : State := modCore s core (fun c => { c with cancelled := satAdd c.cancelled 1 })

/-- A POISON or CTX_MISMATCH response to a demand request of a stream fails its item (R242). -/
def streamBad (s : State) (core i : Nat) (addr : W64) (r : Resp) : State :=
  match slotTask s core i with
  | none => s
  | some t => itemErr s t.q t.idx (.bad addr r)

/-- Read data for a stream. -/
def readLands (s : State) (r : Req) (core i : Nat) (gen : Byte) (sp : Nat) (pf : Bool) (ctx : CtxId) (resp : Resp) (data : List Byte) : State :=
  let s1 := match resp with
    | .ok => fillLine s core r.addr ctx
    | _ => s
  if staleSlot s core i gen then countDiscarded s1 core else
  match resp with
  | .ok =>
    let s2 := modSlot s1 core i (fun v => { v with cold := v.cold ++ [(r.addr, r.len)] })
    landPart s2 core i ctx sp ((data.drop (r.pa % 256)).take r.len)
  | x =>
    if pf then settleSlot (modSlot (countPfDiscard s1) core i (fun v => { v with left := v.left - 1 })) core i
    else streamBad s1 core i r.addr x

/-- MEMORY_READ_RESPONSE. The answer to the read of a command is COMMAND_COPY. -/
def readResponse (s : State) (tag : Nat) (beat0 beat1 : Resp) (data : List Byte) : State :=
  match reqOf s tag with
  | none => s
  | some r =>
    if r.write then s else
    match r.owner with
    | .stream core i gen sp pf ctx =>
      feedCore (readLands (releaseReq s tag) r core i gen sp pf ctx (beatResp beat0 beat1) data) core
    | .command _ _ | .output _ _ | .drain _ _ _ _ _ | .record _ _ | .faultRecord | .copy _ _ _ => s

/-- Cut a range out of a poisoned range. -/
def cutRange (a n : Nat) (p : Nat × Nat) : List (Nat × Nat) :=
  if !overlaps p.1 p.2 a n then [p] else
  (if p.1 < a then [(p.1, a - p.1)] else []) ++ (if a + n < p.1 + p.2 then [(a + n, p.1 + p.2 - (a + n))] else [])

/-- The item whose output a request writes; a Paging Engine item's writes are no output bytes (R210). -/
def outputItem (s : State) (r : Req) : Option Item :=
  match r.owner with
  | .output q idx => if engineOf q = 1 then none else findItem s q idx
  | .drain _ _ _ q idx => findItem s q idx
  | _ => none

/-- What a write leaves in memory (R396): its bytes; unspecified bytes after POISON, or where its item has failed with POISON
(R242); nothing after CTX_MISMATCH. Writes land in the order of their answers, so where Table 2.23 leaves overlapping outputs
unspecified the last answer decides: the model's choice (log 12). -/
def landWrite (s : State) (r : Req) (resp : Resp) : State :=
  match resp with
  | .ok =>
    let s1 := { s with mem := { s.mem with poisoned := s.mem.poisoned.flatMap (cutRange r.pa r.data.length) } }
    (match outputItem s r with
     | some it =>
       if it.status = 0x20 then storeAny s1 r.pa r.data.length
       else modItem (storeMem s1 r.pa r.data) it.q it.idx (fun i => { i with landed := i.landed ++ [(r.pa, r.data.length)] })
     | none => storeMem s1 r.pa r.data)
  | .poison => storeAny s r.pa r.data.length
  | .ctxMismatch => s

/-- An output write is answered. -/
def outputAck (s : State) (q : Nat) (idx : W32) (addr : W64) (resp : Resp) : State :=
  match resp with
  | .ok => tryCommit s q idx
  | x => itemErr s q idx (.bad addr x)

/-- A write stream's request is answered: it counts on its slot, and as an output write of its item (R21, R253). -/
def drainAck (s : State) (core i : Nat) (gen : Byte) (q : Nat) (idx : W32) (addr : W64) (resp : Resp) : State :=
  let s1 := if staleSlot s core i gen then s
    else settleSlot (modSlot s core i (fun v => { v with landed := v.landed + 1, left := v.left - 1 })) core i
  outputAck s1 q idx addr resp

/-- MEMORY_WRITE_RESPONSE. -/
def writeResponse (s : State) (tag : Nat) (resp : Resp) : State :=
  match reqOf s tag with
  | none => s
  | some r =>
    if !r.write then s else
    let s1 := releaseReq (landWrite s r resp) tag
    let s2 := match r.owner with
      | .output q idx => outputAck s1 q idx r.addr resp
      | .record q idx => recordAck s1 q idx resp
      | .faultRecord => faultAck s1 resp
      | .command _ _ => s1
      | .stream _ _ _ _ _ _ => s1
      | .copy lpn _ _ => copyAck s1 lpn r.addr resp
      | .drain core i gen q idx => drainAck s1 core i gen q idx r.addr resp
    let s3 := r.waiters.foldl (fun st w => invalCheck st w.1 w.2) s2
    feedCore s3 r.pool

def execMemoryReadResponse (tag : W16) (beat0 beat1 : Resp) (data : BitVec 2048) (s : State) :
    Host.Outcome State Fault Refusal := work s (fun s => readResponse s tag.toNat beat0 beat1 (toLE 256 data.toNat))
def execMemoryWriteResponse (tag : W16) (resp : Resp) (s : State) : Host.Outcome State Fault Refusal :=
  work s (fun s => writeResponse s tag.toNat resp)

end Sys2Proof.Machine
end

