-- ==== Sys2Proof/Machine/Units.lean ====
section
/-! DEFINITION. Physical units (chapter 16): unit codes, the unit history and its states, capacity events, the
capability words, spare substitution and retirement, and the scrub of a physical core. -/

namespace Sys2Proof.Machine

/-! ### Unit codes and the history (Tables 16.6, 16.8, 16.9) -/

def unitKind (u : W16) : Nat := u.toNat / 2 ^ 12
def unitIdx (u : W16) : Nat := u.toNat % 2 ^ 12

/-- A unit code of Table 16.6. -/
def unitValid (u : W16) : Bool :=
  let i := unitIdx u
  match unitKind u with
  | 1 => decide (i < 72)
  | 2 => decide (i < 128)
  | 3 => decide (i < 34)
  | 4 => decide (i < 36)
  | 5 => i = 0
  | 6 => decide (i < 4)
  | 7 => decide (i < 4)
  | 8 => decide (i ≤ 8)
  | _ => false

def getUnit (s : State) (u : W16) : UnitRec := tget {} s.history u.toNat
def modUnit (s : State) (u : W16) (f : UnitRec → UnitRec) : State := { s with history := tmod {} s.history u.toNat f }

/-- A unit changes state in the current breath. -/
def UnitRec.become (r : UnitRec) (st : Nat) (b : W32) : UnitRec :=
  { r with st := BitVec.ofNat 8 st, changed := b, ueSince := false, role := if st = 2 then 2 else r.role }

/-- A corrected event (Table 16.9); link lanes follow R307 and R308 instead. -/
def recordCE (s : State) (u : W16) : State :=
  modUnit s u (fun r =>
    let r1 := { r with ce := satAdd r.ce 1, ceWin := satAdd r.ceWin 1 }
    if r1.st = 0 && decide (256 ≤ r1.ceWin.toNat) && unitKind u ≠ 4 then r1.become 1 (lowBreath s) else r1)

/-- An uncorrected event: counted, logged with its row of Table 16.2, and the state moves. A retired unit keeps its
role until its retirement takes effect. -/
def recordUE (s : State) (u : W16) (src row : Nat) : State :=
  let s1 := modUnit s u (fun r =>
    let r1 := { r with ue := satAdd r.ue 1 }
    if unitKind u = 4 then r1
    else if r1.st = 0 then r1.become 1 (lowBreath s)
    else if r1.st = 1 && decide (3 ≤ r1.ue.toNat) then { (r1.become 2 (lowBreath s)) with role := r.role }
    else { r1 with ueSince := true })
  bellRaise s1 0x0040 u 0 src row

/-- A test pack fails over a unit, or passes (Table 16.9). -/
def recordPack (s : State) (u : W16) (pass : Bool) : State :=
  modUnit s u (fun r =>
    if pass then
      (if r.st = 1 && !r.ueSince then { (r.become 0 (lowBreath s)) with role := if r.role = 2 then 1 else r.role } else r)
    else
      let r1 := { r with tfail := satAdd r.tfail 1 }
      if r1.st = 0 then r1.become 1 (lowBreath s)
      else if r1.st = 1 then { (r1.become 2 (lowBreath s)) with role := r.role } else r1)

/-! ### Capacity (R5, R355, Tables 0.5, 16.7) -/

/-- KQ_CAPEV. -/
def capevWord (s : State) : Nat :=
  b2n s.capev.pending + s.capev.kind.toNat * 2 ^ 8 + s.capev.unit.toNat * 2 ^ 16 + s.capev.epoch.toNat * 2 ^ 40 + s.capev.count.toNat * 2 ^ 48

/-- A capacity event: 1 retirement, 2 restoration. -/
def capacityEvent (s : State) (u : W16) (kind : Nat) : State :=
  let s1 := { s with capev := { count := s.capev.count + 1, epoch := capEpoch s, unit := u, kind := BitVec.ofNat 8 kind, pending := true } }
  pendG (bellRaise s1 0x0043 u 0 1 (capevWord s1)) 2

/-- Logical cores of a cluster in service. -/
def coresOf (c : Cluster) : Nat := (c.map.filter (fun p => p < 9)).length

def clusterList (s : State) (n : Nat) : List Cluster := (List.range n).map (getCluster s)

/-- The eight capability words of a die that runs an image of a variant (Tables 0.5, 19.4, 4.2, 11.7, 10.15, 13.1,
14.5, 17.5). -/
def capWords (s : State) (variant clusters : Nat) (epoch : Nat) : List W64 :=
  let k8 := decide (variant = 1)
  let cores := (clusterList s clusters).foldl (fun n c => n + coresOf c) 0
  let cap0 := variant + (if k8 then 0x70 else 0) + clusters * 2 ^ 8 + cores * 2 ^ 12
    + (if k8 then s.casc.dies.toNat * 2 ^ 20 else 0) + 2 ^ 24 + epoch % 256 * 2 ^ 56
  [BitVec.ofNat 64 cap0, if k8 then 0x0010082001002040 else 0x0010082000002040, 0x010000011F34003C, 0x0038340002000703,
   if k8 then 0x21110 else 0x11110, if k8 then 0x0000FF0E00800100 else 0, if k8 then 0x0000008003370420 else 0x0000008000000420,
   0x00000000010C200D]

/-- CAP_EPOCH after the refold at this boundary: one more for each refold, whatever retires in it (R326, R329). -/
def nextEpoch (s : State) : Byte := if s.reed.refolded = some s.breath.num then s.epoch else s.epoch + 1

/-- CAP_EPOCH rises and the words follow the parts in service (R326, R329). -/
def bumpCaps (s : State) (clusters : Nat) : State :=
  { s with caps := capWords s (variant s) clusters (nextEpoch s).toNat, epoch := nextEpoch s
           reed := { s.reed with refolded := some s.breath.num } }

/-! ### Scrubs (Table 9.9, R196) -/

/-- Scratchpad words and accumulators of a physical core become zero. -/
def scrubPhys (s : State) (p : Nat) : State := { s with phys := tput {} s.phys p {} }

/-- Step 6 of Table 9.9 and R272: counters zero and free, descriptors and counters at reset values. -/
def scrubRegs (c : Core) : Core :=
  { c with windows := [], counters := [], bconf := [], stalls := [], waitTmo := 0, aborts := 0, cancelled := 0 }

/-- Steps 3, 4 and 6 on a logical core. -/
def scrubCore (s : State) (k : Nat) : State :=
  let s1 := modCore s k scrubRegs
  match physOf s1 k with
  | some p => scrubPhys s1 p
  | none => s1

/-! ### Aborts by hardware (R349, R350, R351) -/

/-- Items with a task on some threads of a core. -/
def itemsOn (s : State) (core : Nat) (ts : List Nat) : List (Nat × W32) :=
  ((s.tasks.filter (fun t => t.core = core && ts.contains t.thread)).map (fun t => (t.q, t.idx))).eraseDups

def markReplayed (s : State) (l : List (Nat × W32)) : State :=
  { s with items := s.items.map (fun i => if l.any (fun p => isItem p.1 p.2 i) then { i with replayed := true } else i) }

/-- Threads of a core that hold a task. -/
def threadsOf (s : State) (core : Nat) : List Nat := (s.tasks.filter (fun t => t.core = core)).map (fun t => t.thread)

/-- Items whose halo window is open on a core restart their exchange (R172). -/
def hitHalo (s : State) (core : Nat) : State :=
  let hs := ((getCore s core).windows.filterMap (fun p => if p.2.st = 1 then p.2.halo else none))
  { s with items := s.items.map (fun i => if hs.any (fun h => isItem h.1 h.2 i) then { i with haloHit := true } else i) }

/-- Abort every task of a core and close its windows; their items are replayed. -/
def abortCore (s : State) (core : Nat) : State :=
  let ts := threadsOf s core
  closeAllWindows (abortThreads 33 (markReplayed (hitHalo s core) (itemsOn s core ts)) core ts) core

/-- In-flight requests of some cores' streams find no slot when they are answered; waiting reads are dropped, and a drain's writes go
on as outputs of their item. -/
def orphanStreams (s : State) (hit : Nat → Bool) : State :=
  let f := fun (r : Req) => match r.owner with
    | .stream c _ g sp pf x => if hit c then (if r.tag.isSome then some { r with owner := .stream c 128 g sp pf x } else none) else some r
    | .drain c _ _ q idx => some (if hit c then { r with owner := .output q idx } else r)
    | _ => some r
  { s with mem := { s.mem with reqs := s.mem.reqs.filterMap f } }

/-- A core reset (Table 16.4): tasks, slots and windows go, memories are scrubbed, the binding stays. -/
def coreReset (s : State) (core : Nat) (u : W16) : State :=
  let ts := threadsOf s core
  let s1 := orphanStreams (abortCore s core) (fun k => k = core)
  let s2 := scrubCore (modCore s1 core (fun c => { c with slots := [] })) core
  let s3 := (s.tasks.filter (fun t => t.core = core && ts.contains t.thread)).foldl (fun st t => hwAbort st t.q t.idx u) s2
  bellRaise s3 0x0041 u 0 0 0

/-! ### Spare substitution (R352, Table 16.5) -/

/-- The unit changed state in an earlier breath. -/
def unitDue (s : State) (u : W16) : Bool := (getUnit s u).changed ≠ lowBreath s || s.breath.num = 0

/-- A core is substituted by its cluster's spare. -/
def substituteCore (s : State) (u : W16) (k : Nat) : State :=
  let n := k / 8
  let s1 := abortCore s k
  let c := getCluster s1 n
  let sp := c.spare
  let s2 := setCluster s1 n { c with map := c.map.set (k % 8) sp, spare := 0xF }
  let s3 := modUnit s2 u (fun r => { r with role := 2 })
  let s4 := modUnit s3 (BitVec.ofNat 16 (0x1000 + c.phys * 9 + sp)) (fun r => { r with role := 0 })
  scrubPhys s4 (unitIdx u)

/-- A spare port slice that may serve: 34 slices, two of them spares (Table 16.5). -/
def spareSlice (s : State) : Option W16 :=
  ((List.range 34).map (fun i => BitVec.ofNat 16 (0x3000 + i))).find? (fun u => (getUnit s u).role = 1 && (getUnit s u).st ≠ 2)

/-- Tasks that have a request on a slice: the port that carries a request is Kiqua's choice (R395, log 10). -/
def tasksOnSlice (s : State) (u : W16) : List Task :=
  s.tasks.filter (fun t => s.mem.reqs.any (fun r => r.tag.isSome && (match r.owner with
    | .stream c i _ _ _ _ => c = t.core && i / 4 = t.thread
    | .output q idx => q = t.q && idx = t.idx && r.pool = t.core
    | _ => false) && (Config.freeWord (s.free + r.tag.getD 0)).toNat % 34 = unitIdx u))

/-- Abort the tasks with requests on a slice; `count` for an uncorrected fault, which R350 counts. -/
def abortSlice (s : State) (u : W16) (count : Bool) : State :=
  let ts := tasksOnSlice s u
  let s1 := markReplayed { s with free := s.free + 65536 } ((ts.map (fun t => (t.q, t.idx))).eraseDups)
  let s2 := ts.foldl (fun st t => abortTask st t.core t.thread) s1
  if count then ts.foldl (fun st t => hwAbort st t.q t.idx u) s2 else s2

/-- A unit waits for its substitution: SUSPECT or RETIRED, and in service. -/
def wantsSpare (s : State) (u : W16) : Bool :=
  let r := getUnit s u
  (r.st = 1 || r.st = 2) && r.role = 0 && unitDue s u

/-- A long task runs on a core: its substitution waits (R68). -/
def longOn (s : State) (k : Nat) : Bool := s.tasks.any (fun t => t.core = k && longTask s t)

/-- SPARE_SUBSTITUTION. -/
def substitute (s : State) (u : W16) : State :=
  if !wantsSpare s u then s
  else if unitKind u = 1 then
    match logicalOf s (unitIdx u) with
    | some k => if decide (k / 8 < clustersEn s) && decide ((getCluster s (k / 8)).spare < 9) && !longOn s k then substituteCore s u k else s
    | none => s
  else if unitKind u = 3 then
    match spareSlice s with
    | some v => modUnit (modUnit (abortSlice s u false) u (fun r => { r with role := 2 })) v (fun r => { r with role := 0 })
    | none => s
  else s

/-! ### Retirement (R12, R353) -/

/-- CORE_MASK bits of cores that are not in service are cleared (R155). -/
def fitStages (s : State) (es : List StageEntry) : List StageEntry :=
  es.map (fun e => { e with coreMask := (List.range 8).foldl (fun m b =>
    if coreLive s (8 * e.cluster + b) then m else m &&& ~~~(BitVec.ofNat 8 (2 ^ b))) e.coreMask })

def fitImage (s : State) : State :=
  match s.reed.active with
  | none => s
  | some l => { s with reed := { s.reed with active := some { l with image := { l.image with stages := fitStages s l.image.stages } } } }

/-- Executing items whose layer has lost its last core fail (R353). -/
def failHomeless (s : State) (u : W16) : State :=
  let lost := s.items.filter (fun i => i.stage = .executing && engineOf i.q = 0 && decide (0x10 ≤ i.opcode) &&
    !(stagesOf s).any (fun e => holdsLayer e (cmdAt i.cmd 44 2)))
  lost.foldl (fun st i => endItem st i.q i.idx 0x24 u.toNat) s

/-- A physical core comes to serve a logical number that is bound to another context: it is scrubbed before it serves, at once under
an unbound number, and fenced under a bound one (R12, R182). -/
def takeOver (s : State) (k : Nat) (from_ : Core) : State :=
  let to_ := getCore s k
  if from_.ctx = to_.ctx && from_.bind = to_.bind then s
  else if to_.bind = 1 then modCore s k (fun x => { x with bind := 2, rebind := some (x.ctx, false, s.breath.num) })
  else match physOf s k with
    | some p => scrubPhys s p
    | none => s

/-- A core retires with no spare left: the highest logical number of its cluster drops out (R12). -/
def retireCore (s : State) (u : W16) (k : Nat) : State :=
  let n := k / 8
  let c := getCluster s n
  let h := 8 * n + (coresOf c - 1)
  let s1 := abortCore (abortCore s k) h
  let moved := c.map.getD (h % 8) 0xF
  let map' := (c.map.set (k % 8) moved).set (h % 8) 0xF
  let s2 := setCluster s1 n { c with map := map' }
  let s3 := if h ≠ k then takeOver s2 k (getCore s1 h) else s2
  let s4 := setCore s3 h {}
  modUnit (scrubPhys s4 (unitIdx u)) u (fun r => { r with role := 2 })

/-- A cluster is disabled: the highest logical cluster number drops out (R12, R353). -/
def retireCluster (s : State) (u : W16) (n : Nat) : State :=
  let h := clustersEn s - 1
  let all := fun (st : State) (m : Nat) => (List.range 8).foldl (fun x c => abortCore x (8 * m + c)) st
  let s1 := all (all s n) h
  let c := getCluster s1 n
  -- the cluster's physical cores leave service scrubbed (R196); counters of a cluster follow its logical number (R12)
  let s2 := (List.range 9).foldl (fun st p => scrubPhys st (c.phys * 9 + p)) s1
  let s3 := setCluster (if h = n then s2 else setCluster s2 n { getCluster s2 h with hits := c.hits, misses := c.misses }) h {}
  let s4 := if h = n then s3 else (List.range 8).foldl (fun st c => takeOver st (8 * n + c) (getCore st (8 * h + c))) s3
  let s5 := (List.range 8).foldl (fun st c => setCore st (8 * h + c) {}) s4
  modUnit s5 u (fun r => { r with role := 2 })

/-- The logical cluster that a physical cluster serves. -/
def logicalCluster (s : State) (p : Nat) : Option Nat := (List.range (clustersEn s)).find? (fun n => (getCluster s n).phys = p)

/-- What leaves service when a unit retires (R353). -/
def retireUnit (s : State) (u : W16) : State × Nat :=
  let i := unitIdx u
  let out := fun (st : State) => modUnit st u (fun r => { r with role := 2 })
  match unitKind u with
  | 1 =>
    (match logicalOf s i with
     | some k => (retireCore s u k, clustersEn s)
     | none => (out s, clustersEn s))
  | 8 =>
    (match logicalCluster s i with
     | some n => (retireCluster s u n, clustersEn s - 1)
     | none => (out s, clustersEn s))
  | 2 =>
    -- the cache keeps 4,096 lines for each slice in service; which lines the slice held is not specified (log 10)
    let s1 := out s
    (match logicalCluster s1 (i / 16) with
     | some n =>
       let (f, s2) := drawFree s1
       let c := getCluster s2 n
       (setCluster s2 n { c with lines := (rotateBy f.toNat c.lines).take (cacheLines s2 (8 * n)) }, clustersEn s)
     | none => (s1, clustersEn s))
  | _ => (out s, clustersEn s)

/-- A free spare of the unit's kind remains. -/
def spareLeft (s : State) (u : W16) : Bool :=
  match unitKind u with
  | 1 => (match logicalOf s (unitIdx u) with
    | some k => decide ((getCluster s (k / 8)).spare < 9)
    | none => false)
  | 3 => (spareSlice s).isSome
  | _ => false

/-- RETIREMENT_REFOLD (R329, R353): steps 1 to 3 and 5 of Table 15.5, and the capacity event. -/
def retirementRefold (s : State) (u : W16) : State :=
  let r := getUnit s u
  if s.reed.active.isNone || r.st ≠ 2 || r.role ≠ 0 || !unitDue s u || spareLeft s u || !unitValid u || unitKind u = 4 then s
  else
    let (s1, n) := retireUnit s u
    let s2 := fitImage (bumpCaps s1 n)
    capacityEvent (failHomeless s2 u) u 1

def execSpareSubstitution (unit : W16) (s : State) : Host.Outcome State Fault Refusal := atEdge s (fun s => substitute s unit)
def execRetirementRefold (unit : W16) (s : State) : Host.Outcome State Fault Refusal := atEdge s (fun s => retirementRefold s unit)

end Sys2Proof.Machine
end

