-- ==== Sys2Proof/Machine/Image.lean ====
section
/-! DEFINITION. Structure images (R319 to R323): layout, the checks of Table 15.4 in order, and what an image says. -/

namespace Sys2Proof.Machine

/-- A section-table entry. -/
structure Section where
  typ : Nat
  off : Nat
  size : Nat
deriving DecidableEq, Repr

def sectionsOf (bs : List Byte) : List Section :=
  (List.range (leAt bs 6 2)).map (fun i =>
    { typ := leAt bs (64 + 16 * i) 1, off := leAt bs (68 + 16 * i) 4, size := leAt bs (72 + 16 * i) 4 })

def findSec (secs : List Section) (t : Nat) : Option Section := secs.find? (fun x => x.typ = t)

/-- Bytes of a section, none when it is not there. -/
def secBytes (bs : List Byte) (secs : List Section) (t : Nat) : List Byte :=
  match findSec secs t with
  | some x => (bs.drop x.off).take x.size
  | none => []

/-- No two sections overlap and no type appears twice. -/
def secsApart : List Section → Bool
  | [] => true
  | x :: t => t.all (fun y => x.typ ≠ y.typ && !overlaps x.off x.size y.off y.size) && secsApart t

/-- The sections that a variant needs, and those it must not carry (Table 15.2). -/
def secsRight (secs : List Section) (variant : Nat) : Bool :=
  let has := fun t => (findSec secs t).isSome
  has 1 && has 2 && has 3 && has 6 && has 7 && has 8
    && (variant ≠ 1 || (has 4 && has 5)) && (variant ≠ 2 || (!has 4 && !has 5))

/-- Section sizes but those of the firmware, which step 11 checks. -/
def secSize (bs : List Byte) (secs : List Section) (x : Section) : Bool :=
  match x.typ with
  | 1 => x.size = 64
  | 2 => x.size = 64 * leAt (secBytes bs secs 1) 9 1
  | 3 => x.size = 384
  | 4 => x.size = 1024
  | 5 => x.size = 65536
  | 6 => x.size = 16
  | 7 | 8 => true
  | _ => false

/-- Step 1: FORMAT (R319, R320). -/
def formatOk (bs : List Byte) (len : Nat) : Bool :=
  let n := leAt bs 6 2
  let secs := sectionsOf bs
  bs.length = len && decide (len ≤ 16777216) && len % 64 = 0 && decide (256 ≤ len)
    && leAt bs 0 4 = 0x4953514B && leAt bs 4 1 = 0x10 && leAt bs 12 4 = len && decide (1 ≤ n ∧ n ≤ 16)
    && secs.all (fun x => x.off % 64 = 0 && decide (64 + 16 * n ≤ x.off) && decide (x.off + x.size ≤ len - 192) && secSize bs secs x)
    && secsApart secs && secsRight secs (leAt (secBytes bs secs 1) 0 1)

/-- X‖Y of a signature block whose last byte is byte `len` − 1. -/
def keyBytes (bs : List Byte) (len : Nat) : List Byte := (bs.drop (len - 192)).take 96

/-- A key slot accepts the public key of a signature block (R322). -/
def keyOk (s : State) (slot : Nat) (bs : List Byte) (len : Nat) : Bool :=
  !s.fuses.revoked.contains slot
    && s.fuses.digests.any (fun p => p.1 = slot && p.2 = Config.sha384 (keyBytes bs len))

/-- The signature verifies over bytes 0 to len − 97 (R322). -/
def signatureOk (bs : List Byte) (len : Nat) : Bool :=
  let big := fun a n => BitVec.ofNat 384 (beNat ((bs.drop a).take n))
  Config.ecdsaP384 (big (len - 192) 48) (big (len - 144) 48) (big (len - 96) 48) (big (len - 48) 48)
    (Config.sha384 (bs.take (len - 96)))

/-! ### Sections into an Image -/

def parseStage (b : List Byte) : StageEntry :=
  { layerFirst := leAt b 0 2, layerCount := leAt b 2 2, cluster := leAt b 4 1, coreMask := BitVec.ofNat 8 (leAt b 5 1)
    topIndex := leAt b 6 1 % 16, threads := leAt b 7 1, accTask := leAt b 8 4, spTask := leAt b 12 4, spKv := leAt b 16 4
    spPic := leAt b 20 4, spWin := leAt b 24 4, spRow := leAt b 28 4, trMax := leAt b 32 2, tk := leAt b 34 2, fill := leAt b 36 1 }

def parseImage (bs : List Byte) : Image :=
  let secs := sectionsOf bs
  let g := secBytes bs secs 1
  let l := secBytes bs secs 6
  { imageId := BitVec.ofNat 32 (leAt bs 8 4), keySlot := BitVec.ofNat 2 (leAt bs 5 1)
    variant := BitVec.ofNat 8 (leAt g 0 1), units := BitVec.ofNat 8 (leAt g 1 1), arithVer := BitVec.ofNat 8 (leAt g 2 1)
    cascMode := BitVec.ofNat 2 (leAt g 3 1), cascId := BitVec.ofNat 2 (leAt g 3 1 / 4)
    period := BitVec.ofNat 16 (leAt g 4 2), guard := BitVec.ofNat 8 (leAt g 6 1), refPerUs := BitVec.ofNat 8 (leAt g 7 1)
    src := BitVec.ofNat 2 (leAt g 8 1), upDie := BitVec.ofNat 2 (leAt g 8 1 / 4), node := BitVec.ofNat 16 (leAt g 10 2)
    vcw := BitVec.ofNat 64 (leAt g 16 8)
    stages := (pieces 64 (secBytes bs secs 2)).map parseStage
    tops := (pieces 8 (secBytes bs secs 3)).map (fun b => BitVec.ofNat 64 (leNat b))
    groups := (pieces 4 (secBytes bs secs 4)).map (fun b =>
      (BitVec.ofNat 8 (leAt b 0 1), BitVec.ofNat 8 (leAt b 1 1), BitVec.ofNat 16 (leAt b 2 2)))
    routes := secBytes bs secs 5
    dateline := leAt l 0 1 % 2 = 1, markerOut := leAt l 0 1 / 2 % 2 = 1, laneLimit := BitVec.ofNat 32 (leAt l 4 4) }

/-! ### Steps 4 to 11 -/

/-- The physical clusters that serve a variant (R323): those whose control core has not retired, at most five on
a Kiqua-5. -/
def healthyClusters (s : State) (variant : Nat) : List Nat :=
  let ok := (List.range 8).filter (fun p => (tget {} s.history (0x8000 + p)).st ≠ 2)
  if variant = 2 then ok.take 5 else ok

/-- The logical clusters under a variant: as numbered now when they are the same physical ones, else in physical order: the model's
choice, since R12 gives no order (log 49). -/
def clustersFor (s : State) (variant : Nat) : List Cluster :=
  let want := healthyClusters s variant
  let cur := (s.clusters.map (fun c => c.2)).take want.length
  if want.all (fun p => cur.any (fun c => c.phys = p)) then cur
  else want.map (fun p =>
    match s.clusters.find? (fun c => c.2.phys = p) with
    | some c => c.2
    | none => { phys := p })

/-- R55. -/
def breathOk (s : State) (i : Image) : Bool :=
  decide (2 ≤ i.period.toNat ∧ i.period.toNat ≤ 1024) && decide (i.guard.toNat * 40 ≤ i.period.toNat * 1000)
    && i.src ≠ 3 && decide ((i.src = 2) ↔ (s.cascId ≠ 0))

def dimsOf (w : W64) : List Nat := ((List.range 4).map (fun k => loopSlot w k / 2 ^ 9)).filter (fun d => d ≠ 0)

def noRepeat : List Nat → Bool
  | [] => true
  | a :: t => !t.contains a && noRepeat t

/-- R168 on one level word. -/
def levelOk (lvl : Nat) (w : W64) : Bool :=
  let slots := (List.range 4).map (loopSlot w)
  w.getLsbD 63 && fld w 62 61 = lvl && !w.getLsbD 60
    && slots.all (fun x => decide (x / 2 ^ 9 < 6) && x / 2 ^ 5 % 8 = 0 && (lvl ≠ 0 || x % 2 ^ 5 = 0))
    && noRepeat (dimsOf w) && decide (fld w 58 56 < 6) && (lvl = 2 || (fld w 58 56 = 0 && !w.getLsbD 59))

/-- R168 on one program. -/
def programOk (tops : List W64) (k : Nat) : Bool := (List.range 3).all (fun l => levelOk l (tops.getD (3 * k + l) 0))

/-- R154 and R179 on one entry. -/
def stageOk (tops : List W64) (clusters : Nat) (e : StageEntry) : Bool :=
  decide (e.layerCount ≤ 256) && decide (e.threads ≤ 32) && (e.threads ≠ 0 || e.layerCount = 0) && decide (e.cluster < clusters)
    && decide (e.threads * e.accTask ≤ 131072)
    && decide (e.threads * e.spTask + e.spKv + e.spPic + e.spWin + (32 - e.threads) * e.spRow ≤ 3145728)
    && [64, 128, 256, 512].contains e.tk && [1, 2, 4, 8, 16, 32, 64, 128, 256].contains e.trMax && decide (1 ≤ e.fill)
    && [e.spTask, e.spKv, e.spPic, e.spWin, e.spRow].all (fun x => x % 256 = 0) && programOk tops e.topIndex

/-- Each active core belongs to exactly one entry (R154). -/
def coresCovered (cs : List Cluster) (es : List StageEntry) : Bool :=
  (cs.zipIdx).all (fun c => (List.range 8).all (fun k =>
    decide (9 ≤ c.1.map.getD k 0xF) || (es.filter (fun e => e.cluster = c.2 && e.coreMask.getLsbD k)).length = 1))

def stagesOk (s : State) (i : Image) : Bool :=
  let cs := clustersFor s i.variant.toNat
  decide (1 ≤ i.stages.length ∧ i.stages.length ≤ 64)
    && i.stages.all (stageOk i.tops (if i.variant = 2 then 5 else 8)) && coresCovered cs i.stages

/-- R275. -/
def groupsOk (i : Image) : Bool :=
  i.groups.all (fun g => decide (g.1.toNat ≤ 1) && decide (g.2.1.toNat ≤ 7) && decide (1 ≤ g.2.2.toNat ∧ g.2.2.toNat ≤ 496)
    && fld i.vcw (8 * g.2.1.toNat + 7) (8 * g.2.1.toNat) ≠ 0)

/-- R311 and R315. -/
def linkOk (s : State) (i : Image) : Bool :=
  let reach := fun (node : W16) => node = i.node || decide (1 ≤ (i.routes.getD node.toNat 0).toNat / 16)
  i.cascMode ≠ 3
    && i.routes.all (fun r => decide (r.toNat / 16 ≤ 1) || (r.toNat / 16 = 2 && i.cascMode = 2))
    && s.cle.groups.all (fun g => g.2.st = 0 || g.2.members.all (fun m => reach m.node))

def fwOk (bs : List Byte) : Bool :=
  let secs := sectionsOf bs
  let size (t : Nat) : Nat := match findSec secs t with
    | some x => x.size
    | none => 0
  decide (64 ≤ size 7 ∧ size 7 ≤ 1572864) && decide (64 ≤ size 8 ∧ size 8 ≤ 393216)

/-- The bridge finds no neighbour. -/
def noNeighbour (s : State) : Bool := s.casc.ports.all (fun p => p.2.st = 0)

/-- Step 4. -/
def variantOk (s : State) (i : Image) : Bool :=
  ((i.variant = 1 && i.units = 7) || (i.variant = 2 && i.units = 0 && noNeighbour s)) && i.cascId = s.cascId

/-- Table 15.4 in order: the reason code of the first check that fails. -/
def imageReason (s : State) (bs : List Byte) (len : Nat) (packageAgrees : Bool) : Option Nat :=
  if !formatOk bs len then some 0x01 else
  let i := parseImage bs
  if !keyOk s i.keySlot.toNat bs len then some 0x02
  else if !signatureOk bs len then some 0x03
  else if !variantOk s i then some 0x04
  else if i.arithVer ≠ 1 then some 0x05
  else if !breathOk s i then some 0x06
  else if !stagesOk s i then some 0x07
  else if !(List.range 16).all (programOk i.tops) then some 0x08
  else if !groupsOk i then some 0x09
  else if !linkOk s i then some 0x0A
  else if !fwOk bs then some 0x0B
  else if !packageAgrees then some 0x0C
  else none

end Sys2Proof.Machine
end

