-- ==== Sys2Proof/Machine/Reed.lean ====
section
/-! DEFINITION. Reed's mailbox (R330 to R333), image loads and refolds (R323 to R329), context releases and core
bindings (R182, R193). -/

namespace Sys2Proof.Machine

/-! ### Slots and completions (R331) -/

def mail (s : State) (x : Slot) : MailSlot :=
  match x with
  | .host => s.reed.host
  | .firmware => s.reed.fw

def modMail (s : State) (x : Slot) (f : MailSlot → MailSlot) : State :=
  match x with
  | .host => { s with reed := { s.reed with host := f s.reed.host } }
  | .firmware => { s with reed := { s.reed with fw := f s.reed.fw } }

/-- Write a completion into the response register; the host slot's raises the mailbox interrupt. -/
def postCompletion (s : State) (x : Slot) (c : Completion) : State :=
  let s1 := modMail s x (fun m => { m with result := c.result, rspTag := c.tag, code := c.code, done := true })
  if x = .host then pendG s1 1 else s1

/-- A completion is written while DONE = 0, and otherwise waits. -/
def complete (s : State) (x : Slot) (tag : W16) (code result : Nat) : State :=
  let c : Completion := { result := BitVec.ofNat 32 result, tag := tag, code := BitVec.ofNat 8 code }
  if (mail s x).done then modMail s x (fun m => { m with waiting := m.waiting ++ [c] }) else postCompletion s x c

/-- Reed takes the request in a slot and completes it. -/
def answer (s : State) (x : Slot) (tag : W16) (code result : Nat) : State :=
  complete (modMail s x (fun m => { m with busy := false })) x tag code result

/-- Reed takes no request: the slot is busy, or STATE reads BOOT or HALTED. -/
def cannotTake (s : State) (x : Slot) : Bool := (mail s x).busy || s.reed.st = .boot || s.reed.st = .halted

/-- A request is written: ignored with LOST, or BUSY and then `f`. Slot service alternates. -/
def submit (s : State) (x : Slot) (tag : W16) (op : Nat) (f : State → State) : State :=
  if cannotTake s x then modMail s x (fun m => { m with lost := true }) else
  let s1 := modMail s x (fun m => { m with reqTag := tag, op := BitVec.ofNat 8 op, busy := true })
  f { s1 with reed := { s1.reed with serveFwNext := decide (x = .host) } }

/-- The arguments of a request are written before it. -/
def withArgs (s : State) (x : Slot) (a0 a1 : W64) : State := modMail s x (fun m => { m with arg0 := a0, arg1 := a1 })

/-- MAILBOX_DONE_CLEAR. -/
def doneClear (s : State) (x : Slot) : State :=
  let m := mail s x
  let s1 := modMail s x (fun v => { v with done := false })
  match m.waiting with
  | [] => s1
  | c :: t => if m.done then postCompletion (modMail s1 x (fun v => { v with waiting := t })) x c else s1

/-! ### Image loads (R323, R325, R332) -/

/-- STATE when no load is under way. -/
def restState (s : State) : RdState := if s.reed.active.isSome then .running else .ready

/-- The load that is verifying or pending. -/
def loadOf (s : State) : Option Load :=
  match s.reed.verifying with
  | some l => some l
  | none => s.reed.pending

/-- The load under way ends with a completion code and result. -/
def dropLoad (s : State) (code result : Nat) : State :=
  match loadOf s with
  | none => s
  | some l =>
    let s1 := { s with reed := { s.reed with verifying := none, pending := none, st := restState s } }
    complete s1 .host l.tag code result

/-- Reed re-reads the active image after a warm reset (R341). -/
def reloading (s : State) : Bool := s.reed.warm && s.reed.active.isSome

/-- IMAGE_LOAD. -/
def imageLoad (s : State) (x : Slot) (tag : W16) (a0 a1 : W64) : State :=
  if x ≠ .host then answer s x tag 3 0
  else if (loadOf s).isSome || reloading s then answer s x tag 1 0
  else if a0.toNat % 4096 ≠ 0 || decide (2 ^ 56 ≤ a0.toNat) || decide (2 ^ 32 ≤ a1.toNat) then answer s x tag 2 0
  else
    let s1 := modMail s x (fun m => { m with busy := false })
    { s1 with reed := { s1.reed with verifying := some { pa := a0.toNat, length := a1.toNat, tag := tag }, st := .verifying } }

/-- IMAGE_CANCEL. -/
def imageCancel (s : State) (x : Slot) (tag : W16) : State :=
  if x ≠ .host then answer s x tag 3 0 else answer (dropLoad s 7 0) x tag 0 0

/-- The reason that rejects the image of a load; one that cannot be read fails FORMAT (R324). -/
def loadReason (s : State) (l : Load) (packageAgrees : Bool) : Option Nat :=
  match readPa s l.pa l.length with
  | (.ok, bs) => imageReason s bs l.length packageAgrees
  | _ => some 0x01

/-- The active image no longer verifies after a warm reset (R341). -/
def imageLost (s : State) (r : Nat) : State :=
  let s1 := { s with caps := [0, 0, 0, 0, 0, 0, 0, 0],
                     reed := { s.reed with active := none, st := .ready, reject := BitVec.ofNat 8 r } }
  bellRaise s1 0x0050 0 0 1 r

/-- IMAGE_VERIFIED. -/
def imageVerified (s : State) (packageAgrees : Bool) : State :=
  match s.reed.warm, s.reed.active with
  | true, some l =>
    (match loadReason s l packageAgrees with
     | none => { s with reed := { s.reed with warm := false, st := .running } }
     | some r => imageLost s r)
  | _, _ =>
    match s.reed.verifying with
    | none => s
    | some l =>
      match loadReason s l packageAgrees with
      | some r =>
        let s1 := { s with reed := { s.reed with reject := BitVec.ofNat 8 r } }
        send (dropLoad s1 4 r) (.rejectReport false)
      | none =>
        let l' := { l with image := parseImage (readPa s l.pa l.length).2 }
        { s with reed := { s.reed with verifying := none, pending := some l', st := .pending } }

/-- REJECT_REPORT: another die rejected its image, or discarded it at a warm reset (R341). -/
def rejectReport (s : State) (warmDiscard : Bool) : State :=
  if (loadOf s).isNone then s
  else if warmDiscard then dropLoad s 7 0
  else dropLoad { s with reed := { s.reed with reject := 0x0C } } 4 0x0C

/-- REFOLD_TIMEOUT: a pending image waited 256 boundaries, on this die or on another. -/
def refoldTimeout (s : State) (byPeer : Bool) : State :=
  match s.reed.pending with
  | none => s
  | some l => if byPeer || decide (256 ≤ l.waited) then dropLoad s 6 0 else s

/-! ### Contexts (R193, R333) -/

def allocated (s : State) (x : Nat) : Bool := x = 0 || s.reed.ctxs.contains x
def releasing (s : State) (x : Nat) : Bool := s.reed.releases.any (fun r => r.ctx.toNat = x)

/-- CTX_ALLOC. -/
def ctxAlloc (s : State) (x : Slot) (tag : W16) : State :=
  if x ≠ .host then answer s x tag 3 0 else
  match nthFree s.reed.ctxs 1 4096 0 with
  | none => answer s x tag 5 0
  | some c => answer { s with reed := { s.reed with ctxs := insUp s.reed.ctxs c } } x tag 0 c

def addBind (s : State) (x : Slot) (tag : W16) (queue : Bool) (index : Nat) (ctx : CtxId) : State :=
  { s with reed := { s.reed with binds := s.reed.binds ++
      [{ slot := x, tag := tag, queue := queue, index := index, ctx := ctx, at_ := s.breath.num }] } }

/-- CTX_BIND: BUSY and BAD_ARG as R333; the binding waits for a boundary. -/
def ctxBind (s : State) (x : Slot) (tag : W16) (a0 a1 : W64) : State :=
  let q := a0.toNat
  let c := a1.toNat
  if x ≠ .host then answer s x tag 3 0
  else if !queuePresent s q || decide (4096 ≤ c) || !allocated s c then answer s x tag 2 0
  else if (getQ s q).st ≠ 0 || releasing s c then answer s x tag 1 0
  else addBind s x tag true q (BitVec.ofNat 12 c)

/-- CTX_RELEASE. -/
def ctxRelease (s : State) (x : Slot) (tag : W16) (a0 : W64) : State :=
  let c := a0.toNat
  if x ≠ .host then answer s x tag 3 0
  else if c = 0 || decide (4096 ≤ c) || !allocated s c then answer s x tag 2 0
  else if s.queues.any (fun p => p.2.ctx.toNat = c && p.2.st ≠ 0) then answer s x tag 1 0
  else { s with reed := { s.reed with releases := s.reed.releases ++
      [{ ctx := BitVec.ofNat 12 c, tag := tag, step := 0, at_ := s.breath.num }] } }

def hasOpenWindow (c : Core) : Bool := c.windows.any (fun p => p.2.st = 1)

/-- CORE_BIND (R182): an unbound core at the next boundary; an idle bound one after a fence and a scrub. -/
def coreBind (s : State) (x : Slot) (tag : W16) (a0 a1 : W64) : State :=
  let k := nfld a0.toNat 6 4 * 8 + nfld a0.toNat 2 0
  let c := a1.toNat
  if x ≠ .firmware then answer s x tag 3 0
  else if decide (128 ≤ a0.toNat) || a0.getLsbD 3 || !coreLive s k || decide (4096 ≤ c) || !allocated s c then answer s x tag 2 0
  else
    let v := getCore s k
    if releasing s c || v.rebind.isSome || v.bind = 2 then answer s x tag 1 0
    else if v.bind = 0 then addBind s x tag false k (BitVec.ofNat 12 c)
    else if busyCount s k = 0 && !hasOpenWindow v then
      addBind (modCore s k (fun m => { m with rebind := some (BitVec.ofNat 12 c, false, s.breath.num) })) x tag false k (BitVec.ofNat 12 c)
    else answer s x tag 1 0

/-- A core goes to BIND fenced: its windows close, its counters read zero. -/
def fenceCore (s : State) (k : Nat) : State := modCore (closeAllWindows s k) k (fun c => { c with bind := 2 })

/-- Cores of a release. -/
def coresOfCtx (s : State) (x : CtxId) (bind : BitVec 2) : List Nat :=
  (s.cores.filter (fun p => p.2.ctx = x && p.2.bind = bind && p.2.rebind.isNone)).map (fun p => p.1)

/-- CTX_FENCE: steps 1 and 2 of Table 9.9 at the boundary after a release or a rebinding request. -/
def ctxFence (s : State) : State :=
  let now := s.breath.num
  let due := s.reed.releases.filter (fun r => r.step = 0 && r.at_ ≠ now)
  let s1 := due.foldl (fun st r => (coresOfCtx st r.ctx 1).foldl fenceCore st) s
  let mark := fun (r : Release) => if r.step = 0 && r.at_ ≠ now then { r with step := 2, at_ := now } else r
  let s2 := { s1 with reed := { s1.reed with releases := s1.reed.releases.map mark } }
  let re := (s2.cores.filter (fun p => p.2.bind = 1 && (match p.2.rebind with
    | some (_, false, b) => b ≠ now
    | _ => false))).map (fun p => p.1)
  re.foldl fenceCore s2

/-- The lines of a cluster cache that are held under some context go (step 5). -/
def dropCtxLines (s : State) (x : CtxId) : State :=
  { s with clusters := s.clusters.map (fun p => (p.1, { p.2 with lines := p.2.lines.filter (fun l => l.2 ≠ x) })) }

/-- CTX_SCRUB_DONE: steps 3 to 6. -/
def ctxScrubDone (s : State) : State :=
  let now := s.breath.num
  let due := s.reed.releases.filter (fun r => r.step = 2)
  let s1 := due.foldl (fun st r => dropCtxLines ((coresOfCtx st r.ctx 2).foldl scrubCore st) r.ctx) s
  let mark := fun (r : Release) => if r.step = 2 then { r with step := 6, at_ := now } else r
  let s2 := { s1 with reed := { s1.reed with releases := s1.reed.releases.map mark } }
  let re := (s2.cores.filter (fun p => p.2.bind = 2 && (match p.2.rebind with
    | some (_, false, _) => true
    | _ => false))).map (fun p => p.1)
  re.foldl (fun st k => modCore (scrubCore st k) k (fun c => match c.rebind with
    | some (x, _, _) => { c with rebind := some (x, true, now) }
    | none => c)) s2

/-- Step 7 of one release, with the freeing of R217 before it. -/
def finishRelease (s : State) (r : Release) : State :=
  let (s1, held) := freeCtxEntries s r.ctx
  let s2 := (coresOfCtx s1 r.ctx 2).foldl (fun st k => modCore st k (fun c => { c with bind := 0, ctx := 0 })) s1
  let qs := (s2.queues.filter (fun p => p.2.ctx = r.ctx)).map (fun p => p.1)
  let s3 := qs.foldl (fun st q => modQ st q (fun v => { v with ctx := 0 })) s2
  let s4 := { s3 with reed := { s3.reed with ctxs := dropOne s3.reed.ctxs r.ctx.toNat
                                             releases := s3.reed.releases.filter (fun x => x.ctx ≠ r.ctx) } }
  answer (bellRaise s4 0x0021 0 r.ctx 1 0) .host r.tag 0 held

/-- CTX_SCRUBBED, at the first boundary after step 6. -/
def ctxScrubbed (s : State) : State :=
  (s.reed.releases.filter (fun r => r.step = 6 && r.at_ ≠ s.breath.num)).foldl finishRelease s

/-- The request that a binding of a core answers, if one does. -/
def answerBind (s : State) (queue : Bool) (index : Nat) : State :=
  match s.reed.binds.find? (fun b => b.queue = queue && b.index = index) with
  | none => s
  | some b =>
    let s1 := { s with reed := { s.reed with binds := s.reed.binds.filter (fun x => !(x.queue = queue && x.index = index)) } }
    answer s1 b.slot b.tag 0 0

/-- CORE_REBIND: the core is bound to its new context at the first boundary after its scrub, which is logged (step 7, R196). -/
def coreRebind (s : State) (k : Nat) : State :=
  let c := getCore s k
  match c.rebind with
  | some (x, true, b) =>
    if b = s.breath.num then s
    else answerBind (bellRaise (setCore s k { c with bind := 1, ctx := x, rebind := none }) 0x0021 0 c.ctx 1 0) false k
  | _ => s

/-- Bindings that wait for a boundary: queues (R333) and unbound cores (R182). -/
def applyBind (s : State) (b : BindWait) : State :=
  if b.queue then answerBind (modQ s b.index (fun v => { v with ctx := b.ctx })) true b.index
  else if (getCore s b.index).bind = 0 && (getCore s b.index).rebind.isNone then
    answerBind (modCore s b.index (fun c => { c with bind := 1, ctx := b.ctx })) false b.index
  else s

/-- The waiting bindings in service order. -/
def applyBinds (s : State) : State :=
  let host := s.reed.binds.filter (fun b => b.slot = .host)
  let fw := s.reed.binds.filter (fun b => b.slot ≠ .host)
  (if s.reed.serveFwNext then fw ++ host else host ++ fw).foldl applyBind s

/-! ### Other firmware requests -/

/-- UNIT_EVENT (R361). -/
def unitEvent (s : State) (x : Slot) (tag : W16) (a0 : W64) : State :=
  let u : W16 := BitVec.ofNat 16 a0.toNat
  let ev := a0.toNat / 2 ^ 16
  if x ≠ .firmware then answer s x tag 3 0
  else if decide (1 < ev) || !unitValid u then answer s x tag 2 0
  else if ev = 0 then answer (recordCE s u) x tag 0 0
  else answer (recordUE s u 1 0) x tag 0 0

/-- BELL_LOG (R370). -/
def bellLog (s : State) (x : Slot) (tag : W16) (a0 a1 : W64) : State :=
  let code := nfld a0.toNat 15 0
  if x ≠ .firmware then answer s x tag 3 0
  else if decide (code < 0x8000) || nfld a0.toNat 47 44 ≠ 0 || nfld a0.toNat 63 49 ≠ 0 then answer s x tag 2 0
  else
    let e : BellEvent := { code := BitVec.ofNat 16 code, unit := BitVec.ofNat 16 (nfld a0.toNat 31 16), src := 2, arg := a1
                           ctx := BitVec.ofNat 12 (nfld a0.toNat 43 32), fault := a0.getLsbD 48 }
    answer (stageEvent s e) x tag 0 0

/-- FW_READY (R328). -/
def fwReady (s : State) (x : Slot) (tag : W16) : State :=
  if x ≠ .firmware then answer s x tag 3 0
  else answer { s with reed := { s.reed with fwWait := false } } x tag 0 0

/-- A request of any operation, its arguments in the slot (Table 15.8). -/
def mailboxOp (s : State) (x : Slot) (tag : W16) (op : Nat) (a0 a1 : W64) : State :=
  match op with
  | 0x01 => imageLoad s x tag a0 a1
  | 0x02 => imageCancel s x tag
  | 0x03 => ctxAlloc s x tag
  | 0x04 => ctxBind s x tag a0 a1
  | 0x05 => ctxRelease s x tag a0
  | 0x10 => coreBind s x tag a0 a1
  | 0x11 => unitEvent s x tag a0
  | 0x12 => bellLog s x tag a0 a1
  | 0x13 => fwReady s x tag
  | _ => answer s x tag 2 0

/-- A write of KQ_RD_REQ: OP 0 submits nothing. -/
def requestWrite (s : State) (x : Slot) (tag : W16) (op : Nat) : State :=
  if op = 0 then (if cannotTake s x then s else modMail s x (fun m => { m with reqTag := tag, op := 0 }))
  else
    let m := mail s x
    submit s x tag op (fun s => mailboxOp s x tag op m.arg0 m.arg1)

/-! ### Refolds (R325 to R329) -/

/-- A long task of R68 runs on this die. -/
def longRunning (s : State) : Bool :=
  s.tasks.any (longTask s)

/-- The parameters of an image (Table 15.3, R321). LONG counts from the last refold that applies an image (R68): a retirement-only
refold does not restart it, the model's choice (log 92). -/
def setParams (s : State) (i : Image) : State :=
  { s with
    breath := { s.breath with guard := i.guard, refPerUs := i.refPerUs, upDie := i.upDie, src := i.src
                              period := BitVec.ofNat 11 i.period.toNat, long := 0
                              hops := if i.src = 1 then s.breath.hops else 0 }
    cle := { s.cle with vcw := i.vcw }
    casc := { s.casc with mode := i.cascMode }
    link := { s.link with node := i.node, routes := i.routes, dateline := i.dateline, markerOut := i.markerOut, laneLimit := i.laneLimit } }

/-- Every group takes MODE, VC and QUOTA of the image for what begins from now on: an operation that has begun keeps its own
(`CleOp.mode`, `CleOp.vc`), one that still waits for buffer asks for what the new values give (R289, R298). -/
def setGroups (s : State) : State :=
  let s1 := (List.range 256).foldl (fun st g => setGroup st g (imageGroup st g (getGroup st g))) s
  let ask := fun (o : CleOp) => if o.kind || o.begun || o.record.opcode ≠ 0 then o else { o with want := cleWant (getGroup s1 o.group) (cmdOf s1 o) }
  { s1 with cle := { s1.cle with ops := s1.cle.ops.map ask } }

/-- Executing items that the new image no longer fits fail (R162). -/
def recheckItems (s : State) : State :=
  (s.items.filter (fun i => i.stage = .executing)).foldl (fun st i =>
    let bad := match engineOf i.q with
      | 0 => if i.opcode = 0x10 then attShape st i.cmd false 1 1
             else if i.opcode = 0x11 then
               -- a begun item's descriptor gives its sizes (R157)
               (if i.begun then attShape st i.cmd true (elemBytes (dF i 7 1)) (elemBytes (dF i 6 1)) else attShape st i.cmd true 1 1)
             else none
      | 3 => if decide (0x40 ≤ i.opcode) then rowShape st else none
      | _ => none
    match bad with
    | some k => endItem st i.q i.idx 0x14 k
    | none => st) s

/-- Cores whose tasks finish under the old image (R327), with the entry they keep. -/
def heldCores (before after : State) : List (Nat × StageEntry) :=
  (List.range 64).filterMap (fun k =>
    match layoutOf before k with
    | some e => if busyCount before k ≠ 0 && (entryOf after k).map (fun p => p.1) ≠ some e then some (k, e) else none
    | none => none)

/-- Logical clusters that another physical cluster, or none, serves under the new image. -/
def renumbered (s : State) (cs : List Cluster) : List Nat :=
  (List.range 8).filter (fun n => (n < clustersEn s || n < cs.length) && (cs[n]?).map (fun c => c.phys) ≠ some (getCluster s n).phys)

/-- The logical clusters of the new image. Tasks of a cluster whose number changes are aborted and its windows close; its cores are
scrubbed before they serve another context (R12). -/
def setClusters (s : State) (variant : Nat) : State :=
  let cs := clustersFor s variant
  let rest := (s.clusters.map (fun c => c.2)).filter (fun c => !cs.any (fun d => d.phys = c.phys))
  let cores := (renumbered s cs).flatMap (fun n => (List.range 8).map (fun c => 8 * n + c))
  let s1 := cores.foldl abortCore s
  let counted := cs.mapIdx (fun n c => { c with hits := (getCluster s n).hits, misses := (getCluster s n).misses })
  let s2 := { s1 with clusters := tputList {} [] 0 (counted ++ rest), cores := s1.cores.filter (fun p => p.1 < 8 * cs.length) }
  cores.foldl (fun st k => if k < 8 * cs.length then takeOver st k { (getCore st k) with bind := 3 } else st) s2

/-- Steps 3 and 4 of Table 15.5 on a die with a new image, and what R162, R327 and R328 say of the work that spans it. -/
def applyImage (s : State) (l : Load) : State :=
  let v := l.image.variant.toNat
  let n := (clustersFor s v).length
  let s1 := setParams (setClusters s v) l.image
  let s2 := { s1 with caps := capWords s1 v n (nextEpoch s).toNat, epoch := nextEpoch s
                      reed := { s1.reed with
                        active := some l, pending := none, st := .running, warm := false, fwWait := true, refolded := some s.breath.num } }
  let s3 := fitImage (setGroups s2)
  let held := heldCores s s3
  let s4 := held.foldl (fun st p => hitHalo (modCore st p.1 (fun c => { c with old := some p.2 })) p.1) s3
  let s5 := { s4 with items := s4.items.map (fun i => { i with placed := [] }) }
  let s6 := restartHalos (recheckItems s5)
  complete s6 .host l.tag 0 s6.epoch.toNat

/-- REFOLD (R325, R326); `othersReady` and `othersHold` say the conditions of R325 on the other dies of the package. -/
def refold (s : State) (othersReady othersHold : Bool) : State :=
  if !othersReady || s.reed.verifying.isSome || longRunning s then s
  else
    match s.reed.pending with
    | some l => if s.casc.lost.contains 0 then s else applyImage s l
    | none => if othersHold && running s then bumpCaps s (clustersEn s) else s

/-! ### Meanings -/

def execImageLoad (slot : Slot) (tag : W16) (arg0 arg1 : W64) (s : State) : Host.Outcome State Fault Refusal :=
  live s (fun s => submit (withArgs s slot arg0 arg1) slot tag 0x01 (fun s => imageLoad s slot tag arg0 arg1))
def execImageCancel (slot : Slot) (tag : W16) (s : State) : Host.Outcome State Fault Refusal :=
  live s (fun s => submit s slot tag 0x02 (fun s => imageCancel s slot tag))
def execCtxAlloc (slot : Slot) (tag : W16) (s : State) : Host.Outcome State Fault Refusal :=
  live s (fun s => submit s slot tag 0x03 (fun s => ctxAlloc s slot tag))
def execCtxBind (slot : Slot) (tag : W16) (arg0 arg1 : W64) (s : State) : Host.Outcome State Fault Refusal :=
  live s (fun s => submit (withArgs s slot arg0 arg1) slot tag 0x04 (fun s => ctxBind s slot tag arg0 arg1))
def execCtxRelease (slot : Slot) (tag : W16) (arg0 : W64) (s : State) : Host.Outcome State Fault Refusal :=
  live s (fun s => submit (withArgs s slot arg0 (mail s slot).arg1) slot tag 0x05 (fun s => ctxRelease s slot tag arg0))
def execCoreBind (slot : Slot) (tag : W16) (arg0 arg1 : W64) (s : State) : Host.Outcome State Fault Refusal :=
  live s (fun s => submit (withArgs s slot arg0 arg1) slot tag 0x10 (fun s => coreBind s slot tag arg0 arg1))
def execUnitEvent (slot : Slot) (tag : W16) (arg0 : W64) (s : State) : Host.Outcome State Fault Refusal :=
  live s (fun s => submit (withArgs s slot arg0 (mail s slot).arg1) slot tag 0x11 (fun s => unitEvent s slot tag arg0))
def execBellLog (slot : Slot) (tag : W16) (arg0 arg1 : W64) (s : State) : Host.Outcome State Fault Refusal :=
  live s (fun s => submit (withArgs s slot arg0 arg1) slot tag 0x12 (fun s => bellLog s slot tag arg0 arg1))
def execFwReady (slot : Slot) (tag : W16) (s : State) : Host.Outcome State Fault Refusal :=
  live s (fun s => submit s slot tag 0x13 (fun s => fwReady s slot tag))

/-- An operation code that Table 15.8 defines. -/
def opDefined (op : Nat) : Bool := [0x01, 0x02, 0x03, 0x04, 0x05, 0x10, 0x11, 0x12, 0x13].contains op

/-- MAILBOX_RESERVED_OP: a nonzero OP outside Table 15.8. -/
def reservedOp (s : State) (slot : Slot) (tag : W16) (op : Nat) : State :=
  if op = 0 || opDefined op then s else submit s slot tag op (fun s => answer s slot tag 2 0)

def execMailboxReservedOp (slot : Slot) (tag : W16) (op : Byte) (s : State) : Host.Outcome State Fault Refusal :=
  live s (fun s => reservedOp s slot tag op.toNat)
def execMailboxDoneClear (slot : Slot) (s : State) : Host.Outcome State Fault Refusal := live s (fun s => doneClear s slot)
def execImageVerified (packageAgrees : Bool) (s : State) : Host.Outcome State Fault Refusal :=
  live s (fun s => imageVerified s packageAgrees)
def execRejectReport (warmDiscard : Bool) (s : State) : Host.Outcome State Fault Refusal := live s (fun s => rejectReport s warmDiscard)
def execRefold (othersReady othersHold : Bool) (s : State) : Host.Outcome State Fault Refusal :=
  atEdge s (fun s => refold s othersReady othersHold)
def execRefoldTimeout (byPeer : Bool) (s : State) : Host.Outcome State Fault Refusal := live s (fun s => refoldTimeout s byPeer)
def execCtxFence (s : State) : Host.Outcome State Fault Refusal := atEdge s ctxFence
def execCtxScrubDone (s : State) : Host.Outcome State Fault Refusal := live s ctxScrubDone
def execCtxScrubbed (s : State) : Host.Outcome State Fault Refusal := atEdge s ctxScrubbed
def execCoreRebind (core : Nat) (s : State) : Host.Outcome State Fault Refusal := atEdge s (fun s => coreRebind s core)

end Sys2Proof.Machine
end

