-- ==== Sys2Proof/Machine/Regs.lean ====
section
/-! DEFINITION. The register window (chapter 19): what every offset reads, what a 64-bit write does, and the selection
and clear registers that have rows of their own. -/

namespace Sys2Proof.Machine

/-! ### Reads -/

/-- KQ_ID (Table 19.3). -/
def idWord (s : State) : Nat := at_ 48 0x10 + at_ 32 0x4B31 + at_ 28 1 + at_ 1 s.fuses.mfr.toNat + 1

def brthCtrl (s : State) : Nat :=
  at_ 40 s.breath.guard.toNat + at_ 32 s.breath.refPerUs.toNat + at_ 28 s.breath.upDie.toNat + at_ 26 s.breath.src.toNat
    + s.breath.period.toNat

def brthStat (s : State) : Nat :=
  let b := s.breath
  at_ 48 b.hops.toNat + at_ 32 b.long.toNat + at_ 24 b.lastErr.toNat + bitF 4 b.stray + bitF 3 b.renum + bitF 2 b.overrun
    + bitF 1 b.miss + bitF 0 b.freeRun

def brthEvcnt (s : State) : Nat :=
  at_ 48 s.breath.runtCnt.toNat + at_ 32 s.breath.missedCnt.toNat + at_ 16 s.breath.strayCnt.toNat + s.breath.overrunCnt.toNat

/-- A unit history record as 16 bytes, in two words (Table 16.8). -/
def uhWord (r : UnitRec) (k : Nat) : Nat :=
  if k = 0 then r.st.toNat + at_ 8 r.role.toNat + at_ 16 r.ue.toNat + at_ 32 r.ce.toNat
  else r.ceWin.toNat + at_ 16 r.tfail.toNat + at_ 32 r.changed.toNat

def bellStat (s : State) : Nat :=
  at_ 32 s.bell.flushed.toNat + at_ 16 s.bell.dropped.toNat + bitF 3 s.bell.flushing.isSome + bitF 2 s.bell.irqEn
    + bitF 0 s.bell.faultPend

def muteStat (s : State) : Nat :=
  let m := s.mute
  at_ 32 m.lastLen.toNat + at_ 16 m.count.toNat + at_ 8 m.runt.toNat + at_ 1 m.originDie.toNat + bitF 0 m.origin

def sensWord (s : State) (k : Nat) : Nat :=
  let v := s.sens
  match k with
  | 0 => at_ 48 v.hotIdx.toNat + at_ 32 v.tmax.toNat + at_ 16 v.tavg.toNat
  | 1 => at_ 48 v.vmax.toNat + at_ 32 v.vmin.toNat + at_ 16 v.vnow.toNat
  | 2 => at_ 48 v.arithMhz.toNat + at_ 32 v.fabricMhz.toNat + bitF 1 v.fabOut + bitF 0 v.arithOut
  | _ => at_ 48 v.tAlarm.toNat + at_ 32 v.vLow.toNat + at_ 16 v.vHigh.toNat + bitF 1 v.vHit + bitF 0 v.tHit

def irqGen (s : State) : Nat :=
  bitF 4 s.irq.sensorEn + bitF 2 s.irq.capacityEn + bitF 1 s.irq.mailboxEn + bitF 0 s.irq.breathEn
def irqGmap (s : State) : Nat :=
  at_ 16 s.irq.sensorLine.toNat + at_ 12 s.irq.bellLine.toNat + at_ 8 s.irq.capacityLine.toNat + at_ 4 s.irq.mailboxLine.toNat
    + s.irq.breathLine.toNat

/-- Global registers (Table 19.2). -/
def readGlobal (s : State) (o : Nat) : Nat :=
  if 0x40 ≤ o ∧ o < 0x80 then (cap s ((o - 0x40) / 8)).toNat
  else if 0x880 ≤ o ∧ o ≤ 0x8B0 then qpendWord s ((o - 0x880) / 8)
  else match o with
  | 0x000 => idWord s
  | 0x100 => brthCtrl s
  | 0x108 => s.breath.num.toNat
  | 0x110 => brthStat s
  | 0x118 => brthEvcnt s
  | 0x300 => capevWord s
  | 0x310 => s.uhSel.toNat
  | 0x318 => uhWord s.uhData 0
  | 0x320 => uhWord s.uhData 1
  | 0x400 => s.bell.head.toNat
  | 0x408 => bellStat s
  | 0x500 => muteStat s
  | 0x600 => bitF 1 s.perf.frozen + bitF 0 s.perf.freeze
  | 0x608 => s.perf.ac.toNat
  | 0x700 => sensWord s 0
  | 0x708 => sensWord s 1
  | 0x710 => sensWord s 2
  | 0x718 => sensWord s 3
  | 0x800 => s.irq.gstat.toNat
  | 0x808 => irqGen s
  | 0x810 => irqGmap s
  | 0x818 => irqLines s
  | 0x820 => qsum s
  | _ => 0

def rdStateCode (x : RdState) : Nat :=
  match x with
  | .boot => 0
  | .ready => 1
  | .running => 2
  | .verifying => 3
  | .pending => 4
  | .halted => 5

def rdStatus (s : State) : Nat :=
  let i := match s.reed.active with
    | some l => at_ 32 l.image.imageId.toNat + at_ 16 l.image.keySlot.toNat
    | none => 0
  i + at_ 24 s.reed.reject.toNat + rdStateCode s.reed.st

/-- The mailbox range: the host slot and the status; the firmware slot reads as zero (R330). -/
def readMail (s : State) (o : Nat) : Nat :=
  let m := s.reed.host
  match o with
  | 0x00 => m.arg0.toNat
  | 0x08 => m.arg1.toNat
  | 0x10 => m.arg2.toNat
  | 0x18 => m.arg3.toNat
  | 0x20 => at_ 16 m.reqTag.toNat + m.op.toNat
  | 0x28 => at_ 32 m.result.toNat + at_ 16 m.rspTag.toNat + at_ 8 m.code.toNat + bitF 2 m.lost + bitF 1 m.done + bitF 0 m.busy
  | 0x200 => rdStatus s
  | _ => 0

def qctrlWord (v : Queue) : Nat :=
  at_ 32 v.admitMax.toNat + at_ 20 v.ctx.toNat + bitF 19 v.irqEn + at_ 16 v.irqLine.toNat + at_ 8 v.log2.toNat + at_ 2 v.st.toNat
    + bitF 0 v.en

/-- A queue's configuration block (Tables 2.4 to 2.7, 2.24). -/
def readQueue (s : State) (q o : Nat) : Nat :=
  if !queuePresent s q then 0 else
  let v := getQ s q
  match o with
  | 0x00 => qctrlWord v
  | 0x08 => v.cmdBase.toNat
  | 0x10 => v.cplBase.toNat
  | 0x18 => at_ 32 v.cplTail.toNat + v.accHead.toNat
  | 0x20 => at_ 32 (inflight s q) + bitF 17 v.cplErr + bitF 16 v.dbErr + at_ 8 0x10 + v.negVer.toNat
  | 0x28 => v.short.toNat
  | _ => 0

/-- Threads of a core asleep on counter j, by their thresholds. -/
def sleepersOn (s : State) (k j : Nat) : List W32 :=
  s.tasks.filterMap (fun t => if t.core = k then (match t.wait with
    | some w => if w.counter = j then some w.threshold else none
    | none => none) else none)

/-- KQ_AC_i and KQ_AC_INFO_i (Tables 9.6 and 9.7); all zero while the core is fenced (R188). THRESH carries no meaning
without waiters: a free value (log 11). -/
def readCounter (s : State) (k j : Nat) (info : Bool) : Nat :=
  let c := getCore s k
  if !coreLive s k || c.bind = 2 then 0 else
  let v := getCtr c j
  let ws := sleepersOn s k j
  if info then at_ 52 v.ctx.toNat + at_ 50 v.st.toNat + at_ 44 ws.length + at_ 38 v.win.toNat
  else if ws.isEmpty then at_ 32 (if v.waited then (Config.freeWord s.free).toNat % 2 ^ 32 else 0) + v.count.toNat
  else at_ 32 ((ws.map (fun w => w.toNat)).foldl min (2 ^ 32)) + v.count.toNat

/-- Tags that a core holds (Table 12.9). -/
def heldTags (s : State) (k : Nat) : Nat := (s.mem.reqs.filter (fun r => r.pool = k && r.tag.isSome)).length

/-- A core's counter block (Tables 12.8 and 12.9). -/
def readCoreCnt (s : State) (k o : Nat) : Nat :=
  if !coreLive s k then 0 else
  let c := getCore s k
  if o < 0x140 then (tget 0 c.stalls (o / 8)).toNat
  else if o = 0x200 then at_ 32 (pfHeld s k) + heldTags s k
  else if o = 0x208 then at_ 48 c.waitTmo.toNat + at_ 32 c.aborts.toNat + c.cancelled.toNat
  else 0

/-- Words of a Bell event (Table 17.1). -/
def bellWord (e : BellEvent) (k : Nat) : Nat :=
  match k with
  | 0 => e.seq.toNat + at_ 32 e.code.toNat + at_ 48 e.unit.toNat
  | 1 => e.breath.toNat
  | 2 => e.offset.toNat + at_ 32 e.ctx.toNat + at_ 44 e.src.toNat
  | _ => e.arg.toNat

def geomA (g : Geometry) : Nat :=
  at_ 48 g.kvHeads.toNat + at_ 32 g.headDim.toNat + at_ 16 g.picFmt.toNat + at_ 8 g.srcFmt.toNat + g.kvFmt.toNat
def geomB (g : Geometry) : Nat := bitF 21 g.mirror + at_ 16 g.log2Blk.toNat + at_ 8 g.shN.toNat + g.shIdx.toNat

/-- Translation, streaming and paging (Table 19.10), from 0x040_0000. -/
def readMem (s : State) (o : Nat) : Nat :=
  let t := s.tr
  let p := s.pg
  if 0x50000 ≤ o ∧ o < 0x60000 then
    let g := tget {} p.geometry ((o - 0x50000) / 16)
    if o % 16 = 0 then geomA g else geomB g
  else if 0x40080 ≤ o ∧ o < 0x400C0 then leAt (seqBytes p.latched) (o - 0x40080) 8
  else match o with
  | 0x00 => at_ 12 t.droot.toNat + bitF 0 t.drootEn
  | 0x08 => at_ 16 t.ctxt.toNat + bitF 0 t.ctxtEn
  | 0x10 => t.fring.toNat
  | 0x18 => bitF 19 t.fIrqEn + at_ 16 t.fIrqLine.toNat + at_ 8 t.fLog2.toNat + bitF 1 t.ringErr + bitF 0 t.fEn
  | 0x20 => at_ 32 t.head.toNat + t.tail.toNat
  | 0x28 => at_ 32 t.recs.length + bitF 2 t.staged.isSome + bitF 1 (decide (512 ≤ t.recs.length))
              + bitF 0 (t.fEn && !ringRoom s && t.recs.any (fun r => r.number.isNone))
  | 0x30 => at_ 32 t.walks.toNat + t.coalesced.toNat
  | 0x10000 => s.str.pfTags.toNat
  | 0x10008 => at_ 43 s.str.chkD.toNat + bitF 0 s.str.chkDEn
  | 0x10010 => at_ 43 s.str.chkH.toNat + bitF 0 s.str.chkHEn
  | 0x10018 => at_ 32 s.str.pfDrop.toNat + s.str.pfDiscard.toNat
  | 0x10020 => at_ 32 s.str.chkVerified.toNat + s.str.chkFail.toNat
  | 0x40000 => at_ 16 p.arena0.toNat
  | 0x40008 => at_ 32 p.used0.length + p.size0.toNat
  | 0x40010 => if isK5 s then 0 else at_ 16 p.arena1.toNat
  | 0x40018 => if isK5 s then 0 else at_ 32 p.used1.length + p.size1.toNat
  | 0x40020 => at_ 16 p.info.toNat
  | 0x40028 => at_ 32 p.usedLpn.length + p.infoSize.toNat
  | 0x40030 => at_ 16 p.list.toNat
  | 0x40038 => at_ 32 p.usedBlk.length + p.listSize.toNat
  | 0x40040 => at_ 32 p.resv1.toNat + p.resv0.toNat
  | 0x40048 => at_ 32 p.demoteAge.toNat + at_ 16 p.scan.toNat + bitF 1 p.promoteEn
  | 0x40050 => at_ 32 p.promoted.toNat + p.demoted.toNat
  | 0x40058 => at_ 32 p.cow.toNat + p.cancelled.toNat
  | 0x40060 => bitF 17 p.staged.isSome + bitF 16 p.selBank + p.selIndex.toNat
  | _ => 0

/-- The Collective Engine (Tables 13.2, 13.3, 13.10), from 0x050_0000. -/
def readCle (s : State) (o : Nat) : Nat :=
  if isK5 s then 0
  else if o < 0x1000 then
    let g := getGroup s (o / 16)
    if o % 16 = 0 then at_ 32 g.epoch.toNat + at_ 16 g.spSn.toNat + at_ 8 g.rank.toNat + g.nm1.toNat
    else at_ 32 g.st.toNat + at_ 24 g.vc.toNat + bitF 23 g.ovl + bitF 22 g.mode + at_ 10 g.grant + g.quota.toNat
  else match o with
  | 0x1000 => at_ 32 s.cle.sharedFree + s.cle.granted
  | 0x1008 => at_ 32 s.cle.bufStall.toNat + s.cle.dup.toNat
  | 0x1010 => at_ 32 s.cle.chunkResend.toNat + at_ 16 s.cle.chunkFail.toNat + s.cle.digestFail.toNat
  | 0x1018 => s.cle.vcw.toNat
  | _ => 0

/-- The link (Table 14.6), from 0x058_0000. -/
def readLink (s : State) (o : Nat) : Nat :=
  let l := s.link
  match o with
  | 0x00 => at_ 48 l.peerNode.toNat + at_ 46 l.peerDie.toNat + at_ 40 l.sparesLeft + at_ 32 l.width + l.st.toNat
  | 0x08 => l.retired.toNat
  | 0x10 => l.lat.toNat
  | 0x18 => at_ 32 l.corrCw.toNat + l.uncorrCw.toNat
  | 0x20 => at_ 32 l.replays.toNat + at_ 16 l.retrains.toNat + l.misroute.toNat
  | 0x28 => l.node.toNat
  | _ => 0

/-- The cascade bridge (Table 14.7), from 0x060_0000. -/
def readCasc (s : State) (o : Nat) : Nat :=
  if isK5 s then 0
  else if o = 0 then
    at_ 8 ((List.range 4).foldl (fun a d => a + bitF d (decide ((getBridge s d).st = 2))) 0) + at_ 4 s.casc.mode.toNat + s.cascId.toNat
  else if 0x10 ≤ o ∧ o < 0x30 then
    let b := getBridge s ((o - 0x10) / 8)
    at_ 32 b.retries.toNat + at_ 4 b.modules + b.st.toNat
  else 0

/-- A core's block (Table 19.12). -/
def readCore (s : State) (k o : Nat) : Nat :=
  if !coreLive s k then 0 else
  let c := getCore s k
  if o = 0 then at_ 20 c.ctx.toNat + at_ 16 c.bind.toNat + busyCount s k
  else if 0x100 ≤ o ∧ o < 0x300 then (tget 0 c.bconf ((o - 0x100) / 8)).toNat
  else if 0x1000 ≤ o ∧ o < 0x1400 then
    let w := getWin c ((o - 0x1000) / 16)
    if o % 16 = 0 then at_ 48 w.baseU.toNat + at_ 32 w.lenU.toNat + at_ 16 w.acNum.toNat + w.acFirst.toNat
    else at_ 52 w.ctx.toNat + at_ 50 w.st.toNat + at_ 32 w.gen.toNat + w.late.toNat
  else if 0x2000 ≤ o ∧ o < 0x2400 then
    let v := getSlot c ((o - 0x2000) / 8)
    at_ 56 v.gen.toNat + at_ 54 v.st.toNat + v.landed.toNat
  else if 0x4000 ≤ o ∧ o < 0x5000 then fld (getSlot c ((o - 0x4000) / 32)).desc (64 * (o % 32 / 8) + 63) (64 * (o % 32 / 8))
  else 0

/-- A cluster's block (Tables 19.13 and 19.14). -/
def readCluster (s : State) (n o : Nat) : Nat :=
  if clustersEn s ≤ n then 0 else
  let c := getCluster s n
  match o with
  | 0 => at_ 44 c.spare + at_ 32 c.spareLines + (List.range 8).foldl (fun a k => a + at_ (4 * k) (c.map.getD k 0xF)) 0
  | 8 => at_ 32 c.hits.toNat + c.misses.toNat
  | _ => 0

/-- The 64-bit word at a register offset (R404 to R406); a read changes nothing (R405). -/
def readReg (s : State) (o : Nat) : W64 :=
  BitVec.ofNat 64 (
    if o % 8 ≠ 0 then 0
    else if o < 0x10000 then readGlobal s o
    else if o < 0x20000 then readMail s (o - 0x10000)
    else if o < 0x20000 + 8 * 392 then
      (let q := (o - 0x20000) / 8
       if queuePresent s q then at_ 32 (getQ s q).cplHead.toNat + (getQ s q).cmdTail.toNat else 0)
    else if 0x40000 ≤ o ∧ o < 0x40000 + 64 * 392 then readQueue s ((o - 0x40000) / 64) ((o - 0x40000) % 64)
    else if 0x100000 ≤ o ∧ o < 0x200000 then
      (let i := (o - 0x100000) / 16
       readCounter s (i / 1024) (i % 1024) (decide (o % 16 = 8)))
    else if 0x200000 ≤ o ∧ o < 0x210000 then readCoreCnt s ((o - 0x200000) / 0x400) ((o - 0x200000) % 0x400)
    else if 0x300000 ≤ o ∧ o < 0x340000 then bellWord (tget {} s.bell.slots ((o - 0x300000) / 32)) (o % 32 / 8)
    else if 0x400000 ≤ o ∧ o < 0x500000 then readMem s (o - 0x400000)
    else if 0x500000 ≤ o ∧ o < 0x580000 then readCle s (o - 0x500000)
    else if 0x580000 ≤ o ∧ o < 0x600000 then readLink s (o - 0x580000)
    else if 0x600000 ≤ o ∧ o < 0x700000 then readCasc s (o - 0x600000)
    else if 0x800000 ≤ o ∧ o < 0x1000000 then
      (let n := (o - 0x800000) / 0x100000
       let r := (o - 0x800000) % 0x100000
       if r < 0x80000 then readCore s (8 * n + r / 0x10000) (r % 0x10000)
       else if r < 0x90000 then readCluster s n (r - 0x80000) else 0)
    else 0)

/-! ### Selections and clears with rows of their own -/

/-- A write to KQ_UH_SEL latches the record (R360); a reserved unit code reads as zero. -/
def uhSelect (s : State) (v : W64) : State :=
  let u : W16 := BitVec.ofNat 16 v.toNat
  { s with uhSel := u, uhData := if unitValid u then getUnit s u else {} }

/-- A write to KQ_SEQT_SEL latches the entry of the selected bank (R226). -/
def seqtSelect (s : State) (v : W64) : State :=
  let i := fld v 15 0
  let inactive := v.getLsbD 16
  { s with pg := { s.pg with selIndex := BitVec.ofNat 16 i, selBank := inactive,
                             latched := tget {} (if inactive then s.pg.inactive else s.pg.active) i } }

/-- A write to KQ_PERF_CTRL (R383). -/
def perfFreeze (s : State) (v : W64) : State := { s with perf := { s.perf with freeze := v.getLsbD 0 } }

/-- A write to KQ_STR_CTRL: values above 512 are ignored (Table 12.4). -/
def pfTagsWrite (s : State) (v : W64) : State :=
  let n := fld v 9 0
  if n ≤ 512 then { s with str := { s.str with pfTags := BitVec.ofNat 10 n } } else s

/-- A write to KQ_BRTH_EVCNT clears each field written as zero (R66). -/
def evcntWrite (s : State) (v : W64) : State :=
  let b := s.breath
  { s with breath := { b with runtCnt := clearOnZero b.runtCnt (fld v 63 48), missedCnt := clearOnZero b.missedCnt (fld v 47 32)
                              strayCnt := clearOnZero b.strayCnt (fld v 31 16), overrunCnt := clearOnZero b.overrunCnt (fld v 15 0) } }

/-- A write of pending bits (R409): word 0 is KQ_IRQ_GSTAT, word k + 1 is KQ_IRQ_QPEND_k. -/
def irqClear (s : State) (word : Nat) (v : W64) : State :=
  if word = 0 then { s with irq := { s.irq with gstat := s.irq.gstat &&& ~~~(BitVec.ofNat 6 v.toNat) } }
  else if word ≤ 7 then
    { s with irq := { s.irq with qpend := s.irq.qpend &&& ~~~(BitVec.ofNat 392 (v.toNat <<< (64 * (word - 1)))) } }
  else s

/-! ### Writes -/

/-- W1C bits of KQ_BRTH_STAT. -/
def brthStatWrite (s : State) (v : W64) : State :=
  let b := s.breath
  { s with breath := { b with stray := w1c b.stray (v.getLsbD 4), renum := w1c b.renum (v.getLsbD 3)
                              overrun := w1c b.overrun (v.getLsbD 2), miss := w1c b.miss (v.getLsbD 1) } }

def bellStatWrite (s : State) (v : W64) : State :=
  { s with bell := { s.bell with dropped := clearOnZero s.bell.dropped (fld v 31 16), irqEn := v.getLsbD 2
                                 faultPend := w1c s.bell.faultPend (v.getLsbD 0) } }

def sensLimWrite (s : State) (v : W64) : State :=
  { s with sens := { s.sens with
      tAlarm := BitVec.ofNat 16 (fld v 63 48), vLow := BitVec.ofNat 16 (fld v 47 32), vHigh := BitVec.ofNat 16 (fld v 31 16)
      vHit := w1c s.sens.vHit (v.getLsbD 1), tHit := w1c s.sens.tHit (v.getLsbD 0) } }

def irqGenWrite (s : State) (v : W64) : State :=
  { s with irq := { s.irq with sensorEn := v.getLsbD 4, capacityEn := v.getLsbD 2, mailboxEn := v.getLsbD 1, breathEn := v.getLsbD 0 } }

def irqGmapWrite (s : State) (v : W64) : State :=
  let l := fun (lo : Nat) => BitVec.ofNat 3 (fld v (lo + 2) lo)
  { s with irq := { s.irq with sensorLine := l 16, bellLine := l 12, capacityLine := l 8, mailboxLine := l 4, breathLine := l 0 } }

/-- Global registers with writable fields. -/
def writeGlobal (s : State) (o : Nat) (v : W64) : State :=
  if 0x880 ≤ o ∧ o ≤ 0x8B0 then irqClear s ((o - 0x880) / 8 + 1) v
  else match o with
  | 0x110 => brthStatWrite s v
  | 0x118 => evcntWrite s v
  | 0x300 => { s with capev := { s.capev with pending := w1c s.capev.pending (v.getLsbD 0) } }
  | 0x310 => uhSelect s v
  | 0x408 => bellStatWrite s v
  | 0x500 => { s with mute := { s.mute with runt := clearOnZero s.mute.runt (fld v 15 8) } }
  | 0x600 => perfFreeze s v
  | 0x608 => { s with perf := { s.perf with ac := clearOnZero s.perf.ac v.toNat } }
  | 0x708 => if v = 0 then { s with sens := { s.sens with vRestart := true } } else s
  | 0x710 => { s with sens := { s.sens with fabOut := w1c s.sens.fabOut (v.getLsbD 1), arithOut := w1c s.sens.arithOut (v.getLsbD 0) } }
  | 0x718 => sensLimWrite s v
  | 0x800 => irqClear s 0 v
  | 0x808 => irqGenWrite s v
  | 0x810 => irqGmapWrite s v
  | _ => s

/-- The host slot (Table 15.6). -/
def writeMail (s : State) (o : Nat) (v : W64) : State :=
  match o with
  | 0x00 => modMail s .host (fun m => { m with arg0 := v })
  | 0x08 => modMail s .host (fun m => { m with arg1 := v })
  | 0x10 => modMail s .host (fun m => { m with arg2 := v })
  | 0x18 => modMail s .host (fun m => { m with arg3 := v })
  | 0x20 => requestWrite s .host (BitVec.ofNat 16 (fld v 31 16)) (fld v 7 0)
  | 0x28 =>
    let s1 := if v.getLsbD 2 then modMail s .host (fun m => { m with lost := false }) else s
    if v.getLsbD 1 then doneClear s1 .host else s1
  | _ => s

/-- A queue's configuration block; the bases are ignored while the queue is not closed (R34). -/
def writeQueue (s : State) (q o : Nat) (v : W64) : State :=
  if !queuePresent s q then s else
  let c := getQ s q
  match o with
  | 0x00 => qctrl s q v
  | 0x08 => if c.st = 0 then setQ s q { c with cmdBase := BitVec.ofNat 56 v.toNat } else s
  | 0x10 => if c.st = 0 then setQ s q { c with cplBase := BitVec.ofNat 56 v.toNat } else s
  | 0x20 =>
    let s1 := if v.getLsbD 16 then setQ s q { c with dbErr := false } else s
    if v.getLsbD 17 then writeRecord (cplErrClear s1 q) q else s1
  | 0x28 => if v = 0 then setQ s q { c with short := 0 } else s
  | _ => s

def writeCoreCnt (s : State) (k o : Nat) (v : W64) : State :=
  if !coreLive s k || v ≠ 0 then s
  else if o < 0x140 then modCore s k (fun c => { c with stalls := tput 0 c.stalls (o / 8) 0 })
  else if o = 0x208 then modCore s k (fun c => { c with waitTmo := 0, aborts := 0, cancelled := 0 })
  else s

/-- Every queue of the Paging Engine reads STATE closed (R206). -/
def pgClosed (s : State) : Bool := s.queues.all (fun p => engineOf p.1 ≠ 1 || p.2.st = 0)

/-- The region registers of the Paging Engine. -/
def writeRegion (s : State) (o : Nat) (v : W64) : State :=
  if !pgClosed s then s else
  let b : BitVec 36 := BitVec.ofNat 36 (fld v 51 16)
  let n : W32 := BitVec.ofNat 32 (fld v 31 0)
  match o with
  | 0x00 => { s with pg := { s.pg with arena0 := b } }
  | 0x08 => { s with pg := { s.pg with size0 := n } }
  | 0x10 => if isK5 s then s else { s with pg := { s.pg with arena1 := b } }
  | 0x18 => if isK5 s then s else { s with pg := { s.pg with size1 := n } }
  | 0x20 => { s with pg := { s.pg with info := b } }
  | 0x28 => if n.toNat ≤ 2 ^ 28 then { s with pg := { s.pg with infoSize := n } } else s
  | 0x30 => { s with pg := { s.pg with list := b } }
  | 0x38 => { s with pg := { s.pg with listSize := n } }
  | _ => s

def writeGeom (s : State) (x : Nat) (a : Bool) (v : W64) : State :=
  let f := fun (g : Geometry) =>
    if a then { g with kvHeads := BitVec.ofNat 16 (fld v 63 48), headDim := BitVec.ofNat 9 (fld v 40 32)
                       picFmt := BitVec.ofNat 8 (fld v 23 16), srcFmt := BitVec.ofNat 8 (fld v 15 8), kvFmt := BitVec.ofNat 8 (fld v 7 0) }
    else { g with mirror := v.getLsbD 21, log2Blk := BitVec.ofNat 5 (fld v 20 16), shN := BitVec.ofNat 8 (fld v 15 8)
                  shIdx := BitVec.ofNat 8 (fld v 7 0) }
  { s with pg := { s.pg with geometry := tmod {} s.pg.geometry x f } }

def policyWrite (s : State) (v : W64) : State :=
  { s with pg := { s.pg with demoteAge := BitVec.ofNat 16 (fld v 47 32), scan := BitVec.ofNat 16 (fld v 31 16), promoteEn := v.getLsbD 1 } }

/-- Translation, streaming and paging, from 0x040_0000 (R232, R266, R206). -/
def writeMemRegs (s : State) (o : Nat) (v : W64) : State :=
  if 0x50000 ≤ o ∧ o < 0x60000 then writeGeom s ((o - 0x50000) / 16) (o % 16 = 0) v
  else if 0x40000 ≤ o ∧ o < 0x40040 then writeRegion s (o - 0x40000) v
  else match o with
  | 0x00 => if allClosed s then { s with tr := { s.tr with droot := BitVec.ofNat 44 (fld v 55 12), drootEn := v.getLsbD 0 } } else s
  | 0x08 => if allClosed s then { s with tr := { s.tr with ctxt := BitVec.ofNat 40 (fld v 55 16), ctxtEn := v.getLsbD 0 } } else s
  | 0x10 => if s.tr.fEn then s else { s with tr := { s.tr with fring := BitVec.ofNat 56 v.toNat } }
  | 0x18 => fctrlWrite s v
  | 0x20 => { s with tr := { s.tr with head := BitVec.ofNat 32 (fld v 63 32) } }
  | 0x30 => if v = 0 then { s with tr := { s.tr with walks := 0, coalesced := 0 } } else s
  | 0x10000 => pfTagsWrite s v
  | 0x10008 => if allClosed s then { s with str := { s.str with chkD := BitVec.ofNat 9 (fld v 51 43), chkDEn := v.getLsbD 0 } } else s
  | 0x10010 => if allClosed s then { s with str := { s.str with chkH := BitVec.ofNat 9 (fld v 51 43), chkHEn := v.getLsbD 0 } } else s
  | 0x10018 => if v = 0 then { s with str := { s.str with pfDrop := 0, pfDiscard := 0 } } else s
  | 0x10020 => if v = 0 then { s with str := { s.str with chkVerified := 0, chkFail := 0 } } else s
  | 0x40048 => policyWrite s v
  | 0x40050 => if v = 0 then { s with pg := { s.pg with demoted := 0, promoted := 0 } } else s
  | 0x40058 => if v = 0 then { s with pg := { s.pg with cancelled := 0, cow := 0 } } else s
  | 0x40060 => seqtSelect s v
  | _ => s

def writeLinkRegs (s : State) (o : Nat) (v : W64) : State :=
  if v ≠ 0 then s else
  match o with
  | 0x18 => { s with link := { s.link with corrCw := 0, uncorrCw := 0 } }
  | 0x20 => { s with link := { s.link with replays := 0, retrains := 0, misroute := 0 } }
  | _ => s

def writeCleRegs (s : State) (o : Nat) (v : W64) : State :=
  if v ≠ 0 || isK5 s then s else
  match o with
  | 0x1008 => { s with cle := { s.cle with bufStall := 0, dup := 0 } }
  | 0x1010 => { s with cle := { s.cle with chunkResend := 0, chunkFail := 0, digestFail := 0 } }
  | _ => s

/-- RETRIES of a bridge port: a write of zero to the field clears it. -/
def writeCascRegs (s : State) (o : Nat) (v : W64) : State :=
  if isK5 s || !(decide (0x10 ≤ o ∧ o < 0x30)) then s else
  let f := fun (b : Bridge) => { b with retries := clearOnZero b.retries (fld v 63 32) }
  { s with casc := { s.casc with ports := tmod {} s.casc.ports ((o - 0x10) / 8) f } }

def writeCoreRegs (s : State) (k o : Nat) (v : W64) : State :=
  if !coreLive s k then s
  else if 0x100 ≤ o ∧ o < 0x300 then
    (if v = 0 then modCore s k (fun c => { c with bconf := tput 0 c.bconf ((o - 0x100) / 8) 0 }) else s)
  else if decide (0x1000 ≤ o ∧ o < 0x1400) && o % 16 = 8 then
    modCore s k (fun c => { c with windows := tmod {} c.windows ((o - 0x1000) / 16) (fun w => { w with late := clearOnZero w.late (fld v 15 0) }) })
  else s

def writeClusterRegs (s : State) (n o : Nat) (v : W64) : State :=
  if clustersEn s ≤ n || o ≠ 8 || v ≠ 0 then s
  else setCluster s n { getCluster s n with hits := 0, misses := 0 }

/-- A write of the register port (R393, R404 to R406): a 32-bit write, or one that is not 8-byte aligned, has no effect. -/
def writeReg (s : State) (o : Nat) (size64 : Bool) (v : W64) : State :=
  if !size64 || o % 8 ≠ 0 then s
  else if o < 0x10000 then writeGlobal s o v
  else if o < 0x20000 then writeMail s (o - 0x10000) v
  else if o < 0x20000 + 8 * 392 then doorbell s ((o - 0x20000) / 8) true v
  else if 0x40000 ≤ o ∧ o < 0x40000 + 64 * 392 then writeQueue s ((o - 0x40000) / 64) ((o - 0x40000) % 64) v
  else if 0x200000 ≤ o ∧ o < 0x210000 then writeCoreCnt s ((o - 0x200000) / 0x400) ((o - 0x200000) % 0x400) v
  else if 0x400000 ≤ o ∧ o < 0x500000 then writeMemRegs s (o - 0x400000) v
  else if 0x500000 ≤ o ∧ o < 0x580000 then writeCleRegs s (o - 0x500000) v
  else if 0x580000 ≤ o ∧ o < 0x600000 then writeLinkRegs s (o - 0x580000) v
  else if 0x600000 ≤ o ∧ o < 0x700000 then writeCascRegs s (o - 0x600000) v
  else if 0x800000 ≤ o ∧ o < 0x1000000 then
    (let n := (o - 0x800000) / 0x100000
     let r := (o - 0x800000) % 0x100000
     if r < 0x80000 then writeCoreRegs s (8 * n + r / 0x10000) (r % 0x10000) v
     else if r < 0x90000 then writeClusterRegs s n (r - 0x80000) v else s)
  else s

/-! ### Meanings -/

def execRegisterWrite (offset : Nat) (size64 : Bool) (value : W64) (s : State) : Host.Outcome State Fault Refusal :=
  live s (fun s => writeReg s offset size64 value)
def execSeqtSelect (value : W64) (s : State) : Host.Outcome State Fault Refusal := live s (fun s => seqtSelect s value)
def execUnitHistorySelect (value : W64) (s : State) : Host.Outcome State Fault Refusal := live s (fun s => uhSelect s value)
def execPerfFreeze (value : W64) (s : State) : Host.Outcome State Fault Refusal := live s (fun s => perfFreeze s value)
def execPfTagsWrite (value : W64) (s : State) : Host.Outcome State Fault Refusal := live s (fun s => pfTagsWrite s value)
def execBrthEvcntWrite (value : W64) (s : State) : Host.Outcome State Fault Refusal := live s (fun s => evcntWrite s value)
def execIrqPendingClear (word : Nat) (value : W64) (s : State) : Host.Outcome State Fault Refusal := live s (fun s => irqClear s word value)

end Sys2Proof.Machine
end

