-- ==== Sys2Proof/Machine/Boundary.lean ====
section
/-! DEFINITION. A breath boundary (R31 to R36, R53, R64, R72, Table 3.3): what it changes on the die, in order. Changes
that have rows of their own (QUEUE_CLOSED, BANK_SWAP, POOL_RETURN, PAGE_SWITCH, TASK_OVERRUN, REFOLD and others) follow as
commands at the same breath. -/

namespace Sys2Proof.Machine

/-- Apply a function to every entry of a table, keeping the canonical form. -/
def tmapAll {α : Type} [DecidableEq α] (d : α) (f : α → α) (t : Tab α) : Tab α :=
  t.filterMap (fun p => if f p.2 = d then none else some (p.1, f p.2))

/-! ### Breath number (R53, R64) -/

/-- The number that the boundary opens: one more, or an announced marker's when that is larger. -/
def nextNum (b : Breath) : W64 :=
  match b.announced with
  | some m => if (b.num + 1).toNat < m.b.toNat then m.b else b.num + 1
  | none => b.num + 1

/-- The announced marker's number differs from the next one. -/
def renumbers (b : Breath) : Bool :=
  match b.announced with
  | some m => m.b ≠ b.num + 1
  | none => false

/-- The breath number of the new breath; adopting a larger one is logged. A marker stays announced until a boundary is taken, be it
one from the timer, when its pulse was a stray or took none: the model's choice (log 54). -/
def takeNum (s : State) (fromTimer : Bool) : State :=
  let b := s.breath
  let s1 := { s with breath := { b with
    num := nextNum b, renum := b.renum || renumbers b, announced := none, started := true, fromTimer := fromTimer, late := 0 } }
  match b.announced with
  | some m => if (b.num + 1).toNat < m.b.toNat then bellRaise s1 0x0011 0 0 0 m.b.toNat else s1
  | none => s1

/-! ### Queues at a boundary (R31, R32, R34 to R36) -/

/-- Accepted items of a queue that have not begun executing; a collective that waits for buffer has not (R289). -/
def unbegun (s : State) (i : Item) : Bool :=
  i.stage = .accepted || (i.stage = .executing && s.cle.ops.any (fun o => o.q = i.q && o.idx = i.idx && !o.kind && !o.begun))

/-- A collective that waits for buffer leaves the engine with nothing sent and nothing kept. -/
def dropWaitingOp (s : State) (q : Nat) (idx : W32) : State :=
  match opOf s q idx with
  | none => s
  | some o =>
    let g := getGroup s o.group
    let s1 := { s with cle := { s.cle with
      ops := s.cle.ops.filter (fun x => !(x.q = q && x.idx = idx))
      sharedFree := s.cle.sharedFree + (g.grant - 1)
      granted := s.cle.granted - g.grant } }
    setGroup s1 o.group { g with grant := 0, st := 1 }

/-- An item that has not begun completes ABORTED; it consumes no epoch (R283). Its record carries the queue's NEG_VER, since it
ran under no version (log 77). -/
def abortUnbegun (s : State) (i : Item) : State :=
  let s1 := modItem (dropWaitingOp s i.q i.idx) i.q i.idx (fun x => { x with checked := false, ver := (getQ s i.q).negVer })
  endNow s1 i.q i.idx 0x25 0

/-- A reissue that waits on a record or on a full outstanding table. -/
def reissueWaits (r : Reissue) : Bool := !r.keys.isEmpty || r.full

/-- An executing item that waits only on fault records or to retry after a full table (R248): it holds itself, or every
row still to drain lies in a task that waits. -/
def waitsOnFaults (s : State) (i : Item) : Bool :=
  let rs := s.reissues.filter (fun r => isItem r.task.q r.task.idx i && reissueWaits r)
  i.stage = .executing && (!i.holdKeys.isEmpty || i.retryFull ||
    (!rs.isEmpty && !s.tasks.any (fun t => isItem t.q t.idx i) &&
      (List.range i.nRows).all (fun n => i.drained.contains n || rs.any (fun r => (taskRows r.task.shape).contains n))))

/-- A queue whose EN was cleared begins closing (R36, R248). -/
def beginClosing (s : State) (q : Nat) : State :=
  let s1 := modQ s q (fun v => { v with closing := true })
  let s2 := (s1.items.filter (fun i => i.q = q && unbegun s1 i)).foldl abortUnbegun s1
  (s2.items.filter (fun i => i.q = q && waitsOnFaults s2 i)).foldl (fun st i => endItem st q i.idx 0x21 (i.firstFault.getD 0).toNat) s2

def closings (s : State) : State :=
  ((s.queues.filter (fun p => p.2.st ≠ 0 && !p.2.en && !p.2.closing)).map (fun p => p.1)).foldl beginClosing s

/-- The checks of R34. -/
def enableLegal (v : Queue) : Bool :=
  let n := v.log2.toNat
  decide (1 ≤ n ∧ n ≤ 16) && v.cmdBase.toNat % 2 ^ (6 + n) = 0 && v.cplBase.toNat % 2 ^ (5 + n) = 0

/-- A closed queue with EN = 1 is enabled, or refused (R34, R35). -/
def enableQueue (s : State) (q : Nat) : State :=
  let v := getQ s q
  if enableLegal v then
    setQ s q { v with st := 1, accHead := 0, cplTail := 0, cmdTail := 0, cplHead := 0, negVer := 0, closing := false }
  else setDbErr (setQ s q { v with en := false }) q

def enables (s : State) (qs : List Nat) : State := qs.foldl enableQueue s

/-- A queue that admits commands (R31). -/
def admits (v : Queue) : Bool := (v.st = 1 || v.st = 2) && !v.closing

/-- Commands admitted and not yet copied. -/
def uncopied (s : State) (q : Nat) : Nat := (s.items.filter (fun i => i.q = q && i.stage = .admitted)).length

/-- Free item-store entries (R32). -/
def storeFree (s : State) : Nat := 8192 - s.items.length

/-- A of R31, counted from the next command to admit. -/
def admitCount (s : State) (q free : Nat) : Nat :=
  let v := getQ s q
  let head := v.accHead + BitVec.ofNat 32 (uncopied s q)
  let a := min (cdiff v.cmdTail head) (min (2 ^ v.log2.toNat - cdiff head v.cplHead) free)
  if v.admitMax = 0 then a else min a v.admitMax.toNat

/-- The next `n` commands of a queue become accepted items; an item behind another of its queue that is not completed says so
to a NEGOTIATE (R47). -/
def newItems (s : State) (q n : Nat) : List Item :=
  let head := (getQ s q).accHead + BitVec.ofNat 32 (uncopied s q)
  (List.range n).map (fun k =>
    { q := q, idx := head + BitVec.ofNat 32 k, behind := decide (0 < k) || s.items.any (fun i => i.q = q) })

/-- The read of a command from its ring slot, under context 0x000 and a tag of the control cores (R25, R33, R255). -/
def ringRead (v : Queue) (q : Nat) (idx : W32) : Req :=
  { tag := none, pool := 67, owner := .command q idx, write := false
    pa := v.cmdBase.toNat + 64 * (idx.toNat % 2 ^ v.log2.toNat), len := 64, ctx := 0, addr := 0 }

/-- Serve one queue: its commands as far as the store reaches, the rest counted in SHORT (R32). -/
def admitQueue (want : Nat → Nat) (s : State) (q : Nat) : State :=
  let n := min (want q) (storeFree s)
  let new := newItems s q n
  let s1 := new.foldl (fun st i => issueReq st (ringRead (getQ s q) q i.idx)) { s with items := s.items ++ new }
  if n < want q then modQ s1 q (fun v => { v with short := satAdd v.short (want q - n) }) else s1

/-- Queues in the order of R70 with N = 392. -/
def queueOrder (s : State) (qs : List Nat) : List Nat := sortBy (fun q => (q + 392 - s.breath.num.toNat % 392) % 392) qs

def admission (s : State) : State :=
  if !running s then s else
  let qs := (s.queues.filter (fun p => admits p.2)).map (fun p => p.1)
  let free := storeFree s
  (queueOrder s qs).foldl (admitQueue (fun q => admitCount s q free)) s

/-- Closings, admission and enables; all wait from a warm reset until STATE reads RUNNING (R341). -/
def queueWork (s : State) : State :=
  if s.reed.warm then s else
  let s1 := closings s
  let qs := (s1.queues.filter (fun p => p.2.st = 0 && p.2.en)).map (fun p => p.1)
  enables (admission s1) qs

/-! ### Counters and limits that change at a boundary -/

/-- Replay state (Table 3.8): the drained rows of every uncommitted item. -/
def recordReplay (s : State) : State := { s with items := s.items.map (fun i => { i with replay := i.drained }) }

/-- Budgets and idle slots restart (R69, R159), old layouts end with their last task (R327), sleeps age (R192). -/
def coreWork (s : State) : State :=
  let f := fun (p : Nat × Core) => (p.1, { p.2 with budget := 0, tse := false, taken := decide (busyCount s p.1 ≠ 0), old := if busyCount s p.1 = 0 then none else p.2.old })
  { s with cores := (s.cores.map f).filter (fun p => p.2 ≠ {})
           tasks := s.tasks.map (fun t => match t.wait with
             | some w => { t with wait := some { w with boundaries := w.boundaries + 1 } }
             | none => t) }

/-- The smallest V_c. -/
def leastCounter (l : List Nat) : Nat := (l.tail).foldl min (l.headD 0)

/-- V_c less the smallest (R296). -/
def levelCounters (l : List Nat) : List Nat := l.map (fun v => v - leastCounter l)

/-- Consecutive breaths over LANE_LIMIT, lane by lane (R307). -/
def laneBreaths (l : Link) : Link :=
  let high := (l.corrected.filter (fun p => decide (l.laneLimit.toNat < p.2))).map (fun p =>
    (p.1, 1 + ((l.overLimit.find? (fun x => x.1 = p.1)).map (fun x => x.2)).getD 0))
  { l with overLimit := high, corrected := [] }

/-- Boundaries at which no bridge of this die reaches another die of the package (R356). -/
def bridgeBreaths (c : Casc) : Casc :=
  let down := (c.ports.filter (fun p => p.2.st = 1 || p.2.st = 3)).map (fun p =>
    (p.1, 1 + ((c.unreachable.find? (fun x => x.1 = p.1)).map (fun x => x.2)).getD 0))
  { c with unreachable := down }

/-- An operation waits on a down link or a lost die (R357). -/
def exchangeBlocked (s : State) (o : CleOp) : Bool :=
  let ms := (getGroup s o.group).members
  (s.link.st = 0 && ms.any (fun m => m.node ≠ s.link.node))
    || ms.any (fun m => m.node = s.link.node && s.casc.lost.contains m.die.toNat)

def exchangeBreaths (s : State) : State :=
  let f := fun (i : Item) => match opOf s i.q i.idx with
    | some o => if i.stage = .executing && o.begun then { i with exchangeWait := if exchangeBlocked s o then i.exchangeWait + 1 else 0 } else i
    | none => i
  { s with items := s.items.map f }

/-- The limit of prefetch tags, the performance freeze, and the window of corrected events (R256, R383, Table 16.8). -/
def limitWork (s : State) : State :=
  { s with
    str := { s.str with pfLimit := s.str.pfTags }
    perf := { s.perf with frozen := s.perf.freeze }
    history := if s.breath.num.toNat % 65536 = 0 then tmapAll {} (fun r => { r with ceWin := 0 }) s.history else s.history
    cle := { s.cle with vctr := levelCounters s.cle.vctr }
    link := { laneBreaths s.link with vLast := s.link.vLast - leastCounter s.cle.vctr }
    casc := bridgeBreaths s.casc
    reed := { s.reed with pending := s.reed.pending.map (fun l => { l with waited := l.waited + 1 }) } }

/-- A cluster whose reset ended in an earlier breath takes tasks again (R351). -/
def endClusterResets (s : State) : State :=
  let f := fun (c : Cluster) => if c.resetAt.isSome then { c with resetting := false, resetAt := none } else c
  { s with clusters := s.clusters.map (fun p => (p.1, f p.2)) }

/-- Everything that one boundary does. -/
def boundary (s : State) (fromTimer : Bool) : State :=
  let s1 := recordReplay (takeNum s fromTimer)
  let s2 := exchangeBreaths (limitWork (endClusterResets (coreWork s1)))
  let s3 := applyBinds (restartHalos s2)
  let s4 := queueWork s3
  { promoteWanted (demotionScan (bufferGrants s4)) with edge := true }

end Sys2Proof.Machine
end

