-- ==== Sys2Proof/Machine/Breath.lean ====
section
/-! DEFINITION. The breath pins, the breath timer, and breath markers (R56 to R65, R310, R413). Times in ps count from the
last restart of the breath timer, with REF_PER_US cycles of CLK_REF as one µs (R54). -/

namespace Sys2Proof.Machine

/-- P in ps. -/
def periodPs (s : State) : Nat := s.breath.period.toNat * 1000000
/-- GUARD in ps. -/
def guardPs (s : State) : Nat := s.breath.guard.toNat * 10000

def isMaster (s : State) : Bool := s.cascId = 0

/-! ### Pulses (R57, R58, R60) -/

/-- A pulse is ignored after an accepted one until 16 low fc were seen. -/
def pulseLocked (s : State) (lowFc : Nat) : Bool := s.breath.pulseLock && decide (lowFc < 16)

/-- A pulse that falls before its 16th high fc. -/
def runtPulse (s : State) : State :=
  { s with breath := { s.breath with pulseLock := false, runtCnt := satAdd s.breath.runtCnt 1 } }

/-- An accepted pulse of a synchronised die: a boundary inside E ± GUARD, with LAST_ERR; else a stray (R58). -/
def syncPulse (s : State) (at_ : Nat) : State :=
  let diff : Int := (at_ : Int) - periodPs s
  if diff.natAbs ≤ guardPs s then
    boundary { s with breath := { s.breath with lastErr := lastErr diff } } false
  else countStray s

/-- An accepted pulse in free-run (R60). -/
def freeRunPulse (s : State) (at_ : Nat) : State :=
  if s.breath.fromTimer && decide (at_ ≤ guardPs s) then { s with breath := { s.breath with freeRun := false, fromTimer := false, late := at_ } }
  else if periodPs s ≤ 2 * at_ then boundary { s with breath := { s.breath with freeRun := false } } false
  else countStray s

/-- BREATH_IN_PULSE: low fc before the rise, high fc, and when its 16th high fc falls. -/
def breathPulse (s : State) (lowFc highFc at_ : Nat) : State :=
  if pulseLocked s lowFc then s
  else if highFc < 16 then runtPulse s
  else
    let s1 := { s with breath := { s.breath with pulseLock := true } }
    if s.breath.freeRun then freeRunPulse s1 at_
    else if !s.breath.started then boundary s1 false
    else syncPulse s1 at_

/-- Entry into free-run (R59): its flags, its count, its event and its interrupt. E counts from the previous boundary, and
follows the pulse that restarted the timer, `late` ps after it (R60). -/
def enterFreeRun (s : State) (late : Nat) : State :=
  let e := (s.breath.period.toNat * 1000000 + late) * s.breath.refPerUs.toNat / 1000000
  let s1 := { s with breath := { s.breath with freeRun := true, miss := true, missedCnt := satAdd s.breath.missedCnt 1 } }
  pendG (bellRaise s1 0x0010 0 0 0 e) 0

/-- BREATH_MISS: no pulse by E + GUARD. A die other than the master has no expected time before its first boundary. -/
def breathMiss (s : State) : State :=
  if s.breath.freeRun || !(s.breath.started || isMaster s) then s else enterFreeRun (boundary s true) s.breath.late

/-- FREE_RUN_BOUNDARY. -/
def freeRunBoundary (s : State) : State := if s.breath.freeRun then boundary s true else s

/-- BREATH_PULSE_TIMER: a master with SRC = TIMER raises BREATH_OUT. -/
def pulseTimer (s : State) : State := if isMaster s && s.breath.src = 0 then send s .breathOut else s

/-! ### Markers (R62, R64, R310) -/

/-- The marker leaves through this die's link port, when the image marks it MARKER_OUT: one more link. -/
def markerOut (s : State) (m : Marker) : State :=
  let m' := { m with hops := m.hops + 1 }
  if s.link.markerOut then sendControl (send s (.marker .link m')) 0 (markerFlit m') else s

/-- The marker crosses the bridge to the other dies of the package. The receiving die subtracts its transit, with the residence on
this die (Table 14.8). -/
def markerBridge (s : State) (m : Marker) : State := (bridgesUp s).foldl (fun st d => send st (.marker (.bridge d) m)) s

/-- MARKER_SEND on the root chip's master die. -/
def markerSend (s : State) (residence : Nat) : State :=
  if !isMaster s || s.breath.src ≠ 0 then s else
  let m : Marker := { b := s.breath.num + 1, remaining := 256000, hops := 0 }
  markerBridge (markerOut s { m with remaining := m.remaining - residence }) m

/-- A die of a following chip holds a marker; the master, which drives BREATH_OUT from it, reports its hop count in the 4 bits of HOPS
(modulo 16: the model's choice, log 55). -/
def followMarker (s : State) (m : Marker) : State :=
  { s with breath := { s.breath with marker := some m, hops := if isMaster s then BitVec.ofNat 4 m.hops.toNat else s.breath.hops } }

/-- This die is the one that UP_DIE names on a chip that is not the timing root. -/
def isUpDie (s : State) : Bool := s.breath.upDie = s.cascId && s.breath.src ≠ 0

/-- The die takes markers from its own link port, or over the bridge from the die that does: UP_DIE, or die 0 of the timing root's
chip (R62, R310, log 55). -/
def takesFrom (s : State) (d : Nat) : Bool :=
  if isMaster s then s.breath.src = 1 && s.breath.upDie.toNat = d else !isUpDie s && (d = 0 || s.breath.upDie.toNat = d)

/-- BREATH_MARKER. `residence` is, from the link, the time to the copy that leaves by the link port; from the bridge, the transit with
the residence on both dies. -/
def markerArrives (s : State) (port : MarkerPort) (b : W64) (remaining : Int) (hops : Byte) (residence : Nat) : State :=
  match port with
  | .link =>
    let m : Marker := { b := b, remaining := remaining - s.link.lat.toNat, hops := hops }
    if !isUpDie s || decide (m.remaining < 0) then countStray s
    else
      let s1 := followMarker s m
      markerBridge (markerOut s1 { m with remaining := m.remaining - residence }) m
  | .bridge d =>
    let m : Marker := { b := b, remaining := remaining - residence, hops := hops }
    if m.remaining < 0 || !takesFrom s d then countStray s
    else markerOut (if s.breath.upDie.toNat = d then followMarker s m else s) m

/-- MARKER_COUNTDOWN: a held marker reaches zero; the next boundary is the one it announced, and a following master drives
BREATH_OUT for it. -/
def markerCountdown (s : State) : State :=
  match s.breath.marker with
  | some m =>
    let s1 := { s with breath := { s.breath with marker := none, announced := some m } }
    if !isMaster s then s1 else if s.breath.src = 1 then send s1 .breathOut else s
  | none => s

/-! ### Meanings -/

def execBreathInPulse (lowFc highFc atPs : Nat) (s : State) : Host.Outcome State Fault Refusal :=
  live s (fun s => breathPulse s lowFc highFc atPs)
def execBreathMiss (s : State) : Host.Outcome State Fault Refusal := live s breathMiss
def execFreeRunBoundary (s : State) : Host.Outcome State Fault Refusal := live s freeRunBoundary
def execBreathPulseTimer (s : State) : Host.Outcome State Fault Refusal := live s pulseTimer
def execMarkerSend (residence : Nat) (s : State) : Host.Outcome State Fault Refusal := live s (fun s => markerSend s residence)
def execBreathMarker (port : MarkerPort) (b : W64) (remaining : Int) (hops : Byte) (residence : Nat) (s : State) :
    Host.Outcome State Fault Refusal := live s (fun s => markerArrives s port b remaining hops residence)
def execMarkerCountdown (s : State) : Host.Outcome State Fault Refusal := live s markerCountdown

end Sys2Proof.Machine
end

