-- ==== Sys2Proof/Machine/Faults.lean ====
section
/-! DEFINITION. Fault handling (chapter 16): replay, resets, detections, losses of a die or a link, the unit history's
copies, test packs and memory scrubs. -/

namespace Sys2Proof.Machine

/-! ### Replay (R347 to R349, Table 16.3) -/

/-- A Paging Engine item starts from its beginning, since nothing of it was applied; an application under way is completed (R210). -/
def restartPaging (s : State) (i : Item) : State :=
  if i.applying ≠ 0 then recoverApply s i.q i.idx else
  modItem (dropMigs s i.q i.idx) i.q i.idx (fun x => { x with
    staged := [], issued := false, begun := false, holdKeys := [], retryFull := false, ready := none, replayed := true })

/-- Rows that the replay state does not record as drained are to be done again. -/
def replayRows (s : State) (i : Item) : State :=
  let again := !i.issued || decide (i.drained ≠ i.replay)
  modItem s i.q i.idx (fun x => { x with
    drained := x.replay, issued := x.issued && decide (x.drained = x.replay)
    holdKeys := [], retryFull := false, ready := none, replayed := x.replayed || again })

/-- A test pack starts from its beginning. -/
def restartTest (s : State) (i : Item) : State :=
  modItem s i.q i.idx (fun x => { x with
    ran := [], slots := [], holdKeys := [], retryFull := false, ready := none, replayed := x.replayed || !x.ran.isEmpty })

/-- An item with an operation open rejoins (R287); one that still waits for buffer has nothing to rejoin. -/
def rejoinItem (s : State) (i : Item) : State :=
  match opOf s i.q i.idx with
  | none => s
  | some o => if o.begun || o.kind then rejoin (modItem s i.q i.idx (fun x => { x with holdKeys := [], retryFull := false, ready := none })) o else s

/-- Replay of one executing item after a reset that reaches it. -/
def replayItem (s : State) (i : Item) : State :=
  if i.stage ≠ .executing then s else
  match engineOf i.q with
  | 1 => restartPaging s i
  | 2 => rejoinItem s i
  | 4 => restartTest s i
  | _ => rejoinItem (replayRows s i) i

/-! ### Cluster and warm resets (R341, R351, R391, Tables 15.14 and 16.4) -/

/-- The items that a cluster reset reaches: those with a task on it, and by Table 16.3 the Paging and Collective
Engines' items. -/
def clusterItems (s : State) (n : Nat) : List Item :=
  s.items.filter (fun i => engineOf i.q = 1 || engineOf i.q = 2 || s.tasks.any (fun t => isItem t.q t.idx i && t.core / 8 = n))

/-- A cluster reset: tasks, slots and windows of its cores go, memories are scrubbed, the cache is invalidated; it takes
no task until its end. -/
def clusterReset (s : State) (n : Nat) (u : W16) : State :=
  let cores := (List.range 8).map (fun c => 8 * n + c)
  let hit := clusterItems s n
  let tasks := s.tasks.filter (fun t => t.core / 8 = n)
  let s1 := hit.foldl replayItem s
  let s2 := cores.foldl (fun st k => scrubCore (modCore (abortCore st k) k (fun c => { c with slots := [] })) k) s1
  let s3 := orphanStreams s2 (fun k => k / 8 = n)
  let s4 := setCluster s3 n { getCluster s3 n with lines := [], resetting := true, resetAt := none }
  let s5 := tasks.foldl (fun st t => hwAbort st t.q t.idx u) s4
  bellRaise s5 0x0042 u 0 0 0

/-- CLUSTER_RESET_DONE. -/
def clusterResetDone (s : State) (n : Nat) : State :=
  let c := getCluster s n
  if c.resetting then setCluster s n { c with resetAt := some s.breath.num } else s

/-- Every task of the die is aborted, its streams cancelled, and every core scrubbed, bindings kept. -/
def scrubDie (s : State) : State :=
  let cores := s.cores.map (fun p => p.1)
  let s1 := cores.foldl (fun st k => modCore (abortCore st k) k (fun c => { scrubRegs c with slots := [] })) s
  let s2 := orphanStreams s1 (fun _ => true)
  { s2 with phys := [], tasks := [], reissues := [],
            clusters := s2.clusters.map (fun p => (p.1, { p.2 with lines := [], resetting := false, resetAt := none })) }

/-- Both banks and the outstanding table are emptied; the fault-ring registers stay (R249). -/
def emptyTranslation (s : State) : State :=
  { s with tr := { s.tr with recs := [], active := [], inactive := [], staged := none, ctxCache := [] } }

/-- A warm reset begins (R341): newer images go, the die is scrubbed, items replay, and Reed reads the active image again. -/
def warmReset (s : State) (byReed : Bool) : State :=
  if s.reed.active.isNone then s else
  let s1 := bellRaise s 0x0002 0 0 1 (b2n byReed)
  let s2 := if (loadOf s1).isSome then send (dropLoad s1 7 0) (.rejectReport true) else s1
  let s3 := s2.items.foldl replayItem s2
  let s4 := emptyTranslation (scrubDie s3)
  { s4 with reed := { s4.reed with warm := true, st := .verifying } }

/-- WARM_RESET: WRST_N low for at least 100 CLK_REF cycles, or Reed's own (R390). -/
def warmRequest (s : State) (lowCycles : Nat) (byReed : Bool) : State :=
  if s.rstLow || !s.powered then s
  else if s.mute.muted then { s with mute := { s.mute with wrstSeen := true } }
  else if byReed || decide (100 ≤ lowCycles) then warmReset s byReed
  else s

/-! ### Detections (R346, Table 16.2) -/

/-- Every task of the die counts one abort by an uncorrected fault of a unit. -/
def countAll (s : State) (u : W16) : State := s.tasks.foldl (fun st t => hwAbort st t.q t.idx u) s

/-- Row 1: the task that read the word is aborted. -/
def scratchFault (s : State) (u : W16) (thread : Nat) : State :=
  let s1 := recordUE s u 0 1
  match logicalOf s1 (unitIdx u) with
  | none => s1
  | some k =>
    match findTask s1 k thread with
    | none => s1
    | some t => hwAbort (abortTask s1 k thread) t.q t.idx u

/-- Row 2: core reset. -/
def residueFault (s : State) (u : W16) : State :=
  let s1 := recordUE s u 0 2
  match logicalOf s1 (unitIdx u) with
  | none => s1
  | some k => coreReset s1 k u

/-- Row 3: the line is refetched onto a spare line; with none left the fault counts against the slice (R358). -/
def cacheFault (s : State) (u : W16) : State :=
  match logicalCluster s (unitIdx u / 16) with
  | none => recordUE s u 0 3
  | some n =>
    let c := getCluster s n
    if c.spareLines = 0 then recordUE s u 0 3 else setCluster s n { c with spareLines := c.spareLines - 1 }

/-- Row 4: cluster reset, or a warm reset of the die for the die master's memories. -/
def controlFault (s : State) (u : W16) : State :=
  let s1 := recordUE s u 0 4
  if unitIdx u = 8 then (if s1.reed.active.isNone then s1 else warmReset (countAll s1 u) true)
  else
    match logicalCluster s1 (unitIdx u) with
    | none => s1
    | some n => clusterReset s1 n u

/-- Row 5 and R337: a control core that missed 4 boundaries. -/
def controlHang (s : State) (core : Nat) : State :=
  let u : W16 := BitVec.ofNat 16 (0x8000 + core)
  if !unitValid u then s else
  let s1 := bellRaise (recordUE s u 0 5) 0x0046 u 0 1 0
  if s1.reed.active.isNone then s1 else warmReset (countAll s1 u) true

/-- Row 8: the flit is retried on the port to a die. -/
def adapterFault (s : State) (u : W16) : State :=
  let f := fun (b : Bridge) => { b with retries := satAdd b.retries 1 }
  { s with casc := { s.casc with ports := tmod {} s.casc.ports (unitIdx u) f } }

/-- A lost item-store entry (R344, R345): the item ends without a record. -/
def itemLost (s : State) (q : Nat) (idx : W32) : State :=
  match findItem s q idx with
  | none => s
  | some i =>
    if i.stage = .recordSent then s else
    let s1 := dropWaitingOp (abortItemTasks s q idx) q idx
    let s2 := { s1 with tr := { s1.tr with recs := s1.tr.recs.map (fun r => { r with attached := r.attached.filter (fun p => p ≠ (q, idx)) }) } }
    checkQueue (bellRaise (dropItem s2 q idx) 0x0045 0 0 0 (q + idx.toNat * 2 ^ 32)) q

/-- The kind of unit that each row of Table 16.2 charges. -/
def sourceKind (src : FaultSource) : Option Nat :=
  match src with
  | .scratchpadEcc _ => some 1
  | .residueOrCrossbar => some 1
  | .cacheEcc => some 2
  | .controlMemEcc => some 8
  | .controlMissed => some 8
  | .portParity => some 3
  | .linkLane => some 4
  | .bridgeAdapter => some 6
  | .testPack => some 1
  | .itemStore _ _ => none

/-- An uncorrected detection. -/
def uncorrectedFault (s : State) (src : FaultSource) (u : W16) : State :=
  match src with
  | .scratchpadEcc thread => scratchFault s u thread
  | .residueOrCrossbar => residueFault s u
  | .cacheEcc => cacheFault s u
  | .controlMemEcc => controlFault s u
  | .controlMissed => controlHang s (unitIdx u)
  | .portParity => abortSlice (recordUE s u 0 6) u true
  | .linkLane => recordUE s u 0 7
  | .bridgeAdapter => adapterFault (recordUE s u 0 8) u
  | .testPack => recordPack s u false
  | .itemStore q idx => itemLost s q idx

/-- UNIT_FAULT_DETECTED; a unit code that does not fit its source changes nothing. -/
def faultDetected (s : State) (src : FaultSource) (u : W16) (uncorrected : Bool) : State :=
  match sourceKind src with
  | some k =>
    if unitKind u ≠ k || !unitValid u then s
    else if uncorrected then uncorrectedFault s src u
    else if src = .testPack then s else recordCE s u
  | none => if uncorrected then uncorrectedFault s src u else s

/-! ### Loss of a die or a link (R356, R357) -/

/-- DIE_LOST, after 4 boundaries with no bridge to the die. -/
def dieLost (s : State) (die : Nat) : State :=
  let n := ((s.casc.unreachable.find? (fun x => x.1 = die)).map (fun x => x.2)).getD 0
  if isK5 s || decide (4 ≤ die) || die = s.cascId.toNat || decide (n < 4) || s.casc.lost.contains die then s
  else
    let s1 := { s with casc := { s.casc with lost := insUp s.casc.lost die } }
    let s2 := capacityEvent s1 (BitVec.ofNat 16 (0x7000 + die)) 1
    if die = 0 && !s2.breath.freeRun then enterFreeRun s2 s2.breath.late else s2

/-- EXCHANGE_TIMEOUT, at the 64th boundary of waiting. The item completes even when a peer never reports. -/
def exchangeTimeout (s : State) (q : Nat) (idx : W32) (die : Option Nat) : State :=
  match findItem s q idx with
  | none => s
  | some i =>
    if i.stage ≠ .executing || decide (i.exchangeWait < 64) then s else
    let d := match die with
      | some x => 0x7000 + x % 4
      | none => 0x5000
    let s1 := endItem s q idx 0x24 d
    match findItem s1 q idx with
    | some x => if x.stage = .executing then endNow s1 q idx 0x24 d else s1
    | none => s1

/-- RESTORATION of a die or of the link. -/
def restoration (s : State) (u : W16) : State :=
  if unitKind u = 7 && s.casc.lost.contains (unitIdx u) then
    capacityEvent { s with casc := { s.casc with lost := dropOne s.casc.lost (unitIdx u) } } u 2
  else if u = 0x5000 && s.link.lost && s.link.st = 2 then
    capacityEvent { s with link := { s.link with lost := false } } u 2
  else s

/-! ### The unit history's copies (R359) -/

def copySeq (c : Option (Nat × Tab UnitRec)) : Nat :=
  match c with
  | some x => x.1 + 1
  | none => 0

/-- HISTORY_WRITE: the copy not written last takes the records under the next sequence number; a failed write leaves
that copy as a free value says (log 10). -/
def historyWrite (s : State) (ok : Bool) : State :=
  let toB := decide (copySeq s.xspi.histB ≤ copySeq s.xspi.histA)
  let put := fun (st : State) (v : Option (Nat × Tab UnitRec)) =>
    if toB then { st with xspi := { st.xspi with histB := v } } else { st with xspi := { st.xspi with histA := v } }
  if ok then put s (some (max (copySeq s.xspi.histA) (copySeq s.xspi.histB), s.history))
  else
    let (f, s1) := drawFree s
    bellRaise (if f.getLsbD 0 then put s1 none else s1) 0x0052 0 0 1 0

/-! ### Test packs (R362, R363) -/

def packBytes (s : State) (i : Item) : Except MErr (List Byte) := readVa s i.ctx (cmd64 i.cmd 16) (cmdAt i.cmd 24 8)

/-- The pack satisfies Table 16.10 and R322, and names the command's PACK_ID. -/
def packOk (s : State) (i : Item) (bs : List Byte) : Bool :=
  let n := bs.length
  leAt bs 0 4 = 0x4B505354 && leAt bs 4 1 = 0x10 && decide (1 ≤ leAt bs 6 2 ∧ leAt bs 6 2 ≤ 4096) && leAt bs 12 4 % 4096 = 0
    && decide (64 + 128 * leAt bs 6 2 + 192 ≤ n) && leAt bs 8 4 = cmdAt i.cmd 32 4
    && keyOk s (leAt bs 5 1 % 4) bs n && signatureOk bs n

/-- Physical cores that a pack runs on: those of the clusters in service, RETIRED ones left out. -/
def packCores (s : State) : List Nat :=
  (clusterList s (clustersEn s)).flatMap (fun c => (List.range 9).filterMap (fun p =>
    if (getUnit s (BitVec.ofNat 16 (0x1000 + c.phys * 9 + p))).st = 2 then none else some (c.phys * 9 + p)))

/-- The item's own test task. -/
def testTask (i : Item) (k : Nat) (t : Task) : Bool := t.core = k && isItem t.q t.idx i && decide (t.shape.kind = .test)

/-- A record may run on a physical core: a spare, or a logical core that is bound to the item's context (R182, R194), whose idle
slot this item has or may take (R69), and whose test task, if any, is not past its deadline (R67). -/
def idleFor (s : State) (i : Item) (p : Nat) : Bool :=
  match logicalOf s p with
  | none => true
  | some k =>
    let c := getCore s k
    c.bind = 1 && c.ctx = i.ctx && c.rebind.isNone && !c.taken && s.tasks.all (fun t => t.core ≠ k || (testTask i k t && !pastDeadline s t))
      && (!c.tse || i.slots.contains (p, s.breath.num) || s.tasks.any (testTask i k))

/-- TEST_PACK items of one PACK_ID of a queue share their SLOTS limits (R363). -/
def packItems (s : State) (i : Item) : List Item :=
  s.items.filter (fun x => engineOf x.q = 4 && x.opcode = 0x50 && x.open_ && cmdAt x.cmd 32 4 = cmdAt i.cmd 32 4)

/-- The item may use this core in this breath: the slot is already counted, or the limit leaves one. -/
def slotLeft (s : State) (i : Item) (p : Nat) : Bool :=
  let is_ := packItems s i
  let used := is_.foldl (fun n x => n + x.slots.length) 0
  i.slots.contains (p, s.breath.num) || is_.any (fun x => cmdAt x.cmd 36 2 = 0)
    || decide (used < is_.foldl (fun n x => n + cmdAt x.cmd 36 2) 0)

/-- One record has run on one physical core. -/
def recordRan (s : State) (i : Item) (p record : Nat) (matched : Bool) (records : Nat) : State :=
  let u : W16 := BitVec.ofNat 16 (0x1000 + p)
  let ran := i.ran ++ [(p, record, matched)]
  let slots := if i.slots.contains (p, s.breath.num) then i.slots else i.slots ++ [(p, s.breath.num)]
  let s1 := modItem s i.q i.idx (fun x => { x with ran := ran, slots := slots })
  let s2 := match logicalOf s1 p with
    | some k => { (modCore s1 k (fun c => { c with tse := true })) with tasks := s1.tasks.filter (fun t => !testTask i k t) }
    | none => s1
  let s3 := { s2 with phys := tmod {} s2.phys p (fun m => { m with dirty := true, accDirty := true }) }
  let s4 := if matched then s3 else bellRaise (recordPack s3 u false) 0x0044 u i.ctx 0 (cmdAt i.cmd 32 4 + record * 2 ^ 32)
  let mine := ran.filter (fun x => x.1 = p)
  let s5 := if decide (records ≤ mine.length) && mine.all (fun x => x.2.2) then recordPack s4 u true else s4
  let fin := (packCores s5).all (fun c => decide (records ≤ (ran.filter (fun x => x.1 = c)).length))
  if fin then endNow s5 i.q i.idx 0x00 0 else s5

/-- TEST_PACK: the item's first event verifies the pack; each event runs one record on one core. -/
def testPack (s : State) (q : Nat) (idx : W32) (p record : Nat) (matched : Bool) : State :=
  match findItem s q idx with
  | none => s
  | some i =>
    if i.opcode ≠ 0x50 || !(mayBegin s i || mayRun s i) then s else
    let s1 := modItem s q idx (fun x => { x with stage := .executing, begun := true })
    match packBytes s i with
    | .error e => itemErr (abortItemTasks s1 q idx) q idx e
    | .ok bs =>
      if !packOk s1 i bs then endItem s1 q idx 0x15 0
      else if decide (leAt bs 6 2 ≤ record) || !(packCores s1).contains p || i.ran.any (fun x => x.1 = p && x.2.1 = record)
          || !idleFor s1 i p || !slotLeft s1 i p then s1
      else recordRan s1 i p record matched (leAt bs 6 2)

/-! ### Memory scrubs (R364) -/

/-- Verify the blocks of a range one by one: blocks verified, and those that mismatch, in ascending order. -/
def scrubGo (s : State) (ctx : CtxId) : List W64 → Nat → List W64 → Except MErr (Nat × List W64)
  | [], n, bad => .ok (n, bad)
  | b :: t, n, bad =>
    match entryAddr s b with
    | none => scrubGo s ctx t n bad
    | some e =>
      match readVa s ctx e 8 with
      | .error x => .error x
      | .ok eb =>
        let w := leNat eb
        if (w / 2 ^ 32) % 2 = 0 then scrubGo s ctx t n bad
        else
          match readVa s ctx b 4096 with
          | .error x => .error x
          | .ok bytes =>
            if w % 2 ^ 32 = crc32c bytes then scrubGo s ctx t (n + 1) bad else scrubGo s ctx t n (bad ++ [b])

/-- MEM_SCRUB. -/
def memScrub (s : State) (q : Nat) (idx : W32) : State :=
  match findItem s q idx with
  | none => s
  | some i =>
    if i.opcode ≠ 0x51 || !(mayBegin s i || mayRun s i) then s else
    let s1 := modItem s q idx (fun x => { x with stage := .executing, begun := true })
    match scrubGo s1 i.ctx (blocksTouched (cmd64 i.cmd 16) (cmdAt i.cmd 24 8)) 0 [] with
    | .error e => itemErr s1 q idx e
    | .ok (n, bad) =>
      let s2 := countVerified s1 n
      let s3 := { s2 with str := { s2.str with chkFail := satAdd s2.str.chkFail bad.length } }
      let s4 := (bad.take 16).foldl (fun st b => bellRaise st 0x0032 0 i.ctx 0 (addrKey b)) s3
      match bad with
      | [] => endNow s4 q idx 0x00 0
      | b :: _ => endItem s4 q idx 0x22 (addrKey b)

/-! ### Meanings -/

def execUnitFaultDetected (src : FaultSource) (unit : W16) (uncorrected : Bool) (s : State) : Host.Outcome State Fault Refusal :=
  live s (fun s => faultDetected s src unit uncorrected)
def execClusterResetDone (cluster : Nat) (s : State) : Host.Outcome State Fault Refusal := live s (fun s => clusterResetDone s cluster)
def execDieLost (die : Nat) (s : State) : Host.Outcome State Fault Refusal := atEdge s (fun s => dieLost s die)
def execExchangeTimeout (q : Nat) (idx : W32) (die : Option Nat) (s : State) : Host.Outcome State Fault Refusal :=
  atEdge s (fun s => exchangeTimeout s q idx die)
def execRestoration (unit : W16) (s : State) : Host.Outcome State Fault Refusal := atEdge s (fun s => restoration s unit)
def execHistoryWrite (ok : Bool) (s : State) : Host.Outcome State Fault Refusal := live s (fun s => historyWrite s ok)
def execFwHang (controlCore : Nat) (s : State) : Host.Outcome State Fault Refusal := live s (fun s => controlHang s controlCore)
def execWarmReset (lowCycles : Nat) (byReed : Bool) (s : State) : Host.Outcome State Fault Refusal :=
  pins s (fun s => warmRequest s lowCycles byReed)
def execTestPack (q : Nat) (idx : W32) (core record : Nat) (matched : Bool) (s : State) : Host.Outcome State Fault Refusal :=
  work s (fun s => testPack s q idx core record matched)
def execMemScrub (q : Nat) (idx : W32) (s : State) : Host.Outcome State Fault Refusal := work s (fun s => memScrub s q idx)

end Sys2Proof.Machine
end

