-- ==== Sys2Proof/Machine/BellRec.lean ====
section
/-! DEFINITION. The Bell record and its snapshots (R366 to R376), cold reset and cold boot (R339, R385, R389, Tables 15.13
and 15.14), loss of power, Mute (R377 to R380), and the sensors (R388). -/

namespace Sys2Proof.Machine

/-! ### Logging (R366 to R369) -/

/-- BELL_DROP, once the staging queue has room again (R369). -/
def noteDropped (s : State) : State :=
  if s.bell.droppedSince = 0 then s else
  let n := s.bell.droppedSince
  let e : BellEvent := { code := 0x00FF, arg := BitVec.ofNat 64 n, fault := true }
  { s with bell := { s.bell with staging := s.bell.staging ++ [e], droppedSince := 0 } }

/-- The event takes its number, breath and OFFSET (a free value, log 9) and fills slot SEQ mod 8,192 (R368). -/
def recordEvent (s : State) (e : BellEvent) : State :=
  let (f, s1) := drawFree s
  let n := s.bell.head
  let e1 := { e with seq := n, breath := s.breath.num, offset := BitVec.ofNat 32 f.toNat }
  let s2 := { s1 with bell := { s1.bell with slots := tput {} s1.bell.slots (n.toNat % 8192) e1, head := n + 1,
                                             faultPend := s1.bell.faultPend || e.fault } }
  if e.fault then pendG s2 3 else s2

/-- BELL_EVENT_LOG: the event that has waited longest is logged. -/
def logEvent (s : State) : State :=
  match s.bell.staging with
  | [] => s
  | e :: t => noteDropped (recordEvent { s with bell := { s.bell with staging := t } } e)

/-- Every staged event is logged. -/
def logAll : Nat → State → State
  | 0, s => s
  | n + 1, s => if s.bell.staging.isEmpty then s else logAll n (logEvent s)

/-! ### Snapshots (R374, R375) -/

/-- A flush starts, unless FLUSHED equals HEAD. -/
def startFlush (s : State) : State :=
  if s.bell.flushed = s.bell.head then s else { s with bell := { s.bell with flushing := some s.bell.head } }

/-- A fault event has been raised that the last flush to start does not hold. -/
def faultUnflushed (s : State) : Bool :=
  s.bell.staging.any (fun e => e.fault)
    || s.bell.slots.any (fun p => p.2.fault && decide (cdiff p.2.seq (s.bell.flushing.getD s.bell.flushed) < 2 ^ 31))

/-- What triggers a flush: a boundary whose breath number is a multiple of 256 (Table 3.8), or a fault event (R375). -/
def flushDue (s : State) : Bool := (s.edge && s.breath.num.toNat % 256 = 0) || faultUnflushed s

/-- BELL_FLUSH: a trigger during a flush causes one further flush. -/
def flushTrigger (s : State) : State :=
  if !flushDue s then s
  else if s.bell.flushing.isSome then { s with bell := { s.bell with flushAgain := true } } else startFlush s

/-- Events that a flush up to `h` writes: from FLUSHED on, at most the latest 8,192. -/
def flushCount (s : State) (h : W32) : Nat := min 8192 (cdiff h s.bell.flushed)

/-- `e` is one of the `n` events below `h`. -/
def isBelow (h : W32) (n : Nat) (e : BellEvent) : Bool := decide (e.seq ≠ 0) && decide (cdiff h e.seq ≤ n) && decide (1 ≤ cdiff h e.seq)

/-- Write the `n` events below `h` into the Bell area, event k to slot k mod 16,384. -/
def writeArea (s : State) (h : W32) (n : Nat) : Tab BellEvent :=
  (s.bell.slots.filter (fun p => isBelow h n p.2)).foldl (fun t p => tput {} t (p.2.seq.toNat % 16384) p.2) s.xspi.bellArea

/-- Area slots that the `n` events below `h` write and that a trailer's CRC covers: the trailer no longer holds. -/
def overwritten (h : W32) (n : Nat) (head : W32) : Bool :=
  let lo := (h.toNat + 16384 - n) % 16384
  let back := min 8192 (head.toNat - 1)
  let base := (head.toNat + 16384 - back) % 16384
  decide ((base + 16384 - lo) % 16384 < n ∧ 0 < back) || decide ((lo + 16384 - base) % 16384 < back ∧ 0 < n)

def keepTrailer (h : W32) (n : Nat) (t : Option (Nat × W32)) : Option (Nat × W32) :=
  match t with
  | some x => if overwritten h n x.2 then none else some x
  | none => none

def trailerSeq (t : Option (Nat × W32)) : Nat :=
  match t with
  | some x => x.1 + 1
  | none => 0

/-- Trailer B is the one to write next: A was written last. -/
def toTrailerB (x : XSpi) : Bool := decide (trailerSeq x.trailerB ≤ trailerSeq x.trailerA)

/-- Step 1 of R374 on the device. -/
def flushEvents (s : State) (h : W32) : XSpi :=
  let n := flushCount s h
  { s.xspi with bellArea := writeArea s h n, trailerA := keepTrailer h n s.xspi.trailerA, trailerB := keepTrailer h n s.xspi.trailerB }

/-- Step 2 of R374. -/
def flushTrailer (s : State) (h : W32) : XSpi :=
  let x := flushEvents s h
  let seq := max (trailerSeq s.xspi.trailerA) (trailerSeq s.xspi.trailerB)
  if toTrailerB s.xspi then { x with trailerB := some (seq, h) } else { x with trailerA := some (seq, h) }

/-- The trailer being written is torn. -/
def flushTorn (s : State) (h : W32) : XSpi :=
  let x := flushEvents s h
  if toTrailerB s.xspi then { x with trailerB := none } else { x with trailerA := none }

/-- How far a flush that does not complete got is not specified: nothing, its events, a torn trailer, or all of it, as a
free value says (log 10). -/
def cutFlush (s : State) : State :=
  match s.bell.flushing with
  | none => s
  | some h =>
    let (f, s1) := drawFree s
    { s1 with xspi := match f.toNat % 4 with
        | 0 => s.xspi
        | 1 => flushEvents s h
        | 2 => flushTorn s h
        | _ => flushTrailer s h }

/-- The flush ends, and a trigger that came meanwhile starts the next. -/
def endFlush (s : State) : State :=
  let s1 := { s with bell := { s.bell with flushing := none, flushAgain := false } }
  if s.bell.flushAgain then startFlush s1 else s1

/-- BELL_FLUSH_DONE: the flush completes, or is abandoned after a write that failed three times (R375). -/
def flushDone (s : State) (ok : Bool) : State :=
  match s.bell.flushing with
  | none => s
  | some h =>
    if ok then endFlush { s with xspi := flushTrailer s h, bell := { s.bell with flushed := h } }
    else endFlush (bellRaise (cutFlush s) 0x0052 0 0 1 1)

/-! ### Cold reset and loss of power (R343, R385, R390, Table 15.14) -/

/-- An outstanding write that reset cuts off from its answer: whether the memory side performs it is a free value (log 5). -/
def cutWrite (s : State) (r : Req) : State :=
  if !r.write || r.tag.isNone then s else
  let (f, s1) := drawFree s
  if f.getLsbD 0 && memCheck s1.mem r.ctx r.pa r.len true = .ok then storeMem s1 r.pa r.data else s1

/-- Everything on the die at its reset value; what lies outside the die stays, and the TAP, which takes nothing from the
die's clocks (R401). SRC is TIMER on the master and LINK on the others (Table 3.1). -/
def coldState (s : State) : State :=
  let r := State.reset
  { r with pending := s.pending, cascId := s.cascId, fuses := s.fuses, newFuses := s.newFuses, powered := s.powered
           breath := { r.breath with src := if s.cascId = 0 then 0 else 2 }
           mem := { s.mem with reqs := [] }, xspi := s.xspi, tap := s.tap, sent := s.sent, free := s.free }

/-- A cold reset: RST_N is low. A flush and the outstanding writes are cut off. -/
def coldReset (s : State) : State :=
  let t := s.mem.reqs.foldl cutWrite (cutFlush s)
  coldState { s with mem := t.mem, xspi := t.xspi, free := t.free }

/-- COLD_RESET: RST_N goes low; during Mute it waits for the release (R379). -/
def coldRequest (s : State) : State :=
  if !s.powered || s.rstLow then s
  else if s.mute.muted then { s with mute := { s.mute with rstSeen := true } }
  else coldReset s

/-- POWER_LOSS: VDD leaves its range. The TAP and the instruments lose their state with it. -/
def powerLoss (s : State) : State := { coldReset s with powered := false, tap := {} }

/-! ### Cold boot (R339, R340, Table 15.13) -/

/-- The history copy with the higher sequence number whose CRC holds (R359). -/
def bestHistory (x : XSpi) : Option (Tab UnitRec) :=
  if copySeq x.histA = 0 && copySeq x.histB = 0 then none
  else if copySeq x.histB ≤ copySeq x.histA then x.histA.map (fun p => p.2) else x.histB.map (fun p => p.2)

/-- ROLE spare at the first boot: link lanes 32 to 35 and port slices 32 and 33 (log 30). -/
def freshHistory : Tab UnitRec :=
  [0x3020, 0x3021, 0x4020, 0x4021, 0x4022, 0x4023].map (fun u => (u, { role := 1 }))

def loadHistory (s : State) : State :=
  match bestHistory s.xspi with
  | some h => { s with history := h }
  | none => bellRaise { s with history := freshHistory } 0x0051 0 0 1 0

/-- Physical cores of a physical cluster that may serve. -/
def bootCores (s : State) (p : Nat) : List Nat :=
  (List.range 9).filter (fun k => let r := getUnit s (BitVec.ofNat 16 (0x1000 + 9 * p + k)); r.st ≠ 2 && r.role ≠ 2)

/-- The spare of nine: the one that the history calls a spare, else one of Reed's choice. -/
def bootSpare (s : State) (p : Nat) (cores : List Nat) (pick : Nat) : Nat :=
  if cores.length ≤ 8 then 0xF else
  match cores.find? (fun k => (getUnit s (BitVec.ofNat 16 (0x1000 + 9 * p + k))).role = 1) with
  | some k => k
  | none => cores.getD (pick % cores.length) 0xF

/-- An order of Reed's choice: free values pick each next element (log 10). -/
def orderBy (s : State) : Nat → List Nat → List Nat
  | _, [] => []
  | i, x :: t =>
    let rest := orderBy s (i + 1) t
    let k := (Config.freeWord (s.free + i)).toNat % (rest.length + 1)
    rest.take k ++ [x] ++ rest.drop k

/-- Reed maps one physical cluster (R12): its logical numbers close up from 0; R12 fixes no order. -/
def bootCluster (s : State) (p : Nat) : State :=
  let cores := bootCores s p
  let spare := bootSpare s p cores (Config.freeWord s.free).toNat
  let act := orderBy s 1 (cores.filter (fun k => k ≠ spare))
  let c : Cluster := { phys := p, map := act ++ List.replicate (8 - act.length) 0xF, spare := spare, spareLines := 1310 }
  let role := fun (st : State) (k r : Nat) => modUnit st (BitVec.ofNat 16 (0x1000 + 9 * p + k)) (fun x => { x with role := BitVec.ofNat 8 r })
  let s1 := act.foldl (fun st k => role st k 0) { s with free := s.free + 16 }
  setCluster (if spare < 9 then role s1 spare 1 else s1) p c

/-- The trailer that a cold boot takes (R376). -/
def bestTrailer (x : XSpi) : Option W32 :=
  if trailerSeq x.trailerA = 0 && trailerSeq x.trailerB = 0 then none
  else if trailerSeq x.trailerB ≤ trailerSeq x.trailerA then x.trailerA.map (fun p => p.2) else x.trailerB.map (fun p => p.2)

/-- Restore the record, and log COLD_BOOT (R376). -/
def restoreBell (s : State) : State :=
  match bestTrailer s.xspi with
  | none => bellRaise s 0x0001 0 0 1 (2 ^ 32)
  | some h =>
    let es := s.xspi.bellArea.filter (fun p => isBelow h 8192 p.2)
    let slots := es.foldl (fun t p => tput {} t (p.2.seq.toNat % 8192) p.2) []
    bellRaise { s with bell := { s.bell with slots := slots, head := h, flushed := h } } 0x0001 0 0 1 es.length

/-- Steps 1 to 3 of Table 15.13. -/
def bootReed (s : State) : State :=
  let s1 := (List.range 8).foldl bootCluster (loadHistory s)
  restoreBell { s1 with reed := { s1.reed with booted := true } }

/-- COLD_BOOT: RST_N rises with clocks running, the fuses as programmed take effect (R402), and Reed does steps 1 to 3. -/
def coldBoot (s : State) (selfTestOk : Bool) : State :=
  if !s.rstLow then s else
  let s1 := { s with rstLow := false, powered := true, fuses := s.newFuses }
  if !selfTestOk then { s1 with reed := { s1.reed with st := .halted } } else keepOuter s1 (bootReed s1)

/-- BOOT_READY: step 4. -/
def bootReady (s : State) : State :=
  if s.reed.booted && s.reed.st = .boot then { s with reed := { s.reed with st := .ready } } else s

/-! ### Mute (R377 to R380) -/

/-- A die freezes: MUTE_ENTER joins the staging queue, which logs all of its events before the clocks stop (Table 17.7). -/
def muteDie (s : State) (die : BitVec 2) (bridge : Bool) : State :=
  let s1 := bellRaise s 0x0003 0 0 0 (b2n bridge + 2 * die.toNat)
  let s2 := logAll 512 s1
  { s2 with mute := { s2.mute with muted := true, count := satAdd s2.mute.count 1, originDie := die, origin := bridge
                                   rstSeen := false, wrstSeen := false } }

def canMute (s : State) : Bool := s.powered && !s.rstLow && !s.mute.muted

/-- MUTE_ENTER: MUTE_N low in 8 consecutive ac. -/
def muteEnter (s : State) (lowAc : Nat) : State :=
  if canMute s && decide (8 ≤ lowAc) then send (muteDie s s.cascId false) .muteSideband else s

/-- MUTE_RUNT: a shorter low. -/
def muteRunt (s : State) (lowAc : Nat) : State :=
  if 1 ≤ lowAc ∧ lowAc < 8 then { s with mute := { s.mute with runt := satAdd s.mute.runt 1 } } else s

/-- MUTE_SIDEBAND: the signal is not passed on. A Kiqua-5 has no bridge. -/
def muteSideband (s : State) (die : Nat) : State :=
  if canMute s && !isK5 s && decide (die < 4) && die ≠ s.cascId.toNat then muteDie s (BitVec.ofNat 2 die) true else s

/-- A die that had taken a boundary treats the resumption as free-run (R65). One muted before its first boundary has no expected time
(R60) and does not: the model's choice (log 56). -/
def resumeBreath (s : State) : State := if s.breath.started && !s.breath.freeRun then enterFreeRun s s.breath.late else s

/-- The release of a die without a cold reset: a warm reset, or MUTE_EXIT is logged. -/
def muteRelease (s : State) (warm : Bool) (mutedCycles : Nat) : State :=
  if warm then warmReset (resumeBreath s) false
  else resumeBreath (bellRaise s 0x0004 0 0 0 (min mutedCycles (2 ^ 64 - 1)))

/-- MUTE_EXIT. -/
def muteExit (s : State) (highCycles mutedCycles : Nat) : State :=
  if !s.mute.muted || decide (highCycles < 8) then s else
  let s1 := { s with mute := { s.mute with muted := false, lastLen := BitVec.ofNat 32 (min mutedCycles (2 ^ 32 - 1))
                                           rstSeen := false, wrstSeen := false } }
  if s.mute.rstSeen then coldReset s1
  else keepOuter s (muteRelease s1 (s.mute.wrstSeen && s.reed.active.isSome) mutedCycles)

/-! ### Sensors (R388) -/

/-- The highest reading and the lowest index that has it. -/
def hottest : Nat → List W16 → Option (Nat × Int)
  | _, [] => none
  | i, t :: ts =>
    match hottest (i + 1) ts with
    | some (j, m) => if m ≤ t.toInt then some (i, t.toInt) else some (j, m)
    | none => some (i, t.toInt)

def outsideLimits (lo hi : Nat) (v : W16) : Bool := decide (v.toNat < lo) || decide (hi < v.toNat)

/-- SENSOR_SAMPLE. A mean that is no whole unit is rounded down or up, as a free value says (log 10). -/
def sensorSample (s : State) (temps : List W16) (vdd arith fabric : W16) : State :=
  match hottest 0 temps with
  | none => s
  | some (i, m) =>
    if temps.length ≠ 32 then s else
    let sum : Int := temps.foldl (fun a t => a + t.toInt) 0
    let (f, s1) := drawFree s
    let avg := sum / 32 + (if sum % 32 = 0 then 0 else (f.toNat % 2 : Nat))
    let v := s1.sens
    let tHit := decide (v.tAlarm.toInt < m)
    let vHit := outsideLimits v.vLow.toNat v.vHigh.toNat vdd
    let s2 := { s1 with sens := { v with
      hotIdx := BitVec.ofNat 5 i, tmax := BitVec.ofInt 16 m, tavg := BitVec.ofInt 16 avg, vnow := vdd
      vmax := if v.vRestart || v.vmax.toNat < vdd.toNat then vdd else v.vmax
      vmin := if v.vRestart || vdd.toNat < v.vmin.toNat then vdd else v.vmin
      vRestart := false, arithMhz := arith, fabricMhz := fabric
      arithOut := v.arithOut || outsideLimits 1000 2700 arith, fabOut := v.fabOut || outsideLimits 600 1800 fabric
      tHit := v.tHit || tHit, vHit := v.vHit || vHit } }
    if (tHit && !v.tHit) || (vHit && !v.vHit) then pendG s2 4 else s2

/-! ### Meanings -/

def execBellEventLog (s : State) : Host.Outcome State Fault Refusal := live s logEvent
def execBellFlush (s : State) : Host.Outcome State Fault Refusal := live s flushTrigger
def execBellFlushDone (ok : Bool) (s : State) : Host.Outcome State Fault Refusal := live s (fun s => flushDone s ok)
def execColdReset (s : State) : Host.Outcome State Fault Refusal := always s coldRequest
def execColdBoot (selfTestOk : Bool) (s : State) : Host.Outcome State Fault Refusal := always s (fun s => coldBoot s selfTestOk)
def execBootReady (s : State) : Host.Outcome State Fault Refusal := live s bootReady
def execPowerLoss (s : State) : Host.Outcome State Fault Refusal := always s powerLoss
def execMuteEnter (lowAc : Nat) (s : State) : Host.Outcome State Fault Refusal := pins s (fun s => muteEnter s lowAc)
def execMuteRunt (lowAc : Nat) (s : State) : Host.Outcome State Fault Refusal := live s (fun s => muteRunt s lowAc)
def execMuteSideband (die : Nat) (s : State) : Host.Outcome State Fault Refusal := pins s (fun s => muteSideband s die)
def execMuteExit (highCycles mutedCycles : Nat) (s : State) : Host.Outcome State Fault Refusal :=
  always s (fun s => muteExit s highCycles mutedCycles)
def execSensorSample (temps : List (BitVec 16)) (vdd arithMhz fabricMhz : W16) (s : State) : Host.Outcome State Fault Refusal :=
  live s (fun s => sensorSample s temps vdd arithMhz fabricMhz)

end Sys2Proof.Machine
end

