-- ==== Sys2Proof/Machine/Maint.lean ====
section
/-! DEFINITION. The maintenance ports: the state reader (R381, R382), the fuse programmer (R402) and the test access
port (R401). They work whatever the die's clocks do. -/

namespace Sys2Proof.Machine

/-! ### The state reader -/

/-- A word that the model keeps no bytes of: control-core memories, Reed's ROM and SRAM, the item store's raw words, tags,
and what the pipes left in a core's memories. A free value for each address, the same at every read while frozen (log 11). -/
def hiddenWord (s : State) (a : Nat) : W64 := Config.freeWord (s.free + a)

/-- A word of a physical core's scratchpad (3 MiB) or accumulator memory (R174, R180). -/
def coreWord (s : State) (p : Nat) (acc : Bool) (o a : Nat) : W64 :=
  let m := tget {} s.phys p
  if acc then (if m.accDirty then hiddenWord s a else BitVec.ofNat 64 (at_ 32 (tget 0 m.acc (o / 4 + 1)).toNat + (tget 0 m.acc (o / 4)).toNat))
  else if m.dirty then hiddenWord s a else BitVec.ofNat 64 (leNat (readBytes m.scratch o 8))

/-- The word at a state-reader address, when Table 17.9 has it. Sizes: scratchpad 3 MiB, accumulators 512 KiB, cluster cache
16 MiB, register window 32 MiB, Bell record 256 KiB; the other regions' sizes are not specified, and every offset reads. -/
def stateWord (s : State) (a : Nat) : Option W64 :=
  let region := nfld a 62 56
  let idx := nfld a 55 48
  let o := nfld a 47 0
  if o % 8 ≠ 0 then none else
  match region with
  | 1 => if idx < 72 ∧ o < 3145728 then some (coreWord s idx false o a) else none
  | 2 => if idx < 72 ∧ o < 524288 then some (coreWord s idx true o a) else none
  | 3 => if idx < 8 ∧ o < 16777216 then
      some (if (s.clusters.any (fun c => c.2.phys = idx && !c.2.lines.isEmpty)) then hiddenWord s a else 0) else none
  | 4 => if idx < 8 then some (hiddenWord s a) else none
  | 5 => if idx = 0 ∧ o < 0x2000000 then some (readReg s o) else none
  | 6 => if idx ≤ 8 then some (hiddenWord s a) else none
  | 7 => if idx = 0 then some (hiddenWord s a) else none
  | 8 => if idx = 0 then some (hiddenWord s a) else none
  | 9 => if idx = 0 ∧ o < 262144 then some (BitVec.ofNat 64 (bellWord (tget {} s.bell.slots (o / 32)) (o % 32 / 8))) else none
  | _ => none

/-- The next capture returns the word as stored, whether the read was valid, and the address (R381). -/
def stateRead (s : State) (address : W64) : State :=
  if !s.powered then s else
  let a := address.toNat % 2 ^ 63
  let w := if s.mute.muted then stateWord s a else none
  let v := match w with
    | some x => at_ 64 x.toNat + 2 ^ 63 + a
    | none => a
  { s with tap := { s.tap with captured := BitVec.ofNat 128 v } }

/-! ### Fuses (R402) -/

/-- One fuse is programmed; digests and the manufacturer code once each and until LOCK. -/
def programFuse (f : Fuses) (t : FuseTarget) : Fuses :=
  match t with
  | .digest slot v =>
    if f.lock || decide (4 ≤ slot) || f.digests.any (fun p => p.1 = slot) then f
    else { f with digests := sortBy (fun p => p.1) (f.digests ++ [(slot, v)]) }
  | .mfr v => if f.lock || f.mfrSet then f else { f with mfr := v, mfrSet := true }
  | .revoke slot => if slot < 4 then { f with revoked := insUp f.revoked slot } else f
  | .lock => { f with lock := true }

/-- FUSE_PROGRAM works only while RST_N is low; the change takes effect at the next cold boot. -/
def fuseProgram (s : State) (t : FuseTarget) : State :=
  if s.rstLow && s.powered then { s with newFuses := programFuse s.newFuses t } else s

/-! ### The test access port (R401) -/

/-- KQ IDCODE. -/
def idcodeWord (s : State) : Nat := at_ 28 1 + at_ 12 0x4B31 + at_ 1 s.fuses.mfr.toNat + 1

/-- The instruction selects a data register, which captures: the identification, 0 for BYPASS, the discrete signals for
boundary scan (a free value: the spec gives no cell order), or the network, which stays as the state reader left it. -/
def tapSelect (s : State) (ir : TapIr) : State :=
  if !s.powered then s else
  match ir with
  | .idcode => { s with tap := { ir := ir, captured := BitVec.ofNat 128 (idcodeWord s) } }
  | .bypass => { s with tap := { ir := ir, captured := 0 } }
  | .ijtag => { s with tap := { s.tap with ir := ir } }
  | _ =>
    let (f, s1) := drawFree s
    { s1 with tap := { ir := ir, captured := BitVec.ofNat 128 f.toNat } }

/-- TAP_RESET: IEEE 1149.1 selects IDCODE where a device has one (log 7). -/
def tapReset (s : State) : State := { s with tap := { s.tap with ir := .idcode } }

/-! ### Meanings -/

def execStateRead (address : W64) (s : State) : Host.Outcome State Fault Refusal := always s (fun s => stateRead s address)
def execFuseProgram (target : FuseTarget) (s : State) : Host.Outcome State Fault Refusal := always s (fun s => fuseProgram s target)
def execExtest (s : State) : Host.Outcome State Fault Refusal := always s (fun s => tapSelect s .extest)
def execIdcode (s : State) : Host.Outcome State Fault Refusal := always s (fun s => tapSelect s .idcode)
def execSamplePreload (s : State) : Host.Outcome State Fault Refusal := always s (fun s => tapSelect s .samplePreload)
def execIjtag (s : State) : Host.Outcome State Fault Refusal := always s (fun s => tapSelect s .ijtag)
def execBypass (s : State) : Host.Outcome State Fault Refusal := always s (fun s => tapSelect s .bypass)
def execTapReset (s : State) : Host.Outcome State Fault Refusal := always s tapReset

end Sys2Proof.Machine
end

