-- ==== Sys2Proof/Machine/Link.lean ====
section
/-! DEFINITION. Kiqua Link and the cascade bridge (chapter 14): codewords and retry, credits, lane sparing, latency
measurement, training, and the packets that pass through. -/

namespace Sys2Proof.Machine

/-! ### Sending (R303 to R306) -/

/-- Codewords from a SEQ on. -/
def fromSeq (l : List Codeword) (seq : BitVec 10) : List Codeword := l.dropWhile (fun w => w.seq ≠ seq)

/-- The peer has received everything up to `ack` in order. -/
def acked (l : Link) (ack : BitVec 10) : Link :=
  if l.retryBuf.any (fun w => w.seq = ack) then
    { l with retryBuf := (fromSeq l.retryBuf ack).drop 1
             resends := if (fromSeq l.retryBuf ack).drop 1 |>.any (fun w => w.seq = l.resendSeq) then l.resends else 0 }
  else l

/-- RETRY: the peer asks for everything from a SEQ again. -/
def retryAsked (s : State) (seq : BitVec 10) : State :=
  let l := s.link
  if l.st ≠ 2 || !l.retryBuf.any (fun w => w.seq = seq) then s else
  let n := if l.resendSeq = seq then l.resends + 1 else 1
  (fromSeq l.retryBuf seq).foldl resendWord (modLink s (fun l => { l with resendSeq := seq, resends := n }))

/-- CREDIT: free-running counts of freed flits, by channel, of both dateline classes. -/
def creditArrives (s : State) (freed cls1 : List W16) : State :=
  let now := (List.range 8).map (fun k => freed.getD k 0) ++ (List.range 8).map (fun k => cls1.getD k 0)
  let old := (List.range 16).map (fun k => s.link.freedSeen.getD k 0)
  let gain := (List.range 16).map (fun k => (now.getD k 0 - old.getD k 0).toNat)
  if s.link.st ≠ 2 then s else
  pump (modLink s (fun l => { l with freedSeen := now
                                     creditTx := (List.range 16).map (fun k => l.creditTx.getD k 0 + gain.getD k 0) }))

/-! ### Receiving (R300, R304, R305) -/

/-- A flit joins the receiver's buffers when it carries data; CONTROL flits act by the row of their subtype. -/
def flitIn (l : Link) (f : List Byte) : Link :=
  if flitIsData f then { l with rxFlits := l.rxFlits ++ [f], rxHeld := addAt l.rxHeld (flitLane f) 1 } else l

/-- Bytes of a codeword that arrived in order. -/
def bytesIn (l : Link) (data : List Byte) : Link :=
  let bs := l.rxBytes ++ (data ++ List.replicate 640 0).take 640
  let n := bs.length / 256
  (pieces 256 (bs.take (256 * n))).foldl flitIn { l with rxBytes := bs.drop (256 * n) }

/-- The physical lane that brings logical lane l: its own, or the spare once the switch SEQ has been reached (R307); at 16 lanes the l-th
that is not retired (R308, log 85). -/
def rxLane (x : Link) (l : Nat) : Nat :=
  if x.width = 16 then ((List.range 36).filter (fun n => !x.retired.getLsbD n)).getD l l
  else ((x.rxSwitched.find? (fun m => m.1 = l)).map (fun m => m.2)).getD l

/-- From its switch SEQ on a lane's symbols come from its spare. -/
def switchLanes (x : Link) : Link :=
  (x.rxLaneOf.filter (fun m => m.2.2 = x.rxPos)).foldl (fun l m =>
    { l with rxSwitched := l.rxSwitched.filter (fun y => y.1 ≠ m.1) ++ [(m.1, m.2.1)] }) x

/-- Corrected symbols by lane, and codewords corrected. -/
def countCorrected (l : Link) (lanes : List Nat) : Link :=
  if lanes.isEmpty then l else
  let one := fun (t : List (Nat × Nat)) (n : Nat) =>
    if t.any (fun p => p.1 = n) then t.map (fun p => if p.1 = n then (p.1, p.2 + 1) else p) else t ++ [(n, 1)]
  { l with corrCw := satAdd l.corrCw 1, corrected := lanes.foldl one l.corrected }

/-- RETRY names the SEQ expected. -/
def askAgain (s : State) : State :=
  let s1 := modLink s (fun l => { l with rxDiscard := true, replays := satAdd l.replays 1 })
  sendControl (send s1 (.retry s.link.rxNext)) 1 (retryFlit s.link.rxNext)

/-- A bad codeword (R301): RETRY, unless the receiver discards already and the SEQ expected is not the one that comes next. -/
def badWord (s : State) : State :=
  let s1 := modLink s (fun l => { l with uncorrCw := satAdd l.uncorrCw 1, rxPos := l.rxPos + 1 })
  if s.link.rxDiscard && s.link.rxPos ≠ s.link.rxNext then s1 else askAgain s1

/-- A codeword in order: its flits, its ACK, and a codeword back that carries this end's ACK, an idle one when nothing else has to
leave (R300, log 64). -/
def goodWord (s : State) (ack : BitVec 10) (data : List Byte) : State :=
  let s1 := pump (modLink s (fun l => acked (bytesIn { l with rxDiscard := false, rxNext := l.rxNext + 1 } data) ack))
  if s1.link.txNext = s.link.txNext && decide (s1.link.retryBuf.length < 768) then emit s1 [] 1 else s1

/-- An intact codeword. While the receiver discards, one that follows the SEQ expected and comes out of turn says that the SEQ
expected came again and was bad. -/
def wordIn (s : State) (seq ack : BitVec 10) (data : List Byte) : State :=
  let s1 := modLink s (fun l => { l with rxPos := seq + 1 })
  if seq = s.link.rxNext then goodWord s1 ack data
  else if s.link.rxDiscard && seq = s.link.rxNext + 1 && seq ≠ s.link.rxPos then askAgain s1
  else s1

/-- LINK_CODEWORD: the symbols of 36 physical lanes, taken from the lanes in use and decoded (R299, R300). -/
def codewordIn (s : State) (lanes : List (List Nat)) : State :=
  if s.link.st ≠ 2 then s else
  let s1 := modLink s switchLanes
  let at_ := fun k => rxLane s1.link (k % max 1 s1.link.width)
  match rsDecode (takeSymbols ((List.range s1.link.width).map (fun k => lanes.getD (at_ k) []))) with
  | none => badWord s1
  | some (w, fixed) =>
    wordIn (modLink s1 (fun l => countCorrected l (fixed.map at_))) (BitVec.ofNat 10 (w.getD 0 0)) (BitVec.ofNat 10 (w.getD 1 0))
      (cwBytes ((w.drop 2).take 512))

/-! ### Latency (R309) -/

/-- A round trip less its residence comes back; after 64 of them LAT is half the smallest. A half unit goes up or down as a
free value says (log 10). -/
def echoBack (s : State) (trip : Nat) : State :=
  let best := if s.link.echoGot = 0 then trip else min s.link.echoBest trip
  let got := s.link.echoGot + 1
  let s1 := modLink s (fun l => { l with echoBest := best, echoGot := got })
  if got < 64 then s1 else
  let (f, s2) := drawFree s1
  let half := best / 2 + (if best % 2 = 0 then 0 else f.toNat % 2)
  modLink s2 (fun l => { l with lat := BitVec.ofNat 32 half, echoSent := 0, echoGot := 0, echoBest := 0 })

/-- A measurement starts: 64 ECHO flits go out, with time stamps that State does not hold, so free ones (log 9). -/
def measure (s : State) : State :=
  let s1 := modLink s (fun l => { l with echoSent := 64, echoGot := 0, echoBest := 0 })
  pump ((List.range 64).foldl (fun st _ => let (f, st1) := drawFree st
                                           queueControl st1 4 (echoFlit f 0 0)) s1)

/-- ECHO: the peer's is returned with its residence; this end's own is measured at `now`. -/
def echoIn (s : State) (stamp echoed : W64) (residence : W32) (reply : Bool) (now : W64) : State :=
  if s.link.st = 0 then s
  else if !reply then sendControl (send s (.echo stamp residence)) 4 (echoFlit stamp stamp residence)
  else if s.link.echoSent = 0 then s
  else echoBack s ((now - echoed).toNat - residence.toNat)

/-! ### Lanes (R307, R308) -/

/-- Physical lanes that are good: neither retired nor failed. -/
def goodLanes (l : Link) (good : List Nat) : List Nat := (List.range 36).filter (fun n => !l.retired.getLsbD n && good.contains n)

/-- Spare lanes that may still serve. -/
def freeSpares (l : Link) : List Nat :=
  [32, 33, 34, 35].filter (fun n => !l.retired.getLsbD n && !l.rxLaneOf.any (fun x => x.2.1 = n))

/-- The logical lane that a physical lane serves. -/
def logicalLane (l : Link) (n : Nat) : Nat :=
  match l.rxLaneOf.find? (fun x => x.2.1 = n) with
  | some x => x.1
  | none => n

/-- LANE_MAP: from receipt the lane's symbols go onto the spare as well; both ends measure the latency again. -/
def laneMapIn (s : State) (lane spare : Nat) (switchSeq : BitVec 10) : State :=
  if s.link.st ≠ 2 || decide (32 ≤ lane) || decide (spare < 32) || decide (36 ≤ spare) then s else
  measure (modLink s (fun l => { l with laneOf := l.laneOf.filter (fun x => x.1 ≠ lane) ++ [(lane, spare, switchSeq)] }))

/-- The link goes down (R306, R308). -/
def linkFails (s : State) : State :=
  let s1 := modLink s (fun l => { l with st := 0, width := 0, lost := true })
  bellRaise s1 0x0053 0x5000 0 0 0

/-- A lane's history record: retired. -/
def retireLaneRec (s : State) (n : Nat) : State :=
  modUnit s (BitVec.ofNat 16 (0x4000 + n)) (fun r => r.become 2 (lowBreath s))

/-- A retired lane with no spare left: a retirement-only refold with R308 (R353). -/
def narrow (s : State) (n : Nat) : State :=
  let s1 := if s.reed.active.isSome && !s.reed.warm then bumpCaps s (clustersEn s) else s
  let s2 := capacityEvent s1 (BitVec.ofNat 16 (0x4000 + n)) 1
  if (goodLanes s2.link (List.range 36)).length < 16 then linkFails s2
  else if s2.link.width = 32 then
    modLink s2 (fun l => { l with st := 1, width := 16, retrains := satAdd l.retrains 1 })
  else s2

/-- The receiver swaps a lane for a spare from the codeword 64 ahead on. -/
def swapLane (s : State) (n spare : Nat) : State :=
  let sw := s.link.rxNext + 64
  let lane := logicalLane s.link n
  let s1 := modLink s (fun l => { l with rxLaneOf := l.rxLaneOf.filter (fun x => x.1 ≠ lane) ++ [(lane, spare, sw)] })
  let s2 := modLink s1 (fun l => { l with sparesLeft := (freeSpares l).length })
  let s3 := modUnit s2 (BitVec.ofNat 16 (0x4000 + spare)) (fun r => { r with role := 0 })
  measure (sendControl (send s3 (.laneMap lane spare sw)) 3 (laneMapFlit lane spare sw))

/-- LANE_RETIRE of a physical lane, at a boundary. -/
def laneRetire (s : State) (n : Nat) (failedTraining : Bool) : State :=
  let high := s.link.overLimit.any (fun p => p.1 = n && decide (4 ≤ p.2))
  if decide (36 ≤ n) || s.link.retired.getLsbD n || !(failedTraining || high) then s else
  let inUse := decide (n < 32) || s.link.rxLaneOf.any (fun x => x.2.1 = n)
  let s1 := retireLaneRec (modLink s (fun l => { l with retired := l.retired ||| BitVec.ofNat 36 (2 ^ n)
                                                        overLimit := l.overLimit.filter (fun p => p.1 ≠ n) })) n
  let s2 := modLink s1 (fun l => { l with sparesLeft := (freeSpares l).length })
  if !inUse then s2 else
  match freeSpares s2.link with
  | spare :: _ => if s2.link.width = 16 then s2 else swapLane s2 n spare
  | [] => narrow s2 n

/-! ### Training (R304, R306, R308, R309) -/

/-- LINK_RETRAIN: both ends keep their retry buffers and credits and hold all traffic. -/
def linkRetrain (s : State) : State :=
  if s.link.st = 1 then s
  else if s.link.st = 2 then modLink s (fun l => { l with st := 1, retrains := satAdd l.retrains 1, resends := 0 })
  else modLink s (fun l => { l with st := 1, resends := 0 })

/-- LINK_DOWN: a retraining did not complete within 20 µs. -/
def linkDown (s : State) : State := if s.link.st = 1 then linkFails s else s

/-- A first training: 1,024 credits for each channel and class. -/
def firstCredits (l : Link) : Link := if l.creditTx.isEmpty then { l with creditTx := List.replicate 16 1024 } else l

/-- LINK_TRAINED on the physical lanes that training found good; `echoes` are round trips and residences. -/
def linkTrained (s : State) (good : List Nat) (peerNode : W16) (peerDie : Nat) (echoes : List (Nat × Nat)) : State :=
  if s.link.st = 2 then s else
  let n := (goodLanes s.link good).length
  if n < 16 then linkFails s else
  let s1 := modLink s (fun l => { firstCredits l with
    st := 2, width := if n < 32 then 16 else 32, peerNode := peerNode, peerDie := BitVec.ofNat 2 peerDie
    sparesLeft := (freeSpares l).length, rxDiscard := false, rxPos := s.link.rxNext })
  let s2 := s1.link.retryBuf.foldl resendWord s1
  pump (echoes.foldl (fun st e => echoBack st (e.1 - e.2)) (measure s2))

/-- BRIDGE_TRAINING_DONE: the port runs on the modules that trained; with none it is lost (R314). -/
def bridgeTrained (s : State) (die modules : Nat) : State :=
  if isK5 s || decide (4 ≤ die) || die = s.cascId.toNat || decide (16 < modules) then s else
  let b := { getBridge s die with modules := modules, st := if modules = 0 then 3 else 2 }
  let ports := tput {} s.casc.ports die b
  pumpBridge { s with casc := { s.casc with ports := ports, dies := BitVec.ofNat 2 ports.length } } die

/-! ### Packets (R302, R304, R311 to R313, R315, R317) -/

/-- The packet's flits leave the link receiver's buffer, if that is where they were held; CREDIT tells the peer. -/
def freeBuffers (s : State) (vc : Nat) (dl : Bool) (n : Nat) : State :=
  let k := vc % 8 + (if dl then 8 else 0)
  if s.link.rxHeld.getD k 0 < n then s else
  let s1 := modLink s (fun l => { l with
    rxHeld := subAt l.rxHeld k n
    rxFreed := (List.range 16).map (fun i => l.rxFreed.getD i 0 + (if i = k then BitVec.ofNat 16 n else 0))
    rxFlits := (List.range n).foldl (fun fs _ => dropFirst (fun f => flitLane f = k) fs) l.rxFlits })
  let a := s1.link.rxFreed.take 8
  let b := s1.link.rxFreed.drop 8
  sendControl (send s1 (.credit a b)) 2 (creditFlit a b)

/-- DATA_PACKET: the bodies of its flits, its header in the first. A packet for this die reaches the Collective Engine, where the row
of its exchange unit acts; one whose LEN is not its number of flits goes no further (log 90). -/
def dataPacket (s : State) (vc : Nat) (dl : Bool) (body : List (List Byte)) : State :=
  if isK5 s || decide (17 < body.length) then s else
  let s1 := freeBuffers s vc dl body.length
  let h := parseHeader body
  if h.len ≠ body.length then s1
  else if h.node ≠ s.link.node && s.casc.mode = 0 then modLink s1 (fun l => { l with misroute := satAdd l.misroute 1 })
  else ship s1 h.node h.die vc dl body

/-! ### Meanings -/

def execLinkCodeword (l0 l8 l16 l24 spares : List (List Nat)) (s : State) : Host.Outcome State Fault Refusal :=
  work s (fun s => codewordIn s (l0 ++ l8 ++ l16 ++ l24 ++ spares))
def execRetry (seq : BitVec 10) (s : State) : Host.Outcome State Fault Refusal := work s (fun s => retryAsked s seq)
def execCredit (freed cls1 : List W16) (s : State) : Host.Outcome State Fault Refusal := work s (fun s => creditArrives s freed cls1)
def execLaneMap (lane spare : Nat) (switchSeq : BitVec 10) (s : State) : Host.Outcome State Fault Refusal :=
  work s (fun s => laneMapIn s lane spare switchSeq)
def execEcho (stamp echoed : W64) (residence : W32) (reply : Bool) (now : W64) (s : State) : Host.Outcome State Fault Refusal :=
  work s (fun s => echoIn s stamp echoed residence reply now)
def execLinkRetrain (s : State) : Host.Outcome State Fault Refusal := work s linkRetrain
def execLinkDown (s : State) : Host.Outcome State Fault Refusal := work s linkDown
def execLaneRetire (lane : Nat) (failedTraining : Bool) (s : State) : Host.Outcome State Fault Refusal :=
  atEdge s (fun s => laneRetire s lane failedTraining)
def execDataPacket (vc : Nat) (dateline : Bool) (header first : List Byte) (rest : List (List Byte)) (s : State) :
    Host.Outcome State Fault Refusal := work s (fun s => dataPacket s vc dateline ((header ++ first) :: rest))
def execLinkTrained (good : List Nat) (peerNode : W16) (peerDie : Nat) (echoes : List (Nat × Nat)) (s : State) :
    Host.Outcome State Fault Refusal := work s (fun s => linkTrained s good peerNode peerDie echoes)
def execBridgeTrainingDone (die modules : Nat) (s : State) : Host.Outcome State Fault Refusal := work s (fun s => bridgeTrained s die modules)

end Sys2Proof.Machine
end

