-- ==== Sys2Proof/Machine/Dispatch.lean ====
section
/-! DEFINITION. One arm for each command (`Instr`): its meaning, called directly. -/

namespace Sys2Proof.Machine

/-- The effect of a command on everything but the queue of waiting commands. -/
def exec (i : Instr) (s : State) : Host.Outcome State Fault Refusal :=
  match i with
  | .doorbellWrite q size64 value => Sys2Proof.Machine.execDoorbellWrite q size64 value s
  | .qctrlWrite q value => Sys2Proof.Machine.execQctrlWrite q value s
  | .cplErrClear q => Sys2Proof.Machine.execCplErrClear q s
  | .registerWrite offset size64 value => Sys2Proof.Machine.execRegisterWrite offset size64 value s
  | .breathInPulse lowFc highFc atPs => Sys2Proof.Machine.execBreathInPulse lowFc highFc atPs s
  | .breathMiss => Sys2Proof.Machine.execBreathMiss s
  | .freeRunBoundary => Sys2Proof.Machine.execFreeRunBoundary s
  | .breathPulseTimer => Sys2Proof.Machine.execBreathPulseTimer s
  | .markerSend residence => Sys2Proof.Machine.execMarkerSend residence s
  | .breathMarker port b remaining hops residence => Sys2Proof.Machine.execBreathMarker port b remaining hops residence s
  | .markerCountdown => Sys2Proof.Machine.execMarkerCountdown s
  | .queueClosed q => Sys2Proof.Machine.execQueueClosed q s
  | .commandCopy q resp bytes => Sys2Proof.Machine.execCommandCopy q resp bytes s
  | .negotiate q idx => Sys2Proof.Machine.execNegotiate q idx s
  | .nop q idx => Sys2Proof.Machine.execNop q idx s
  | .attFwd q idx => Sys2Proof.Machine.execAttFwd q idx s
  | .attBwd q idx => Sys2Proof.Machine.execAttBwd q idx s
  | .seqAlloc q idx => Sys2Proof.Machine.execSeqAlloc q idx s
  | .seqAppend q idx => Sys2Proof.Machine.execSeqAppend q idx s
  | .seqFork q idx => Sys2Proof.Machine.execSeqFork q idx s
  | .seqFree q idx => Sys2Proof.Machine.execSeqFree q idx s
  | .pageMigrate q idx => Sys2Proof.Machine.execPageMigrate q idx s
  | .tierHint q idx => Sys2Proof.Machine.execTierHint q idx s
  | .ptcInval q idx => Sys2Proof.Machine.execPtcInval q idx s
  | .bankStage q idx => Sys2Proof.Machine.execBankStage q idx s
  | .faultDone q idx => Sys2Proof.Machine.execFaultDone q idx s
  | .allGather q idx => Sys2Proof.Machine.execAllGather q idx s
  | .reduceScatter q idx => Sys2Proof.Machine.execReduceScatter q idx s
  | .allReduce q idx => Sys2Proof.Machine.execAllReduce q idx s
  | .broadcast q idx => Sys2Proof.Machine.execBroadcast q idx s
  | .ringPass q idx => Sys2Proof.Machine.execRingPass q idx s
  | .scoutMax q idx => Sys2Proof.Machine.execScoutMax q idx s
  | .groupSet q idx => Sys2Proof.Machine.execGroupSet q idx s
  | .softmax q idx => Sys2Proof.Machine.execSoftmax q idx s
  | .rmsNorm q idx => Sys2Proof.Machine.execRmsNorm q idx s
  | .func q idx => Sys2Proof.Machine.execFunc q idx s
  | .testPack q idx core record matched => Sys2Proof.Machine.execTestPack q idx core record matched s
  | .memScrub q idx => Sys2Proof.Machine.execMemScrub q idx s
  | .memoryReadResponse tag beat0 beat1 data => Sys2Proof.Machine.execMemoryReadResponse tag beat0 beat1 data s
  | .memoryWriteResponse tag resp => Sys2Proof.Machine.execMemoryWriteResponse tag resp s
  | .completionRecordWrite q => Sys2Proof.Machine.execCompletionRecordWrite q s
  | .streamArm core slot desc => Sys2Proof.Machine.execStreamArm core slot desc s
  | .taskDispatch q idx core thread shape => Sys2Proof.Machine.execTaskDispatch q idx core thread shape s
  | .taskDrain core thread => Sys2Proof.Machine.execTaskDrain core thread s
  | .taskOverrun => Sys2Proof.Machine.execTaskOverrun s
  | .waitTimeout core thread => Sys2Proof.Machine.execWaitTimeout core thread s
  | .windowOpen core thread win baseU lenU acFirst acNum => Sys2Proof.Machine.execWindowOpen core thread win baseU lenU acFirst acNum s
  | .windowClose core win => Sys2Proof.Machine.execWindowClose core win s
  | .counterWait core thread counter threshold => Sys2Proof.Machine.execCounterWait core thread counter threshold s
  | .windowWrite core win gen unit ctx writer data => Sys2Proof.Machine.execWindowWrite core win gen unit ctx writer data s
  | .pageWalk cls ctx va write who => Sys2Proof.Machine.execPageWalk cls ctx va write who s
  | .faultRecordPost => Sys2Proof.Machine.execFaultRecordPost s
  | .fctrlWrite value => Sys2Proof.Machine.execFctrlWrite value s
  | .ringErrClear => Sys2Proof.Machine.execRingErrClear s
  | .faultHeadWrite value => Sys2Proof.Machine.execFaultHeadWrite value s
  | .taskReissue q idx => Sys2Proof.Machine.execTaskReissue q idx s
  | .bankSwap => Sys2Proof.Machine.execBankSwap s
  | .poolReturn => Sys2Proof.Machine.execPoolReturn s
  | .pageCopyDone lpn => Sys2Proof.Machine.execPageCopyDone lpn s
  | .pageSwitch lpn => Sys2Proof.Machine.execPageSwitch lpn s
  | .altFrameReturn lpn => Sys2Proof.Machine.execAltFrameReturn lpn s
  | .imageLoad slot tag arg0 arg1 => Sys2Proof.Machine.execImageLoad slot tag arg0 arg1 s
  | .imageCancel slot tag => Sys2Proof.Machine.execImageCancel slot tag s
  | .ctxAlloc slot tag => Sys2Proof.Machine.execCtxAlloc slot tag s
  | .ctxBind slot tag arg0 arg1 => Sys2Proof.Machine.execCtxBind slot tag arg0 arg1 s
  | .ctxRelease slot tag arg0 => Sys2Proof.Machine.execCtxRelease slot tag arg0 s
  | .coreBind slot tag arg0 arg1 => Sys2Proof.Machine.execCoreBind slot tag arg0 arg1 s
  | .unitEvent slot tag arg0 => Sys2Proof.Machine.execUnitEvent slot tag arg0 s
  | .bellLog slot tag arg0 arg1 => Sys2Proof.Machine.execBellLog slot tag arg0 arg1 s
  | .fwReady slot tag => Sys2Proof.Machine.execFwReady slot tag s
  | .mailboxDoneClear slot => Sys2Proof.Machine.execMailboxDoneClear slot s
  | .imageVerified packageAgrees => Sys2Proof.Machine.execImageVerified packageAgrees s
  | .rejectReport warmDiscard => Sys2Proof.Machine.execRejectReport warmDiscard s
  | .refold othersReady othersHold => Sys2Proof.Machine.execRefold othersReady othersHold s
  | .refoldTimeout byPeer => Sys2Proof.Machine.execRefoldTimeout byPeer s
  | .retirementRefold unit => Sys2Proof.Machine.execRetirementRefold unit s
  | .ctxFence => Sys2Proof.Machine.execCtxFence s
  | .ctxScrubDone => Sys2Proof.Machine.execCtxScrubDone s
  | .ctxScrubbed => Sys2Proof.Machine.execCtxScrubbed s
  | .coreRebind core => Sys2Proof.Machine.execCoreRebind core s
  | .seqtSelect value => Sys2Proof.Machine.execSeqtSelect value s
  | .unitHistorySelect value => Sys2Proof.Machine.execUnitHistorySelect value s
  | .perfFreeze value => Sys2Proof.Machine.execPerfFreeze value s
  | .pfTagsWrite value => Sys2Proof.Machine.execPfTagsWrite value s
  | .brthEvcntWrite value => Sys2Proof.Machine.execBrthEvcntWrite value s
  | .irqPendingClear word value => Sys2Proof.Machine.execIrqPendingClear word value s
  | .unitFaultDetected src unit uncorrected => Sys2Proof.Machine.execUnitFaultDetected src unit uncorrected s
  | .clusterResetDone cluster => Sys2Proof.Machine.execClusterResetDone cluster s
  | .spareSubstitution unit => Sys2Proof.Machine.execSpareSubstitution unit s
  | .dieLost die => Sys2Proof.Machine.execDieLost die s
  | .exchangeTimeout q idx die => Sys2Proof.Machine.execExchangeTimeout q idx die s
  | .restoration unit => Sys2Proof.Machine.execRestoration unit s
  | .historyWrite ok => Sys2Proof.Machine.execHistoryWrite ok s
  | .fwHang controlCore => Sys2Proof.Machine.execFwHang controlCore s
  | .warmReset lowCycles byReed => Sys2Proof.Machine.execWarmReset lowCycles byReed s
  | .coldReset => Sys2Proof.Machine.execColdReset s
  | .coldBoot selfTestOk => Sys2Proof.Machine.execColdBoot selfTestOk s
  | .bootReady => Sys2Proof.Machine.execBootReady s
  | .muteEnter lowAc => Sys2Proof.Machine.execMuteEnter lowAc s
  | .muteRunt lowAc => Sys2Proof.Machine.execMuteRunt lowAc s
  | .muteSideband die => Sys2Proof.Machine.execMuteSideband die s
  | .muteExit highCycles mutedCycles => Sys2Proof.Machine.execMuteExit highCycles mutedCycles s
  | .bellEventLog => Sys2Proof.Machine.execBellEventLog s
  | .bellFlush => Sys2Proof.Machine.execBellFlush s
  | .bellFlushDone ok => Sys2Proof.Machine.execBellFlushDone ok s
  | .sensorSample temps vdd arithMhz fabricMhz => Sys2Proof.Machine.execSensorSample temps vdd arithMhz fabricMhz s
  | .stateRead address => Sys2Proof.Machine.execStateRead address s
  | .fuseProgram target => Sys2Proof.Machine.execFuseProgram target s
  | .extest => Sys2Proof.Machine.execExtest s
  | .idcode => Sys2Proof.Machine.execIdcode s
  | .samplePreload => Sys2Proof.Machine.execSamplePreload s
  | .ijtag => Sys2Proof.Machine.execIjtag s
  | .bypass => Sys2Proof.Machine.execBypass s
  | .linkCodeword l0 l8 l16 l24 spares => Sys2Proof.Machine.execLinkCodeword l0 l8 l16 l24 spares s
  | .retry seq => Sys2Proof.Machine.execRetry seq s
  | .credit freed cls1 => Sys2Proof.Machine.execCredit freed cls1 s
  | .laneMap lane spare switchSeq => Sys2Proof.Machine.execLaneMap lane spare switchSeq s
  | .echo stamp echoed residence reply now => Sys2Proof.Machine.execEcho stamp echoed residence reply now s
  | .linkRetrain => Sys2Proof.Machine.execLinkRetrain s
  | .linkDown => Sys2Proof.Machine.execLinkDown s
  | .laneRetire lane failedTraining => Sys2Proof.Machine.execLaneRetire lane failedTraining s
  | .dataPacket vc dateline header first rest => Sys2Proof.Machine.execDataPacket vc dateline header first rest s
  | .agreementRecord tag record => Sys2Proof.Machine.execAgreementRecord tag record s
  | .pieceChunk tag index crc data => Sys2Proof.Machine.execPieceChunk tag index crc data s
  | .streamEndMarker tag kept crc => Sys2Proof.Machine.execStreamEndMarker tag kept crc s
  | .doneMsg tag => Sys2Proof.Machine.execDoneMsg tag s
  | .failMsg tag status detail => Sys2Proof.Machine.execFailMsg tag status detail s
  | .rejoin tag => Sys2Proof.Machine.execRejoin tag s
  | .rejoinReply tag answer => Sys2Proof.Machine.execRejoinReply tag answer s
  | .commitMsg tag => Sys2Proof.Machine.execCommitMsg tag s
  | .restartMsg tag => Sys2Proof.Machine.execRestartMsg tag s
  | .bufferWaitExpiry group => Sys2Proof.Machine.execBufferWaitExpiry group s
  | .linkTrained good peerNode peerDie echoes => Sys2Proof.Machine.execLinkTrained good peerNode peerDie echoes s
  | .bridgeTrainingDone die modules => Sys2Proof.Machine.execBridgeTrainingDone die modules s
  | .powerLoss => Sys2Proof.Machine.execPowerLoss s
  | .mailboxReservedOp slot tag op => Sys2Proof.Machine.execMailboxReservedOp slot tag op s
  | .tapReset => Sys2Proof.Machine.execTapReset s

end Sys2Proof.Machine
end

