-- ==== Sys2Proof/Safety.lean ====
section
/-! DEFINITION. What counts as a safe step and as a sound state, and how a work item ends, in the terms the statements use. -/

namespace Sys2Proof.Safety

open Sys2Proof.Machine

/-- The step answers a next state: the die neither faults nor lacks a meaning. -/
def goesOn (o : Host.Outcome State Fault Refusal) : Prop := ∃ t, o = .next t

/-- The canonical form of a table of bytes: addresses strictly rising, no byte equal to what an unlisted address reads as. -/
def Memory.wf (t : Tab Byte) : Bool := twf 0 t

/-- A die whose RST_N is low, or that has no power, holds every piece of its state at its reset value (R385, Table 15.14). -/
abbrev heldInReset (s : State) : Prop := s.rstLow = true → s = coldState s

/-- Power is out only while RST_N is low (R389): a die without power is a die in reset. -/
abbrev powerOrder (s : State) : Prop := s.powered = false → s.rstLow = true

/-- What every step keeps. -/
abbrev Sound (s : State) : Prop := heldInReset s ∧ powerOrder s

/-- RST_N is high, the supplies are valid and the die is not muted: commands take effect (R378, R385). -/
abbrev up (s : State) : Prop := still s = false

/-- Commands that reach a die held still: the pins, the supplies, the fuses and the maintenance ports (R379, R381, R389, R390,
R401, R402). -/
def reachesStill (c : Instr) : Bool :=
  match c with
  | .warmReset _ _ | .coldReset | .coldBoot _ | .powerLoss => true
  | .muteEnter _ | .muteSideband _ | .muteExit _ _ => true
  | .stateRead _ | .fuseProgram _ => true
  | .extest | .idcode | .samplePreload | .ijtag | .bypass | .tapReset => true
  | _ => false

/-- Every address of the memory side reads as before. -/
def sameMemory (s t : State) : Prop := ∀ a : Nat, tget 0 t.mem.bytes a = tget 0 s.mem.bytes a

/-- The item has ended without a commit (Table 2.8), with this status and DETAIL. -/
def ended (t : State) (q : Nat) (idx : W32) (status : Byte) (detail : W64) : Prop :=
  ∃ j, findItem t q idx = some j ∧ j.stage = .ended ∧ j.status = status ∧ j.detail = detail

/-- The item has committed (Table 2.8), with this status and DETAIL. -/
def committed (t : State) (q : Nat) (idx : W32) (status : Byte) (detail : W64) : Prop :=
  ∃ j, findItem t q idx = some j ∧ j.stage = .committed ∧ j.status = status ∧ j.detail = detail

/-- Item (q, idx) is `i`, it carries the opcode, and it may begin now or goes on executing. -/
abbrev itemReady (s : State) (q : Nat) (idx : W32) (op : Nat) (i : Item) : Prop :=
  findItem s q idx = some i ∧ i.opcode = op ∧ (mayBegin s i = true ∨ mayRun s i = true)

/-- Item (q, idx) is `i`, it carries the opcode, nothing holds it, and it has not begun and may begin now. -/
abbrev itemBegins (s : State) (q : Nat) (idx : W32) (op : Nat) (i : Item) : Prop :=
  findItem s q idx = some i ∧ i.opcode = op ∧ mayBegin s i = true ∧ i.holdKeys = [] ∧ i.retryFull = false ∧ i.ready = none

/-- A begun Paging Engine command may stage its changes: no other item has staged any, no image waits (R209, R224), and no older
change of its sequence is held (R211). -/
abbrev mayStage (s : State) (q : Nat) (idx : W32) : Prop :=
  stagingBusy s q idx = false ∧ seqStaging s = false ∧ (findItem s q idx).all (fun i => !orderHeld s i) = true

/-- The answer to a write lets nothing else reach memory: no stream of its core waits to issue, it belongs to no Paging Engine item
and to no copy of a page, and its item has not failed with POISON and has no output in memory yet. -/
abbrev answersAlone (s : State) (r : Req) : Prop :=
  (∀ p ∈ (getCore s r.pool).slots, p.2.todo = []) ∧ (∀ l f x, r.owner ≠ .copy l f x) ∧
    ∀ q idx, (r.owner = .output q idx ∨ ∃ c i g, r.owner = .drain c i g q idx) →
      engineOf q ≠ 1 ∧ ∀ it, findItem s q idx = some it → it.status ≠ 0x20 ∧ it.landed = []

/-- The commit journal's write of an item has gone out: from s to t the requests gain `js`, which are some writes of the item under
context 0x000 (R206, R210, R241). -/
abbrev journalOut (s t : State) (q : Nat) (idx : W32) (js : List Req) : Prop :=
  t.mem.reqs = s.mem.reqs ++ js ∧ js ≠ [] ∧ ∀ r ∈ js, r.owner = .output q idx ∧ r.write = true ∧ r.ctx = 0

/-- No part or merge task runs: no record of a row block is exchanged (R160). -/
abbrev noParts (s : State) : Prop := ∀ k ∈ s.tasks, k.shape.kind ≠ .part ∧ k.shape.kind ≠ .merge

/-- A task on the core's thread, of this item, which is no member of a group's operation, may begin its drain (R67, R253). -/
abbrev drainBegins (s : State) (core thread : Nat) (k : Task) (it : Item) : Prop :=
  findTask s core thread = some k ∧ findItem s k.q k.idx = some it ∧ mayDrain s k it = true ∧ opOf s k.q k.idx = none

/-- What a drain writes: the outputs of the task's rows and what its write streams hold back. -/
abbrev drainAll (s : State) (k : Task) (outs : List Out) : List Out := outs ++ (streamOuts s k).map (fun d => d.out)

/-- Every write of a drain: its outputs, its write streams and, with the item's last rows, the check entries of all that the item
wrote (R264, R267). -/
def drainList (s : State) (k : Task) (it : Item) (outs : List Out) (last : Bool) : List DrainOut :=
  let out := fun (pool : Nat) (o : Out) => ({ owner := .output k.q k.idx, pool := pool, out := o } : DrainOut)
  outs.map (out k.core) ++ streamOuts s k ++ (if last then (checkOuts s (it.written ++ drainAll s k outs)).map (out 67) else [])

/-- The writes of a drain translate as these requests; the addresses of the check entries of what it writes translate at every
drain (R264, R267). -/
def drainSends (s : State) (k : Task) (it : Item) (outs : List Out) (last : Bool)
    (bs : List (DrainOut × W64 × Nat × List Byte)) : Prop :=
  (∃ cs, allBlocks s k.ctx (checkOuts s (drainAll s k outs)) = .ok cs) ∧ drainBlocks s k.ctx (drainList s k it outs last) = .ok bs

/-- Some write of a drain does not translate, the check entries' first. -/
def drainFails (s : State) (k : Task) (it : Item) (outs : List Out) (last : Bool) (e : MErr) : Prop :=
  allBlocks s k.ctx (checkOuts s (drainAll s k outs)) = .error e ∨
    ((∃ cs, allBlocks s k.ctx (checkOuts s (drainAll s k outs)) = .ok cs) ∧ drainBlocks s k.ctx (drainList s k it outs last) = .error e)

/-- A drain has gone out: its thread is free, its item has these rows drained and has written these outputs, each request waits
for its answer, no byte of memory has changed (R163), and the item commits with its last rows once no write is outstanding. -/
def drained (s t : State) (k : Task) (it : Item) (rows : List Nat) (outs : List Out)
    (bs : List (DrainOut × W64 × Nat × List Byte)) : Prop :=
  findTask t k.core k.thread = none ∧ sameMemory s t ∧ t.queues = s.queues ∧
    (∃ j, findItem t k.q k.idx = some j ∧ j.drained = rows ∧ j.written = it.written ++ drainAll s k outs ∧
      j.stage = if it.nRows ≤ rows.length ∧ outputsLeft t k.q k.idx = 0 then .committed else .executing) ∧
    t.mem.reqs.map (fun r => { r with tag := none }) =
      s.mem.reqs.map (fun r => { r with tag := none }) ++ bs.map (fun b => writeReq b.1.owner b.1.pool (some k.thread) k.ctx b.2)

/-- A command of the host or firmware can be taken from its mailbox slot (R331). -/
abbrev slotFree (s : State) (x : Slot) : Prop := cannotTake s x = false

/-- The slot has answered the request under `tag`: BUSY is clear, DONE set, and the response register holds this code and
result (R331). -/
abbrev answered (t : State) (x : Slot) (tag : W16) (code result : Nat) : Prop :=
  (mail t x).busy = false ∧ (mail t x).done = true ∧ (mail t x).rspTag = tag ∧ (mail t x).code.toNat = code ∧
    (mail t x).result.toNat = result

/-- The slot takes a request and can post its answer at once. -/
abbrev slotReady (s : State) (x : Slot) : Prop := slotFree s x ∧ (mail s x).done = false

end Sys2Proof.Safety
end

