-- ==== Sys2Proof/Certificates/Slice0/Obligations.lean ====
section
/-! DEFINITION. The statements about the model that the provers are asked to prove. `up s` is a die with RST_N high, valid
supplies and no Mute. Each docstring names the rules of spec/ that the statement rests on. -/

open Sys2Proof Sys2Proof.Machine Sys2Proof.Safety

/-! ### The queue of waiting commands, reset and the whole machine -/

/-- A step gives the command at the front of the queue its effect, with the rest of the queue left waiting; with no command
waiting the block idles (log 2).
The idle step is the model's choice (log 2). -/
def Obligations.StepRunsTheFrontCommand : Prop :=
  (∀ (c : Instr) (rest : List Instr) (s : State), step { s with pending := c :: rest } = exec c { s with pending := rest }) ∧
  (∀ s : State, s.pending = [] → step s = .next s)

/-- Every command answers a next state, and none adds to the waiting commands or changes the CASC_ID pins.
That no command stops is this model's reading of a block without exceptions (log 15). -/
def Obligations.EveryCommandAnswersAndAddsNoCommand : Prop :=
  ∀ (c : Instr) (s : State), ∃ t, exec c s = .next t ∧ t.pending = s.pending ∧ t.cascId = s.cascId

/-- Commands are taken first in, first out: after n steps exactly the first n have been taken.
The queue is the model's form of the sender (logs 1, 2). -/
def Obligations.CommandsAreTakenInOrder : Prop :=
  ∀ (n : Nat) (s t : State), Sys2Proof.core.run n s = .next t → t.pending = s.pending.drop n

/-- State.reset meets the invariant of EveryStepKeepsTheInvariant, its memory is in canonical form, and no byte is listed.
That no byte is listed is the model's choice of what memory reads before any write (log 5). -/
def Obligations.ResetMeetsTheInvariant : Prop :=
  Sound State.reset ∧ Memory.wf State.reset.mem.bytes = true ∧ (∀ a : Nat, tget 0 State.reset.mem.bytes a = 0)

/-- Every step keeps: a die whose RST_N is low holds every piece of its state at its reset value, and power is out only while
RST_N is low.
Powered only as the model keeps it (log 71). -/
def Obligations.EveryStepKeepsTheInvariant : Prop := ∀ s t : State, Sound s → step s = .next t → Sound t

/-- A die in reset, without power or muted is reached by the pins, the supplies, the fuse programmer and the test access
port alone: any other command leaves every bit of its state.
Which commands reach such a die is the model's reading (log 15). -/
def Obligations.StillDieKeepsEveryBit : Prop :=
  ∀ (c : Instr) (s : State), still s = true → reachesStill c = false → exec c s = .next s

/-- The fuses in effect change at COLD_BOOT alone, which puts into effect what was programmed before it.
What has been programmed stays: LOCK, a manufacturer code, a revoke bit and a key-slot digest are never taken back, and
with LOCK programmed neither digests nor the manufacturer code change.
FUSE_PROGRAM on a powered die with RST_N low programs an empty key slot, the manufacturer code once, a revoke bit and
LOCK; with RST_N high it has no effect. Everything else of the die stays. -/
def Obligations.FusesAreProgrammedInResetAndKept : Prop :=
  ((∀ (c : Instr) (s t : State), exec c s = .next t → (∀ ok, c ≠ .coldBoot ok) → t.fuses = s.fuses) ∧
   (∀ (ok : Bool) (s : State), s.rstLow = true →
     ∃ t, exec (.coldBoot ok) s = .next t ∧ t.fuses = s.newFuses ∧ t.rstLow = false ∧ t.powered = true)) ∧
  (∀ (c : Instr) (s t : State), exec c s = .next t →
     (s.newFuses.lock = true → t.newFuses.lock = true ∧ t.newFuses.digests = s.newFuses.digests ∧ t.newFuses.mfr = s.newFuses.mfr) ∧
     (s.newFuses.mfrSet = true → t.newFuses.mfrSet = true ∧ t.newFuses.mfr = s.newFuses.mfr) ∧
     (∀ n ∈ s.newFuses.revoked, n ∈ t.newFuses.revoked) ∧
     (∀ p ∈ s.newFuses.digests, p ∈ t.newFuses.digests)) ∧
  (∀ s : State,
     (s.rstLow = false → ∀ f, exec (.fuseProgram f) s = .next s) ∧
     (s.rstLow = true → s.powered = true →
       (∀ n v, n < 4 → s.newFuses.lock = false → (∀ p ∈ s.newFuses.digests, p.1 ≠ n) →
         ∃ t, exec (.fuseProgram (.digest n v)) s = .next t ∧ (n, v) ∈ t.newFuses.digests ∧ t = { s with newFuses := t.newFuses }) ∧
       (∀ v, s.newFuses.lock = false → s.newFuses.mfrSet = false →
         exec (.fuseProgram (.mfr v)) s = .next { s with newFuses := { s.newFuses with mfr := v, mfrSet := true } }) ∧
       (∀ n, n < 4 → ∃ t, exec (.fuseProgram (.revoke n)) s = .next t ∧ n ∈ t.newFuses.revoked ∧ t = { s with newFuses := t.newFuses }) ∧
       exec (.fuseProgram .lock) s = .next { s with newFuses := { s.newFuses with lock := true } }))

/-! ### Registers (chapters 03, 10, 12, 16, 17, 19) -/

/-- R66: a write to KQ_BRTH_EVCNT clears each field written as zero and leaves every other field and the rest of the die; a
runt, an entry into free-run, a stray and an overrun each count one, up to 0xFFFF. -/
def Obligations.EventCountersSaturateAndClearFieldByField : Prop :=
  (∀ (s : State) (v : W64), up s →
    exec (.brthEvcntWrite v) s = .next { s with breath := { s.breath with
      runtCnt := if fld v 63 48 = 0 then 0 else s.breath.runtCnt
      missedCnt := if fld v 47 32 = 0 then 0 else s.breath.missedCnt
      strayCnt := if fld v 31 16 = 0 then 0 else s.breath.strayCnt
      overrunCnt := if fld v 15 0 = 0 then 0 else s.breath.overrunCnt } }) ∧
  (∀ s : State, (runtPulse s).breath.runtCnt.toNat = min (s.breath.runtCnt.toNat + 1) 0xFFFF) ∧
  (∀ (s : State) (l : Nat), (enterFreeRun s l).breath.missedCnt.toNat = min (s.breath.missedCnt.toNat + 1) 0xFFFF) ∧
  (∀ s : State, (countStray s).breath.strayCnt.toNat = min (s.breath.strayCnt.toNat + 1) 0xFFFF) ∧
  (∀ (s : State) (k : Task), findTask s k.core k.thread = some k → pastDeadline s k = true →
    (∀ it, findItem s k.q k.idx = some it → isLong s it k.shape = false) →
    (overrunOne s k).breath.overrunCnt.toNat = min (s.breath.overrunCnt.toNat + 1) 0xFFFF)

/-- R360: a write to KQ_UH_SEL latches the history record of its unit code, a reserved code one of zeros, and the two data
registers return its 16 bytes of Table 16.8, little-endian. At reset the three read zero. -/
def Obligations.UnitHistorySelectLatchesTheRecord : Prop :=
  (∀ o ∈ [0x310, 0x318, 0x320], readReg State.reset o = 0) ∧
  (∀ (s : State) (v : W64), up s →
    let u : W16 := BitVec.ofNat 16 v.toNat
    let r := if unitValid u then getUnit s u else {}
    let bytes := toLE 1 r.st.toNat ++ toLE 1 r.role.toNat ++ toLE 2 r.ue.toNat ++ toLE 4 r.ce.toNat
      ++ toLE 2 r.ceWin.toNat ++ toLE 2 r.tfail.toNat ++ toLE 4 r.changed.toNat
    let t := { s with uhSel := u, uhData := r }
    exec (.unitHistorySelect v) s = .next t ∧ (readReg t 0x310).toNat = v.toNat % 2 ^ 16 ∧
      toLE 8 (readReg t 0x318).toNat = bytes.take 8 ∧ toLE 8 (readReg t 0x320).toNat = bytes.drop 8)

/-- R226: a write to KQ_SEQT_SEL latches the entry of the selected bank, and KQ_SEQT_DATA_k returns its bytes 8k to 8k + 7; at reset they read zero. -/
def Obligations.SequenceSelectLatchesTheEntry : Prop :=
  (∀ k, k < 8 → readReg State.reset (0x440080 + 8 * k) = 0) ∧
  (∀ (s : State) (v : W64), up s →
    let e := tget {} (if v.getLsbD 16 then s.pg.inactive else s.pg.active) (v.toNat % 2 ^ 16)
    ∃ t, exec (.seqtSelect v) s = .next t ∧ t.pg.latched = e ∧ t.pg.selBank = v.getLsbD 16 ∧ t.pg.selIndex.toNat = v.toNat % 2 ^ 16 ∧
      t = { s with pg := { s.pg with latched := t.pg.latched, selIndex := t.pg.selIndex, selBank := t.pg.selBank } } ∧
      (∀ k, k < 8 → toLE 8 (readReg t (0x440080 + 8 * k)).toNat = ((seqBytes e).drop (8 * k)).take 8))

/-- KQ_PERF_CTRL.FREEZE and KQ_STR_CTRL.PF_TAGS take a write, values of PF_TAGS above 512 are ignored; KQ_TR_FPTR takes HEAD
alone; nothing else changes.
A write of pending bits clears those written as 1 and no other, and nothing else of the die changes (R409). -/
def Obligations.PolicyAndPendingWritesChangeTheirFieldsAlone : Prop :=
  (∀ (s : State) (v : W64), up s →
     exec (.perfFreeze v) s = .next { s with perf := { s.perf with freeze := v.getLsbD 0 } } ∧
     (fld v 9 0 ≤ 512 → exec (.pfTagsWrite v) s = .next { s with str := { s.str with pfTags := BitVec.ofNat 10 (fld v 9 0) } }) ∧
     (512 < fld v 9 0 → exec (.pfTagsWrite v) s = .next s) ∧
     exec (.faultHeadWrite v) s = .next { s with tr := { s.tr with head := BitVec.ofNat 32 (fld v 63 32) } }) ∧
  (∀ (s : State) (v : W64), up s →
     (∃ t, exec (.irqPendingClear 0 v) s = .next t ∧ t = { s with irq := { s.irq with gstat := t.irq.gstat } } ∧
       ∀ b, b < 6 → t.irq.gstat.getLsbD b = (s.irq.gstat.getLsbD b && !v.getLsbD b)) ∧
     (∀ k, k < 7 → ∃ t, exec (.irqPendingClear (k + 1) v) s = .next t ∧ t = { s with irq := { s.irq with qpend := t.irq.qpend } } ∧
       ∀ b, b < 392 → t.irq.qpend.getLsbD b =
         (s.irq.qpend.getLsbD b && !(decide (64 * k ≤ b) && decide (b < 64 * k + 64) && v.getLsbD (b - 64 * k)))))

/-- R410: KQ_IRQ[n] is high while some source of Table 19.5 has its pending bit at 1, its enable at 1 and its line equal to n. -/
def Obligations.InterruptLineFollowsItsSources : Prop :=
  ∀ (s : State) (n : Nat), irqLevel s n = true ↔
    (s.irq.gstat.getLsbD 0 = true ∧ s.irq.breathEn = true ∧ s.irq.breathLine.toNat = n) ∨
    (s.irq.gstat.getLsbD 1 = true ∧ s.irq.mailboxEn = true ∧ s.irq.mailboxLine.toNat = n) ∨
    (s.irq.gstat.getLsbD 2 = true ∧ s.irq.capacityEn = true ∧ s.irq.capacityLine.toNat = n) ∨
    (s.irq.gstat.getLsbD 3 = true ∧ s.bell.irqEn = true ∧ s.irq.bellLine.toNat = n) ∨
    (s.irq.gstat.getLsbD 4 = true ∧ s.irq.sensorEn = true ∧ s.irq.sensorLine.toNat = n) ∨
    (s.irq.gstat.getLsbD 5 = true ∧ s.tr.fIrqEn = true ∧ s.tr.fIrqLine.toNat = n) ∨
    (∃ p ∈ s.queues, s.irq.qpend.getLsbD p.1 = true ∧ p.2.irqEn = true ∧ p.2.irqLine.toNat = n)

/-- REGISTER_WRITE: a 32-bit write, one that is not 8-byte aligned, and one to the reserved range from 0x003_0000 have no
effect, and that range reads as zero; writes to registers with rows of their own do what those rows do; the enables and
lines of interrupts take a write, W1C bits clear where a 1 is written. -/
def Obligations.RegisterWritesActAtTheirOffsets : Prop :=
  ∀ (s : State) (v : W64), up s →
    (∀ o, exec (.registerWrite o false v) s = .next s) ∧
    (∀ o, o % 8 ≠ 0 → exec (.registerWrite o true v) s = .next s) ∧
    (∀ o, 0x30000 ≤ o → o < 0x40000 → exec (.registerWrite o true v) s = .next s ∧ readReg s o = 0) ∧
    (∀ q, q < 392 → exec (.registerWrite (0x20000 + 8 * q) true v) s = exec (.doorbellWrite q true v) s ∧
      exec (.registerWrite (0x40000 + 64 * q) true v) s = exec (.qctrlWrite q v) s) ∧
    exec (.registerWrite 0x118 true v) s = exec (.brthEvcntWrite v) s ∧
    exec (.registerWrite 0x310 true v) s = exec (.unitHistorySelect v) s ∧
    exec (.registerWrite 0x600 true v) s = exec (.perfFreeze v) s ∧
    exec (.registerWrite 0x800 true v) s = exec (.irqPendingClear 0 v) s ∧
    exec (.registerWrite 0x400018 true v) s = exec (.fctrlWrite v) s ∧
    exec (.registerWrite 0x400020 true v) s = exec (.faultHeadWrite v) s ∧
    exec (.registerWrite 0x410000 true v) s = exec (.pfTagsWrite v) s ∧
    exec (.registerWrite 0x440060 true v) s = exec (.seqtSelect v) s ∧
    exec (.registerWrite 0x808 true v) s = .next { s with irq := { s.irq with
      sensorEn := v.getLsbD 4, capacityEn := v.getLsbD 2, mailboxEn := v.getLsbD 1, breathEn := v.getLsbD 0 } } ∧
    exec (.registerWrite 0x110 true v) s = .next { s with breath := { s.breath with
      stray := s.breath.stray && !v.getLsbD 4, renum := s.breath.renum && !v.getLsbD 3
      overrun := s.breath.overrun && !v.getLsbD 2, miss := s.breath.miss && !v.getLsbD 1 } } ∧
    exec (.registerWrite 0x300 true v) s = .next { s with capev := { s.capev with pending := s.capev.pending && !v.getLsbD 0 } }

/-! ### The tick (chapter 03) -/

/-- BREATH_IN_PULSE (R57, R58, R60): a pulse within 16 low fc of the last accepted one changes nothing; one that falls
before its 16th high fc is a runt; an accepted one is a boundary when it falls within E ± GUARD, or when the die has not
yet taken a boundary, and ends free-run when it follows the die's own boundary by at most GUARD (no second boundary) or
falls at P / 2 or later (a boundary). Any other one is a stray, and moves nothing but the stray's bit and count.
LAST_ERR (R58): the difference rounded to the nearest multiple of 10 ns, ties away from zero, held between −127 and
127, and written at a synchronised boundary. -/
def Obligations.BreathPulsesAreSortedAndRounded : Prop :=
  (∀ (s : State) (lowFc highFc at_ : Nat), up s →
     (s.breath.pulseLock = true ∧ lowFc < 16 → exec (.breathInPulse lowFc highFc at_) s = .next s) ∧
     (¬(s.breath.pulseLock = true ∧ lowFc < 16) →
       let stray := exec (.breathInPulse lowFc highFc at_) s = .next { s with breath := { s.breath with
         pulseLock := true, stray := true, strayCnt := satAdd s.breath.strayCnt 1 } }
       let opens := ∃ t, exec (.breathInPulse lowFc highFc at_) s = .next t ∧ t.breath.num = nextNum s.breath ∧
         t.breath.freeRun = false ∧ t.breath.fromTimer = false ∧ t.breath.started = true ∧ t.breath.pulseLock = true ∧
         t.breath.strayCnt = s.breath.strayCnt ∧ t.breath.missedCnt = s.breath.missedCnt
       (highFc < 16 → exec (.breathInPulse lowFc highFc at_) s = .next { s with breath := { s.breath with
         pulseLock := false, runtCnt := satAdd s.breath.runtCnt 1 } }) ∧
       (16 ≤ highFc → s.breath.freeRun = false → s.breath.started = false → opens) ∧
       (16 ≤ highFc → s.breath.freeRun = false → s.breath.started = true →
         ((at_ ≤ periodPs s + guardPs s ∧ periodPs s ≤ at_ + guardPs s → opens) ∧
           (periodPs s + guardPs s < at_ ∨ at_ + guardPs s < periodPs s → stray))) ∧
       (16 ≤ highFc → s.breath.freeRun = true →
         ((s.breath.fromTimer = true ∧ at_ ≤ guardPs s → exec (.breathInPulse lowFc highFc at_) s = .next { s with breath :=
             { s.breath with pulseLock := true, freeRun := false, fromTimer := false, late := at_ } }) ∧
           (¬(s.breath.fromTimer = true ∧ at_ ≤ guardPs s) → periodPs s ≤ 2 * at_ → opens) ∧
           (¬(s.breath.fromTimer = true ∧ at_ ≤ guardPs s) → 2 * at_ < periodPs s → stray))))) ∧
  ((∀ d : Int, d.natAbs ≤ 1274999 →
     ((lastErr d).toInt * 10000 - d).natAbs ≤ 5000 ∧
     (((lastErr d).toInt * 10000 - d).natAbs = 5000 → d.natAbs < ((lastErr d).toInt * 10000).natAbs)) ∧
   (∀ d : Int, 1275000 ≤ d → (lastErr d).toInt = 127) ∧
   (∀ d : Int, d ≤ -1275000 → (lastErr d).toInt = -127) ∧
   (∀ (s : State) (at_ : Nat), up s → s.breath.pulseLock = false → s.breath.freeRun = false → s.breath.started = true →
     at_ ≤ periodPs s + guardPs s → periodPs s ≤ at_ + guardPs s →
     ∃ t, exec (.breathInPulse 16 16 at_) s = .next t ∧ t.breath.lastErr = lastErr ((at_ : Int) - periodPs s)))

/-- Boundaries from the die's own timer (R53, R59, R60, R64): with no pulse by E + GUARD the die takes the boundary, enters
free-run, counts it once and sets the BREATH pending bit; in free-run every further one only takes the boundary. The number
opened is one more, or an announced larger one, with RENUM where the two differ; it never decreases.
The breath markers and BREATH_OUT (R56, R62, R310): the master with SRC = TIMER raises BREATH_OUT; the root sends the
number of the next boundary with 1,000 ns to go, less its residence, over its marked link with one more link counted and
over every bridge that is up; a marker with negative time is a stray wherever it arrives; a following master keeps the one
from its UP_DIE, less its transit, and raises BREATH_OUT when it counts down; every die that holds a marker knows then the number
of its next boundary (R64).
Where late markers count as strays is the model's reading (log 55). -/
def Obligations.MissedBreathsAndMarkers : Prop :=
  (∀ s : State, up s →
     (s.breath.freeRun = true → exec .breathMiss s = .next s) ∧
     (s.breath.freeRun = false → exec .freeRunBoundary s = .next s) ∧
     (s.breath.freeRun = false → s.breath.started = false → s.cascId ≠ 0 → exec .breathMiss s = .next s) ∧
     (s.breath.freeRun = false → s.breath.started = true ∨ s.cascId = 0 →
       ∃ t, exec .breathMiss s = .next t ∧ t.breath.num = nextNum s.breath ∧ t.breath.freeRun = true ∧ t.breath.miss = true ∧
         t.breath.missedCnt = satAdd s.breath.missedCnt 1 ∧ t.irq.gstat.getLsbD 0 = true ∧ t.breath.fromTimer = true ∧
         t.breath.renum = (s.breath.renum || renumbers s.breath) ∧ t.breath.announced = none) ∧
     (s.breath.freeRun = true →
       ∃ t, exec .freeRunBoundary s = .next t ∧ t.breath = { s.breath with
         num := nextNum s.breath, renum := s.breath.renum || renumbers s.breath, announced := none, started := true,
         fromTimer := true, late := 0 }) ∧
     (∀ m, s.breath.announced = some m → s.breath.num.toNat + 1 < 2 ^ 64 →
       (nextNum s.breath).toNat = max (s.breath.num.toNat + 1) m.b.toNat ∧
       (renumbers s.breath = true ↔ m.b.toNat ≠ s.breath.num.toNat + 1)) ∧
     (s.breath.announced = none → s.breath.num.toNat + 1 < 2 ^ 64 → (nextNum s.breath).toNat = s.breath.num.toNat + 1)) ∧
  (∀ s : State, up s →
     exec .breathPulseTimer s = .next (if s.cascId = 0 ∧ s.breath.src = 0 then { s with sent := s.sent ++ [.breathOut] } else s) ∧
     (∀ r : Nat, s.cascId = 0 → s.breath.src = 0 →
       let m : Marker := { b := s.breath.num + 1, remaining := 256000, hops := 0 }
       let overLink := if s.link.markerOut then [Sent.marker .link { m with remaining := 256000 - (r : Int), hops := 1 }] else []
       let overBridges := (bridgesUp s).map (fun d => Sent.marker (.bridge d) m)
       ∃ t words, exec (.markerSend r) s = .next t ∧ t.sent = s.sent ++ overLink ++ words ++ overBridges ∧
         (s.link.markerOut = false ∨ s.link.st ≠ 2 → words = []) ∧
         t = { s with sent := t.sent, link := t.link, cle := { s.cle with vctr := t.cle.vctr } } ∧
         (s.link.markerOut = false → t.link = s.link)) ∧
     (∀ r, s.cascId ≠ 0 ∨ s.breath.src ≠ 0 → exec (.markerSend r) s = .next s) ∧
     (∀ d b rem hops r, rem < 0 → exec (.breathMarker (.bridge d) b rem hops r) s = .next { s with breath := { s.breath with
       stray := true, strayCnt := satAdd s.breath.strayCnt 1 } }) ∧
     (∀ d b rem hops (r : Nat), (r : Int) ≤ rem → s.cascId = 0 → s.breath.src = 1 → s.breath.upDie.toNat = d →
       ∃ t, exec (.breathMarker (.bridge d) b rem hops r) s = .next t ∧
         t.breath = { s.breath with marker := some { b := b, remaining := rem - r, hops := hops }, hops := BitVec.ofNat 4 hops.toNat }) ∧
     (∀ b rem hops r, rem < s.link.lat.toNat → exec (.breathMarker .link b rem hops r) s = .next { s with breath := { s.breath with
       stray := true, strayCnt := satAdd s.breath.strayCnt 1 } }) ∧
     (∀ m, s.breath.marker = some m → s.cascId = 0 → s.breath.src = 1 →
       exec .markerCountdown s = .next { s with breath := { s.breath with marker := none, announced := some m }, sent := s.sent ++ [.breathOut] }) ∧
     (∀ m, s.breath.marker = some m → s.cascId ≠ 0 →
       exec .markerCountdown s = .next { s with breath := { s.breath with marker := none, announced := some m } }) ∧
     (s.breath.marker = none → exec .markerCountdown s = .next s))

/-! ### Queues (chapter 02) -/

/-- R34, R35: a boundary enables a closed queue whose EN reads 1 when LOG2_SIZE is 1 to 16 and both rings are aligned to
their sizes, with all four counters at zero and NEG_VER at 0x00; else it clears EN and sets DB_ERR with the queue's
interrupt.
R31: at a boundary a queue that admits, and is alone in that, has its next A commands admitted in ring order: as many as
its doorbell covers, its completion ring has room for, the item store holds, and ADMIT_MAX allows when it is not zero.
When a die runs is the model's reading (log 17), and so is the order of the changes of one boundary (log 51). -/
def Obligations.ABoundaryEnablesAndAdmits : Prop :=
  (∀ (s : State) (q : Nat), up s → s.breath.freeRun = true → s.reed.warm = false → q < 392 →
     (getQ s q).st = 0 → (getQ s q).en = true →
     let v := getQ s q
     let n := v.log2.toNat
     let legal := 1 ≤ n ∧ n ≤ 16 ∧ v.cmdBase.toNat % 2 ^ (6 + n) = 0 ∧ v.cplBase.toNat % 2 ^ (5 + n) = 0
     ∃ t, exec .freeRunBoundary s = .next t ∧
       (legal → (getQ t q).st = 1 ∧ (getQ t q).en = true ∧ (getQ t q).accHead = 0 ∧ (getQ t q).cplTail = 0 ∧
         (getQ t q).cmdTail = 0 ∧ (getQ t q).cplHead = 0 ∧ (getQ t q).negVer = 0) ∧
       (¬legal → (getQ t q).st = 0 ∧ (getQ t q).en = false ∧ (getQ t q).dbErr = true ∧ t.irq.qpend.getLsbD q = true)) ∧
  (∀ (s : State) (q : Nat), up s → s.breath.freeRun = true → running s = true → s.reed.binds = [] →
     (∀ p ∈ s.queues, p.2.st = 0 ∨ p.2.en = true) → (s.queues.filter (fun p => admits p.2)).map (fun p => p.1) = [q] →
     let v := getQ s q
     let head := v.accHead + BitVec.ofNat 32 ((s.items.filter (fun i => i.q = q && i.stage = .admitted)).length)
     let room := min (v.cmdTail - head).toNat (min (2 ^ v.log2.toNat - (head - v.cplHead).toNat) (8192 - s.items.length))
     let a := if v.admitMax = 0 then room else min room v.admitMax.toNat
     ∃ t, exec .freeRunBoundary s = .next t ∧
       t.items.map (fun i => (i.q, i.idx)) = s.items.map (fun i => (i.q, i.idx)) ++ (List.range a).map (fun k => (q, head + BitVec.ofNat 32 k)) ∧
       ((∀ i ∈ s.items, i.q = q → ∀ k, k < a → i.idx ≠ head + BitVec.ofNat 32 k) →
         ∀ k, k < a → ∃ i, t.items[s.items.length + k]? = some i ∧ i.stage = .admitted ∧
           i.behind = (decide (0 < k) || s.items.any (fun x => x.q = q))) ∧
       (getQ t q).short = v.short)

/-- R28 and R29: only a 64-bit write to a queue that is not closed acts; it is discarded whole, with DB_ERR and the queue's
interrupt, when either counter would be more than the ring away, and else both counters are taken, as a read returns. -/
def Obligations.DoorbellsAreTakenOrDiscardedWhole : Prop :=
  ∀ (s : State) (q : Nat) (w : W64), up s → q < 392 → queuePresent s q = true →
    let v := getQ s q
    let tail : W32 := w.setWidth 32
    let head : W32 := (w >>> 32).setWidth 32
    let bad := 2 ^ v.log2.toNat < (tail - v.accHead).toNat ∨ 2 ^ v.log2.toNat < (v.cplTail - head).toNat
    exec (.doorbellWrite q false w) s = .next s ∧
    (v.st = 0 → exec (.doorbellWrite q true w) s = .next s) ∧
    (v.st ≠ 0 → bad → ∃ t, exec (.doorbellWrite q true w) s = .next t ∧ getQ t q = { v with dbErr := true } ∧
      t.irq.qpend.getLsbD q = true ∧ (∀ p, p ≠ q → getQ t p = getQ s p) ∧
      t = { s with queues := t.queues, irq := { s.irq with qpend := t.irq.qpend } }) ∧
    (v.st ≠ 0 → ¬bad → ∃ t, exec (.doorbellWrite q true w) s = .next t ∧ getQ t q = { v with cmdTail := tail, cplHead := head } ∧
      readReg t (0x20000 + 8 * q) = w ∧ (∀ p, p ≠ q → getQ t p = getQ s p) ∧ t = { s with queues := t.queues })

/-- The life of a queue's configuration. KQ_QCTRL of a queue that the die has takes its policy fields always, LOG2_SIZE while
STATE reads closed, and EN while the queue is not closing (R34, R36); a queue that the die lacks takes nothing (R4).
QUEUE_CLOSED (R36): at the boundary at which a closing queue holds no item, the queue is closed with all counters at zero; a queue
that is not closing or holds items stays.
CPL_ERR_CLEAR (R37): STATE returns to its value before the stop, and the record of the queue's oldest item, when the item has
one to write, is written to its slot; a queue without CPL_ERR stays.
That a boundary's changes come before the breath's work is the model's form of R72 (log 76). -/
def Obligations.QueueConfigurationAndClosing : Prop :=
  ∀ (s : State) (q : Nat), up s →
    (∀ w : W64, queuePresent s q = true → ∃ t, exec (.qctrlWrite q w) s = .next t ∧
      getQ t q = { getQ s q with
        admitMax := BitVec.ofNat 16 (fld w 47 32), irqEn := w.getLsbD 19, irqLine := BitVec.ofNat 3 (fld w 18 16)
        log2 := if (getQ s q).st = 0 then BitVec.ofNat 5 (fld w 12 8) else (getQ s q).log2
        en := if (getQ s q).closing then (getQ s q).en else w.getLsbD 0 } ∧
      (∀ p, p ≠ q → getQ t p = getQ s p) ∧ t = { s with queues := t.queues }) ∧
    (∀ w : W64, queuePresent s q = false → exec (.qctrlWrite q w) s = .next s) ∧
    (s.edge = true → (getQ s q).closing = true → (∀ i ∈ s.items, i.q ≠ q) →
      ∃ t, exec (.queueClosed q) s = .next t ∧ t = { s with queues := t.queues } ∧ (∀ p, p ≠ q → getQ t p = getQ s p) ∧
        getQ t q = { getQ s q with st := 0, closing := false, accHead := 0, cplTail := 0, cmdTail := 0, cplHead := 0,
                                   negVer := 0, en := false }) ∧
    (s.edge = false ∨ (getQ s q).closing = false ∨ (∃ i ∈ s.items, i.q = q) → exec (.queueClosed q) s = .next s) ∧
    ((getQ s q).cplErr = true → queuePresent s q = true →
      let v := getQ s q
      let due := fun (i : Item) => v.stBeforeStop ≠ 3 ∧
        (i.stage = .recordFailed ∨ i.stage = .committed ∨ (i.stage = .ended ∧ outputsLeft s q i.idx = 0))
      let cleared := fun (t : State) => getQ t q = { v with cplErr := false, st := v.stBeforeStop } ∧ ∀ p, p ≠ q → getQ t p = getQ s p
      (∀ i, s.items.find? (fun x => x.q = q) = some i → due i →
        ∃ t tag, exec (.cplErrClear q) s = .next t ∧ cleared t ∧ findItem t q i.idx = some { i with stage := .recordSent } ∧
          (let pa := v.cplBase.toNat + 32 * (v.cplTail.toNat % 2 ^ v.log2.toNat)
           let r : Req := { tag := tag, pool := 67, owner := .record q i.idx, write := true, pa := pa, len := 32
                            data := recordBytes i (phaseOf v.cplTail v.log2.toNat), ctx := 0, addr := 0 }
           t.mem.reqs = s.mem.reqs ++ [r]) ∧
          t = { s with queues := t.queues, items := t.items, mem := { s.mem with reqs := t.mem.reqs } }) ∧
      ((∀ i, s.items.find? (fun x => x.q = q) = some i → ¬due i) →
        ∃ t, exec (.cplErrClear q) s = .next t ∧ cleared t ∧ t = { s with queues := t.queues })) ∧
    ((getQ s q).cplErr = false ∨ queuePresent s q = false → exec (.cplErrClear q) s = .next s)

/-- COMPLETION_RECORD_WRITE (R21, R27, R37, R40, R48): the record of the queue's oldest item, once that item has committed,
has ended with no output write outstanding, or failed to be written, goes to slot CPL_TAIL mod 2ⁿ with its PHASE; a stopped queue
holds it; no byte of memory changes before the memory side answers.
The answer to a completion-record write (R37, R50): OK advances CPL_TAIL, removes the item and raises the queue's
interrupt when its flag or a failure asks for it; poison stops the queue with CPL_ERR, keeping the item and its record. -/
def Obligations.RecordsAreWrittenAndAnsweredInOrder : Prop :=
  (∀ (s : State) (q : Nat) (i : Item), up s → s.items.find? (fun x => x.q = q) = some i →
     let v := getQ s q
     let ready := i.stage = .committed ∨ (i.stage = .ended ∧ outputsLeft s q i.idx = 0) ∨ i.stage = .recordFailed
     let phase := if v.cplTail.toNat / 2 ^ v.log2.toNat % 2 = 1 then 0 else 1
     let flags := phase + 2 * b2n i.maskedRows + 4 * b2n i.rescout + 8 * b2n i.replayed + 16 * b2n i.drops
     let bytes := toLE 1 i.ver.toNat ++ toLE 1 (cmdAt i.cmd 1 1) ++ toLE 1 i.status.toNat ++ toLE 1 flags ++ toLE 4 (cmdAt i.cmd 4 4)
       ++ toLE 4 i.idx.toNat ++ toLE 4 i.breath.toNat ++ toLE 8 i.detail.toNat ++ toLE 4 i.count.toNat ++ toLE 4 0
     (v.st = 3 ∨ ¬ready → exec (.completionRecordWrite q) s = .next (inBreath s)) ∧
     (v.st ≠ 3 → ready → bytes.length = 32 ∧ ∃ t tag, exec (.completionRecordWrite q) s = .next t ∧
       findItem t q i.idx = some { i with stage := .recordSent } ∧
       (let pa := v.cplBase.toNat + 32 * (v.cplTail.toNat % 2 ^ v.log2.toNat)
        let r : Req := { tag := tag, pool := 67, owner := .record q i.idx, write := true, pa := pa, len := 32, data := bytes, ctx := 0, addr := 0 }
        t.mem.reqs = s.mem.reqs ++ [r]) ∧
       t = { inBreath s with items := t.items, mem := { s.mem with reqs := t.mem.reqs } })) ∧
  (∀ (s : State) (tag : W16) (r : Req) (q : Nat) (idx : W32) (i : Item), up s → q < 392 → reqOf s tag.toNat = some r →
     r.write = true → r.owner = .record q idx → r.pool = 67 → findItem s q idx = some i →
     (∃ t, exec (.memoryWriteResponse tag .ok) s = .next t ∧ getQ t q = { getQ s q with cplTail := (getQ s q).cplTail + 1 } ∧
       findItem t q idx = none ∧ (∀ p, p ≠ q → getQ t p = getQ s p) ∧
       t.irq.qpend.getLsbD q = (s.irq.qpend.getLsbD q || i.irqFlag || decide (0x10 ≤ i.status.toNat))) ∧
     (∃ t j, exec (.memoryWriteResponse tag .poison) s = .next t ∧
       getQ t q = { getQ s q with cplErr := true, st := 3, stBeforeStop := (getQ s q).st } ∧
       findItem t q idx = some j ∧ j.stage = .recordFailed ∧ t.irq.qpend.getLsbD q = true))

/-- COMMAND_COPY (R25, R33, R36, R255): when the read of its ring slot is answered, the oldest admitted item of a queue takes the
64 bytes and ACC_HEAD passes it; a poisoned or mismatched read fails it with POISON, holding no byte; in a closing queue a command
that was read fails with ABORTED. Without a read that holds a tag nothing is copied.
That a failed read of a closing queue's command ends POISON is the model's reading (log 77). -/
def Obligations.CommandsAreCopiedInRingOrder : Prop :=
  ∀ (s : State) (q : Nat) (bytes : BitVec 512) (i : Item), up s →
    s.items.find? (fun x => x.q = q && x.stage = .admitted) = some i →
    (copyReq s q i.idx = none → ∀ r : Resp, exec (.commandCopy q r bytes) s = .next (inBreath s)) ∧
    ((copyReq s q i.idx).isSome = true →
      ∀ r : Resp, ∃ t j, exec (.commandCopy q r bytes) s = .next t ∧ (getQ t q).accHead = (getQ s q).accHead + 1 ∧
      findItem t q i.idx = some j ∧ j.stage ≠ .admitted ∧ sameMemory s t ∧ (∀ p, p ≠ q → getQ t p = getQ s p) ∧
      (r = .ok → j.cmd = bytes ∧ ((getQ s q).closing = true → ended t q i.idx 0x25 0)) ∧
      (r ≠ .ok → j.cmd = 0 ∧ ended t q i.idx 0x20 0))

/-- Table 2.11 on the one item of a queue that is not closing, with a command other than NEGOTIATE: the first check that
fails gives the status, and an item that passes stays accepted, checked (R45).
The item's read of its ring slot is answered. Nonzero reserved fields are left out here (log 12). -/
def Obligations.IssueChecksRunInTheirOrder : Prop :=
  ∀ (s : State) (q : Nat) (c : BitVec 512) (i : Item), up s → (getQ s q).closing = false →
    s.items.filter (fun x => x.q = q) = [i] → i.stage = .admitted → i.checked = false → i.copyFailed = false →
    (copyReq s q i.idx).isSome = true → cmdAt c 1 1 ≠ 0x01 →
    let v := getQ s q
    let engine := opcodeEngine (cmdAt c 1 1)
    ∃ t, exec (.commandCopy q .ok c) s = .next t ∧
      (v.st ≠ 2 → ended t q i.idx 0x12 0) ∧
      (v.st = 2 → cmdAt c 0 1 / 16 ≠ v.negVer.toNat / 16 → ended t q i.idx 0x10 0) ∧
      (v.st = 2 → cmdAt c 0 1 / 16 = v.negVer.toNat / 16 →
        (engine ≠ engineOf q → engine ≠ 5 → ended t q i.idx 0x11 0) ∧
        (engine = engineOf q → cmdAt c 8 2 % 4096 ≠ v.ctx.toNat → ended t q i.idx 0x13 0) ∧
        (engine = engineOf q → cmdAt c 8 2 % 4096 = v.ctx.toNat →
          (fieldsLegal s q c = false → ended t q i.idx 0x15 0) ∧
          (fieldsLegal s q c = true → zeroShape c = true → engine ≠ 2 → ended t q i.idx 0x02 0))) ∧
      (issueVerdict s q c = .pass → reservedSet c = false →
        ∃ j, findItem t q i.idx = some j ∧ j.stage = .accepted ∧ j.checked = true ∧ j.cmd = c)

/-- NEGOTIATE (R47) opens its queue at version 0x10 when software's highest version is at least that and nothing of the queue
was ahead of it in the store when it was accepted; fails with VER_UNSUPPORTED below it, and with BUSY behind another command. NOP
(Table 2.12) completes OK when it may begin. Neither changes memory.
BUSY behind a command of the same boundary is the model's reading (log 69). -/
def Obligations.NegotiateAndNop : Prop :=
  ∀ (s : State) (q : Nat) (idx : W32) (i : Item), up s → findItem s q idx = some i →
    (isOpenNegotiate i = true → reservedSet i.cmd = false →
      let swMax := cmdAt i.cmd 16 1
      ∃ t, exec (.negotiate q idx) s = .next t ∧ sameMemory s t ∧
        (swMax < 0x10 → ended t q idx 0x16 0 ∧ t.queues = s.queues) ∧
        (0x10 ≤ swMax → i.behind = true → ended t q idx 0x17 0 ∧ t.queues = s.queues) ∧
        (0x10 ≤ swMax → i.behind = false → ended t q idx 0x00 0x10 ∧ (getQ t q).negVer = 0x10 ∧
          ((getQ s q).st ≠ 3 → (getQ t q).st = 2) ∧ ((getQ s q).st = 3 → (getQ t q).st = 3 ∧ (getQ t q).stBeforeStop = 2))) ∧
    (i.opcode = 0x02 → mayBegin s i = true →
      ∃ t, exec (.nop q idx) s = .next t ∧ ended t q idx 0x00 0 ∧ sameMemory s t ∧ t.queues = s.queues)

/-! ### Work items (chapters 05 to 07, 10, 11, 13, 16) -/

/-- SOFTMAX, RMS_NORM and FUNC (R125 to R136): the event begins the item, which then executes with all its rows to come, and
does nothing to an item that has begun.
TASK_DRAIN of one of its tasks (R125, R163, R173, R264, R268): once what the task reads is read and verified and all its
writes translate, its rows, or its columns of a wide row, go out as requests, the whole blocks verified are counted, the rows
count as drained, and its thread is free; no byte of memory changes before the memory side answers.
That the task computes at its drain is the model's reading (log 79). -/
def Obligations.RowEngineItemsComputeTheirRows : Prop :=
  (∀ (s : State) (q : Nat) (idx : W32) (i : Item), up s →
    ∀ p ∈ [(0x40, Instr.softmax q idx), (0x41, Instr.rmsNorm q idx), (0x42, Instr.func q idx)], itemReady s q idx p.1 i →
      (i.begun = false → ∃ t, exec p.2 s = .next t ∧ t = { inBreath s with items := t.items } ∧ findItem t q idx =
        some { i with stage := .executing, begun := true, nRows := rRows i, status := 0, detail := 0, count := 0 }) ∧
      (i.begun = true → exec p.2 s = .next (inBreath s))) ∧
  (∀ (s : State) (core thread : Nat) (k : Task) (it : Item) (n : Nat) (outs : List Out)
     (bs : List (DrainOut × W64 × Nat × List Byte)), up s → noParts s → drainBegins s core thread k it → engineOf k.q = 3 →
     k.shape.kind = .rowEngine → roeTask (inBreath s) it k.shape = .ok (.fine n, outs) →
     let s1 := countVerified (inBreath s) n
     let rows := (roeDone k.shape it).drained
     drainSends s1 k it outs (decide (it.nRows ≤ rows.length)) bs →
     ∃ t, exec (.taskDrain core thread) s = .next t ∧ drained s1 t k it rows outs bs ∧
       t.str = { s.str with chkVerified := satAdd s.str.chkVerified n })

/-- The begin of an attention item without a sequence-parallel group (R98, R100, R139, R198): the descriptor is read, checked
and kept; an illegal one fails the item with BAD_SHAPE; a sequence that is not LIVE or of another context fails it with
CTX_MISMATCH; else its entries are kept as they stand and LAST_USE of each becomes the current breath. The events of an item
that has begun do nothing more (R98).
TASK_DRAIN of a task of whole rows on one die (R101 to R123, R141 to R148, R264): once the keys of its rows, their blocks and
their inputs are read and verified, a forward row drains what its two passes give, and a backward row its dQ, and with the
item's last row its dK and dV; the writes go out as requests when all of them translate, and no byte of memory changes before
the memory side answers.
That the passes run at the drain is the model's reading (log 79). -/
def Obligations.AttentionItemsBeginOnceAndComputeTheirRows : Prop :=
  (∀ (s : State) (q : Nat) (idx : W32) (i0 : Item) (bs : List Byte), up s → opOf s q idx = none → i0.begun = false →
     ∀ p ∈ [(0x10, Instr.attFwd q idx), (0x11, Instr.attBwd q idx)], itemBegins s q idx p.1 i0 →
       readVa s i0.ctx (cmd64 i0.cmd 16) (descBytes i0) = .ok bs →
       let i := { i0 with desc := bs }
       let legal := if p.1 = 0x11 then bwdDescLegal i else fwdDescLegal i
       let es := (List.range (aCount i)).map (fun k => getSeq s (aSeq i + k))
       descRsv i = false → spEn i = false →
       ∃ t, exec p.2 s = .next t ∧ t.mem = s.mem ∧ t.queues = s.queues ∧
         (legal = false → ended t q idx 0x15 0) ∧
         (∀ e ∈ es.head?, legal = true → (e.live = false ∨ e.ctx ≠ i.ctx) → ended t q idx 0x13 0) ∧
         (legal = true → (∀ e ∈ es, entryFails i e = none) →
           (∃ j, findItem t q idx = some j ∧ j.begun = true ∧ j.desc = bs ∧ j.entries = es ∧ j.nRows = totalRows i) ∧
           (∀ k, k < aCount i → (getSeq t (aSeq i + k)).lastUse = lowBreath s))) ∧
  (∀ (s : State) (q : Nat) (idx : W32) (i : Item), up s → opOf s q idx = none → findItem s q idx = some i → i.begun = true →
     mayRun s i = true → ∀ p ∈ [(0x10, Instr.attFwd q idx), (0x11, Instr.attBwd q idx)], i.opcode = p.1 →
       ∃ t, exec p.2 s = .next t ∧ findItem t q idx = some i ∧ t = { inBreath s with items := t.items }) ∧
  (∀ (s : State) (core thread : Nat) (k : Task) (it : Item) (keys : List (RowId × List Nat)) (arena : List (W64 × Nat)) (n : Nat)
     (bs : List (DrainOut × W64 × Nat × List Byte)),
     up s → noParts s → drainBegins s core thread k it → engineOf k.q = 0 → k.shape.kind = .wholeRow →
     let b := inBreath s
     let view := pageView b it
     keyBytesOf view it keys = .ok arena →
     let s1 := cacheReads (wantPromotion (countVerified b n) it keys) core k.ctx arena
     let gone := fun (outs : List Out) => ∃ t, exec (.taskDrain core thread) s = .next t ∧
       drained s1 t k it ((taskRows k.shape).foldl insUp it.drained) outs bs
     let last := completes it (taskRows k.shape)
     (∀ ins outs, it.opcode = 0x10 → taskRowKeys view it k.shape = .ok keys →
       mapE (fun (p : RowId × List Nat) => fwdInputs view it p.1 p.2) keys = .ok ins →
       verifyMixed b k.ctx (coldRanges b core k.ctx arena ++ fwdOperands it ((keys.filter (fun p => !p.2.isEmpty)).map (fun p => p.1)))
         = .ok (.fine n) →
       mapE (fun (p : Nat × FwdAcc) => fwdOuts s1 it p.1 p.2) ((taskRows k.shape).zip (ins.map fwdRow)) = .ok outs →
       drainSends s1 k it outs.flatten last bs → gone outs.flatten) ∧
     (∀ hs ins, it.opcode = 0x11 → mapE (bwdHead view it false) (taskRows k.shape) = .ok hs → mapE (bwdInputs view it) hs = .ok ins →
       keys = hs.map (fun h => (rowOf it h.n, h.keys)) →
       verifyMixed b k.ctx (coldRanges b core k.ctx arena ++ bwdOperands it ((hs.filter (fun h => h.live)).map (fun h => rowOf it h.n)))
         = .ok (.fine n) →
       let dQ := (hs.zip ins).map (fun p => let a := bwdAcc (bwdRow it p.1.n p.2 {})
                                            dqOut it p.1.n a.o a.kx)
       (last = false → drainSends s1 k it dQ false bs → gone dQ) ∧
       (∀ rows, last = true → bwdTail (pageView s1 it) it = .ok rows →
         drainSends s1 k it (dQ ++ (tailGrads it rows).1) true bs → gone (dQ ++ (tailGrads it rows).1))))

/-- Every Paging Engine command that names a sequence (R209): a LIVE entry of another context fails it with CTX_MISMATCH, and
an OP_SN that is not newer than LAST_SN ends it as ALREADY_APPLIED with LAST_SN in DETAIL (TIER_HINT carries none); neither changes
the Sequence Table, a pool or a byte of memory. -/
def Obligations.SequenceCommandsAreChecked : Prop :=
  ∀ (s : State) (q : Nat) (idx : W32) (i : Item), up s → mayStage s q idx →
    ∀ p ∈ [(0x20, Instr.seqAlloc q idx), (0x21, Instr.seqAppend q idx), (0x22, Instr.seqFork q idx), (0x23, Instr.seqFree q idx),
        (0x24, Instr.pageMigrate q idx), (0x25, Instr.tierHint q idx)],
      itemBegins s q idx p.1 i →
      let e := getSeq s (pSeq i)
      let stale := p.1 ≠ 0x25 ∧ (pOpSn i - e.lastSn).toInt ≤ 0
      (e.live = true ∧ e.ctx ≠ i.ctx → ∃ t, exec p.2 s = .next t ∧ ended t q idx 0x13 0 ∧ t.pg = s.pg ∧ t.mem = s.mem) ∧
      (¬(e.live = true ∧ e.ctx ≠ i.ctx) → stale →
        ∃ t, exec p.2 s = .next t ∧ ended t q idx 0x04 (e.lastSn.setWidth 64) ∧ t.pg = s.pg ∧ t.mem = s.mem)

/-- SEQ_ALLOC (R212): with an entry that is not LIVE, a legal tier and geometry and enough unreserved frames, the item stages the
LIVE entry, with the geometry of the context and the layers and OP_SN of the command, holding no page, and its reservation, and
goes on with the commit journal's write, which its Sequence Table entry and pools wait for (R210). Without the frames it fails
with BAD_SHAPE and changes nothing of the pools.
The four commands that change a sequence stage their changes (R210): once the effect is computed, the page writes go out and the
item holds status OK and OP_SN in DETAIL; with a write unacknowledged it stays executing with the changes staged, and with none it
goes on to the journal; the Sequence Table stays as it was. A SEQ_FREE stages an entry that is free, with OP_SN as LAST_SN.
When the last write of an application is acknowledged, the staged entry takes its place in the Sequence Table, LAST_USE and HINT
of a LIVE one kept, and the item commits with the status and DETAIL it holds.
What the journal holds, and that it is written before page information and lists, is the model's choice (log 83). -/
def Obligations.SequenceChangesWaitForTheirWrites : Prop :=
  (∀ (s : State) (q : Nat) (idx : W32) (i : Item), up s → mayStage s q idx → itemBegins s q idx 0x20 i → opOf s q idx = none →
     outputsLeft s q idx = 0 → i.applying = 0 →
     let old := getSeq s (pSeq i)
     let g := tget {} s.pg.geometry i.ctx.toNat
     let far := decide (pTier i = 1)
     old.live = false → 0 < (pOpSn i - old.lastSn).toInt → 1 ≤ pLayers i → pLayer i + pLayers i ≤ 65536 → tierLegal s (pTier i) = true →
     geomLegal g = true →
     let e : SeqEntry :=
       { ver := 0x10, state := 1, kvFmt := g.kvFmt, srcFmt := g.srcFmt, headDim := BitVec.ofNat 16 g.headDim.toNat
         kvHeads := g.kvHeads, layerFirst := BitVec.ofNat 16 (pLayer i), layerCount := BitVec.ofNat 16 (pLayers i)
         ctx := i.ctx, nextLayer := BitVec.ofNat 16 (pLayers i), lastSn := pOpSn i, shIdx := g.shIdx, shN := g.shN
         log2Blk := g.log2Blk, mirror := g.mirror, capacity := BitVec.ofNat 32 (pTokens i), picFmt := g.picFmt, homeTier := far }
     let n := e.framesFor (heldBelow e (pTokens i))
     (∀ at_, (n : Int) ≤ freeUnreserved s [] [] far → n < 2 ^ 32 →
       pagesOf (inBreath s) 0 true (infoAddr s s.pg.infoSize.toNat) 16 = .ok at_ →
       ∃ t j js, exec (.seqAlloc q idx) s = .next t ∧ findItem t q idx = some j ∧ j.stage = .executing ∧ j.applying = 1 ∧
         j.issued = true ∧ j.status = 0 ∧ j.detail = (pOpSn i).setWidth 64 ∧
         Change.entry (pSeq i) { e with resv := BitVec.ofNat 32 n } ∈ j.staged ∧ (n ≠ 0 → Change.resv far n ∈ j.staged) ∧
         t.pg = s.pg ∧ t.mem.bytes = s.mem.bytes ∧ journalOut s t q idx js) ∧
     (freeUnreserved s [] [] far < (n : Int) →
       ∃ t, exec (.seqAlloc q idx) s = .next t ∧ ended t q idx 0x15 0 ∧ t.pg = s.pg ∧ t.mem = s.mem)) ∧
  (∀ (s : State) (q : Nat) (idx : W32) (i : Item) (w : Work) (cs : List Change) (s2 : State),
     up s → mayStage s q idx → opOf s q idx = none → pChecks s i false = none → i.applying = 0 →
     let s1 := modItem (inBreath s) q idx (fun x => { x with stage := .executing, begun := true })
     ∀ p ∈ [(0x20, Instr.seqAlloc q idx, stageAlloc s1 i), (0x21, Instr.seqAppend q idx, stageAppend s1 i),
         (0x22, Instr.seqFork q idx, stageFork s1 i), (0x23, Instr.seqFree q idx, stageFree s1 i)],
       itemBegins s q idx p.1 i → p.2.2 = .ok w → w.changes (if p.1 = 0x22 then pSeq2 i else pSeq i) = .ok cs →
       issuePages s1 i w.pages = .ok s2 →
       ∃ t j, exec p.2.1 s = .next t ∧ findItem t q idx = some j ∧ j.status = 0 ∧ j.detail = (pOpSn i).setWidth 64 ∧
         t.queues = s.queues ∧
         (outputsLeft s2 q idx ≠ 0 → j.stage = .executing ∧ j.issued = true ∧ (∀ c ∈ cs, c ∈ j.staged) ∧
           t.pg.active = s.pg.active ∧ (w.cancels = [] → t.mem.reqs = s2.mem.reqs)) ∧
         (outputsLeft s2 q idx = 0 → partWrites cs 1 ≠ [] → j.stage = .executing ∧ j.applying = 1 ∧ (∀ c ∈ cs, c ∈ j.staged) ∧
           t.pg.active = s.pg.active) ∧
         (p.1 = 0x23 → Change.entry (pSeq i) { ver := (getSeq s (pSeq i)).ver, lastSn := pOpSn i } ∈ cs)) ∧
  (∀ (s : State) (tag : W16) (r : Req) (q : Nat) (idx : W32) (i : Item) (cs : List Change) (n : Nat) (e : SeqEntry), up s →
     reqOf s tag.toNat = some r → r.write = true → r.owner = .output q idx → r.waiters = [] → 64 ≤ r.pool → engineOf q = 1 →
     findItem s q idx = some i → i.stage = .executing → i.issued = true → opOf s q idx = none → outputsLeft s q idx = 1 →
     i.applying ≠ 0 → (∀ k ∈ ([1, 2, 3] : List Nat).drop i.applying, partWrites i.staged k = []) →
     i.staged = cs ++ [.entry n e] → (∀ c ∈ cs, ∀ m f, c ≠ .entry m f) →
     ∃ t j, exec (.memoryWriteResponse tag .ok) s = .next t ∧ findItem t q idx = some j ∧ j.stage = .committed ∧ j.staged = [] ∧
       j.status = i.status ∧ j.detail = i.detail ∧
       getSeq t n = (let old := getSeq s n
                     if e.live && old.live then { e with lastUse := old.lastUse, hint := old.hint } else e) ∧
       (∀ m, m ≠ n → getSeq t m = getSeq s m))

/-- PAGE_MIGRATE (R219): once every page of its layers lies in the target tier it applies OP_SN as LAST_SN, which the commit
journal's write begins (R210), and it starts a copy of a page that does not. TIER_HINT (R221) sets the hint for 0 to 2, demotes or promotes now for 3 and 4 and commits, and
fails with BAD_SHAPE above 4.
PTC_INVAL (R238): no entry of either bank that the invalidation covers stays and every other one does; the item commits
at once when no outstanding request was translated through a page it covers or an entry it removes, and else waits, marked on each such
request. -/
def Obligations.PagingCommandsMoveAndInvalidate : Prop :=
  (∀ (s : State) (q : Nat) (idx : W32) (i : Item), up s → mayStage s q idx → opOf s q idx = none →
     let e := getSeq s (pSeq i)
     let far := decide (pTier i = 1)
     e.live = true → e.ctx = i.ctx →
     (itemBegins s q idx 0x24 i → 0 < (pOpSn i - e.lastSn).toInt → layersInside i e = true → tierLegal s (pTier i) = true →
       i.issued = false → i.applying = 0 →
       let s1 := modItem (inBreath s) q idx (fun x => { x with stage := .executing, begun := true })
       ∀ ps, entryPages s1 e (pLayer i - e.layerFirst.toNat) (pLayers i) = .ok ps →
       (∀ at_, (∀ l ∈ ps, startMig s1 l far (some (q, idx)) = .placed) → pagesOf s1 0 true (infoAddr s s.pg.infoSize.toNat) 16 = .ok at_ →
         ∃ t j js, exec (.pageMigrate q idx) s = .next t ∧ findItem t q idx = some j ∧ j.stage = .executing ∧ j.applying = 1 ∧
           j.detail = (pOpSn i).setWidth 64 ∧ Change.entry (pSeq i) { e with lastSn := pOpSn i } ∈ j.staged ∧ t.pg = s.pg ∧
           t.mem.bytes = s.mem.bytes ∧ journalOut s t q idx js) ∧
       (∀ l u, ps = [l] → startMig s1 l far (some (q, idx)) = .started u →
         ∃ t j, exec (.pageMigrate q idx) s = .next t ∧ findItem t q idx = some j ∧ j.stage = .executing ∧
           t.pg.migrations = s.pg.migrations ++ [{ lpn := l, far := far, item := some (q, idx) }] ∧ t.pg.active = s.pg.active)) ∧
     (itemBegins s q idx 0x25 i →
       (pHint i ≤ 2 → ∃ t j, exec (.tierHint q idx) s = .next t ∧ findItem t q idx = some j ∧ j.stage = .committed ∧
         j.detail = e.lastSn.setWidth 64 ∧ getSeq t (pSeq i) = { e with hint := BitVec.ofNat 8 (pHint i) } ∧ t.mem = s.mem) ∧
       (pHint i = 3 ∨ pHint i = 4 → layersInside i e = true →
         ∃ t j, exec (.tierHint q idx) s = .next t ∧ findItem t q idx = some j ∧ j.stage = .committed ∧
           j.detail = e.lastSn.setWidth 64 ∧ t.pg.active = s.pg.active) ∧
       (4 < pHint i → ∃ t, exec (.tierHint q idx) s = .next t ∧ ended t q idx 0x15 0 ∧ t.pg = s.pg ∧ t.mem = s.mem))) ∧
  (∀ (s : State) (q : Nat) (idx : W32) (i : Item), up s → itemBegins s q idx 0x26 i → i.issued = false →
     (∀ r ∈ s.mem.reqs, (q, idx) ∉ r.waiters) →
     let v := invalOf i
     let gone := (s.tr.active ++ s.tr.inactive).filter v.hits
     ∃ t j, exec (.ptcInval q idx) s = .next t ∧ findItem t q idx = some j ∧ t.mem.bytes = s.mem.bytes ∧ t.queues = s.queues ∧
       (∀ e, e ∈ t.tr.active ↔ e ∈ s.tr.active ∧ v.hits e = false) ∧
       (∀ e, e ∈ t.tr.inactive ↔ e ∈ s.tr.inactive ∧ v.hits e = false) ∧
       ((∀ r ∈ s.mem.reqs, v.carries gone r = false) → j.stage = .committed ∧ t.mem.reqs = s.mem.reqs) ∧
       ((∃ r ∈ s.mem.reqs, v.carries gone r = true) → j.stage = .executing ∧
         ∀ r ∈ t.mem.reqs, v.carries gone r = true → (q, idx) ∈ r.waiters))

/-- FAULT_DONE with DISP 0 (R247): the posted record closes, an item that waited on it alone may resume at the next boundary,
and the command completes; a number that no open record has changes nothing. A nonzero context is denied.
What a closed fault held resumes at a later boundary (R244), and a unit goes back to its pool at a later boundary, once no task
runs that was dispatched before the change (R208) and no write of a discarded copy is outstanding.
When an aborted task is reissued is the model's reading (log 25), and so are that a boundary's changes come before the breath's
work (log 76) and the wait for a copy's writes (log 84). -/
def Obligations.FaultsAreClosedResumedAndReturned : Prop :=
  (∀ (s : State) (q : Nat) (idx : W32) (i : Item), up s → itemBegins s q idx 0x28 i → opOf s q idx = none →
     let v := cmd64 i.cmd 48
     let num : W32 := v.setWidth 32
     (i.ctx ≠ 0 → ∃ t, exec (.faultDone q idx) s = .next t ∧ ended t q idx 0x13 0 ∧ t.tr.recs.length = s.tr.recs.length) ∧
     (i.ctx = 0 → fld v 33 32 = 0 →
       (∀ r, s.tr.recs.find? (fun r => r.number = some num && s.tr.tail ≠ num) = some r →
         ∃ t j, exec (.faultDone q idx) s = .next t ∧ findItem t q idx = some j ∧ j.stage = .committed ∧
           t.tr = { s.tr with recs := s.tr.recs.filter (fun x => x.key ≠ r.key) } ∧ t.mem = s.mem ∧
           (∀ p ∈ r.attached, p ≠ (q, idx) → ∀ x, findItem s p.1 p.2 = some x → x.holdKeys = [r.key] → x.ready = none →
             ∃ y, findItem t p.1 p.2 = some y ∧ y.holdKeys = [] ∧ y.ready = some s.breath.num)) ∧
       ((∀ r ∈ s.tr.recs, r.number = some num → s.tr.tail = num) →
         ∃ t j, exec (.faultDone q idx) s = .next t ∧ findItem t q idx = some j ∧ j.stage = .committed ∧ t.tr = s.tr ∧ t.mem = s.mem))) ∧
  ((∀ (s : State) (q : Nat) (idx : W32) (i : Item) (b : W64), up s → findItem s q idx = some i → i.holdKeys = [] → i.ready = some b →
     (s.edge = false → exec (.taskReissue q idx) s = .next s) ∧
     (s.edge = true → b.toNat < s.breath.num.toNat → ∃ t, exec (.taskReissue q idx) s = .next t ∧
       findItem t q idx = some { i with retryFull := false, ready := none } ∧
       t.reissues = s.reissues.filter (fun r => !(r.task.q = q && r.task.idx = idx && r.keys.isEmpty && (match r.ready with
         | some x => decide (x.toNat < s.breath.num.toNat)
         | none => false))) ∧
       t = { s with items := t.items, reissues := t.reissues }) ∧
     (s.breath.num.toNat ≤ b.toNat → ∃ t, exec (.taskReissue q idx) s = .next t ∧ findItem t q idx = some i)) ∧
   (∀ s : State, up s → s.edge = false → exec .poolReturn s = .next s) ∧
   (∀ s : State, up s → s.edge = true →
     let due := fun (r : Returning) => r.at_.toNat < s.breath.num.toNat ∧ (∀ k ∈ s.tasks, r.before ≤ k.serial) ∧ copyPending s r.unit = false
     ∃ t, exec .poolReturn s = .next t ∧ t.mem = s.mem ∧ t.items = s.items ∧
       (∀ r, r ∈ t.pg.returning ↔ r ∈ s.pg.returning ∧ ¬due r) ∧
       (∀ r ∈ s.pg.returning, due r →
         (∀ f, r.unit = .frame false f → f ∉ t.pg.used0) ∧ (∀ f, r.unit = .frame true f → f ∉ t.pg.used1) ∧
         (∀ n, r.unit = .lpn n → n ∉ t.pg.usedLpn) ∧ (∀ b, r.unit = .blk b → b ∉ t.pg.usedBlk)) ∧
       (∀ f ∈ s.pg.used0, (∀ r ∈ s.pg.returning, r.unit = .frame false f → ¬due r) → f ∈ t.pg.used0) ∧
       (∀ n ∈ s.pg.usedLpn, (∀ r ∈ s.pg.returning, r.unit = .lpn n → ¬due r) → n ∈ t.pg.usedLpn)))

/-- BANK_STAGE (R224, R237) under context 0x000: an image that reads, verifies and is legal fills the inactive bank of its
target and marks it staged in this breath; the active banks stay. BANK_SWAP exchanges a staged bank at a later boundary.
That a boundary's changes come before the breath's work is the model's form of R72 (log 76). -/
def Obligations.BanksAreStagedAndSwapped : Prop :=
  (∀ (s : State) (q : Nat) (idx : W32) (i : Item) (bs : List Byte) (k : Nat), up s → itemBegins s q idx 0x27 i → opOf s q idx = none →
    (i.ctx ≠ 0 → ∃ t, exec (.bankStage q idx) s = .next t ∧ ended t q idx 0x13 0 ∧ t.pg = s.pg) ∧
    (i.ctx = 0 → 2 ≤ pTarget i → ∃ t, exec (.bankStage q idx) s = .next t ∧ ended t q idx 0x15 0 ∧ t.pg = s.pg) ∧
    (i.ctx = 0 → pTarget i = 0 → readVa s 0 (cmd64 i.cmd 16) 4194304 = .ok bs → verifyRead s 0 (cmd64 i.cmd 16) bs = .ok (.fine k) →
      (pieces 64 bs).any seqRsv = false →
      ∃ t j, exec (.bankStage q idx) s = .next t ∧ findItem t q idx = some j ∧ j.stage = .committed ∧
        t.pg = { s.pg with inactive := seqImage bs, staged := some s.breath.num } ∧ t.tr = s.tr ∧ t.mem = s.mem) ∧
    (i.ctx = 0 → pTarget i = 1 → readVa s 0 (cmd64 i.cmd 16) 2097152 = .ok bs → verifyRead s 0 (cmd64 i.cmd 16) bs = .ok (.fine k) →
      (pieces 16 bs).any ptcRsv = false → ∀ vs, ptcImage bs = some vs →
      ∃ t j, exec (.bankStage q idx) s = .next t ∧ findItem t q idx = some j ∧ j.stage = .committed ∧
        t.tr = { s.tr with inactive := vs, staged := some s.breath.num } ∧ t.pg = s.pg ∧ t.mem = s.mem)) ∧
  (∀ s : State, up s → s.edge = false → exec .bankSwap s = .next s) ∧
  (∀ (s : State) (b c : W64), up s → s.edge = true → s.pg.staged = some b → b.toNat < s.breath.num.toNat → s.tr.staged = some c →
    (c.toNat < s.breath.num.toNat → exec .bankSwap s = .next { s with
      pg := { s.pg with active := s.pg.inactive, inactive := s.pg.active, staged := none }
      tr := { s.tr with active := s.tr.inactive, inactive := [], staged := none } }) ∧
    (s.breath.num.toNat ≤ c.toNat → exec .bankSwap s = .next { s with
      pg := { s.pg with active := s.pg.inactive, inactive := s.pg.active, staged := none } }))

/-- Every collective of Table 13.6 begins alike (R277, R285, R289): one that wants buffer makes its group wait and asks for
its units, with nothing sent; one that wants none opens its group and sends its agreement record first, with the fields, offer
and digest of R285.
GROUP_SET (R276): a descriptor that reads, with no reserved bit, naming each member once and this die at RANK, with
every node reachable, gives the group its epoch, rank, size, members and overlap and opens it; one that names another
die at RANK, or a member twice, fails with BAD_SHAPE.
The record's layout is the model's choice (log 20), and so are that GROUP_SET reads no VER (log 89) and what it forgets (log 98). -/
def Obligations.CollectivesWaitAgreeOrSetTheirGroup : Prop :=
  (∀ (s : State) (q : Nat) (idx : W32) (i : Item), up s → opOf s q idx = none → i.landed = [] →
     ∀ p ∈ [(0x30, Instr.allGather q idx), (0x31, Instr.reduceScatter q idx), (0x32, Instr.allReduce q idx),
         (0x33, Instr.broadcast q idx), (0x34, Instr.ringPass q idx), (0x35, Instr.scoutMax q idx)],
       itemBegins s q idx p.1 i →
       let g := getGroup s (q - 96)
       let want := cleWant g i.cmd
       let o : CleOp := { group := q - 96, kind := false, sn := g.epoch, attempt := g.attempt, q := q, idx := idx, want := want }
       (g.grant < want → ∃ t j, exec p.2 s = .next t ∧ findItem t q idx = some j ∧ j.stage = .executing ∧
         t.cle.ops = s.cle.ops ++ [o] ∧ getGroup t (q - 96) = { g with st := 3 } ∧ t.sent = s.sent ∧ t.mem = s.mem) ∧
       (want = 0 → ∃ t j more, exec p.2 s = .next t ∧ findItem t q idx = some j ∧ j.stage ≠ .accepted ∧
         t.sent = s.sent ++ Sent.agreement (o.tag g.rank.toNat)
           (agreementOf { g with st := 2 } i.cmd false (cleOffer { g with st := 2 } i.cmd)) :: more ∧
         t.mem.bytes = s.mem.bytes)) ∧
  (∀ (s : State) (q : Nat) (idx : W32) (i : Item) (hd bs : List Byte), up s → itemBegins s q idx 0x36 i → opOf s q idx = none →
     spOpen s (q - 96) = false → cmd64 i.cmd 48 ≠ 0 →
     readVa s i.ctx (cmd64 i.cmd 48) 64 = .ok hd →
     let n := leAt hd 1 1 + 1
     readVa s i.ctx (cmd64 i.cmd 48) (64 + 4 * n) = .ok bs →
     let rank := leAt bs 2 1
     let ms := parseMembers bs n
     leAt bs 3 1 / 2 = 0 → leAt bs 4 60 = 0 → (∀ r, r < n → leAt bs (64 + 4 * r) 4 / 2 ^ 18 = 0) →
     (rank < n → ms[rank]? = some { node := s.link.node, die := s.cascId } → ms.Nodup → (∀ m ∈ ms, unreachable s m.node = false) →
       ∃ t j, exec (.groupSet q idx) s = .next t ∧ findItem t q idx = some j ∧ j.stage = .committed ∧
         getGroup t (q - 96) = { getGroup s (q - 96) with
           epoch := BitVec.ofNat 32 (cmdAt i.cmd 44 4), spSn := 0, spAttempt := 0, rank := BitVec.ofNat 8 rank, nm1 := BitVec.ofNat 8 (n - 1)
           ovl := decide (leAt bs 3 1 % 2 = 1), members := ms, st := 1, attempt := 0 } ∧
         (∀ g, g ≠ q - 96 → getGroup t g = getGroup s g) ∧ t.cle.ops = s.cle.ops ∧ t.mem = s.mem) ∧
     (n ≤ rank ∨ ms[rank]? ≠ some { node := s.link.node, die := s.cascId } ∨ ¬ms.Nodup →
       ∃ t, exec (.groupSet q idx) s = .next t ∧ ended t q idx 0x15 0 ∧ t.cle.groups = s.cle.groups ∧ t.mem = s.mem))

/-- TEST_PACK and MEM_SCRUB (R67, R69, R182, R362 to R364): a record of a verified pack that may run on an idle core is noted
against the item, takes the core's slot of the breath, and a mismatch counts against the core; one on a core that is busy or not
bound to the item's context is not run; a pack that does not verify fails with BAD_SHAPE. A scrub that finds every block whole
completes OK and counts the blocks; else it fails with CHECK_MISMATCH at the first bad one. -/
def Obligations.TestsAndScrubs : Prop :=
  ∀ (s : State) (q : Nat) (idx : W32) (i : Item), up s → opOf s q idx = none →
    (itemReady s q idx 0x50 i → ∀ bs, packBytes s i = .ok bs →
      let s1 := modItem (inBreath s) q idx (fun x => { x with stage := .executing, begun := true })
      (packOk s i bs = false → ∀ p r m, ∃ t, exec (.testPack q idx p r m) s = .next t ∧ ended t q idx 0x15 0) ∧
      (packOk s i bs = true → ∀ p r m, r < leAt bs 6 2 → p ∈ packCores s → (∀ x ∈ i.ran, ¬(x.1 = p ∧ x.2.1 = r)) →
        (idleFor s1 i p = true → slotLeft s1 i p = true →
          ∃ t j, exec (.testPack q idx p r m) s = .next t ∧ findItem t q idx = some j ∧ j.ran = i.ran ++ [(p, r, m)] ∧
            (p, s.breath.num) ∈ j.slots ∧ t.mem = s.mem ∧ (∀ k, logicalOf s p = some k → (getCore t k).tse = true) ∧
            (m = false → (getUnit t (BitVec.ofNat 16 (0x1000 + p))).tfail = satAdd (getUnit s (BitVec.ofNat 16 (0x1000 + p))).tfail 1)) ∧
        (idleFor s1 i p = false → exec (.testPack q idx p r m) s = .next s1) ∧
        (∀ k, logicalOf s p = some k → (getCore s k).bind ≠ 1 ∨ (getCore s k).ctx ≠ i.ctx ∨ (getCore s k).taken = true →
          idleFor s1 i p = false))) ∧
    (itemReady s q idx 0x51 i → ∀ n bad,
      scrubGo s i.ctx (blocksTouched (cmd64 i.cmd 16) (cmdAt i.cmd 24 8)) 0 [] = .ok (n, bad) →
      ∃ t, exec (.memScrub q idx) s = .next t ∧ t.mem = s.mem ∧
        t.str = { s.str with chkVerified := satAdd s.str.chkVerified n, chkFail := satAdd s.str.chkFail bad.length } ∧
        (bad = [] → ended t q idx 0x00 0) ∧
        (∀ b rest, bad = b :: rest → ended t q idx 0x22 (BitVec.ofNat 64 (addrKey b))))

/-! ### Memory ports, tasks, windows and streams (chapters 08, 09, 12, 18) -/

/-- MEMORY_WRITE_RESPONSE (R242, R396): an OK answer puts the request's bytes, and no others, into memory; one that is not OK
leaves every other byte as it is, and CTX_MISMATCH the request's own too; the answer of no outstanding write changes nothing.
Left out here: what else such an answer may set going (a Paging Engine item's application, a waiting stream, a copy of a page),
and an item that failed with POISON, whose output bytes are free (R242). -/
def Obligations.AnsweredWritesReachMemory : Prop :=
  ∀ (s : State) (tag : W16), up s →
    (reqOf s tag.toNat = none → ∀ r, exec (.memoryWriteResponse tag r) s = .next (inBreath s)) ∧
    (∀ r, reqOf s tag.toNat = some r → r.write = true → answersAlone s r →
      (∃ t, exec (.memoryWriteResponse tag .ok) s = .next t ∧ ∀ a : Nat,
        tget 0 t.mem.bytes a = if r.pa ≤ a ∧ a < r.pa + r.data.length then r.data.getD (a - r.pa) 0 else tget 0 s.mem.bytes a) ∧
      (∃ t, exec (.memoryWriteResponse tag .ctxMismatch) s = .next t ∧ sameMemory s t) ∧
      (∃ t, exec (.memoryWriteResponse tag .poison) s = .next t ∧
        ∀ a : Nat, a < r.pa ∨ r.pa + r.data.length ≤ a → tget 0 t.mem.bytes a = tget 0 s.mem.bytes a))

/-- TASK_DISPATCH (R155, R158, R159, R167, R173, R182): a task that R158 or R173 plans and that comes next in the walk, on a free
thread of a core bound to the item's context with pipe time left, is on that thread, stamped with the breath, and its pipe time is
spent; any other one, and one on a core that is not bound to the context, does not happen.
TASK_OVERRUN and WAIT_TIMEOUT (R67, R68, R192), at a boundary: a task past its deadline leaves its thread, counted, unless it is
long; a long task is counted when it first runs past it and stays; one that has slept four boundaries on one counter is aborted
and counted by its core.
Which task is long is the model's reading (log 39), and that a boundary's changes come before the breath's work is its form of R72
(log 76). -/
def Obligations.DispatchedTasksHoldTheirThreadUntilLate : Prop :=
  (∀ (s : State) (q : Nat) (idx : W32) (core thread : Nat) (k : TaskShape) (it : Item), up s → findItem s q idx = some it →
     (noParts s → coreAccepts s core it.ctx = false ∨ placeTask (inBreath s) it core thread k = none →
       exec (.taskDispatch q idx core thread k) s = .next (inBreath s)) ∧
     (mayRun s it = true → taskOpen s it k = true → coreAccepts s core it.ctx = true → thread < 32 →
       findTask s core thread = none → ∀ p, placeTask (inBreath s) it core thread k = some p →
       ∃ t, exec (.taskDispatch q idx core thread k) s = .next t ∧ t.dispatches = s.dispatches + 1 ∧ t.queues = s.queues ∧
         (noParts s → k.kind ≠ .part → k.kind ≠ .merge →
           findTask t core thread = some { core := core, thread := thread, q := q, idx := idx, ctx := it.ctx, shape := k
                                           dispatched := s.breath.num, serial := s.dispatches } ∧
           (getCore t core).budget = (getCore s core).budget + p.time ∧ findItem t q idx = some (placeOn p it) ∧
           t = { inBreath s with tasks := t.tasks, dispatches := t.dispatches, cores := t.cores, phys := t.phys, items := t.items
                                 pg := { s.pg with promoWanted := t.pg.promoWanted } }))) ∧
  (∀ s : State, up s →
     (∀ core thread, s.edge = false → exec .taskOverrun s = .next s ∧ exec (.waitTimeout core thread) s = .next s) ∧
     (s.edge = true →
       (noParts s → (∀ k ∈ s.tasks, pastDeadline s k = false) → exec .taskOverrun s = .next s) ∧
       (∃ t, exec .taskOverrun s = .next t ∧ sameMemory s t ∧ t.queues = s.queues ∧
         (∀ k ∈ s.tasks, pastDeadline s k = true → (∀ it, findItem s k.q k.idx = some it → isLong s it k.shape = false) →
           findTask t k.core k.thread = none ∧ t.breath.overrun = true)) ∧
       (∀ k it, s.tasks = [k] → k.shape.kind = .wholeRow → findItem s k.q k.idx = some it → isLong s it k.shape = true →
         pastDeadline s k = true →
         (k.counted = false → exec .taskOverrun s = .next { s with
           tasks := [{ k with counted := true }], breath := { s.breath with long := satAdd s.breath.long 1 } }) ∧
         (k.counted = true → exec .taskOverrun s = .next s)) ∧
       (∀ core thread k it w, findTask s core thread = some k → k.wait = some w → findItem s k.q k.idx = some it →
         (isLong s it k.shape = false ∨ w.boundaries < 4 → exec (.waitTimeout core thread) s = .next s) ∧
         (isLong s it k.shape = true → 4 ≤ w.boundaries →
           ∃ t, exec (.waitTimeout core thread) s = .next t ∧ findTask t core thread = none ∧ sameMemory s t ∧
             (getCore t core).waitTmo = satAdd (getCore s core).waitTmo 1))))

/-- TASK_DRAIN (R67, R152, R163, R171, R253, R264): a task that sleeps, has a demand stream open or, unless it is long, is past
its deadline does not begin its drain; a part task never writes a result or drains a row, and once its node record finds its
window its thread is free; a drain whose writes do not all translate issues none of them, and its task is kept for its reissue. -/
def Obligations.DrainsIssueTheirRows : Prop :=
  ∀ (s : State) (core thread : Nat) (k : Task) (it : Item), up s → findTask s core thread = some k →
    findItem s k.q k.idx = some it →
    (mayDrain s k it = false → exec (.taskDrain core thread) s = .next (inBreath s)) ∧
    (k.wait.isSome = true ∨ streamsOpen s k = true ∨ (pastDeadline s k = true ∧ isLong s it k.shape = false) → mayDrain s k it = false) ∧
    (k.shape.kind = .part →
      (∃ t, exec (.taskDrain core thread) s = .next t ∧ t.mem.reqs = s.mem.reqs ∧
        ∀ j, findItem t k.q k.idx = some j → j.drained = it.drained) ∧
      (∀ g m v w x, mayDrain s k it = true → (opOf s k.q k.idx).isSome = true → sharedReady s it = true →
        findGroup it k.shape = some g → mergeOf g k.shape = some m → runnerOf s it m = some v →
        exchangeWindow s v ((feeders g m).length * nodeUnits it k.shape.rows) = some (w, x) →
        ∃ t, exec (.taskDrain core thread) s = .next t ∧ findTask t core thread = none)) ∧
    (∀ n outs a wr reason level pte, noParts s → k.shape.kind = .rowEngine → mayDrain s k it = true →
      roeTask (inBreath s) it k.shape = .ok (.fine n, outs) →
      drainFails (countVerified (inBreath s) n) k it outs (decide (it.nRows ≤ (roeDone k.shape it).drained.length))
        (.fault a wr reason level pte) →
      ∃ t r, exec (.taskDrain core thread) s = .next t ∧ findTask t core thread = none ∧ t.mem = s.mem ∧ r ∈ t.reissues ∧ r.task = k ∧
        ∀ j, findItem t k.q k.idx = some j → j.drained = it.drained)

/-- WINDOW_OPEN (R184, R185): a legal opening by a task gives the window its range, counters, context and next generation, its
counters at zero and owned by it, and, of a window that was not open, changes no other window; an illegal one aborts the task; a
task asleep opens none.
WINDOW_CLOSE and COUNTER_WAIT (R185, R190): closing an open window leaves it closed with its descriptor, frees its
counters and aborts every task asleep on one of them; a task sleeps on an owned counter exactly when its count is below the
threshold. -/
def Obligations.WindowsOpenWholeAndClose : Prop :=
  (∀ (s : State) (core thread w base len first n : Nat) (k : Task), up s → noParts s → findTask s core thread = some k →
     (k.wait.isSome = true → exec (.windowOpen core thread w base len first n) s = .next (inBreath s)) ∧
     (k.wait = none → mayOpen s core w base len first n = true →
       ∃ t, exec (.windowOpen core thread w base len first n) s = .next t ∧ sameMemory s t ∧ t.phys = s.phys ∧
         (let c := getCore s core
          let v := getWin (getCore t core) w
          v.baseU = BitVec.ofNat 14 base ∧ v.lenU.toNat = len ∧ v.acFirst.toNat = first ∧ v.acNum.toNat = n ∧ v.ctx = c.ctx ∧ v.st = 1 ∧
            v.gen = (getWin c w).gen + 1 ∧ v.openedBy = thread) ∧
         (∀ j, first ≤ j → j < first + n →
           getCtr (getCore t core) j = { count := 0, ctx := (getCore s core).ctx, st := 1, win := BitVec.ofNat 6 w }) ∧
         (∀ x, x ≠ core → getCore t x = getCore s x) ∧
         ((getWin (getCore s core) w).st ≠ 1 → t = { inBreath s with cores := t.cores, items := t.items } ∧
           ∀ x, x ≠ w → getWin (getCore t core) x = getWin (getCore s core) x)) ∧
     (k.wait = none → mayOpen s core w base len first n = false →
       ∃ t, exec (.windowOpen core thread w base len first n) s = .next t ∧ findTask t core thread = none ∧ sameMemory s t ∧
         t.phys = s.phys)) ∧
  (∀ (s : State) (core : Nat), up s →
     (∀ w, (getWin (getCore s core) w).st = 1 → ∃ t, exec (.windowClose core w) s = .next t ∧
       getWin (getCore t core) w = { getWin (getCore s core) w with st := 2, halo := none } ∧
       (∀ j, (getWin (getCore s core) w).acFirst.toNat ≤ j →
         j < (getWin (getCore s core) w).acFirst.toNat + (getWin (getCore s core) w).acNum.toNat → (getCtr (getCore t core) j).st = 2) ∧
       (∀ th ∈ waitersOfWin s core w, findTask t core th = none) ∧ sameMemory s t ∧ t.queues = s.queues ∧
       (∀ x, x ≠ core → getCore t x = getCore s x)) ∧
     (∀ w, (getWin (getCore s core) w).st ≠ 1 → ∃ t, exec (.windowClose core w) s = .next t ∧ t = { inBreath s with cores := t.cores } ∧
       getWin (getCore t core) w = { getWin (getCore s core) w with halo := none } ∧
       (∀ x, x ≠ w → getWin (getCore t core) x = getWin (getCore s core) x)) ∧
     (∀ th j (n : W32) k, findTask s core th = some k → k.wait = none → (getCtr (getCore s core) j).st = 1 →
       (0 ≤ ((getCtr (getCore s core) j).count - n).toInt → exec (.counterWait core th j n) s = .next (inBreath s)) ∧
       (((getCtr (getCore s core) j).count - n).toInt < 0 → ∃ t, exec (.counterWait core th j n) s = .next t ∧
         t = { inBreath s with tasks := t.tasks, cores := t.cores } ∧
         getCtr (getCore t core) j = { getCtr (getCore s core) j with waited := true } ∧
         findTask t core th = some { k with wait := some { counter := j, threshold := n, boundaries := 0 } })))

/-- R187: a write to an open window of its generation and context, inside it, on a core that is not fenced, lands in the
scratchpad and counts one on its counter, once Table 8.9 lets its writer send it into a window of a halo exchange (R171); any other
one is late: counted on the window, logged once for each generation, and without an effect on counters or the scratchpad. -/
def Obligations.WindowWritesLandOrAreLate : Prop :=
  ∀ (s : State) (core w u p writer : Nat) (gen : Byte) (ctx : CtxId) (data : BitVec 2048), up s → coreLive s core = true → w < 64 →
    physOf s core = some p →
    let c := getCore s core
    let v := getWin c w
    let j := v.acFirst.toNat + u / (v.lenU.toNat / v.acNum.toNat)
    let accepted := v.st = 1 ∧ v.gen = gen ∧ ctx = v.ctx ∧ u < v.lenU.toNat ∧ c.bind ≠ 2
    let lets := haloMay (inBreath s) core w u writer (toLE 256 data.toNat)
    (v.halo = none → lets = true) ∧
    (accepted → lets = false → exec (.windowWrite core w gen u ctx writer data) s = .next (inBreath s)) ∧
    (accepted → lets = true → ∃ t, exec (.windowWrite core w gen u ctx writer data) s = .next t ∧
      getCtr (getCore t core) j = { getCtr c j with count := (getCtr c j).count + 1 } ∧
      (∀ x, x ≠ j → getCtr (getCore t core) x = getCtr c x) ∧ getWin (getCore t core) w = v ∧
      (∀ k, k < 256 → (tget 0 (tget {} t.phys p).scratch (256 * (v.baseU.toNat + u) + k)).toNat = data.toNat / 2 ^ (8 * k) % 256) ∧
      (∀ a : Nat, a < 256 * (v.baseU.toNat + u) ∨ 256 * (v.baseU.toNat + u) + 256 ≤ a →
        tget 0 (tget {} t.phys p).scratch a = tget 0 (tget {} s.phys p).scratch a) ∧
      t = { inBreath s with phys := t.phys, cores := t.cores, tasks := t.tasks }) ∧
    (¬accepted → ∃ t, exec (.windowWrite core w gen u ctx writer data) s = .next t ∧ t.phys = s.phys ∧ t.tasks = s.tasks ∧
      (getWin (getCore t core) w).late = satAdd v.late 1 ∧ (getCore t core).counters = c.counters ∧
      (v.lateLogged.contains gen.toNat = false → s.bell.staging.length < 256 →
        ∃ e, t.bell.staging = s.bell.staging ++ [e] ∧ e.code = 0x0020 ∧
          e.arg.toNat = w + gen.toNat * 2 ^ 8 + writer % 64 * 2 ^ 16) ∧
      (v.lateLogged.contains gen.toNat = true → t.bell = s.bell))

/-- STREAM_ARM (R250, R251, R254, R258): a legal descriptor on a slot of a task's thread that is not ACTIVE is taken under the next
generation; its requests wait while no tag is free, and those of a write stream until its task's drain (R20); arming an ACTIVE
slot, or a descriptor with a reserved field, fails the item with some failure status (Table 2.23); an arming that the ranges, the
prefetch bounds or the halo protocol do not allow, or without a task on the thread, changes nothing.
MEMORY_READ_RESPONSE (R251, R253, R268): the data of a demand read that does not count lands in the core's scratchpad where the
stream puts it; with its last part the slot is DONE, once the blocks that it brought in whole verify; an answer for a slot armed
anew is counted and discarded.
The failure status is free (log 12), and the tag that is taken is the model's choice (log 18). -/
def Obligations.StreamsAreArmedAndAnswered : Prop :=
  (∀ (s : State) (core i : Nat) (d : BitVec 256), up s → i < 128 →
     (findTask s core (i / 4) = none → exec (.streamArm core i d) s = .next (inBreath s)) ∧
     (∀ k, findTask s core (i / 4) = some k → (getSlot (getCore s core) i).st ≠ 1 → sdReserved d = false →
       (sdLegal d = false ∨ armable (inBreath s) core k d = false → exec (.streamArm core i d) s = .next (inBreath s)) ∧
       (sdLegal d = true → armable (inBreath s) core k d = true →
         (∃ t, exec (.streamArm core i d) s = .next t ∧ ((∀ it, findItem s k.q k.idx = some it → it.landed = []) → sameMemory s t) ∧
           (getSlot (getCore t core) i).gen = (getSlot (getCore s core) i).gen + 1 ∧ (getSlot (getCore t core) i).desc = d) ∧
         (sdKind d = 2 ∨ tagFree s core (decide (sdKind d = 1)) = false →
           ∃ t, exec (.streamArm core i d) s = .next t ∧ t = { inBreath s with cores := t.cores } ∧
             (getSlot (getCore t core) i).st = 1 ∧ (getSlot (getCore t core) i).todo = streamParts d ∧
             (getSlot (getCore t core) i).landed = 0))) ∧
     (∀ k, findTask s core (i / 4) = some k → (getSlot (getCore s core) i).st = 1 ∨ sdReserved d = true → opOf s k.q k.idx = none →
       ∀ it, findItem s k.q k.idx = some it → ∃ t j, exec (.streamArm core i d) s = .next t ∧ findItem t k.q k.idx = some j ∧
         j.stage = .ended ∧ 0x10 ≤ j.status.toNat ∧ j.status.toNat < 0x40)) ∧
  (∀ (s : State) (tag : W16) (r : Req) (core i sp p : Nat) (gen : Byte) (ctx : CtxId) (data : BitVec 2048), up s → core < 64 →
     i < 128 → reqOf s tag.toNat = some r → r.write = false → r.owner = .stream core i gen sp false ctx →
     (∀ k, (getSlot (getCore s core) k).todo = []) →
     let v := getSlot (getCore s core) i
     (v.st = 1 → v.gen = gen → sdCount v.desc = false → physOf s core = some p → r.pa % 256 + r.len ≤ 256 →
       (v.left ≤ 1 → ∀ k, findTask s core (i / 4) = some k →
         ∃ n, verifyMixed (inBreath s) k.ctx (v.cold ++ [(r.addr, r.len)]) = .ok (.fine n)) →
       ∃ t, exec (.memoryReadResponse tag .ok .ok data) s = .next t ∧ sameMemory s t ∧
         (getSlot (getCore t core) i).landed = v.landed + 1 ∧ (getSlot (getCore t core) i).left = v.left - 1 ∧
         (getSlot (getCore t core) i).st = (if v.left ≤ 1 then 2 else 1) ∧
         ∀ k, k < r.len → (tget 0 (tget {} t.phys p).scratch (sp + k)).toNat = data.toNat / 2 ^ (8 * (r.pa % 256 + k)) % 256) ∧
     (v.gen ≠ gen → ∃ t, exec (.memoryReadResponse tag .ok .ok data) s = .next t ∧ sameMemory s t ∧ t.phys = s.phys ∧
       (getCore t core).cancelled = satAdd (getCore s core).cancelled 1))

/-! ### Translation and paging events (chapters 10, 11) -/

/-- PAGE_WALK (R235, R243, R244, R246, R259): a demand walk that ends in a leaf fills the active bank, when nothing in it is
pinned; one that faults opens a record for an item, which waits on it; a prefetch that faults is dropped and counted. Each
counts as a walk and leaves memory as it is.
That PAGE_WALK alone counts a walk is the model's reading (log 23). -/
def Obligations.WalksFillOrFault : Prop :=
  ∀ (s : State) (cls : Cls) (ctx : CtxId) (va : BitVec 52) (wr : Bool), up s → ¬(cls = .h ∧ ctx = 0) →
    (∀ who size base r w, who ≠ .prefetch → walk s cls ctx va.toNat wr = .leaf size base r w →
      ∃ t, exec (.pageWalk cls ctx va wr who) s = .next t ∧ t.tr.walks = satAdd s.tr.walks 1 ∧ t.tr.recs = s.tr.recs ∧
        t.mem = s.mem ∧ t.items = s.items ∧
        ((∀ e ∈ s.tr.active, e.pinned = false) → ∃ e ∈ t.tr.active, e.cls = cls ∧ e.size = size ∧ e.page = va.toNat >>> size ∧
          e.frame = base / 4096 ∧ e.r = r ∧ e.w = w ∧ e.pinned = false)) ∧
    (∀ q idx i reason level pte, findItem s q idx = some i → walk s cls ctx va.toNat wr = .fault reason level pte → reason ≠ 5 →
      s.tr.recs.length < 512 → s.tr.recs.any (fun x => x.key = keyOf i.ctx (fieldOf cls va.toNat)) = false →
      ∃ t j rec', exec (.pageWalk cls ctx va wr (.item q idx)) s = .next t ∧ t.tr.walks = satAdd s.tr.walks 1 ∧ t.mem = s.mem ∧
        t.tr.recs = s.tr.recs ++ [rec'] ∧ rec'.reason = BitVec.ofNat 8 reason ∧ rec'.level = BitVec.ofNat 8 level ∧ rec'.pte = pte ∧
        rec'.write = wr ∧ rec'.number = none ∧ rec'.attached = [(q, idx)] ∧
        findItem t q idx = some j ∧ keyOf i.ctx (fieldOf cls va.toNat) ∈ j.holdKeys ∧ j.stage = i.stage) ∧
    (∀ reason level pte, walk s cls ctx va.toNat wr = .fault reason level pte → reason ≠ 5 →
      ∃ t, exec (.pageWalk cls ctx va wr .prefetch) s = .next t ∧ t.tr.recs = s.tr.recs ∧ t.tr.active = s.tr.active ∧
        t.tr.walks = satAdd s.tr.walks 1 ∧ t.str = { s.str with pfDrop := satAdd s.str.pfDrop 1 } ∧ t.items = s.items ∧ t.mem = s.mem)

/-- The fault ring (R245, Table 11.12): while the ring is enabled, has room and no record is on its way, a record whose write failed
is written again, and else the oldest waiting record takes TAIL as its number; it goes to slot TAIL mod 2ⁿ. An answered record
advances TAIL and raises FAULT_REC; a poisoned one sets RING_ERR, which holds every record until software clears it; the failed
record is then written again, at once on an enabled ring.
KQ_TR_FCTRL (Table 11.12): the interrupt's enable and line take a write; LOG2 only while the ring is disabled; EN is set on
a legal ring alone and cleared always; a one written to RING_ERR clears it. -/
def Obligations.FaultRingTakesRecordsAndWrites : Prop :=
  let sent := fun (s t : State) (r : FaultRec) => ∃ x, t.mem.reqs = s.mem.reqs ++ [x] ∧ x.owner = .faultRecord ∧ x.write = true ∧
    x.pa = s.tr.fring.toNat + 32 * ((r.number.getD 0).toNat % 2 ^ s.tr.fLog2.toNat) ∧ x.len = 32 ∧ x.data.length = 32 ∧
    x.data = faultBytes r s.tr.fLog2.toNat ∧ t.mem.bytes = s.mem.bytes ∧ t.tr.tail = s.tr.tail
  (∀ s : State, up s →
     (s.tr.fEn = false ∨ s.tr.ringErr = true ∨ ringRoom s = false ∨ faultInFlight s = true ∨
       (s.tr.failedRec = none ∧ ∀ r ∈ s.tr.recs, r.number.isSome = true) → exec .faultRecordPost s = .next s) ∧
     (s.tr.fEn = true → s.tr.ringErr = false → ringRoom s = true → faultInFlight s = false →
       (∀ r, s.tr.failedRec = some r → ∃ t, exec .faultRecordPost s = .next t ∧ sent s t r ∧ t.tr = s.tr) ∧
       (∀ r, s.tr.failedRec = none → s.tr.recs.find? (fun x => x.number.isNone) = some r →
         ∃ t, exec .faultRecordPost s = .next t ∧ sent s t { r with number := some s.tr.tail } ∧
           { r with number := some s.tr.tail } ∈ t.tr.recs ∧ t.tr.recs.length = s.tr.recs.length)) ∧
     (∀ (tag : W16) r, reqOf s tag.toNat = some r → r.write = true → r.owner = .faultRecord → r.waiters = [] → 64 ≤ r.pool →
       (∃ t, exec (.memoryWriteResponse tag .ok) s = .next t ∧ t.tr.tail = s.tr.tail + 1 ∧ t.tr.failedRec = none ∧
         t.irq.gstat.getLsbD 5 = true) ∧
       (∃ t, exec (.memoryWriteResponse tag .poison) s = .next t ∧ t.tr.tail = s.tr.tail ∧ t.tr.ringErr = true)) ∧
     (s.tr.ringErr = false → exec .ringErrClear s = .next s) ∧
     (s.tr.ringErr = true → s.tr.fEn = false ∨ s.tr.failedRec = none →
       exec .ringErrClear s = .next { s with tr := { s.tr with ringErr := false } }) ∧
     (∀ r, s.tr.ringErr = true → s.tr.fEn = true → s.tr.failedRec = some r →
       ∃ t, exec .ringErrClear s = .next t ∧ t.tr = { s.tr with ringErr := false } ∧ sent s t r)) ∧
  (∀ (s : State) (v : W64), up s →
     let log2 := if s.tr.fEn then s.tr.fLog2 else BitVec.ofNat 5 (fld v 12 8)
     let legal := 1 ≤ log2.toNat ∧ log2.toNat ≤ 16 ∧ s.tr.fring.toNat % 2 ^ (5 + log2.toNat) = 0
     let t : State := { s with tr := { s.tr with
       fIrqEn := v.getLsbD 19, fIrqLine := BitVec.ofNat 3 (fld v 18 16), fLog2 := log2
       fEn := v.getLsbD 0 && (s.tr.fEn || decide legal) } }
     exec (.fctrlWrite v) s = if v.getLsbD 1 then exec .ringErrClear t else .next t)

/-- A page's automatic migration (R218, Table 10.11): when every block of its copy is written and acknowledged the page is COPIED; at
a later boundary the frames are exchanged and the move is counted; at a boundary, once no task dispatched before the switch runs,
the frame left returns. Between boundaries pages neither switch nor return a frame. -/
def Obligations.MigrationsCopySwitchAndReturn : Prop :=
  ∀ (s : State) (lpn : Nat) (m : Migration) (i : InfoEntry), up s → findMig s lpn = some m → readInfo s lpn = .ok i → m.item = none →
    (i.st = 2 → copyWriting s lpn = false →
      ∃ t, exec (.pageCopyDone lpn) s = .next t ∧
        t.mem.bytes = (putInfo s lpn { i with st := 3 }).mem.bytes ∧ t.mem.reqs = s.mem.reqs ∧
        t.pg.migrations = s.pg.migrations.map (fun x => if x.lpn = lpn then { x with at_ := s.breath.num } else x) ∧
        t.pg.active = s.pg.active ∧ t.items = s.items) ∧
    (i.st ≠ 2 ∨ copyWriting s lpn = true → exec (.pageCopyDone lpn) s = .next (inBreath s)) ∧
    (s.edge = true → i.st = 3 → m.at_.toNat < s.breath.num.toNat → ∃ t, exec (.pageSwitch lpn) s = .next t ∧
      t.mem.bytes = (putInfo s lpn { i with far := i.altFar, frame := i.alt, altFar := i.far, alt := i.frame, st := 4
                                            switchBr := (lowBreath s).toNat }).mem.bytes ∧
      t.pg.demoted = (if m.far then satAdd s.pg.demoted 1 else s.pg.demoted) ∧
      t.pg.promoted = (if m.far then s.pg.promoted else satAdd s.pg.promoted 1) ∧ t.items = s.items) ∧
    (s.edge = false ∨ i.st ≠ 3 ∨ s.breath.num.toNat ≤ m.at_.toNat → exec (.pageSwitch lpn) s = .next s) ∧
    (s.edge = true → i.st = 4 → (∀ k ∈ s.tasks, m.at_.toNat ≤ k.dispatched.toNat) →
      (∀ x ∈ s.items, ¬(x.opcode = 0x24 ∧ x.stage = .executing)) → (∀ p ∈ s.pg.autoWait, p.1 ≠ lpn) →
      ∃ t, exec (.altFrameReturn lpn) s = .next t ∧
        t.mem.bytes = (putInfo s lpn { i with st := 1, alt := 0, altFar := false }).mem.bytes ∧
        t.pg.migrations = s.pg.migrations.filter (fun x => x.lpn ≠ lpn) ∧
        (i.altFar = false → i.alt ∉ t.pg.used0) ∧ (i.altFar = true → i.alt ∉ t.pg.used1)) ∧
    (s.edge = false ∨ i.st ≠ 4 ∨ (∃ k ∈ s.tasks, k.dispatched.toNat < m.at_.toNat) → exec (.altFrameReturn lpn) s = .next s)

/-! ### Reed (chapter 15) -/

/-- Every request of either mailbox slot (R331): one that meets a busy slot, or a Reed that is booting or halted, is ignored with
LOST; one from the slot that may not send it completes DENIED; a reserved operation completes BAD_ARG. Nothing else of the
die changes but the slot, the mailbox interrupt and whose turn is next.
The order of the checks is the model's reading (log 43). -/
def Obligations.MailboxSlotsGuardTheirRequests : Prop :=
  ∀ (s : State) (x : Slot) (tag : W16) (a b : W64), up s →
    let hosts := [Instr.imageLoad x tag a b, .imageCancel x tag, .ctxAlloc x tag, .ctxBind x tag a b, .ctxRelease x tag a]
    let firmwares := [Instr.coreBind x tag a b, .unitEvent x tag a, .bellLog x tag a b, .fwReady x tag]
    let only := fun (t : State) => t = { s with irq := { s.irq with gstat := t.irq.gstat },
                                                reed := { s.reed with host := t.reed.host, fw := t.reed.fw, serveFwNext := t.reed.serveFwNext } }
    (cannotTake s x = true → ∀ c ∈ hosts ++ firmwares, ∃ t, exec c s = .next t ∧ (mail t x).lost = true ∧
      (mail t x).busy = (mail s x).busy ∧ (mail t x).done = (mail s x).done ∧ only t) ∧
    (slotReady s x → ∀ c ∈ (if x = .host then firmwares else hosts), ∃ t, exec c s = .next t ∧ answered t x tag 3 0 ∧ only t) ∧
    (slotReady s x → ∀ op : Byte, op ≠ 0 → opDefined op.toNat = false →
      ∃ t, exec (.mailboxReservedOp x tag op) s = .next t ∧ answered t x tag 2 0 ∧ only t)

/-- The host's context requests that succeed (R193, R333): CTX_ALLOC answers with the least free identifier, or with code 5 when
there is none; CTX_BIND of an allocated context to a closed queue and CORE_BIND of one to an unbound core in service wait for the
boundary, which binds them; CTX_RELEASE of a context without an open queue begins; and a bad one changes no binding. -/
def Obligations.ContextRequestsAreTaken : Prop :=
  ∀ (s : State) (tag : W16) (a b : W64), up s →
    (slotReady s .host → ∀ c, nthFree s.reed.ctxs 1 4096 0 = some c → c < 4096 →
      ∃ t, exec (.ctxAlloc .host tag) s = .next t ∧ answered t .host tag 0 c ∧ t.reed.ctxs = insUp s.reed.ctxs c ∧
        t.irq.gstat.getLsbD 1 = true ∧ t.queues = s.queues) ∧
    (slotReady s .host → nthFree s.reed.ctxs 1 4096 0 = none →
      ∃ t, exec (.ctxAlloc .host tag) s = .next t ∧ answered t .host tag 5 0 ∧ t.reed.ctxs = s.reed.ctxs) ∧
    (slotFree s .host → queuePresent s a.toNat = true → b.toNat < 4096 → allocated s b.toNat = true → (getQ s a.toNat).st = 0 →
      releasing s b.toNat = false → ∃ t w, exec (.ctxBind .host tag a b) s = .next t ∧ t.reed.binds = s.reed.binds ++ [w] ∧
        w.queue = true ∧ w.index = a.toNat ∧ w.ctx.toNat = b.toNat ∧ (mail t .host).busy = true ∧ t.queues = s.queues) ∧
    (slotReady s .host → allocated s b.toNat = false → ∃ t, exec (.ctxBind .host tag a b) s = .next t ∧ answered t .host tag 2 0 ∧
      t.reed.binds = s.reed.binds ∧ t.queues = s.queues) ∧
    (slotFree s .host → 1 ≤ a.toNat → a.toNat < 4096 → allocated s a.toNat = true →
      s.queues.any (fun p => p.2.ctx.toNat = a.toNat && p.2.st ≠ 0) = false →
      ∃ t r, exec (.ctxRelease .host tag a) s = .next t ∧ t.reed.releases = s.reed.releases ++ [r] ∧ r.ctx.toNat = a.toNat ∧
        r.tag = tag ∧ r.step = 0 ∧ t.reed.ctxs = s.reed.ctxs ∧ t.queues = s.queues) ∧
    (slotFree s .firmware → a.toNat < 128 → a.getLsbD 3 = false → b.toNat < 4096 → allocated s b.toNat = true →
      releasing s b.toNat = false →
      let k := nfld a.toNat 6 4 * 8 + nfld a.toNat 2 0
      coreLive s k = true → (getCore s k).bind = 0 → (getCore s k).rebind = none →
      ∃ t w, exec (.coreBind .firmware tag a b) s = .next t ∧ t.reed.binds = s.reed.binds ++ [w] ∧ w.queue = false ∧ w.index = k ∧
        w.ctx.toNat = b.toNat ∧ t.cores = s.cores)

/-- The steps of a release and of a rebinding (R194 to R197, R182, Table 9.9), one at a time: at a boundary the fence closes the
context's cores; the scrub clears their memories and the cache lines of the context; and the first boundary after it frees the cores,
the queues and the identifier and answers the host; a rebound core takes its new context at a boundary, which is logged. Between
boundaries nothing of this but the scrub happens. -/
def Obligations.ReleasesFenceScrubAndFree : Prop :=
  ∀ (s : State), up s →
    (s.edge = false → exec .ctxFence s = .next s ∧ exec .ctxScrubbed s = .next s ∧ ∀ k, exec (.coreRebind k) s = .next s) ∧
    (∀ r, s.edge = true → s.reed.releases = [r] → r.step = 0 → r.at_ ≠ s.breath.num → (∀ p ∈ s.cores, p.2.rebind = none) →
      ∃ t, exec .ctxFence s = .next t ∧ t.reed.releases = [{ r with step := 2, at_ := s.breath.num }] ∧
        (∀ k, k ∈ coresOfCtx s r.ctx 1 → (getCore t k).bind = 2)) ∧
    (∀ r, s.reed.releases = [r] → r.step = 2 → (∀ p ∈ s.cores, p.2.rebind = none) →
      ∃ t, exec .ctxScrubDone s = .next t ∧ t.reed.releases = [{ r with step := 6, at_ := s.breath.num }] ∧
        (∀ k p, k ∈ coresOfCtx s r.ctx 2 → physOf s k = some p → tget {} t.phys p = {}) ∧
        (∀ c ∈ t.clusters, ∀ l ∈ c.2.lines, l.2 ≠ r.ctx)) ∧
    (∀ r, s.edge = true → s.reed.releases = [r] → r.step = 6 → r.at_ ≠ s.breath.num →
      ∃ t, exec .ctxScrubbed s = .next t ∧ t.reed.releases = [] ∧ r.ctx.toNat ∉ t.reed.ctxs ∧
        (∀ q, (getQ s q).ctx = r.ctx → (getQ t q).ctx = 0) ∧ (∀ k ∈ coresOfCtx s r.ctx 2, (getCore t k).bind = 0 ∧ (getCore t k).ctx = 0) ∧
        ((mail s .host).done = false → (mail t .host).done = true ∧ (mail t .host).rspTag = r.tag ∧ (mail t .host).code = 0)) ∧
    (∀ k x b, s.edge = true → (getCore s k).rebind = some (x, true, b) → b ≠ s.breath.num →
      ∃ t, exec (.coreRebind k) s = .next t ∧ getCore t k = { getCore s k with bind := 1, ctx := x, rebind := none } ∧
        (∀ n, n ≠ k → getCore t n = getCore s n) ∧
        (s.bell.staging.length < 256 → ∃ e, t.bell.staging = s.bell.staging ++ [e] ∧ e.code = 0x0021 ∧ e.ctx = (getCore s k).ctx))

/-- Firmware's requests (R328, R361, R370) and the acknowledgement of an answer (R331), for every operand: UNIT_EVENT counts a corrected
or an uncorrected event in its unit's record, which may make the unit suspect or retired, and an uncorrected one is logged; BELL_LOG
stages firmware's event, or drops and counts it when 256 wait; FW_READY ends the wait for firmware, after which tasks may be dispatched
again; a request with bad operands has no effect but its BAD_ARG. The slot takes each request and answers it, or keeps the answer
waiting while DONE is set. Clearing DONE posts the next waiting answer. Nothing else changes. -/
def Obligations.FirmwareRequestsAndAnswers : Prop :=
  ∀ (s : State) (tag : W16) (a b : W64), up s →
    let m := s.reed.fw
    let fin := fun (op : Byte) (arg0 arg1 : W64) (code : Byte) =>
      let v : MailSlot := { m with arg0 := arg0, arg1 := arg1, reqTag := tag, op := op, busy := false }
      if m.done then { v with waiting := m.waiting ++ [{ result := 0, tag := tag, code := code }] }
      else { v with result := 0, rspTag := tag, code := code, done := true }
    let reed := fun (op : Byte) (arg0 arg1 : W64) (code : Byte) => { s.reed with serveFwNext := false, fw := fin op arg0 arg1 code }
    let staged := fun (e : BellEvent) =>
      if s.bell.staging.length < 256 then { s.bell with staging := s.bell.staging ++ [e] }
      else { s.bell with dropped := satAdd s.bell.dropped 1, droppedSince := s.bell.droppedSince + 1 }
    let u : W16 := a.setWidth 16
    let r := getUnit s u
    let moves := fun (x : UnitRec) (st : Byte) => { x with st := st, changed := lowBreath s, ueSince := false }
    (slotFree s .firmware →
      (unitValid u = true → a.toNat < 2 ^ 16 →
        ∃ t, exec (.unitEvent .firmware tag a) s = .next t ∧ t = { s with history := t.history, reed := reed 0x11 a m.arg1 0 } ∧
          (let x := { r with ce := satAdd r.ce 1, ceWin := satAdd r.ceWin 1 }
           getUnit t u = if r.st = 0 ∧ 256 ≤ x.ceWin.toNat ∧ unitKind u ≠ 4 then moves x 1 else x) ∧
          ∀ v, v ≠ u → getUnit t v = getUnit s v) ∧
      (unitValid u = true → a.toNat / 2 ^ 16 = 1 →
        ∃ t, exec (.unitEvent .firmware tag a) s = .next t ∧
          t = { s with history := t.history, reed := reed 0x11 a m.arg1 0
                       bell := staged { code := 0x0040, unit := u, src := 1, fault := true } } ∧
          (let x := { r with ue := satAdd r.ue 1 }
           getUnit t u = if unitKind u = 4 then x else if r.st = 0 then moves x 1
             else if r.st = 1 ∧ 3 ≤ x.ue.toNat then moves x 2 else { x with ueSince := true }) ∧
          ∀ v, v ≠ u → getUnit t v = getUnit s v) ∧
      (unitValid u = false ∨ 2 ^ 17 ≤ a.toNat → exec (.unitEvent .firmware tag a) s = .next { s with reed := reed 0x11 a m.arg1 2 }) ∧
      (0x8000 ≤ fld a 15 0 → fld a 47 44 = 0 → fld a 63 49 = 0 → exec (.bellLog .firmware tag a b) s
        = .next { s with reed := reed 0x12 a b 0
                         bell := staged { code := u, unit := BitVec.ofNat 16 (fld a 31 16), ctx := BitVec.ofNat 12 (fld a 43 32)
                                          src := 2, arg := b, fault := a.getLsbD 48 } }) ∧
      (fld a 15 0 < 0x8000 ∨ fld a 47 44 ≠ 0 ∨ fld a 63 49 ≠ 0 →
        exec (.bellLog .firmware tag a b) s = .next { s with reed := reed 0x12 a b 2 }) ∧
      exec (.fwReady .firmware tag) s = .next { s with reed := { reed 0x13 m.arg0 m.arg1 0 with fwWait := false } }) ∧
    (∀ x, let c := mail s x
      ∃ t, exec (.mailboxDoneClear x) s = .next t ∧
        t = { s with irq := { s.irq with gstat := t.irq.gstat }, reed := { s.reed with host := t.reed.host, fw := t.reed.fw } } ∧
        (∀ y, y ≠ x → mail t y = mail s y) ∧
        (c.waiting = [] ∨ c.done = false → mail t x = { c with done := false } ∧ t.irq = s.irq) ∧
        (∀ w rest, c.waiting = w :: rest → c.done = true →
          mail t x = { c with result := w.result, rspTag := w.tag, code := w.code, done := true, waiting := rest } ∧
            (x = .host → t.irq.gstat.getLsbD 1 = true) ∧ (x = .firmware → t.irq = s.irq)))

/-- Image loads (R323 to R325): IMAGE_LOAD of a legal address begins to verify and is not answered yet; a second one is BUSY; the
image that passes every check of Table 15.4 becomes pending, one that fails is reported to the other dies and answered with
its reason; a peer's rejection, a cancel and 256 boundaries of waiting end the load with their codes; none touches the
active image.
Signature and digest are the opaque functions of log 13. -/
def Obligations.ImageLoadsVerifyOrEnd : Prop :=
  ∀ (s : State) (tag : W16) (a b : W64), up s → s.reed.warm = false →
    (slotFree s .host → loadOf s = none → a.toNat % 4096 = 0 → a.toNat < 2 ^ 56 → b.toNat < 2 ^ 32 →
      ∃ t, exec (.imageLoad .host tag a b) s = .next t ∧ t.reed.st = .verifying ∧ t.reed.active = s.reed.active ∧
        t.reed.verifying = some { pa := a.toNat, length := b.toNat, tag := tag } ∧ (mail t .host).busy = false ∧
        (mail t .host).done = (mail s .host).done) ∧
    (slotReady s .host → (loadOf s).isSome = true → ∃ t, exec (.imageLoad .host tag a b) s = .next t ∧ answered t .host tag 1 0 ∧
      loadOf t = loadOf s) ∧
    (∀ l agrees, s.reed.verifying = some l → (mail s .host).done = false →
      (loadReason s l agrees = none → ∃ t l', exec (.imageVerified agrees) s = .next t ∧ t.reed.pending = some l' ∧ l'.tag = l.tag ∧
        t.reed.verifying = none ∧ t.reed.st = .pending ∧ t.reed.active = s.reed.active) ∧
      (∀ r, loadReason s l agrees = some r → r < 256 → ∃ t, exec (.imageVerified agrees) s = .next t ∧ t.reed.verifying = none ∧
        t.reed.reject.toNat = r ∧ t.reed.active = s.reed.active ∧ (mail t .host).rspTag = l.tag ∧ (mail t .host).code = 4 ∧
        (mail t .host).result.toNat = r ∧ t.sent = s.sent ++ [.rejectReport false])) ∧
    (∀ l, loadOf s = some l → (mail s .host).done = false →
      (∃ t, exec (.rejectReport false) s = .next t ∧ loadOf t = none ∧ t.reed.reject = 0x0C ∧ (mail t .host).code = 4 ∧
        t.reed.active = s.reed.active) ∧
      (∃ t, exec (.rejectReport true) s = .next t ∧ loadOf t = none ∧ (mail t .host).code = 7 ∧ t.reed.active = s.reed.active)) ∧
    (∀ l, s.reed.pending = some l → (mail s .host).done = false →
      (256 ≤ l.waited → ∃ t, exec (.refoldTimeout false) s = .next t ∧ t.reed.pending = none ∧ (mail t .host).code = 6 ∧
        t.reed.active = s.reed.active) ∧
      (l.waited < 256 → exec (.refoldTimeout false) s = .next s)) ∧
    (slotReady s .host → ∃ t, exec (.imageCancel .host tag) s = .next t ∧ loadOf t = none ∧ t.reed.active = s.reed.active ∧
      (mail t .host).busy = false ∧ (loadOf s = none → answered t .host tag 0 0) ∧
      ∀ l, loadOf s = some l → (mail t .host).done = true ∧ (mail t .host).rspTag = l.tag ∧ (mail t .host).code = 7 ∧
        (mail t .host).waiting = (mail s .host).waiting ++ [{ result := 0, tag := tag, code := 0 }])

/-- REFOLD (R325, R326, R328): it happens at a boundary, once every die is ready and no long task runs; then the pending image becomes
active with its breath, link and cascade parameters, CAP_EPOCH rises by one for the refold, firmware has to report again, the load is
answered with the new epoch, and no item of the store is lost.
Which items are checked again is the model's reading (log 52). -/
def Obligations.RefoldPutsTheImageIntoForce : Prop :=
  ∀ (s : State) (l : Load) (hold : Bool), up s → s.reed.pending = some l →
    exec (.refold false hold) s = .next s ∧
    (s.edge = false ∨ longRunning s = true → exec (.refold true hold) s = .next s) ∧
    (s.edge = true → s.reed.verifying = none → longRunning s = false → s.casc.lost.contains 0 = false →
      let e := if s.reed.refolded = some s.breath.num then s.epoch else s.epoch + 1
      ∃ t l', exec (.refold true hold) s = .next t ∧ t.reed.active = some l' ∧ l'.image.imageId = l.image.imageId ∧
        l'.image.tops = l.image.tops ∧ t.reed.pending = none ∧ t.reed.st = .running ∧ t.reed.fwWait = true ∧
        t.epoch = e ∧ t.reed.refolded = some s.breath.num ∧
        t.breath = { s.breath with guard := l.image.guard, refPerUs := l.image.refPerUs, upDie := l.image.upDie, src := l.image.src
                                   period := BitVec.ofNat 11 l.image.period.toNat, long := 0
                                   hops := if l.image.src = 1 then s.breath.hops else 0 } ∧
        t.casc.mode = l.image.cascMode ∧ t.link.node = l.image.node ∧ t.link.routes = l.image.routes ∧ t.cle.vcw = l.image.vcw ∧
        t.items.map (fun i => (i.q, i.idx)) = s.items.map (fun i => (i.q, i.idx)) ∧
        ((mail s .host).done = false → (mail t .host).rspTag = l.tag ∧ (mail t .host).code = 0 ∧
          (mail t .host).result.toNat = e.toNat))

/-! ### Faults, spares, losses and resets (chapters 15, 16) -/

/-- UNIT_FAULT_DETECTED and FW_HANG (R346, R358, Tables 16.2 and 16.9): a code that is not a unit of its source's kind changes
nothing; a corrected event counts one in its unit's record and nowhere else; an uncorrected one counts in its unit, makes a unit
in service suspect, and takes from the die what the fault reached.
What FW_HANG charges is the model's reading (log 60). -/
def Obligations.DetectionsChargeTheirUnit : Prop :=
  ∀ (s : State) (u : W16), up s →
    let ue := fun (t : State) => (getUnit t u).ue = satAdd (getUnit s u).ue 1 ∧ (getUnit t u).ce = (getUnit s u).ce
    (∀ src unc k, sourceKind src = some k → ¬(unitKind u = k ∧ unitValid u = true) → exec (.unitFaultDetected src u unc) s = .next s) ∧
    (unitValid u = true → ∀ src k, sourceKind src = some k → src ≠ .testPack → unitKind u = k →
      ∃ t, exec (.unitFaultDetected src u false) s = .next t ∧ t = { s with history := t.history } ∧
        (getUnit t u).ce = satAdd (getUnit s u).ce 1 ∧ (getUnit t u).ceWin = satAdd (getUnit s u).ceWin 1 ∧
        (getUnit t u).ue = (getUnit s u).ue ∧ ∀ v, v ≠ u → getUnit t v = getUnit s v) ∧
    (unitValid u = true → unitKind u = 1 → ∀ c, logicalOf s (unitIdx u) = some c →
      (∀ thread, ∃ t, exec (.unitFaultDetected (.scratchpadEcc thread) u true) s = .next t ∧ ue t ∧ findTask t c thread = none ∧
        ((getUnit s u).st = 0 → (getUnit t u).st = 1)) ∧
      (∃ t, exec (.unitFaultDetected .residueOrCrossbar u true) s = .next t ∧ ue t ∧ (∀ k ∈ t.tasks, k.core ≠ c) ∧
        tget {} t.phys (unitIdx u) = {} ∧ (getCore t c).bind = (getCore s c).bind ∧ (getCore t c).ctx = (getCore s c).ctx)) ∧
    (unitValid u = true → unitKind u = 2 → ∀ n, logicalCluster s (unitIdx u / 16) = some n → (getCluster s n).spareLines ≠ 0 →
      exec (.unitFaultDetected .cacheEcc u true) s
        = .next (setCluster s n { getCluster s n with spareLines := (getCluster s n).spareLines - 1 })) ∧
    (unitValid u = true → unitKind u = 8 → ∀ n, unitIdx u ≠ 8 → logicalCluster s (unitIdx u) = some n →
      ∃ t, exec (.unitFaultDetected .controlMemEcc u true) s = .next t ∧ ue t ∧ (getCluster t n).resetting = true ∧
        (getCluster t n).lines = [] ∧ (∀ k ∈ t.tasks, k.core / 8 ≠ n)) ∧
    (unitValid u = true → unitKind u = 8 → unitIdx u = 8 → s.reed.active ≠ none →
      ∃ t, exec (.unitFaultDetected .controlMemEcc u true) s = .next t ∧ ue t ∧ t.reed.warm = true ∧ t.tasks = []) ∧
    (unitValid u = true → unitKind u = 1 → exec (.unitFaultDetected .testPack u false) s = .next s ∧
      ∃ t, exec (.unitFaultDetected .testPack u true) s = .next t ∧ t = { s with history := t.history } ∧
        (getUnit t u).tfail = satAdd (getUnit s u).tfail 1 ∧ ((getUnit s u).st = 0 → (getUnit t u).st = 1) ∧
        ((getUnit s u).st = 1 → (getUnit t u).st = 2) ∧ ∀ v, v ≠ u → getUnit t v = getUnit s v) ∧
    (unitValid u = true → unitKind u = 8 → s.reed.active = none →
      ∃ t, exec (.fwHang (unitIdx u)) s = .next t ∧ ue t ∧ t = { s with history := t.history, bell := t.bell }) ∧
    (unitValid u = true → unitKind u = 8 → s.reed.active ≠ none →
      ∃ t, exec (.fwHang (unitIdx u)) s = .next t ∧ ue t ∧ t.reed.warm = true ∧ t.tasks = []) ∧
    (unitValid u = true → unitKind u = 3 → ∃ t, exec (.unitFaultDetected .portParity u true) s = .next t ∧ ue t) ∧
    (unitValid u = true → unitKind u = 4 → ∃ t, exec (.unitFaultDetected .linkLane u true) s = .next t ∧ ue t ∧
      (getUnit t u).st = (getUnit s u).st ∧ t = { s with history := t.history, bell := t.bell }) ∧
    (unitValid u = true → unitKind u = 6 → ∃ t, exec (.unitFaultDetected .bridgeAdapter u true) s = .next t ∧ ue t ∧
      (getBridge t (unitIdx u)).retries = satAdd (getBridge s (unitIdx u)).retries 1 ∧ t.link = s.link) ∧
    (∀ q idx i, findItem s q idx = some i → i.stage ≠ .recordSent →
      ∃ t, exec (.unitFaultDetected (.itemStore q idx) u true) s = .next t ∧ findItem t q idx = none ∧ t.history = s.history)

/-- SPARE_SUBSTITUTION and RETIREMENT_REFOLD (R12, R68, R329, R352, R353, Table 16.5), at a boundary: a suspect core's place goes to
its cluster's spare and its task is aborted, once no long task runs on it; a suspect port slice's place goes to a spare slice; a
retired unit with no spare leaves service, CAP_EPOCH rises by one for the refold and a capacity event tells of it; the highest
logical core of a cluster takes the place of one that left; a unit that is not due changes nothing.
Which of several spares is taken is the model's choice (log 34). -/
def Obligations.SparesAndRetirements : Prop :=
  ∀ (s : State) (u : W16), up s →
    (s.edge = false ∨ wantsSpare s u = false → exec (.spareSubstitution u) s = .next s) ∧
    (∀ k, unitKind u = 1 → logicalOf s (unitIdx u) = some k → longOn s k = true → exec (.spareSubstitution u) s = .next s) ∧
    (∀ k, s.edge = true → wantsSpare s u = true → unitKind u = 1 → logicalOf s (unitIdx u) = some k → k / 8 < clustersEn s →
      longOn s k = false →
      let c := getCluster s (k / 8)
      let v : W16 := BitVec.ofNat 16 (0x1000 + c.phys * 9 + c.spare)
      c.spare < 9 → v ≠ u →
      ∃ t, exec (.spareSubstitution u) s = .next t ∧ physOf t k = some (c.phys * 9 + c.spare) ∧ (getCluster t (k / 8)).spare = 0xF ∧
        (getUnit t u).role = 2 ∧ (getUnit t v).role = 0 ∧ (∀ x ∈ t.tasks, x.core ≠ k) ∧ tget {} t.phys (unitIdx u) = {} ∧
        (getCore t k).bind = (getCore s k).bind ∧ t.epoch = s.epoch) ∧
    (∀ v, s.edge = true → wantsSpare s u = true → unitKind u = 3 → spareSlice s = some v →
      ∃ t, exec (.spareSubstitution u) s = .next t ∧ (getUnit t u).role = 2 ∧ (getUnit t v).role = 0 ∧ t.epoch = s.epoch) ∧
    (s.edge = false ∨ (getUnit s u).st ≠ 2 ∨ (getUnit s u).role ≠ 0 ∨ unitDue s u = false ∨ spareLeft s u = true →
      exec (.retirementRefold u) s = .next s) ∧
    (s.edge = true → s.reed.active ≠ none → (getUnit s u).st = 2 → (getUnit s u).role = 0 → unitDue s u = true → spareLeft s u = false →
      unitValid u = true → unitKind u ≠ 4 →
      let e := if s.reed.refolded = some s.breath.num then s.epoch else s.epoch + 1
      ∃ t, exec (.retirementRefold u) s = .next t ∧ (getUnit t u).role = 2 ∧ t.epoch = e ∧ t.reed.refolded = some s.breath.num ∧
        t.capev.unit = u ∧ t.capev.kind = 1 ∧
        t.capev.pending = true ∧ t.capev.epoch = e ∧ t.capev.count = s.capev.count + 1 ∧ t.irq.gstat.getLsbD 2 = true ∧
        (∀ k, unitKind u = 1 → logicalOf s (unitIdx u) = some k →
          let h := 8 * (k / 8) + (coresOf (getCluster s (k / 8)) - 1)
          h / 8 = k / 8 → (physOf s h).isSome = true →
          physOf t h = none ∧ (h ≠ k → physOf t k = physOf s h)))

/-- DIE_LOST, RESTORATION, EXCHANGE_TIMEOUT, CLUSTER_RESET_DONE and HISTORY_WRITE (R286, R351, R356, R357, R359); the first three at
a boundary: a die out of
reach for 4 boundaries is lost, with a capacity event of its unit, and free-run when it is the timing master, and one out of
reach for fewer is not; a lost die or link that returns is taken off the loss with a capacity event; an executing item that has
waited 64 boundaries for a peer ends, with CAPACITY_LOST and the unit when it has no operation open; a cluster's reset ends in
this breath; a history write that succeeds makes the present history the one that a boot takes and leaves one of the two copies,
and one that fails leaves one copy and logs its event.
The end of an item whose peer never reports is the model's reading (log 61). -/
def Obligations.LossesAndReturnsAreReported : Prop :=
  ∀ s : State, up s →
    (s.edge = false → (∀ die, exec (.dieLost die) s = .next s) ∧ (∀ u, exec (.restoration u) s = .next s) ∧
      ∀ q idx die, exec (.exchangeTimeout q idx die) s = .next s) ∧
    (∀ die n, s.edge = true → isK5 s = false → die < 4 → die ≠ s.cascId.toNat → s.casc.lost.contains die = false →
      s.casc.unreachable.find? (fun x => x.1 = die) = some (die, n) →
      (n < 4 → exec (.dieLost die) s = .next s) ∧
      (4 ≤ n → ∃ t, exec (.dieLost die) s = .next t ∧ die ∈ t.casc.lost ∧ t.capev.unit = BitVec.ofNat 16 (0x7000 + die) ∧
        t.capev.kind = 1 ∧ t.capev.pending = true ∧ t.irq.gstat.getLsbD 2 = true ∧ (die = 0 → t.breath.freeRun = true) ∧
        t.queues = s.queues ∧ t.items = s.items ∧ t.tasks = s.tasks)) ∧
    (∀ u : W16, s.edge = true → unitKind u = 7 → s.casc.lost.contains (unitIdx u) = true →
      ∃ t, exec (.restoration u) s = .next t ∧ t.casc = { s.casc with lost := dropOne s.casc.lost (unitIdx u) } ∧ t.capev.unit = u ∧
        t.capev.kind = 2 ∧ t.capev.pending = true ∧ t.irq.gstat.getLsbD 2 = true) ∧
    (s.edge = true → s.link.lost = true → s.link.st = 2 → ∃ t, exec (.restoration 0x5000) s = .next t ∧ t.link = { s.link with lost := false } ∧
      t.capev.unit = 0x5000 ∧ t.capev.kind = 2) ∧
    (s.link.lost = false → exec (.restoration 0x5000) s = .next s) ∧
    (∀ q idx i die, s.edge = true → findItem s q idx = some i → i.stage = .executing →
      (i.exchangeWait < 64 → exec (.exchangeTimeout q idx die) s = .next s) ∧
      (64 ≤ i.exchangeWait → ∃ t j, exec (.exchangeTimeout q idx die) s = .next t ∧ findItem t q idx = some j ∧ j.stage = .ended ∧
        (opOf s q idx = none → ended t q idx 0x24 (BitVec.ofNat 64 (match die with
          | some x => 0x7000 + x % 4
          | none => 0x5000))))) ∧
    (∀ n, ((getCluster s n).resetting = true → exec (.clusterResetDone n) s
        = .next (setCluster s n { getCluster s n with resetAt := some s.breath.num })) ∧
      ((getCluster s n).resetting = false → exec (.clusterResetDone n) s = .next s)) ∧
    (∃ t, exec (.historyWrite true) s = .next t ∧ bestHistory t.xspi = some s.history ∧ t = { s with xspi := t.xspi } ∧
      (t.xspi.histA = s.xspi.histA ∨ t.xspi.histB = s.xspi.histB)) ∧
    (∃ t, exec (.historyWrite false) s = .next t ∧ t.history = s.history ∧
      (t.xspi.histA = s.xspi.histA ∨ t.xspi.histB = s.xspi.histB) ∧
      (s.bell.staging.length < 256 → ∃ e, t.bell.staging = s.bell.staging ++ [e] ∧ e.code = 0x0052))

/-- WARM_RESET, COLD_RESET, POWER_LOSS, COLD_BOOT and BOOT_READY (R339 to R343, R385, R389, R390, Tables 15.13, 15.14 and 16.4):
a reset that comes during Mute waits for the release; a warm reset of a die with an active image, after 100 cycles or by Reed,
clears tasks, core memories, caches and fault records and keeps the image, the breath, the bindings and the Bell record, and any
other one does nothing; a cold reset gives the die its reset state and keeps the fuses and the test port (and memory, with nothing
outstanding); a loss of power also resets the port; COLD_BOOT that fails halts Reed, and one that passes maps the clusters in order
with all spare lines, takes the Bell record's HEAD from the trailer, if there is one, and logs the boot; BOOT_READY makes Reed ready.
What a reset and a loss of power keep is the model's reading where the tables are silent (log 71). -/
def Obligations.ResetsLeaveWhatTheyShould : Prop :=
  (∀ (s : State) (low : Nat) (byReed : Bool),
    (s.rstLow = true ∨ s.powered = false → exec (.warmReset low byReed) s = .next s ∧ exec .coldReset s = .next s) ∧
    (s.rstLow = false → s.powered = true →
      (s.mute.muted = true → exec (.warmReset low byReed) s = .next { s with mute := { s.mute with wrstSeen := true } } ∧
        exec .coldReset s = .next { s with mute := { s.mute with rstSeen := true } }) ∧
      (s.mute.muted = false →
        (low < 100 → exec (.warmReset low false) s = .next s) ∧
        (s.reed.active = none → exec (.warmReset low byReed) s = .next s) ∧
        (s.reed.active ≠ none → 100 ≤ low ∨ byReed = true → ∃ t, exec (.warmReset low byReed) s = .next t ∧ t.reed.warm = true ∧
          t.reed.st = .verifying ∧ t.reed.active = s.reed.active ∧ loadOf t = none ∧ t.tasks = [] ∧ t.phys = [] ∧ t.tr.recs = [] ∧
          t.tr.active = [] ∧ t.tr.inactive = [] ∧ t.breath = s.breath ∧ t.epoch = s.epoch ∧ t.bell.head = s.bell.head ∧
          (∀ c ∈ t.clusters, c.2.lines = []) ∧
          (∀ k, (getCore t k).bind = (getCore s k).bind ∧ (getCore t k).ctx = (getCore s k).ctx)) ∧
        (∃ t, exec .coldReset s = .next t ∧ t = coldState t ∧ t.fuses = s.fuses ∧ t.powered = true ∧ t.tap = s.tap ∧
          (s.mem.reqs = [] → s.bell.flushing = none → t.mem.bytes = s.mem.bytes ∧ t.xspi = s.xspi)))) ∧
    (∃ t, exec .powerLoss s = .next t ∧ t.powered = false ∧ t.rstLow = true ∧ t.tap = {} ∧ t.items = [] ∧ t.fuses = s.fuses)) ∧
  (∀ s : State, s.rstLow = true →
    exec (.coldBoot false) s = .next { s with rstLow := false, powered := true, fuses := s.newFuses, reed := { s.reed with st := .halted } } ∧
    (s = coldState s → ∃ t, exec (.coldBoot true) s = .next t ∧ t.rstLow = false ∧ t.powered = true ∧ t.reed.booted = true ∧
      (∀ p, p < 8 → (getCluster t p).phys = p ∧ (getCluster t p).spareLines = 1310 ∧ (getCluster t p).lines = []) ∧
      (∀ h, bestTrailer s.xspi = some h → t.bell.head = h ∧ t.bell.flushed = h) ∧
      (bestTrailer s.xspi = none → t.bell.head = 1 ∧ t.bell.flushed = 1) ∧
      (∃ es e, t.bell.staging = es ++ [e] ∧ e.code = 0x0001 ∧ e.src = 1))) ∧
  (∀ s : State, up s →
    (s.reed.booted = true → s.reed.st = .boot → exec .bootReady s = .next { s with reed := { s.reed with st := .ready } }) ∧
    (s.reed.booted = false ∨ s.reed.st ≠ .boot → exec .bootReady s = .next s))

/-! ### Bell, Mute, sensors and the maintenance ports (chapters 17, 18) -/

/-- BELL_EVENT_LOG (R366 to R369): the event that has waited longest takes HEAD as its number and the breath it is logged in, and
fills slot HEAD mod 8,192; every other slot stays; an event of class F sets the Bell pending bit; and once an event has been
dropped, BELL_DROP joins the queue with the number of dropped ones.
The breath that a staged event carries, and when BELL_DROP joins, are the model's reading (log 75). -/
def Obligations.BellEventsFillTheirSlots : Prop :=
  ∀ s : State, up s →
    (s.bell.staging = [] → exec .bellEventLog s = .next s) ∧
    (∀ e rest, s.bell.staging = e :: rest → ∃ t off, exec .bellEventLog s = .next t ∧ t.bell.head = s.bell.head + 1 ∧
      tget {} t.bell.slots (s.bell.head.toNat % 8192) = { e with seq := s.bell.head, breath := s.breath.num, offset := off } ∧
      (∀ k, k ≠ s.bell.head.toNat % 8192 → tget {} t.bell.slots k = tget {} s.bell.slots k) ∧
      (e.fault = true → t.irq.gstat.getLsbD 3 = true ∧ t.bell.faultPend = true) ∧
      (e.fault = false → t.irq = s.irq) ∧
      (s.bell.droppedSince = 0 → t.bell.staging = rest) ∧
      (s.bell.droppedSince ≠ 0 → t.bell.droppedSince = 0 ∧
        ∃ d, t.bell.staging = rest ++ [d] ∧ d.code = 0x00FF ∧ d.arg = BitVec.ofNat 64 s.bell.droppedSince) ∧
      t = { s with bell := t.bell, irq := t.irq, free := t.free })

/-- Snapshots (R374, R375): at a boundary whose number is a multiple of 256, or after a fault event that no flush holds, a flush starts
unless FLUSHED equals HEAD, and a trigger during one causes one more; a flush that
completes writes the events below its HEAD into the Bell area and a trailer that a cold boot takes, and moves FLUSHED; one that
fails leaves FLUSHED and logs the error. -/
def Obligations.SnapshotsWriteTheRecord : Prop :=
  ∀ s : State, up s →
    let due := (s.edge = true ∧ s.breath.num.toNat % 256 = 0) ∨ faultUnflushed s = true
    (¬due → exec .bellFlush s = .next s) ∧
    (s.bell.flushing = none → s.bell.flushed = s.bell.head → exec .bellFlush s = .next s) ∧
    (due → s.bell.flushing = none → s.bell.flushed ≠ s.bell.head →
      exec .bellFlush s = .next { s with bell := { s.bell with flushing := some s.bell.head } }) ∧
    (due → s.bell.flushing ≠ none → exec .bellFlush s = .next { s with bell := { s.bell with flushAgain := true } }) ∧
    (∀ ok, s.bell.flushing = none → exec (.bellFlushDone ok) s = .next s) ∧
    (∀ h, s.bell.flushing = some h →
      (∃ t, exec (.bellFlushDone true) s = .next t ∧ bestTrailer t.xspi = some h ∧ t.bell.flushed = h ∧ t.bell.slots = s.bell.slots ∧
        t.xspi.histA = s.xspi.histA ∧ t.xspi.histB = s.xspi.histB ∧
        (s.bell.flushAgain = false → t.bell.flushing = none) ∧
        (s.bell.flushAgain = true → t.bell.flushing = if h = s.bell.head then none else some s.bell.head) ∧
        (twf {} s.bell.slots = true → (∀ p ∈ s.bell.slots, p.1 = p.2.seq.toNat % 8192) →
          ∀ p ∈ s.bell.slots, isBelow h (flushCount s h) p.2 = true → tget {} t.xspi.bellArea (p.2.seq.toNat % 16384) = p.2)) ∧
      (∃ t, exec (.bellFlushDone false) s = .next t ∧ t.bell.flushed = s.bell.flushed ∧ t.bell.head = s.bell.head ∧
        (s.bell.flushAgain = false → t.bell.flushing = none) ∧
        (s.bell.staging.length < 256 → ∃ e, t.bell.staging = s.bell.staging ++ [e] ∧ e.code = 0x0052)))

/-- Mute (R377 to R380, Table 17.7): MUTE_N low for 8 cycles freezes the die at once, every staged event logged, and passes the
signal on; one that comes over the bridge freezes it and is not passed on; a shorter low counts as a runt; the release after 8
high cycles leaves the queues, the items, the tasks and the memory as they stood and goes on in free-run, or carries out the reset
that came meanwhile.
The entry into free-run is the model's reading (log 56). -/
def Obligations.MuteFreezesAndReleases : Prop :=
  ∀ s : State,
    let kept := fun (t : State) => t = { s with mute := t.mute, bell := t.bell, irq := t.irq, sent := t.sent, free := t.free } ∧
      t.mute.muted = true ∧ t.mute.count = satAdd s.mute.count 1 ∧ (s.bell.staging.length ≤ 256 → t.bell.staging = [])
    (∀ low, canMute s = true → 8 ≤ low → ∃ t, exec (.muteEnter low) s = .next t ∧ kept t ∧ t.mute.originDie = s.cascId ∧
      t.mute.origin = false ∧ t.sent = s.sent ++ [.muteSideband]) ∧
    (∀ low, canMute s = false ∨ low < 8 → exec (.muteEnter low) s = .next s) ∧
    (∀ die, canMute s = true → isK5 s = false → die < 4 → die ≠ s.cascId.toNat → ∃ t, exec (.muteSideband die) s = .next t ∧ kept t ∧
      t.mute.originDie.toNat = die ∧ t.mute.origin = true ∧ t.sent = s.sent) ∧
    (∀ die, canMute s = false ∨ isK5 s = true ∨ 4 ≤ die ∨ die = s.cascId.toNat → exec (.muteSideband die) s = .next s) ∧
    (∀ low, up s → 1 ≤ low → low < 8 →
      exec (.muteRunt low) s = .next { s with mute := { s.mute with runt := satAdd s.mute.runt 1 } }) ∧
    (∀ high cycles, s.mute.muted = false ∨ high < 8 → exec (.muteExit high cycles) s = .next s) ∧
    (∀ high cycles, s.mute.muted = true → 8 ≤ high → s.mute.rstSeen = false →
      (s.mute.wrstSeen = false ∨ s.reed.active = none →
        ∃ t, exec (.muteExit high cycles) s = .next t ∧ t.mute.muted = false ∧ t.mute.lastLen.toNat = min cycles (2 ^ 32 - 1) ∧
          (s.breath.started = true → t.breath.freeRun = true) ∧ (s.breath.started = false → t.breath = s.breath) ∧
          t = { s with mute := t.mute, bell := t.bell, irq := t.irq, breath := t.breath }) ∧
      (s.mute.wrstSeen = true → s.reed.active ≠ none →
        ∃ t, exec (.muteExit high cycles) s = .next t ∧ t.mute.muted = false ∧ t.reed.warm = true ∧ t.tasks = [])) ∧
    (∀ high cycles, s.mute.muted = true → 8 ≤ high → s.mute.rstSeen = true →
      ∃ t, exec (.muteExit high cycles) s = .next t ∧ t = coldState t ∧ t.mute.muted = false)

/-- SENSOR_SAMPLE (R388): the hottest reading and the lowest index that has it, the mean within one unit, the supply's present,
greatest and least reading, the frequencies, and the alarms, which stay until cleared and interrupt as they come.
When the alarms interrupt is the model's reading (log 57). -/
def Obligations.SensorsKeepTheirReadings : Prop :=
  ∀ (s : State) (temps : List W16) (vdd arith fabric : W16), up s →
    (temps.length ≠ 32 → exec (.sensorSample temps vdd arith fabric) s = .next s) ∧
    (temps.length = 32 → ∃ t, exec (.sensorSample temps vdd arith fabric) s = .next t ∧
      t.sens.tmax = temps.getD t.sens.hotIdx.toNat 0 ∧
      (∀ j, j < 32 → (temps.getD j 0).toInt ≤ t.sens.tmax.toInt) ∧
      (∀ j, j < t.sens.hotIdx.toNat → (temps.getD j 0).toInt < t.sens.tmax.toInt) ∧
      (let sum := temps.foldl (fun a x => a + x.toInt) 0
       32 * t.sens.tavg.toInt < sum + 32 ∧ sum < 32 * t.sens.tavg.toInt + 32) ∧
      t.sens.vnow = vdd ∧ t.sens.arithMhz = arith ∧ t.sens.fabricMhz = fabric ∧
      t.sens.vmax.toNat = (if s.sens.vRestart then vdd.toNat else max s.sens.vmax.toNat vdd.toNat) ∧
      t.sens.vmin.toNat = (if s.sens.vRestart then vdd.toNat else min s.sens.vmin.toNat vdd.toNat) ∧
      (t.sens.tHit = true ↔ s.sens.tHit = true ∨ s.sens.tAlarm.toInt < t.sens.tmax.toInt) ∧
      (t.sens.vHit = true ↔ s.sens.vHit = true ∨ vdd.toNat < s.sens.vLow.toNat ∨ s.sens.vHigh.toNat < vdd.toNat) ∧
      (t.irq.gstat.getLsbD 4 = true ↔ s.irq.gstat.getLsbD 4 = true ∨ (t.sens.tHit = true ∧ s.sens.tHit = false) ∨
        (t.sens.vHit = true ∧ s.sens.vHit = false)) ∧
      t = { s with sens := t.sens, irq := t.irq, free := t.free })

/-- The maintenance ports (R381, R382, R401): a state read of a frozen die captures the stored word, a set valid bit and the address,
and leaves the die as it is; an address that Table 17.9 lacks, and any address of a die that is not frozen, capture a clear
valid bit; the port's instructions select their data register and touch nothing but the port. -/
def Obligations.MaintenancePortsReadAndLeave : Prop :=
  ∀ s : State, s.powered = true →
    (∀ a : W64, ∃ t, exec (.stateRead a) s = .next t ∧ t = { s with tap := { s.tap with captured := t.tap.captured } } ∧
      t.tap.captured.toNat % 2 ^ 63 = a.toNat % 2 ^ 63 ∧
      (∀ w, s.mute.muted = true → stateWord s (a.toNat % 2 ^ 63) = some w →
        t.tap.captured.getLsbD 63 = true ∧ t.tap.captured.toNat / 2 ^ 64 = w.toNat) ∧
      (s.mute.muted = false ∨ stateWord s (a.toNat % 2 ^ 63) = none → t.tap.captured.getLsbD 63 = false ∧
        t.tap.captured.toNat / 2 ^ 64 = 0)) ∧
    (∃ t, exec .idcode s = .next t ∧ t = { s with tap := { ir := .idcode, captured := t.tap.captured } } ∧
      t.tap.captured.toNat = 0x14B31001 + 2 * s.fuses.mfr.toNat) ∧
    exec .bypass s = .next { s with tap := { ir := .bypass, captured := 0 } } ∧
    exec .ijtag s = .next { s with tap := { s.tap with ir := .ijtag } } ∧
    exec .tapReset s = .next { s with tap := { s.tap with ir := .idcode } } ∧
    (∃ t, exec .extest s = .next t ∧ t.tap.ir = .extest ∧ t = { s with tap := t.tap, free := t.free }) ∧
    (∃ t, exec .samplePreload s = .next t ∧ t.tap.ir = .samplePreload ∧ t = { s with tap := t.tap, free := t.free })

/-! ### Kiqua Link and the cascade (chapter 14) -/

/-- Codewords, retry, credits and the latency measurement (R299, R300, R303 to R306, R309): the symbols of the lanes in use are decoded; a
good codeword in order is taken, frees what it acknowledges, and is acknowledged by a codeword back; a bad one asks for the SEQ
expected, unless the receiver discards and another is due; one out of order is dropped; RETRY sends everything kept from its SEQ on
again; CREDIT gives back what its free-running counts gained; a peer's ECHO goes back with its residence, and the 64th of this end's own
sets LAT to half the smallest. A control flit takes the next place of the codewords.
What LINK_CODEWORD leaves to the commands of control flits is the model's choice (log 64), and so are the code's field, the order of
symbols and the lanes of a narrow link (log 85). -/
def Obligations.CodewordsRetryAndCredits : Prop :=
  ∀ s : State, up s →
    let b := inBreath s
    -- a control flit leaves alone in a codeword, when nothing else waits and there is room
    let carried := fun (t : State) (f : List Byte) =>
      s.link.txCtl = [] → s.link.txWait = [] → s.link.retryBuf.length < 768 → s.link.txCarry < 256 →
        t.link.retryBuf = s.link.retryBuf ++
          [{ seq := s.link.txNext, data := List.replicate s.link.txCarry 0 ++ f ++ List.replicate (384 - s.link.txCarry) 0 }]
    let resent := fun (t : State) (w : Codeword) =>
      Sent.codeword w.seq (s.link.rxNext - 1) w.data (codewordLanes t.link w.seq (s.link.rxNext - 1) w.data)
    (∀ l0 l8 l16 l24 spares, s.link.st ≠ 2 → exec (.linkCodeword l0 l8 l16 l24 spares) s = .next b) ∧
    (∀ l0 l8 l16 l24 spares, s.link.st = 2 →
      let cmd := Instr.linkCodeword l0 l8 l16 l24 spares
      let lanes := l0 ++ l8 ++ l16 ++ l24 ++ spares
      let l := switchLanes s.link
      let on := fun k => rxLane l (k % max 1 s.link.width)
      let word := rsDecode (takeSymbols ((List.range s.link.width).map (fun k => lanes.getD (on k) [])))
      let asks := fun (t : State) => (∃ more, t.sent = s.sent ++ .retry s.link.rxNext :: more) ∧ t.link.rxDiscard = true ∧
        t.link.replays = satAdd s.link.replays 1 ∧ t.link.rxNext = s.link.rxNext ∧ t.link.rxFlits = s.link.rxFlits ∧
        carried t (retryFlit s.link.rxNext) ∧ t.mem = s.mem ∧ t.items = s.items
      (word = none → s.link.rxDiscard = false ∨ s.link.rxPos = s.link.rxNext →
        ∃ t, exec cmd s = .next t ∧ asks t ∧ t.link.uncorrCw = satAdd s.link.uncorrCw 1) ∧
      (word = none → s.link.rxDiscard = true → s.link.rxPos ≠ s.link.rxNext → exec cmd s
        = .next { b with link := { l with uncorrCw := satAdd s.link.uncorrCw 1, rxPos := s.link.rxPos + 1 } }) ∧
      (∀ w fixed, word = some (w, fixed) →
        let seq : BitVec 10 := BitVec.ofNat 10 (w.getD 0 0)
        let ack : BitVec 10 := BitVec.ofNat 10 (w.getD 1 0)
        let cor := fun (t : State) => t.link.corrCw = if fixed = [] then s.link.corrCw else satAdd s.link.corrCw 1
        let again := s.link.rxDiscard = true ∧ seq = s.link.rxNext + 1 ∧ seq ≠ s.link.rxPos
        (seq ≠ s.link.rxNext → again → ∃ t, exec cmd s = .next t ∧ asks t ∧ cor t) ∧
        (seq ≠ s.link.rxNext → ¬again → ∃ t, exec cmd s = .next t ∧ t = { b with link := t.link } ∧ cor t ∧
          t.link.rxNext = s.link.rxNext ∧ t.link.rxPos = seq + 1 ∧ t.link.rxBytes = s.link.rxBytes ∧
          t.link.rxFlits = s.link.rxFlits ∧ t.link.retryBuf = s.link.retryBuf ∧ t.link.rxDiscard = s.link.rxDiscard) ∧
        (seq = s.link.rxNext →
          let bs := s.link.rxBytes ++ cwBytes ((w.drop 2).take 512)
          let n := 256 * (bs.length / 256)
          ∃ t kept more, exec cmd s = .next t ∧ cor t ∧ t.link.rxNext = s.link.rxNext + 1 ∧
            t.link.rxDiscard = false ∧ t.link.rxBytes = bs.drop n ∧
            t.link.rxFlits = s.link.rxFlits ++ (pieces 256 (bs.take n)).filter flitIsData ∧
            ((∃ x ∈ s.link.retryBuf, x.seq = ack) → kept = (s.link.retryBuf.dropWhile (fun x => x.seq ≠ ack)).drop 1) ∧
            ((∀ x ∈ s.link.retryBuf, x.seq ≠ ack) → kept = s.link.retryBuf) ∧ t.link.retryBuf = kept ++ more ∧
            (kept.length < 768 → more ≠ []) ∧
            t.sent = s.sent ++ more.map (fun x => .codeword x.seq s.link.rxNext x.data (codewordLanes t.link x.seq s.link.rxNext x.data)) ∧
            t.mem = s.mem ∧ t.items = s.items))) ∧
    (∀ seq, (s.link.st ≠ 2 ∨ ∀ w ∈ s.link.retryBuf, w.seq ≠ seq) → exec (.retry seq) s = .next b) ∧
    (∀ seq, s.link.st = 2 → (∃ w ∈ s.link.retryBuf, w.seq = seq) → ∃ t, exec (.retry seq) s = .next t ∧
      ((∀ w ∈ s.link.retryBuf, w.marks = []) →
        t.sent = s.sent ++ (s.link.retryBuf.dropWhile (fun w => w.seq ≠ seq)).map (resent t)) ∧
      t.link = { s.link with resendSeq := seq, resends := if s.link.resendSeq = seq then s.link.resends + 1 else 1 }) ∧
    (∀ freed cls1, s.link.st ≠ 2 → exec (.credit freed cls1) s = .next b) ∧
    (∀ freed cls1, s.link.st = 2 → s.link.txWait = [] → ∃ t, exec (.credit freed cls1) s = .next t ∧
      (s.link.txCtl = [] → t = { b with link := t.link }) ∧
      (∀ k, k < 8 → t.link.creditTx.getD k 0 = s.link.creditTx.getD k 0 + (freed.getD k 0 - s.link.freedSeen.getD k 0).toNat ∧
        t.link.creditTx.getD (k + 8) 0
          = s.link.creditTx.getD (k + 8) 0 + (cls1.getD k 0 - s.link.freedSeen.getD (k + 8) 0).toNat ∧
        t.link.freedSeen.getD k 0 = freed.getD k 0 ∧ t.link.freedSeen.getD (k + 8) 0 = cls1.getD k 0)) ∧
    (∀ stamp echoed res reply now, s.link.st = 0 → exec (.echo stamp echoed res reply now) s = .next b) ∧
    (∀ stamp echoed res now, s.link.st ≠ 0 →
      (∃ t, exec (.echo stamp echoed res false now) s = .next t ∧ (∃ more, t.sent = s.sent ++ .echo stamp res :: more) ∧
        (s.link.st ≠ 2 → (4, echoFlit stamp stamp res) ∈ t.link.txCtl) ∧
        (s.link.st = 2 → carried t (echoFlit stamp stamp res)) ∧ t.mem = s.mem ∧ t.items = s.items) ∧
      (s.link.echoSent = 0 → exec (.echo stamp echoed res true now) s = .next b) ∧
      (s.link.echoSent ≠ 0 →
        let trip := (now - echoed).toNat - res.toNat
        let best := if s.link.echoGot = 0 then trip else min s.link.echoBest trip
        (s.link.echoGot < 63 → exec (.echo stamp echoed res true now) s
          = .next { b with link := { s.link with echoBest := best, echoGot := s.link.echoGot + 1 } }) ∧
        (63 ≤ s.link.echoGot → ∃ t, exec (.echo stamp echoed res true now) s = .next t ∧ t.link.echoSent = 0 ∧
          (best < 2 ^ 32 → best ≤ 2 * t.link.lat.toNat + 1 ∧ 2 * t.link.lat.toNat ≤ best + 1))))

/-- Lane sparing and training (R304, R306 to R309, R314, R353): LANE_MAP puts a lane on its spare and starts a measurement of 64 ECHO
flits; at a boundary a lane over its limit for 4 breaths, or that failed training, is retired, its spare takes over 64 codewords ahead,
and with no spare left the link narrows, as one refold; a retraining keeps the retry buffer; training on at least 16 good lanes brings
the link up, with 1,024 credits at the first time, and sends what the retry buffer holds again; on fewer it goes down; a bridge port
runs on the modules that trained.
What a lane without a spare changes is the model's reading (log 66), and so is which spare is taken (log 34). -/
def Obligations.LanesAndTrainingSetTheWidth : Prop :=
  ∀ s : State, up s →
    let b := inBreath s
    (∀ lane spare sw, s.link.st = 2 → lane < 32 → 32 ≤ spare → spare < 36 → ∃ t, exec (.laneMap lane spare sw) s = .next t ∧
      (lane, spare, sw) ∈ t.link.laneOf ∧ (∀ x ∈ t.link.laneOf, x.1 = lane → x = (lane, spare, sw)) ∧ t.link.echoSent = 64 ∧
      t.link.echoGot = 0 ∧ t.free = s.free + 64 ∧
      t = { b with link := t.link, cle := t.cle, sent := t.sent, free := t.free }) ∧
    (∀ lane spare sw, s.link.st ≠ 2 ∨ 32 ≤ lane ∨ spare < 32 ∨ 36 ≤ spare → exec (.laneMap lane spare sw) s = .next b) ∧
    (∀ n, s.edge = false ∨ 36 ≤ n ∨ s.link.retired.getLsbD n = true ∨ (∀ p ∈ s.link.overLimit, p.1 = n → p.2 < 4) →
      exec (.laneRetire n false) s = .next s) ∧
    (∀ n, s.edge = false ∨ 36 ≤ n ∨ s.link.retired.getLsbD n = true → exec (.laneRetire n true) s = .next s) ∧
    (∀ n ft, s.edge = true → n < 36 → s.link.retired.getLsbD n = false → (ft = true ∨ ∃ p ∈ s.link.overLimit, p.1 = n ∧ 4 ≤ p.2) →
      ∃ t, exec (.laneRetire n ft) s = .next t ∧ t.link.retired.getLsbD n = true ∧ (getUnit t (BitVec.ofNat 16 (0x4000 + n))).st = 2 ∧
        (∀ spare rest, n < 32 → s.link.rxLaneOf = [] → freeSpares s.link = spare :: rest → s.link.width ≠ 16 →
          (∃ more, t.sent = s.sent ++ .laneMap n spare (s.link.rxNext + 64) :: more) ∧
          (n, spare, s.link.rxNext + 64) ∈ t.link.rxLaneOf ∧
          t.link.st = s.link.st ∧ t.link.width = s.link.width ∧ t.link.echoSent = 64 ∧ t.epoch = s.epoch) ∧
        (n < 32 → s.link.rxLaneOf = [] → freeSpares s.link = [] → s.link.width = 32 →
          16 < ((List.range 36).filter (fun k => !s.link.retired.getLsbD k)).length →
          t.link.st = 1 ∧ t.link.width = 16 ∧ t.capev.unit = BitVec.ofNat 16 (0x4000 + n) ∧ t.capev.kind = 1 ∧
          (s.reed.active ≠ none → s.reed.warm = false →
            t.epoch = if s.reed.refolded = some s.breath.num then s.epoch else s.epoch + 1))) ∧
    (s.link.st = 2 → exec .linkRetrain s = .next { b with link := { s.link with st := 1, retrains := satAdd s.link.retrains 1, resends := 0 } }) ∧
    (s.link.st ≠ 1 → s.link.st ≠ 2 → exec .linkRetrain s = .next { b with link := { s.link with st := 1, resends := 0 } }) ∧
    (s.link.st = 1 → exec .linkRetrain s = .next b ∧ ∃ t, exec .linkDown s = .next t ∧
      t.link = { s.link with st := 0, width := 0, lost := true } ∧ t = { b with link := t.link, bell := t.bell }) ∧
    (s.link.st ≠ 1 → exec .linkDown s = .next b) ∧
    (∀ good node die echoes, s.link.st = 2 → exec (.linkTrained good node die echoes) s = .next b) ∧
    (∀ good node die echoes, s.link.st ≠ 2 →
      (16 ≤ (goodLanes s.link good).length → ∃ t, exec (.linkTrained good node die echoes) s = .next t ∧ t.link.st = 2 ∧
        t.link.width = (if (goodLanes s.link good).length < 32 then 16 else 32) ∧ t.link.peerNode = node ∧ t.link.peerDie.toNat = die % 4 ∧
        t.link.rxDiscard = false ∧
        (s.link.creditTx = [] → s.link.txWait = [] → t.link.creditTx = List.replicate 16 1024) ∧
        (∃ more, t.link.retryBuf = s.link.retryBuf ++ more) ∧
        ((∀ w ∈ s.link.retryBuf, w.marks = []) → ∃ more, t.sent = s.sent ++ s.link.retryBuf.map (fun w =>
          .codeword w.seq (s.link.rxNext - 1) w.data (codewordLanes t.link w.seq (s.link.rxNext - 1) w.data)) ++ more)) ∧
      ((goodLanes s.link good).length < 16 → ∃ t, exec (.linkTrained good node die echoes) s = .next t ∧ t.link.st = 0 ∧ t.link.width = 0 ∧
        t.link.lost = true)) ∧
    (∀ die m, isK5 s = false → die < 4 → die ≠ s.cascId.toNat → m ≤ 16 → ∃ t, exec (.bridgeTrainingDone die m) s = .next t ∧
      getBridge t die = { getBridge s die with modules := m, st := if m = 0 then 3 else 2, wait := (getBridge t die).wait } ∧
      (∀ d, d ≠ die → getBridge t d = getBridge s d) ∧
      ((getBridge s die).wait = [] → (getBridge t die).wait = [] ∧ t = { b with casc := t.casc })) ∧
    (∀ die m, isK5 s = true ∨ 4 ≤ die ∨ die = s.cascId.toNat ∨ 16 < m → exec (.bridgeTrainingDone die m) s = .next b)

/-- DATA_PACKET (R302, R311 to R313, R315, R317) and the arbitration of R70 and R296: the header in the packet's first flit says where it
goes; a packet for this die stays; one for another die of the package crosses the bridge, flit by flit; one for another node follows
the route table, by this die's own port or another die's, in rotation over a bonded route, with DL set at a dateline, and counts as
misrouted where cascading is off; buffers it held are credited. Of the channels with a flit and a credit, the one with the smallest V_c
sends, of equal ones the first in the breath's rotation.
The relay die is the model's choice (log 68), and so is what becomes of a packet whose LEN is not its number of flits (log 90). -/
def Obligations.PacketsFollowTheirRoutes : Prop :=
  (∀ (s : State) (vc : Nat) (dl : Bool) (header first : List Byte) (rest : List (List Byte)), up s →
    let b := inBreath s
    let cmd := Instr.dataPacket vc dl header first rest
    let body := (header ++ first) :: rest
    let k := vc % 8 + (if dl then 8 else 0)
    let h := parseHeader body
    let flits := packetFlits (vc % 8) dl body
    -- the packet crosses the bridge to a die that is up
    let crosses := fun (d : Nat) => ∃ t, exec cmd s = .next t ∧ t.items = s.items ∧ t.mem = s.mem ∧ t.link.rxHeld = s.link.rxHeld ∧
      t.link.txWait = s.link.txWait ∧ t.link.misroute = s.link.misroute ∧
      ((getBridge s d).wait = [] → weightOf s (vc % 8) ≠ 0 →
        t.sent = s.sent ++ flits.map (Sent.flit d) ∧ (getBridge t d).wait = []) ∧
      (weightOf s (vc % 8) = 0 → ∀ f ∈ flits, (vc % 8, dl, f) ∈ (getBridge t d).wait)
    (isK5 s = true ∨ 17 < body.length → exec cmd s = .next b) ∧
    (isK5 s = false → body.length ≤ 17 →
      (s.link.rxHeld.getD k 0 < body.length →
        (h.len ≠ body.length → exec cmd s = .next b) ∧
        (h.len = body.length →
          (h.node = s.link.node → h.die = s.cascId.toNat → exec cmd s = .next b) ∧
          (h.node = s.link.node → h.die ≠ s.cascId.toNat → (getBridge s h.die).st = 2 → crosses h.die) ∧
          (h.node ≠ s.link.node → s.casc.mode = 0 → exec cmd s
            = .next { b with link := { s.link with misroute := satAdd s.link.misroute 1 } }) ∧
          (h.node ≠ s.link.node → s.casc.mode ≠ 0 →
            let e := s.link.routes.getD h.node.toNat 0
            (e.toNat / 16 = 1 → e.toNat % 4 ≠ s.cascId.toNat → (getBridge s (e.toNat % 4)).st = 2 → crosses (e.toNat % 4)) ∧
            (e.toNat / 16 = 1 → e.toNat % 4 = s.cascId.toNat → s.link.st ≠ 2 → ∃ t, exec cmd s = .next t ∧
              t.link.txWait = s.link.txWait ++ (packetFlits (vc % 8) (dl || s.link.dateline) body).map
                (fun f => (vc % 8, dl || s.link.dateline, f)) ∧ t.sent = s.sent) ∧
            (∀ d, e.toNat / 16 = 2 → s.casc.mode = 2 →
              let ds := (List.range 4).filter (fun x => e.getLsbD x)
              ds[s.link.bondNext % (max 1 ds.length)]? = some d → d ≠ s.cascId.toNat → (getBridge s d).st = 2 →
              crosses d ∧ ∃ t, exec cmd s = .next t ∧ t.link.bondNext = s.link.bondNext + 1) ∧
            (e.toNat / 16 = 0 → exec cmd s = .next b)))) ∧
      (body.length ≤ s.link.rxHeld.getD k 0 → h.len = body.length → h.node = s.link.node → h.die = s.cascId.toNat →
        ∃ t, exec cmd s = .next t ∧ t.link.rxHeld.getD k 0 = s.link.rxHeld.getD k 0 - body.length ∧
          t.link.rxFreed.getD k 0 = s.link.rxFreed.getD k 0 + BitVec.ofNat 16 body.length ∧
          ∃ more, t.sent = s.sent ++ .credit (t.link.rxFreed.take 8) (t.link.rxFreed.drop 8) :: more))) ∧
  (∀ (s : State) (p : Option Nat) (c : Nat), pickChannel s p = some c → c < 8 ∧ (nextFlit s p c).isSome = true ∧
    let place := fun (x : Nat) => (x + 8 - s.breath.num.toNat % 8) % 8
    ∀ d, d < 8 → (nextFlit s p d).isSome = true → s.cle.vctr.getD c 0 ≤ s.cle.vctr.getD d 0 ∧
      (s.cle.vctr.getD c 0 = s.cle.vctr.getD d 0 → place c ≤ place d))

/-! ### Exchange units (chapter 13) -/

/-- Exchange units of the collectives (R282, R284 to R286, R289 to R291, R297): one that names no operation of this die is relayed by a
zero-shape member, kept when the operation is still to open, and else discarded as a duplicate; a member's record, its DONE and its FAIL
join what the operation holds, which goes on only when every member has reported; the last DONE commits the item, the last report with a
FAIL ends it, and a healthy member that meets a FAIL sends its DONE; a chunk joins its stream and goes on along the ring, and one whose
CRC fails is asked for again, up to the third time; a stream is judged when it is whole; and after the fourth boundary of waiting for
buffer an item begins, with the agreement record of its command.
Keeping early units is the model's reading (log 22), and so is the healthy member's DONE (log 87). -/
def Obligations.ExchangeUnitsJoinTheirOperation : Prop :=
  ∀ (s : State) (g : UnitTag), up s →
    let b := inBreath s
    let dup := { b with cle := { s.cle with dup := satAdd s.cle.dup 1 } }
    let early := fun (c : Cle) => if ahead s g then { b with cle := c } else dup
    let sends := fun (c : Instr) (x : Sent) => ∃ t more, exec c s = .next t ∧ t.sent = s.sent ++ x :: more ∧ t.items = s.items ∧ t.mem = s.mem
    (opByTag s g = none →
      (relayOp s g = none →
        (∀ i crc data, exec (.pieceChunk g i crc data) s = .next dup) ∧
        (∀ kept crc, exec (.streamEndMarker g kept crc) s = .next dup) ∧
        exec (.doneMsg g) s = .next (early { s.cle with earlyDone := s.cle.earlyDone ++ [g] }) ∧
        ∀ st d, exec (.failMsg g st d) s = .next (early { s.cle with earlyFail := s.cle.earlyFail ++ [(g, st, d)] })) ∧
      (∀ o a, relayOp s g = some (o, a) →
        let on := goesOn s g a.opcode.toNat a.root.toNat
        (∀ i crc data, (on = true → sends (.pieceChunk g i crc data) (.chunk g i crc data)) ∧
          (on = false → exec (.pieceChunk g i crc data) s = .next b)) ∧
        (∀ kept crc, (on = true → sends (.streamEndMarker g kept crc) (.streamEnd g kept crc)) ∧
          (on = false → exec (.streamEndMarker g kept crc) s = .next b)) ∧
        exec (.doneMsg g) s = .next b ∧ ∀ st d, exec (.failMsg g st d) s = .next b) ∧
      (∀ r, exec (.agreementRecord g r) s = .next (early { s.cle with earlyAgree := s.cle.earlyAgree ++ [(g, r)] }))) ∧
    (∀ o, opByTag s g = some o →
      let me := (getGroup s o.group).rank.toNat
      (∀ r, (∃ a ∈ o.agreed, a.1 = g.rank) → exec (.agreementRecord g r) s = .next b) ∧
      (∀ r m, (∀ a ∈ o.agreed, a.1 ≠ g.rank) → o.kind = false → o.begun = true → o.failFrom = [] → m < groupSize s o.group →
        m ≠ g.rank → (∀ a ∈ o.agreed, a.1 ≠ m) →
        exec (.agreementRecord g r) s = .next (setOp b { o with agreed := o.agreed ++ [(g.rank, r)] })) ∧
      (∀ i crc data, crc32c data = crc.toNat → o.markers = [] →
        let o' := { o with chunks := o.chunks.filter (fun x => x.1 ≠ (g.rank, g.piece.toNat, i)) ++ [((g.rank, g.piece.toNat, i), data)] }
        (passes s o g = false → exec (.pieceChunk g i crc data) s = .next (setOp b o')) ∧
        (passes s o g = true → ∃ t more, exec (.pieceChunk g i crc data) s = .next t ∧ t.sent = s.sent ++ .chunk g i crc data :: more ∧
          t.cle.ops = (setOp s o').cle.ops ∧ t.items = s.items ∧ t.mem = s.mem)) ∧
      (∀ i crc data, crc32c data ≠ crc.toNat →
        ((∀ m ∈ o.mismatches, m.1 = (g.rank, g.piece.toNat, i) → m.2 < 3) →
          ∃ t more, exec (.pieceChunk g i crc data) s = .next t ∧ t.sent = s.sent ++ .chunkAgain g i :: more ∧
            t.cle.chunkResend = satAdd s.cle.chunkResend 1 ∧ t.items = s.items ∧ t.mem = s.mem) ∧
        (∀ m, o.mismatches.find? (fun x => x.1 = (g.rank, g.piece.toNat, i)) = some m → 3 ≤ m.2 →
          ∃ t, exec (.pieceChunk g i crc data) s = .next t ∧ t.cle.chunkFail = satAdd s.cle.chunkFail 1 ∧ t.mem = s.mem)) ∧
      (∀ kept crc, o.markers = [] →
        let o' := { o with markers := [(g.rank, g.piece.toNat, kept, crc)] }
        (streamHere s o' g.rank g.piece.toNat = false → passes s o g = false →
          exec (.streamEndMarker g kept crc) s = .next (setOp b o')) ∧
        (∀ it r, streamHere s o' g.rank g.piece.toNat = true → passes s o g = false → o.kind = false → o.begun = true →
          o.sentData = true → o.wrote = false → o.failFrom = [] → findItem s o.q o.idx = some it →
          r ∈ neededRanks o it.cmd me (groupSize s o.group) → r ≠ g.rank → r ∉ o.ended →
          crc64 (streamBytes o g.rank) = crc.toNat → exec (.streamEndMarker g kept crc) s
            = .next (setOp b { o with ended := o.ended ++ [g.rank], kept := o.kept ++ [(g.rank, kept)] })) ∧
        (streamHere s o' g.rank g.piece.toNat = true → o.kind = false → crc64 (streamBytes o g.rank) ≠ crc.toNat →
          ∃ t, exec (.streamEndMarker g kept crc) s = .next t ∧
            t.cle.digestFail = satAdd s.cle.digestFail 1 ∧ t.mem.bytes = s.mem.bytes)) ∧
      (∀ m, m < groupSize s o.group → m ≠ g.rank → m ∉ o.doneFrom → (∀ f ∈ o.failFrom, f.1 ≠ m) →
        exec (.doneMsg g) s = .next (setOp b { o with doneFrom := o.doneFrom ++ [g.rank] }) ∧
        (o.sentDone = true ∨ o.begun = false →
          ∀ st d, exec (.failMsg g st d) s = .next (setOp b { o with failFrom := o.failFrom ++ [(g.rank, st, d)] }))) ∧
      (o.begun = true → o.sentDone = false → o.rejoining = false → o.heldFor = none → (∀ f ∈ o.failFrom, f.1 ≠ me) → g.rank ≠ me →
        outputsLeft s o.q o.idx = 0 → (∀ k ∈ s.tasks, ¬(k.q = o.q ∧ k.idx = o.idx)) →
        ∀ st d, ∃ t more, exec (.failMsg g st d) s = .next t ∧ t.sent = s.sent ++ .done (o.tag me) :: more) ∧
      (∀ it, o.heldFor = none → o.failFrom = [] → (∀ m, m < groupSize s o.group → m ≠ g.rank → m ∈ o.doneFrom) →
        opOf s o.q o.idx = some o → findItem s o.q o.idx = some it →
        (∃ t, exec (.doneMsg g) s = .next t ∧ committed t o.q o.idx it.status it.detail) ∧
        (∀ st d, ∃ t, exec (.failMsg g st d) s = .next t ∧ ended t o.q o.idx st d))) ∧
    ((∀ o ∈ s.cle.ops, o.group = g.group → o.kind = true ∨ o.begun = true ∨ o.waiting < 5) →
      exec (.bufferWaitExpiry g.group) s = .next b) ∧
    (∀ o it, s.cle.ops = [o] → o.group = g.group → o.kind = false → o.begun = false → 5 ≤ o.waiting → o.rejoining = false →
      o.heldFor = none → o.failFrom = [] → o.agreed = [] → o.record.opcode = 0 → findItem s o.q o.idx = some it → mayRun s it = true →
      2 ≤ groupSize s o.group → s.cle.earlyAgree = [] → s.cle.earlyFail = [] →
      let me := getGroup s o.group
      let r := agreementOf me it.cmd false (cleOffer me it.cmd)
      ∃ t o' more, exec (.bufferWaitExpiry g.group) s = .next t ∧ opOf t o.q o.idx = some o' ∧ o'.begun = true ∧
        o'.agreed = [(me.rank.toNat, r)] ∧ o'.record = r ∧ o'.mode = me.mode ∧ o'.vc = me.vc ∧ (getGroup t o.group).st = 2 ∧
        t.sent = s.sent ++ .agreement (o.tag me.rank.toNat) r :: more)

/-- Rejoining after a reset (R282, R284, R287, R357): a peer that asks is told of the outcome of an operation that has ended, and an open
one is held for it; a rejoining operation commits when one peer holds every DONE, ends as its peers' did when they failed, and runs
again under the next ATTEMPT, from its agreement record, when none holds all; COMMIT and RESTART do the same at the peers, and a
zero-shape member sends its record again; a message for another attempt is a duplicate. -/
def Obligations.RejoiningCommitsOrRunsAgain : Prop :=
  ∀ (s : State) (g : UnitTag), up s →
    let b := inBreath s
    let dup := { b with cle := { s.cle with dup := satAdd s.cle.dup 1 } }
    let replies := fun (a : RejoinAnswer) => ∃ t more, exec (.rejoin g) s = .next t ∧ t.sent = s.sent ++ .rejoinReply g a :: more ∧
      t.cle.ops = s.cle.ops ∧ t.items = s.items ∧ t.mem = s.mem
    (opBySn s g = none →
      (endedByTag s g = none → replies .notAll) ∧
      (∀ e, endedByTag s g = some e → replies (if e.zero.isSome then .notAll
        else if isFailure e.status.toNat then .failed e.status e.detail else .holdsAllDone))) ∧
    (∀ o, opBySn s g = some o →
      ∃ t, exec (.rejoin g) s = .next t ∧ t.cle.ops = (setOp s { o with heldFor := some g.rank }).cle.ops ∧ t.items = s.items ∧
        ((∀ r, r < groupSize s o.group → r ∈ o.doneFrom) → ∃ more, t.sent = s.sent ++ .rejoinReply g .holdsAllDone :: more) ∧
        ((∃ r, r < groupSize s o.group ∧ r ∉ o.doneFrom) → ∃ more, t.sent = s.sent ++ .rejoinReply g .notAll :: more)) ∧
    (opByTag s g = none → (∀ a, exec (.rejoinReply g a) s = .next dup) ∧
      (relayOp s g = none → exec (.commitMsg g) s = .next dup) ∧
      (relayOp s g = none → ahead s g = false → exec (.restartMsg g) s = .next dup) ∧
      (∀ o r, relayOp s g = some (o, r) → exec (.commitMsg g) s = .next b ∧
        ∃ t more, exec (.restartMsg g) s = .next t ∧ t.items = s.items ∧ t.mem = s.mem ∧
          t.sent = s.sent ++ .agreement { o.tag (getGroup s o.group).rank.toNat with kind := false, attempt := o.attempt + 1 } r :: more)) ∧
    (∀ o, opByTag s g = some o → o.rejoining = false → ∀ a, exec (.rejoinReply g a) s = .next b) ∧
    (∀ o it, opByTag s g = some o → opOf s o.q o.idx = some o → findItem s o.q o.idx = some it →
      let me := (getGroup s o.group).rank.toNat
      let again := fun (t : State) => ∃ o', opOf t o.q o.idx = some o' ∧ o'.attempt = o.attempt + 1 ∧ o'.chunks = [] ∧
        (s.cle.earlyDone = [] → o'.doneFrom = []) ∧ (o.kind = false → (getGroup t o.group).attempt = o.attempt + 1)
      (o.rejoining = true →
        (∀ st d, ∃ t, exec (.rejoinReply g (.failed st d)) s = .next t ∧ ended t o.q o.idx st d) ∧
        (o.kind = false → cmdAt it.cmd 32 4 ≤ cmdAt it.cmd 36 4 → ∃ t more, exec (.rejoinReply g .holdsAllDone) s = .next t ∧
          committed t o.q o.idx 0 0 ∧ t.sent = s.sent ++ .commit (o.tag me) :: more) ∧
        (o.replies + 2 < groupSize s o.group →
          exec (.rejoinReply g .notAll) s = .next (setOp b { o with replies := o.replies + 1 })) ∧
        (o.kind = true → groupSize s o.group ≤ o.replies + 2 → ∃ t more, exec (.rejoinReply g .notAll) s = .next t ∧ again t ∧
          t.sent = s.sent ++ .restart (o.tag me) :: more)) ∧
      (o.kind = true → ∃ t more, exec (.restartMsg g) s = .next t ∧ again t ∧
        t.sent = s.sent ++ .agreement { o.tag me with attempt := o.attempt + 1 } o.record :: more) ∧
      (o.kind = false → 2 ≤ groupSize s o.group → s.cle.earlyAgree = [] → s.cle.earlyDone = [] → s.cle.earlyFail = [] →
        ∃ t, exec (.restartMsg g) s = .next t ∧ again t) ∧
      (o.failFrom = [] → (∀ m, m < groupSize s o.group → m ≠ g.rank → m ∈ o.doneFrom) →
        ∃ t, exec (.commitMsg g) s = .next t ∧ committed t o.q o.idx it.status it.detail))
end

