-- ==== Sys2Proof/Laws/State.lean ====
section
/-! SUPPORT. One lemma for each field of State and each of the small updates of Machine/Ops.lean and its like, all true by
`rfl`: later proofs read a field of an updated state without unfolding the update. -/

namespace Sys2Proof.Laws

open Sys2Proof Sys2Proof.Machine

/-! ### setQ -/

@[simp] theorem setQ_pending (s : State) (q : Nat) (v : Queue) : (setQ s q v).pending = s.pending := rfl
@[simp] theorem setQ_cascId (s : State) (q : Nat) (v : Queue) : (setQ s q v).cascId = s.cascId := rfl
@[simp] theorem setQ_rstLow (s : State) (q : Nat) (v : Queue) : (setQ s q v).rstLow = s.rstLow := rfl
@[simp] theorem setQ_powered (s : State) (q : Nat) (v : Queue) : (setQ s q v).powered = s.powered := rfl
@[simp] theorem setQ_fuses (s : State) (q : Nat) (v : Queue) : (setQ s q v).fuses = s.fuses := rfl
@[simp] theorem setQ_newFuses (s : State) (q : Nat) (v : Queue) : (setQ s q v).newFuses = s.newFuses := rfl
@[simp] theorem setQ_caps (s : State) (q : Nat) (v : Queue) : (setQ s q v).caps = s.caps := rfl
@[simp] theorem setQ_epoch (s : State) (q : Nat) (v : Queue) : (setQ s q v).epoch = s.epoch := rfl
@[simp] theorem setQ_capev (s : State) (q : Nat) (v : Queue) : (setQ s q v).capev = s.capev := rfl
@[simp] theorem setQ_uhSel (s : State) (q : Nat) (v : Queue) : (setQ s q v).uhSel = s.uhSel := rfl
@[simp] theorem setQ_uhData (s : State) (q : Nat) (v : Queue) : (setQ s q v).uhData = s.uhData := rfl
@[simp] theorem setQ_history (s : State) (q : Nat) (v : Queue) : (setQ s q v).history = s.history := rfl
@[simp] theorem setQ_breath (s : State) (q : Nat) (v : Queue) : (setQ s q v).breath = s.breath := rfl
@[simp] theorem setQ_queues (s : State) (q : Nat) (v : Queue) : (setQ s q v).queues = tput {} s.queues q v := rfl
@[simp] theorem setQ_items (s : State) (q : Nat) (v : Queue) : (setQ s q v).items = s.items := rfl
@[simp] theorem setQ_tasks (s : State) (q : Nat) (v : Queue) : (setQ s q v).tasks = s.tasks := rfl
@[simp] theorem setQ_dispatches (s : State) (q : Nat) (v : Queue) : (setQ s q v).dispatches = s.dispatches := rfl
@[simp] theorem setQ_reissues (s : State) (q : Nat) (v : Queue) : (setQ s q v).reissues = s.reissues := rfl
@[simp] theorem setQ_irq (s : State) (q : Nat) (v : Queue) : (setQ s q v).irq = s.irq := rfl
@[simp] theorem setQ_bell (s : State) (q : Nat) (v : Queue) : (setQ s q v).bell = s.bell := rfl
@[simp] theorem setQ_mute (s : State) (q : Nat) (v : Queue) : (setQ s q v).mute = s.mute := rfl
@[simp] theorem setQ_perf (s : State) (q : Nat) (v : Queue) : (setQ s q v).perf = s.perf := rfl
@[simp] theorem setQ_sens (s : State) (q : Nat) (v : Queue) : (setQ s q v).sens = s.sens := rfl
@[simp] theorem setQ_tr (s : State) (q : Nat) (v : Queue) : (setQ s q v).tr = s.tr := rfl
@[simp] theorem setQ_str (s : State) (q : Nat) (v : Queue) : (setQ s q v).str = s.str := rfl
@[simp] theorem setQ_pg (s : State) (q : Nat) (v : Queue) : (setQ s q v).pg = s.pg := rfl
@[simp] theorem setQ_cores (s : State) (q : Nat) (v : Queue) : (setQ s q v).cores = s.cores := rfl
@[simp] theorem setQ_phys (s : State) (q : Nat) (v : Queue) : (setQ s q v).phys = s.phys := rfl
@[simp] theorem setQ_clusters (s : State) (q : Nat) (v : Queue) : (setQ s q v).clusters = s.clusters := rfl
@[simp] theorem setQ_reed (s : State) (q : Nat) (v : Queue) : (setQ s q v).reed = s.reed := rfl
@[simp] theorem setQ_cle (s : State) (q : Nat) (v : Queue) : (setQ s q v).cle = s.cle := rfl
@[simp] theorem setQ_link (s : State) (q : Nat) (v : Queue) : (setQ s q v).link = s.link := rfl
@[simp] theorem setQ_casc (s : State) (q : Nat) (v : Queue) : (setQ s q v).casc = s.casc := rfl
@[simp] theorem setQ_mem (s : State) (q : Nat) (v : Queue) : (setQ s q v).mem = s.mem := rfl
@[simp] theorem setQ_xspi (s : State) (q : Nat) (v : Queue) : (setQ s q v).xspi = s.xspi := rfl
@[simp] theorem setQ_tap (s : State) (q : Nat) (v : Queue) : (setQ s q v).tap = s.tap := rfl
@[simp] theorem setQ_sent (s : State) (q : Nat) (v : Queue) : (setQ s q v).sent = s.sent := rfl
@[simp] theorem setQ_edge (s : State) (q : Nat) (v : Queue) : (setQ s q v).edge = s.edge := rfl
@[simp] theorem setQ_free (s : State) (q : Nat) (v : Queue) : (setQ s q v).free = s.free := rfl

/-! ### modQ -/

@[simp] theorem modQ_pending (s : State) (q : Nat) (f : Queue → Queue) : (modQ s q f).pending = s.pending := rfl
@[simp] theorem modQ_cascId (s : State) (q : Nat) (f : Queue → Queue) : (modQ s q f).cascId = s.cascId := rfl
@[simp] theorem modQ_rstLow (s : State) (q : Nat) (f : Queue → Queue) : (modQ s q f).rstLow = s.rstLow := rfl
@[simp] theorem modQ_powered (s : State) (q : Nat) (f : Queue → Queue) : (modQ s q f).powered = s.powered := rfl
@[simp] theorem modQ_fuses (s : State) (q : Nat) (f : Queue → Queue) : (modQ s q f).fuses = s.fuses := rfl
@[simp] theorem modQ_newFuses (s : State) (q : Nat) (f : Queue → Queue) : (modQ s q f).newFuses = s.newFuses := rfl
@[simp] theorem modQ_caps (s : State) (q : Nat) (f : Queue → Queue) : (modQ s q f).caps = s.caps := rfl
@[simp] theorem modQ_epoch (s : State) (q : Nat) (f : Queue → Queue) : (modQ s q f).epoch = s.epoch := rfl
@[simp] theorem modQ_capev (s : State) (q : Nat) (f : Queue → Queue) : (modQ s q f).capev = s.capev := rfl
@[simp] theorem modQ_uhSel (s : State) (q : Nat) (f : Queue → Queue) : (modQ s q f).uhSel = s.uhSel := rfl
@[simp] theorem modQ_uhData (s : State) (q : Nat) (f : Queue → Queue) : (modQ s q f).uhData = s.uhData := rfl
@[simp] theorem modQ_history (s : State) (q : Nat) (f : Queue → Queue) : (modQ s q f).history = s.history := rfl
@[simp] theorem modQ_breath (s : State) (q : Nat) (f : Queue → Queue) : (modQ s q f).breath = s.breath := rfl
@[simp] theorem modQ_queues (s : State) (q : Nat) (f : Queue → Queue) : (modQ s q f).queues = tput {} s.queues q (f (getQ s q)) := rfl
@[simp] theorem modQ_items (s : State) (q : Nat) (f : Queue → Queue) : (modQ s q f).items = s.items := rfl
@[simp] theorem modQ_tasks (s : State) (q : Nat) (f : Queue → Queue) : (modQ s q f).tasks = s.tasks := rfl
@[simp] theorem modQ_dispatches (s : State) (q : Nat) (f : Queue → Queue) : (modQ s q f).dispatches = s.dispatches := rfl
@[simp] theorem modQ_reissues (s : State) (q : Nat) (f : Queue → Queue) : (modQ s q f).reissues = s.reissues := rfl
@[simp] theorem modQ_irq (s : State) (q : Nat) (f : Queue → Queue) : (modQ s q f).irq = s.irq := rfl
@[simp] theorem modQ_bell (s : State) (q : Nat) (f : Queue → Queue) : (modQ s q f).bell = s.bell := rfl
@[simp] theorem modQ_mute (s : State) (q : Nat) (f : Queue → Queue) : (modQ s q f).mute = s.mute := rfl
@[simp] theorem modQ_perf (s : State) (q : Nat) (f : Queue → Queue) : (modQ s q f).perf = s.perf := rfl
@[simp] theorem modQ_sens (s : State) (q : Nat) (f : Queue → Queue) : (modQ s q f).sens = s.sens := rfl
@[simp] theorem modQ_tr (s : State) (q : Nat) (f : Queue → Queue) : (modQ s q f).tr = s.tr := rfl
@[simp] theorem modQ_str (s : State) (q : Nat) (f : Queue → Queue) : (modQ s q f).str = s.str := rfl
@[simp] theorem modQ_pg (s : State) (q : Nat) (f : Queue → Queue) : (modQ s q f).pg = s.pg := rfl
@[simp] theorem modQ_cores (s : State) (q : Nat) (f : Queue → Queue) : (modQ s q f).cores = s.cores := rfl
@[simp] theorem modQ_phys (s : State) (q : Nat) (f : Queue → Queue) : (modQ s q f).phys = s.phys := rfl
@[simp] theorem modQ_clusters (s : State) (q : Nat) (f : Queue → Queue) : (modQ s q f).clusters = s.clusters := rfl
@[simp] theorem modQ_reed (s : State) (q : Nat) (f : Queue → Queue) : (modQ s q f).reed = s.reed := rfl
@[simp] theorem modQ_cle (s : State) (q : Nat) (f : Queue → Queue) : (modQ s q f).cle = s.cle := rfl
@[simp] theorem modQ_link (s : State) (q : Nat) (f : Queue → Queue) : (modQ s q f).link = s.link := rfl
@[simp] theorem modQ_casc (s : State) (q : Nat) (f : Queue → Queue) : (modQ s q f).casc = s.casc := rfl
@[simp] theorem modQ_mem (s : State) (q : Nat) (f : Queue → Queue) : (modQ s q f).mem = s.mem := rfl
@[simp] theorem modQ_xspi (s : State) (q : Nat) (f : Queue → Queue) : (modQ s q f).xspi = s.xspi := rfl
@[simp] theorem modQ_tap (s : State) (q : Nat) (f : Queue → Queue) : (modQ s q f).tap = s.tap := rfl
@[simp] theorem modQ_sent (s : State) (q : Nat) (f : Queue → Queue) : (modQ s q f).sent = s.sent := rfl
@[simp] theorem modQ_edge (s : State) (q : Nat) (f : Queue → Queue) : (modQ s q f).edge = s.edge := rfl
@[simp] theorem modQ_free (s : State) (q : Nat) (f : Queue → Queue) : (modQ s q f).free = s.free := rfl

/-! ### setCore -/

@[simp] theorem setCore_pending (s : State) (k : Nat) (v : Core) : (setCore s k v).pending = s.pending := rfl
@[simp] theorem setCore_cascId (s : State) (k : Nat) (v : Core) : (setCore s k v).cascId = s.cascId := rfl
@[simp] theorem setCore_rstLow (s : State) (k : Nat) (v : Core) : (setCore s k v).rstLow = s.rstLow := rfl
@[simp] theorem setCore_powered (s : State) (k : Nat) (v : Core) : (setCore s k v).powered = s.powered := rfl
@[simp] theorem setCore_fuses (s : State) (k : Nat) (v : Core) : (setCore s k v).fuses = s.fuses := rfl
@[simp] theorem setCore_newFuses (s : State) (k : Nat) (v : Core) : (setCore s k v).newFuses = s.newFuses := rfl
@[simp] theorem setCore_caps (s : State) (k : Nat) (v : Core) : (setCore s k v).caps = s.caps := rfl
@[simp] theorem setCore_epoch (s : State) (k : Nat) (v : Core) : (setCore s k v).epoch = s.epoch := rfl
@[simp] theorem setCore_capev (s : State) (k : Nat) (v : Core) : (setCore s k v).capev = s.capev := rfl
@[simp] theorem setCore_uhSel (s : State) (k : Nat) (v : Core) : (setCore s k v).uhSel = s.uhSel := rfl
@[simp] theorem setCore_uhData (s : State) (k : Nat) (v : Core) : (setCore s k v).uhData = s.uhData := rfl
@[simp] theorem setCore_history (s : State) (k : Nat) (v : Core) : (setCore s k v).history = s.history := rfl
@[simp] theorem setCore_breath (s : State) (k : Nat) (v : Core) : (setCore s k v).breath = s.breath := rfl
@[simp] theorem setCore_queues (s : State) (k : Nat) (v : Core) : (setCore s k v).queues = s.queues := rfl
@[simp] theorem setCore_items (s : State) (k : Nat) (v : Core) : (setCore s k v).items = s.items := rfl
@[simp] theorem setCore_tasks (s : State) (k : Nat) (v : Core) : (setCore s k v).tasks = s.tasks := rfl
@[simp] theorem setCore_dispatches (s : State) (k : Nat) (v : Core) : (setCore s k v).dispatches = s.dispatches := rfl
@[simp] theorem setCore_reissues (s : State) (k : Nat) (v : Core) : (setCore s k v).reissues = s.reissues := rfl
@[simp] theorem setCore_irq (s : State) (k : Nat) (v : Core) : (setCore s k v).irq = s.irq := rfl
@[simp] theorem setCore_bell (s : State) (k : Nat) (v : Core) : (setCore s k v).bell = s.bell := rfl
@[simp] theorem setCore_mute (s : State) (k : Nat) (v : Core) : (setCore s k v).mute = s.mute := rfl
@[simp] theorem setCore_perf (s : State) (k : Nat) (v : Core) : (setCore s k v).perf = s.perf := rfl
@[simp] theorem setCore_sens (s : State) (k : Nat) (v : Core) : (setCore s k v).sens = s.sens := rfl
@[simp] theorem setCore_tr (s : State) (k : Nat) (v : Core) : (setCore s k v).tr = s.tr := rfl
@[simp] theorem setCore_str (s : State) (k : Nat) (v : Core) : (setCore s k v).str = s.str := rfl
@[simp] theorem setCore_pg (s : State) (k : Nat) (v : Core) : (setCore s k v).pg = s.pg := rfl
@[simp] theorem setCore_cores (s : State) (k : Nat) (v : Core) : (setCore s k v).cores = tput {} s.cores k v := rfl
@[simp] theorem setCore_phys (s : State) (k : Nat) (v : Core) : (setCore s k v).phys = s.phys := rfl
@[simp] theorem setCore_clusters (s : State) (k : Nat) (v : Core) : (setCore s k v).clusters = s.clusters := rfl
@[simp] theorem setCore_reed (s : State) (k : Nat) (v : Core) : (setCore s k v).reed = s.reed := rfl
@[simp] theorem setCore_cle (s : State) (k : Nat) (v : Core) : (setCore s k v).cle = s.cle := rfl
@[simp] theorem setCore_link (s : State) (k : Nat) (v : Core) : (setCore s k v).link = s.link := rfl
@[simp] theorem setCore_casc (s : State) (k : Nat) (v : Core) : (setCore s k v).casc = s.casc := rfl
@[simp] theorem setCore_mem (s : State) (k : Nat) (v : Core) : (setCore s k v).mem = s.mem := rfl
@[simp] theorem setCore_xspi (s : State) (k : Nat) (v : Core) : (setCore s k v).xspi = s.xspi := rfl
@[simp] theorem setCore_tap (s : State) (k : Nat) (v : Core) : (setCore s k v).tap = s.tap := rfl
@[simp] theorem setCore_sent (s : State) (k : Nat) (v : Core) : (setCore s k v).sent = s.sent := rfl
@[simp] theorem setCore_edge (s : State) (k : Nat) (v : Core) : (setCore s k v).edge = s.edge := rfl
@[simp] theorem setCore_free (s : State) (k : Nat) (v : Core) : (setCore s k v).free = s.free := rfl

/-! ### modCore -/

@[simp] theorem modCore_pending (s : State) (k : Nat) (f : Core → Core) : (modCore s k f).pending = s.pending := rfl
@[simp] theorem modCore_cascId (s : State) (k : Nat) (f : Core → Core) : (modCore s k f).cascId = s.cascId := rfl
@[simp] theorem modCore_rstLow (s : State) (k : Nat) (f : Core → Core) : (modCore s k f).rstLow = s.rstLow := rfl
@[simp] theorem modCore_powered (s : State) (k : Nat) (f : Core → Core) : (modCore s k f).powered = s.powered := rfl
@[simp] theorem modCore_fuses (s : State) (k : Nat) (f : Core → Core) : (modCore s k f).fuses = s.fuses := rfl
@[simp] theorem modCore_newFuses (s : State) (k : Nat) (f : Core → Core) : (modCore s k f).newFuses = s.newFuses := rfl
@[simp] theorem modCore_caps (s : State) (k : Nat) (f : Core → Core) : (modCore s k f).caps = s.caps := rfl
@[simp] theorem modCore_epoch (s : State) (k : Nat) (f : Core → Core) : (modCore s k f).epoch = s.epoch := rfl
@[simp] theorem modCore_capev (s : State) (k : Nat) (f : Core → Core) : (modCore s k f).capev = s.capev := rfl
@[simp] theorem modCore_uhSel (s : State) (k : Nat) (f : Core → Core) : (modCore s k f).uhSel = s.uhSel := rfl
@[simp] theorem modCore_uhData (s : State) (k : Nat) (f : Core → Core) : (modCore s k f).uhData = s.uhData := rfl
@[simp] theorem modCore_history (s : State) (k : Nat) (f : Core → Core) : (modCore s k f).history = s.history := rfl
@[simp] theorem modCore_breath (s : State) (k : Nat) (f : Core → Core) : (modCore s k f).breath = s.breath := rfl
@[simp] theorem modCore_queues (s : State) (k : Nat) (f : Core → Core) : (modCore s k f).queues = s.queues := rfl
@[simp] theorem modCore_items (s : State) (k : Nat) (f : Core → Core) : (modCore s k f).items = s.items := rfl
@[simp] theorem modCore_tasks (s : State) (k : Nat) (f : Core → Core) : (modCore s k f).tasks = s.tasks := rfl
@[simp] theorem modCore_dispatches (s : State) (k : Nat) (f : Core → Core) : (modCore s k f).dispatches = s.dispatches := rfl
@[simp] theorem modCore_reissues (s : State) (k : Nat) (f : Core → Core) : (modCore s k f).reissues = s.reissues := rfl
@[simp] theorem modCore_irq (s : State) (k : Nat) (f : Core → Core) : (modCore s k f).irq = s.irq := rfl
@[simp] theorem modCore_bell (s : State) (k : Nat) (f : Core → Core) : (modCore s k f).bell = s.bell := rfl
@[simp] theorem modCore_mute (s : State) (k : Nat) (f : Core → Core) : (modCore s k f).mute = s.mute := rfl
@[simp] theorem modCore_perf (s : State) (k : Nat) (f : Core → Core) : (modCore s k f).perf = s.perf := rfl
@[simp] theorem modCore_sens (s : State) (k : Nat) (f : Core → Core) : (modCore s k f).sens = s.sens := rfl
@[simp] theorem modCore_tr (s : State) (k : Nat) (f : Core → Core) : (modCore s k f).tr = s.tr := rfl
@[simp] theorem modCore_str (s : State) (k : Nat) (f : Core → Core) : (modCore s k f).str = s.str := rfl
@[simp] theorem modCore_pg (s : State) (k : Nat) (f : Core → Core) : (modCore s k f).pg = s.pg := rfl
@[simp] theorem modCore_cores (s : State) (k : Nat) (f : Core → Core) : (modCore s k f).cores = tput {} s.cores k (f (getCore s k)) := rfl
@[simp] theorem modCore_phys (s : State) (k : Nat) (f : Core → Core) : (modCore s k f).phys = s.phys := rfl
@[simp] theorem modCore_clusters (s : State) (k : Nat) (f : Core → Core) : (modCore s k f).clusters = s.clusters := rfl
@[simp] theorem modCore_reed (s : State) (k : Nat) (f : Core → Core) : (modCore s k f).reed = s.reed := rfl
@[simp] theorem modCore_cle (s : State) (k : Nat) (f : Core → Core) : (modCore s k f).cle = s.cle := rfl
@[simp] theorem modCore_link (s : State) (k : Nat) (f : Core → Core) : (modCore s k f).link = s.link := rfl
@[simp] theorem modCore_casc (s : State) (k : Nat) (f : Core → Core) : (modCore s k f).casc = s.casc := rfl
@[simp] theorem modCore_mem (s : State) (k : Nat) (f : Core → Core) : (modCore s k f).mem = s.mem := rfl
@[simp] theorem modCore_xspi (s : State) (k : Nat) (f : Core → Core) : (modCore s k f).xspi = s.xspi := rfl
@[simp] theorem modCore_tap (s : State) (k : Nat) (f : Core → Core) : (modCore s k f).tap = s.tap := rfl
@[simp] theorem modCore_sent (s : State) (k : Nat) (f : Core → Core) : (modCore s k f).sent = s.sent := rfl
@[simp] theorem modCore_edge (s : State) (k : Nat) (f : Core → Core) : (modCore s k f).edge = s.edge := rfl
@[simp] theorem modCore_free (s : State) (k : Nat) (f : Core → Core) : (modCore s k f).free = s.free := rfl

/-! ### setCluster -/

@[simp] theorem setCluster_pending (s : State) (n : Nat) (v : Cluster) : (setCluster s n v).pending = s.pending := rfl
@[simp] theorem setCluster_cascId (s : State) (n : Nat) (v : Cluster) : (setCluster s n v).cascId = s.cascId := rfl
@[simp] theorem setCluster_rstLow (s : State) (n : Nat) (v : Cluster) : (setCluster s n v).rstLow = s.rstLow := rfl
@[simp] theorem setCluster_powered (s : State) (n : Nat) (v : Cluster) : (setCluster s n v).powered = s.powered := rfl
@[simp] theorem setCluster_fuses (s : State) (n : Nat) (v : Cluster) : (setCluster s n v).fuses = s.fuses := rfl
@[simp] theorem setCluster_newFuses (s : State) (n : Nat) (v : Cluster) : (setCluster s n v).newFuses = s.newFuses := rfl
@[simp] theorem setCluster_caps (s : State) (n : Nat) (v : Cluster) : (setCluster s n v).caps = s.caps := rfl
@[simp] theorem setCluster_epoch (s : State) (n : Nat) (v : Cluster) : (setCluster s n v).epoch = s.epoch := rfl
@[simp] theorem setCluster_capev (s : State) (n : Nat) (v : Cluster) : (setCluster s n v).capev = s.capev := rfl
@[simp] theorem setCluster_uhSel (s : State) (n : Nat) (v : Cluster) : (setCluster s n v).uhSel = s.uhSel := rfl
@[simp] theorem setCluster_uhData (s : State) (n : Nat) (v : Cluster) : (setCluster s n v).uhData = s.uhData := rfl
@[simp] theorem setCluster_history (s : State) (n : Nat) (v : Cluster) : (setCluster s n v).history = s.history := rfl
@[simp] theorem setCluster_breath (s : State) (n : Nat) (v : Cluster) : (setCluster s n v).breath = s.breath := rfl
@[simp] theorem setCluster_queues (s : State) (n : Nat) (v : Cluster) : (setCluster s n v).queues = s.queues := rfl
@[simp] theorem setCluster_items (s : State) (n : Nat) (v : Cluster) : (setCluster s n v).items = s.items := rfl
@[simp] theorem setCluster_tasks (s : State) (n : Nat) (v : Cluster) : (setCluster s n v).tasks = s.tasks := rfl
@[simp] theorem setCluster_dispatches (s : State) (n : Nat) (v : Cluster) : (setCluster s n v).dispatches = s.dispatches := rfl
@[simp] theorem setCluster_reissues (s : State) (n : Nat) (v : Cluster) : (setCluster s n v).reissues = s.reissues := rfl
@[simp] theorem setCluster_irq (s : State) (n : Nat) (v : Cluster) : (setCluster s n v).irq = s.irq := rfl
@[simp] theorem setCluster_bell (s : State) (n : Nat) (v : Cluster) : (setCluster s n v).bell = s.bell := rfl
@[simp] theorem setCluster_mute (s : State) (n : Nat) (v : Cluster) : (setCluster s n v).mute = s.mute := rfl
@[simp] theorem setCluster_perf (s : State) (n : Nat) (v : Cluster) : (setCluster s n v).perf = s.perf := rfl
@[simp] theorem setCluster_sens (s : State) (n : Nat) (v : Cluster) : (setCluster s n v).sens = s.sens := rfl
@[simp] theorem setCluster_tr (s : State) (n : Nat) (v : Cluster) : (setCluster s n v).tr = s.tr := rfl
@[simp] theorem setCluster_str (s : State) (n : Nat) (v : Cluster) : (setCluster s n v).str = s.str := rfl
@[simp] theorem setCluster_pg (s : State) (n : Nat) (v : Cluster) : (setCluster s n v).pg = s.pg := rfl
@[simp] theorem setCluster_cores (s : State) (n : Nat) (v : Cluster) : (setCluster s n v).cores = s.cores := rfl
@[simp] theorem setCluster_phys (s : State) (n : Nat) (v : Cluster) : (setCluster s n v).phys = s.phys := rfl
@[simp] theorem setCluster_clusters (s : State) (n : Nat) (v : Cluster) : (setCluster s n v).clusters = tput {} s.clusters n v := rfl
@[simp] theorem setCluster_reed (s : State) (n : Nat) (v : Cluster) : (setCluster s n v).reed = s.reed := rfl
@[simp] theorem setCluster_cle (s : State) (n : Nat) (v : Cluster) : (setCluster s n v).cle = s.cle := rfl
@[simp] theorem setCluster_link (s : State) (n : Nat) (v : Cluster) : (setCluster s n v).link = s.link := rfl
@[simp] theorem setCluster_casc (s : State) (n : Nat) (v : Cluster) : (setCluster s n v).casc = s.casc := rfl
@[simp] theorem setCluster_mem (s : State) (n : Nat) (v : Cluster) : (setCluster s n v).mem = s.mem := rfl
@[simp] theorem setCluster_xspi (s : State) (n : Nat) (v : Cluster) : (setCluster s n v).xspi = s.xspi := rfl
@[simp] theorem setCluster_tap (s : State) (n : Nat) (v : Cluster) : (setCluster s n v).tap = s.tap := rfl
@[simp] theorem setCluster_sent (s : State) (n : Nat) (v : Cluster) : (setCluster s n v).sent = s.sent := rfl
@[simp] theorem setCluster_edge (s : State) (n : Nat) (v : Cluster) : (setCluster s n v).edge = s.edge := rfl
@[simp] theorem setCluster_free (s : State) (n : Nat) (v : Cluster) : (setCluster s n v).free = s.free := rfl

/-! ### setGroup -/

@[simp] theorem setGroup_pending (s : State) (g : Nat) (v : Group) : (setGroup s g v).pending = s.pending := rfl
@[simp] theorem setGroup_cascId (s : State) (g : Nat) (v : Group) : (setGroup s g v).cascId = s.cascId := rfl
@[simp] theorem setGroup_rstLow (s : State) (g : Nat) (v : Group) : (setGroup s g v).rstLow = s.rstLow := rfl
@[simp] theorem setGroup_powered (s : State) (g : Nat) (v : Group) : (setGroup s g v).powered = s.powered := rfl
@[simp] theorem setGroup_fuses (s : State) (g : Nat) (v : Group) : (setGroup s g v).fuses = s.fuses := rfl
@[simp] theorem setGroup_newFuses (s : State) (g : Nat) (v : Group) : (setGroup s g v).newFuses = s.newFuses := rfl
@[simp] theorem setGroup_caps (s : State) (g : Nat) (v : Group) : (setGroup s g v).caps = s.caps := rfl
@[simp] theorem setGroup_epoch (s : State) (g : Nat) (v : Group) : (setGroup s g v).epoch = s.epoch := rfl
@[simp] theorem setGroup_capev (s : State) (g : Nat) (v : Group) : (setGroup s g v).capev = s.capev := rfl
@[simp] theorem setGroup_uhSel (s : State) (g : Nat) (v : Group) : (setGroup s g v).uhSel = s.uhSel := rfl
@[simp] theorem setGroup_uhData (s : State) (g : Nat) (v : Group) : (setGroup s g v).uhData = s.uhData := rfl
@[simp] theorem setGroup_history (s : State) (g : Nat) (v : Group) : (setGroup s g v).history = s.history := rfl
@[simp] theorem setGroup_breath (s : State) (g : Nat) (v : Group) : (setGroup s g v).breath = s.breath := rfl
@[simp] theorem setGroup_queues (s : State) (g : Nat) (v : Group) : (setGroup s g v).queues = s.queues := rfl
@[simp] theorem setGroup_items (s : State) (g : Nat) (v : Group) : (setGroup s g v).items = s.items := rfl
@[simp] theorem setGroup_tasks (s : State) (g : Nat) (v : Group) : (setGroup s g v).tasks = s.tasks := rfl
@[simp] theorem setGroup_dispatches (s : State) (g : Nat) (v : Group) : (setGroup s g v).dispatches = s.dispatches := rfl
@[simp] theorem setGroup_reissues (s : State) (g : Nat) (v : Group) : (setGroup s g v).reissues = s.reissues := rfl
@[simp] theorem setGroup_irq (s : State) (g : Nat) (v : Group) : (setGroup s g v).irq = s.irq := rfl
@[simp] theorem setGroup_bell (s : State) (g : Nat) (v : Group) : (setGroup s g v).bell = s.bell := rfl
@[simp] theorem setGroup_mute (s : State) (g : Nat) (v : Group) : (setGroup s g v).mute = s.mute := rfl
@[simp] theorem setGroup_perf (s : State) (g : Nat) (v : Group) : (setGroup s g v).perf = s.perf := rfl
@[simp] theorem setGroup_sens (s : State) (g : Nat) (v : Group) : (setGroup s g v).sens = s.sens := rfl
@[simp] theorem setGroup_tr (s : State) (g : Nat) (v : Group) : (setGroup s g v).tr = s.tr := rfl
@[simp] theorem setGroup_str (s : State) (g : Nat) (v : Group) : (setGroup s g v).str = s.str := rfl
@[simp] theorem setGroup_pg (s : State) (g : Nat) (v : Group) : (setGroup s g v).pg = s.pg := rfl
@[simp] theorem setGroup_cores (s : State) (g : Nat) (v : Group) : (setGroup s g v).cores = s.cores := rfl
@[simp] theorem setGroup_phys (s : State) (g : Nat) (v : Group) : (setGroup s g v).phys = s.phys := rfl
@[simp] theorem setGroup_clusters (s : State) (g : Nat) (v : Group) : (setGroup s g v).clusters = s.clusters := rfl
@[simp] theorem setGroup_reed (s : State) (g : Nat) (v : Group) : (setGroup s g v).reed = s.reed := rfl
@[simp] theorem setGroup_cle (s : State) (g : Nat) (v : Group) : (setGroup s g v).cle = { s.cle with groups := tput {} s.cle.groups g v } := rfl
@[simp] theorem setGroup_link (s : State) (g : Nat) (v : Group) : (setGroup s g v).link = s.link := rfl
@[simp] theorem setGroup_casc (s : State) (g : Nat) (v : Group) : (setGroup s g v).casc = s.casc := rfl
@[simp] theorem setGroup_mem (s : State) (g : Nat) (v : Group) : (setGroup s g v).mem = s.mem := rfl
@[simp] theorem setGroup_xspi (s : State) (g : Nat) (v : Group) : (setGroup s g v).xspi = s.xspi := rfl
@[simp] theorem setGroup_tap (s : State) (g : Nat) (v : Group) : (setGroup s g v).tap = s.tap := rfl
@[simp] theorem setGroup_sent (s : State) (g : Nat) (v : Group) : (setGroup s g v).sent = s.sent := rfl
@[simp] theorem setGroup_edge (s : State) (g : Nat) (v : Group) : (setGroup s g v).edge = s.edge := rfl
@[simp] theorem setGroup_free (s : State) (g : Nat) (v : Group) : (setGroup s g v).free = s.free := rfl

/-! ### setOp -/

@[simp] theorem setOp_pending (s : State) (o : CleOp) : (setOp s o).pending = s.pending := rfl
@[simp] theorem setOp_cascId (s : State) (o : CleOp) : (setOp s o).cascId = s.cascId := rfl
@[simp] theorem setOp_rstLow (s : State) (o : CleOp) : (setOp s o).rstLow = s.rstLow := rfl
@[simp] theorem setOp_powered (s : State) (o : CleOp) : (setOp s o).powered = s.powered := rfl
@[simp] theorem setOp_fuses (s : State) (o : CleOp) : (setOp s o).fuses = s.fuses := rfl
@[simp] theorem setOp_newFuses (s : State) (o : CleOp) : (setOp s o).newFuses = s.newFuses := rfl
@[simp] theorem setOp_caps (s : State) (o : CleOp) : (setOp s o).caps = s.caps := rfl
@[simp] theorem setOp_epoch (s : State) (o : CleOp) : (setOp s o).epoch = s.epoch := rfl
@[simp] theorem setOp_capev (s : State) (o : CleOp) : (setOp s o).capev = s.capev := rfl
@[simp] theorem setOp_uhSel (s : State) (o : CleOp) : (setOp s o).uhSel = s.uhSel := rfl
@[simp] theorem setOp_uhData (s : State) (o : CleOp) : (setOp s o).uhData = s.uhData := rfl
@[simp] theorem setOp_history (s : State) (o : CleOp) : (setOp s o).history = s.history := rfl
@[simp] theorem setOp_breath (s : State) (o : CleOp) : (setOp s o).breath = s.breath := rfl
@[simp] theorem setOp_queues (s : State) (o : CleOp) : (setOp s o).queues = s.queues := rfl
@[simp] theorem setOp_items (s : State) (o : CleOp) : (setOp s o).items = s.items := rfl
@[simp] theorem setOp_tasks (s : State) (o : CleOp) : (setOp s o).tasks = s.tasks := rfl
@[simp] theorem setOp_dispatches (s : State) (o : CleOp) : (setOp s o).dispatches = s.dispatches := rfl
@[simp] theorem setOp_reissues (s : State) (o : CleOp) : (setOp s o).reissues = s.reissues := rfl
@[simp] theorem setOp_irq (s : State) (o : CleOp) : (setOp s o).irq = s.irq := rfl
@[simp] theorem setOp_bell (s : State) (o : CleOp) : (setOp s o).bell = s.bell := rfl
@[simp] theorem setOp_mute (s : State) (o : CleOp) : (setOp s o).mute = s.mute := rfl
@[simp] theorem setOp_perf (s : State) (o : CleOp) : (setOp s o).perf = s.perf := rfl
@[simp] theorem setOp_sens (s : State) (o : CleOp) : (setOp s o).sens = s.sens := rfl
@[simp] theorem setOp_tr (s : State) (o : CleOp) : (setOp s o).tr = s.tr := rfl
@[simp] theorem setOp_str (s : State) (o : CleOp) : (setOp s o).str = s.str := rfl
@[simp] theorem setOp_pg (s : State) (o : CleOp) : (setOp s o).pg = s.pg := rfl
@[simp] theorem setOp_cores (s : State) (o : CleOp) : (setOp s o).cores = s.cores := rfl
@[simp] theorem setOp_phys (s : State) (o : CleOp) : (setOp s o).phys = s.phys := rfl
@[simp] theorem setOp_clusters (s : State) (o : CleOp) : (setOp s o).clusters = s.clusters := rfl
@[simp] theorem setOp_reed (s : State) (o : CleOp) : (setOp s o).reed = s.reed := rfl
@[simp] theorem setOp_link (s : State) (o : CleOp) : (setOp s o).link = s.link := rfl
@[simp] theorem setOp_casc (s : State) (o : CleOp) : (setOp s o).casc = s.casc := rfl
@[simp] theorem setOp_mem (s : State) (o : CleOp) : (setOp s o).mem = s.mem := rfl
@[simp] theorem setOp_xspi (s : State) (o : CleOp) : (setOp s o).xspi = s.xspi := rfl
@[simp] theorem setOp_tap (s : State) (o : CleOp) : (setOp s o).tap = s.tap := rfl
@[simp] theorem setOp_sent (s : State) (o : CleOp) : (setOp s o).sent = s.sent := rfl
@[simp] theorem setOp_edge (s : State) (o : CleOp) : (setOp s o).edge = s.edge := rfl
@[simp] theorem setOp_free (s : State) (o : CleOp) : (setOp s o).free = s.free := rfl

/-! ### modUnit -/

@[simp] theorem modUnit_pending (s : State) (u : W16) (f : UnitRec → UnitRec) : (modUnit s u f).pending = s.pending := rfl
@[simp] theorem modUnit_cascId (s : State) (u : W16) (f : UnitRec → UnitRec) : (modUnit s u f).cascId = s.cascId := rfl
@[simp] theorem modUnit_rstLow (s : State) (u : W16) (f : UnitRec → UnitRec) : (modUnit s u f).rstLow = s.rstLow := rfl
@[simp] theorem modUnit_powered (s : State) (u : W16) (f : UnitRec → UnitRec) : (modUnit s u f).powered = s.powered := rfl
@[simp] theorem modUnit_fuses (s : State) (u : W16) (f : UnitRec → UnitRec) : (modUnit s u f).fuses = s.fuses := rfl
@[simp] theorem modUnit_newFuses (s : State) (u : W16) (f : UnitRec → UnitRec) : (modUnit s u f).newFuses = s.newFuses := rfl
@[simp] theorem modUnit_caps (s : State) (u : W16) (f : UnitRec → UnitRec) : (modUnit s u f).caps = s.caps := rfl
@[simp] theorem modUnit_epoch (s : State) (u : W16) (f : UnitRec → UnitRec) : (modUnit s u f).epoch = s.epoch := rfl
@[simp] theorem modUnit_capev (s : State) (u : W16) (f : UnitRec → UnitRec) : (modUnit s u f).capev = s.capev := rfl
@[simp] theorem modUnit_uhSel (s : State) (u : W16) (f : UnitRec → UnitRec) : (modUnit s u f).uhSel = s.uhSel := rfl
@[simp] theorem modUnit_uhData (s : State) (u : W16) (f : UnitRec → UnitRec) : (modUnit s u f).uhData = s.uhData := rfl
@[simp] theorem modUnit_history (s : State) (u : W16) (f : UnitRec → UnitRec) : (modUnit s u f).history = tput {} s.history u.toNat (f (getUnit s u)) := rfl
@[simp] theorem modUnit_breath (s : State) (u : W16) (f : UnitRec → UnitRec) : (modUnit s u f).breath = s.breath := rfl
@[simp] theorem modUnit_queues (s : State) (u : W16) (f : UnitRec → UnitRec) : (modUnit s u f).queues = s.queues := rfl
@[simp] theorem modUnit_items (s : State) (u : W16) (f : UnitRec → UnitRec) : (modUnit s u f).items = s.items := rfl
@[simp] theorem modUnit_tasks (s : State) (u : W16) (f : UnitRec → UnitRec) : (modUnit s u f).tasks = s.tasks := rfl
@[simp] theorem modUnit_dispatches (s : State) (u : W16) (f : UnitRec → UnitRec) : (modUnit s u f).dispatches = s.dispatches := rfl
@[simp] theorem modUnit_reissues (s : State) (u : W16) (f : UnitRec → UnitRec) : (modUnit s u f).reissues = s.reissues := rfl
@[simp] theorem modUnit_irq (s : State) (u : W16) (f : UnitRec → UnitRec) : (modUnit s u f).irq = s.irq := rfl
@[simp] theorem modUnit_bell (s : State) (u : W16) (f : UnitRec → UnitRec) : (modUnit s u f).bell = s.bell := rfl
@[simp] theorem modUnit_mute (s : State) (u : W16) (f : UnitRec → UnitRec) : (modUnit s u f).mute = s.mute := rfl
@[simp] theorem modUnit_perf (s : State) (u : W16) (f : UnitRec → UnitRec) : (modUnit s u f).perf = s.perf := rfl
@[simp] theorem modUnit_sens (s : State) (u : W16) (f : UnitRec → UnitRec) : (modUnit s u f).sens = s.sens := rfl
@[simp] theorem modUnit_tr (s : State) (u : W16) (f : UnitRec → UnitRec) : (modUnit s u f).tr = s.tr := rfl
@[simp] theorem modUnit_str (s : State) (u : W16) (f : UnitRec → UnitRec) : (modUnit s u f).str = s.str := rfl
@[simp] theorem modUnit_pg (s : State) (u : W16) (f : UnitRec → UnitRec) : (modUnit s u f).pg = s.pg := rfl
@[simp] theorem modUnit_cores (s : State) (u : W16) (f : UnitRec → UnitRec) : (modUnit s u f).cores = s.cores := rfl
@[simp] theorem modUnit_phys (s : State) (u : W16) (f : UnitRec → UnitRec) : (modUnit s u f).phys = s.phys := rfl
@[simp] theorem modUnit_clusters (s : State) (u : W16) (f : UnitRec → UnitRec) : (modUnit s u f).clusters = s.clusters := rfl
@[simp] theorem modUnit_reed (s : State) (u : W16) (f : UnitRec → UnitRec) : (modUnit s u f).reed = s.reed := rfl
@[simp] theorem modUnit_cle (s : State) (u : W16) (f : UnitRec → UnitRec) : (modUnit s u f).cle = s.cle := rfl
@[simp] theorem modUnit_link (s : State) (u : W16) (f : UnitRec → UnitRec) : (modUnit s u f).link = s.link := rfl
@[simp] theorem modUnit_casc (s : State) (u : W16) (f : UnitRec → UnitRec) : (modUnit s u f).casc = s.casc := rfl
@[simp] theorem modUnit_mem (s : State) (u : W16) (f : UnitRec → UnitRec) : (modUnit s u f).mem = s.mem := rfl
@[simp] theorem modUnit_xspi (s : State) (u : W16) (f : UnitRec → UnitRec) : (modUnit s u f).xspi = s.xspi := rfl
@[simp] theorem modUnit_tap (s : State) (u : W16) (f : UnitRec → UnitRec) : (modUnit s u f).tap = s.tap := rfl
@[simp] theorem modUnit_sent (s : State) (u : W16) (f : UnitRec → UnitRec) : (modUnit s u f).sent = s.sent := rfl
@[simp] theorem modUnit_edge (s : State) (u : W16) (f : UnitRec → UnitRec) : (modUnit s u f).edge = s.edge := rfl
@[simp] theorem modUnit_free (s : State) (u : W16) (f : UnitRec → UnitRec) : (modUnit s u f).free = s.free := rfl

/-! ### modItem -/

@[simp] theorem modItem_pending (s : State) (q : Nat) (idx : W32) (f : Item → Item) : (modItem s q idx f).pending = s.pending := rfl
@[simp] theorem modItem_cascId (s : State) (q : Nat) (idx : W32) (f : Item → Item) : (modItem s q idx f).cascId = s.cascId := rfl
@[simp] theorem modItem_rstLow (s : State) (q : Nat) (idx : W32) (f : Item → Item) : (modItem s q idx f).rstLow = s.rstLow := rfl
@[simp] theorem modItem_powered (s : State) (q : Nat) (idx : W32) (f : Item → Item) : (modItem s q idx f).powered = s.powered := rfl
@[simp] theorem modItem_fuses (s : State) (q : Nat) (idx : W32) (f : Item → Item) : (modItem s q idx f).fuses = s.fuses := rfl
@[simp] theorem modItem_newFuses (s : State) (q : Nat) (idx : W32) (f : Item → Item) : (modItem s q idx f).newFuses = s.newFuses := rfl
@[simp] theorem modItem_caps (s : State) (q : Nat) (idx : W32) (f : Item → Item) : (modItem s q idx f).caps = s.caps := rfl
@[simp] theorem modItem_epoch (s : State) (q : Nat) (idx : W32) (f : Item → Item) : (modItem s q idx f).epoch = s.epoch := rfl
@[simp] theorem modItem_capev (s : State) (q : Nat) (idx : W32) (f : Item → Item) : (modItem s q idx f).capev = s.capev := rfl
@[simp] theorem modItem_uhSel (s : State) (q : Nat) (idx : W32) (f : Item → Item) : (modItem s q idx f).uhSel = s.uhSel := rfl
@[simp] theorem modItem_uhData (s : State) (q : Nat) (idx : W32) (f : Item → Item) : (modItem s q idx f).uhData = s.uhData := rfl
@[simp] theorem modItem_history (s : State) (q : Nat) (idx : W32) (f : Item → Item) : (modItem s q idx f).history = s.history := rfl
@[simp] theorem modItem_breath (s : State) (q : Nat) (idx : W32) (f : Item → Item) : (modItem s q idx f).breath = s.breath := rfl
@[simp] theorem modItem_queues (s : State) (q : Nat) (idx : W32) (f : Item → Item) : (modItem s q idx f).queues = s.queues := rfl
@[simp] theorem modItem_items (s : State) (q : Nat) (idx : W32) (f : Item → Item) : (modItem s q idx f).items = s.items.map (fun i => if isItem q idx i then f i else i) := rfl
@[simp] theorem modItem_tasks (s : State) (q : Nat) (idx : W32) (f : Item → Item) : (modItem s q idx f).tasks = s.tasks := rfl
@[simp] theorem modItem_dispatches (s : State) (q : Nat) (idx : W32) (f : Item → Item) : (modItem s q idx f).dispatches = s.dispatches := rfl
@[simp] theorem modItem_reissues (s : State) (q : Nat) (idx : W32) (f : Item → Item) : (modItem s q idx f).reissues = s.reissues := rfl
@[simp] theorem modItem_irq (s : State) (q : Nat) (idx : W32) (f : Item → Item) : (modItem s q idx f).irq = s.irq := rfl
@[simp] theorem modItem_bell (s : State) (q : Nat) (idx : W32) (f : Item → Item) : (modItem s q idx f).bell = s.bell := rfl
@[simp] theorem modItem_mute (s : State) (q : Nat) (idx : W32) (f : Item → Item) : (modItem s q idx f).mute = s.mute := rfl
@[simp] theorem modItem_perf (s : State) (q : Nat) (idx : W32) (f : Item → Item) : (modItem s q idx f).perf = s.perf := rfl
@[simp] theorem modItem_sens (s : State) (q : Nat) (idx : W32) (f : Item → Item) : (modItem s q idx f).sens = s.sens := rfl
@[simp] theorem modItem_tr (s : State) (q : Nat) (idx : W32) (f : Item → Item) : (modItem s q idx f).tr = s.tr := rfl
@[simp] theorem modItem_str (s : State) (q : Nat) (idx : W32) (f : Item → Item) : (modItem s q idx f).str = s.str := rfl
@[simp] theorem modItem_pg (s : State) (q : Nat) (idx : W32) (f : Item → Item) : (modItem s q idx f).pg = s.pg := rfl
@[simp] theorem modItem_cores (s : State) (q : Nat) (idx : W32) (f : Item → Item) : (modItem s q idx f).cores = s.cores := rfl
@[simp] theorem modItem_phys (s : State) (q : Nat) (idx : W32) (f : Item → Item) : (modItem s q idx f).phys = s.phys := rfl
@[simp] theorem modItem_clusters (s : State) (q : Nat) (idx : W32) (f : Item → Item) : (modItem s q idx f).clusters = s.clusters := rfl
@[simp] theorem modItem_reed (s : State) (q : Nat) (idx : W32) (f : Item → Item) : (modItem s q idx f).reed = s.reed := rfl
@[simp] theorem modItem_cle (s : State) (q : Nat) (idx : W32) (f : Item → Item) : (modItem s q idx f).cle = s.cle := rfl
@[simp] theorem modItem_link (s : State) (q : Nat) (idx : W32) (f : Item → Item) : (modItem s q idx f).link = s.link := rfl
@[simp] theorem modItem_casc (s : State) (q : Nat) (idx : W32) (f : Item → Item) : (modItem s q idx f).casc = s.casc := rfl
@[simp] theorem modItem_mem (s : State) (q : Nat) (idx : W32) (f : Item → Item) : (modItem s q idx f).mem = s.mem := rfl
@[simp] theorem modItem_xspi (s : State) (q : Nat) (idx : W32) (f : Item → Item) : (modItem s q idx f).xspi = s.xspi := rfl
@[simp] theorem modItem_tap (s : State) (q : Nat) (idx : W32) (f : Item → Item) : (modItem s q idx f).tap = s.tap := rfl
@[simp] theorem modItem_sent (s : State) (q : Nat) (idx : W32) (f : Item → Item) : (modItem s q idx f).sent = s.sent := rfl
@[simp] theorem modItem_edge (s : State) (q : Nat) (idx : W32) (f : Item → Item) : (modItem s q idx f).edge = s.edge := rfl
@[simp] theorem modItem_free (s : State) (q : Nat) (idx : W32) (f : Item → Item) : (modItem s q idx f).free = s.free := rfl

/-! ### dropItem -/

@[simp] theorem dropItem_pending (s : State) (q : Nat) (idx : W32) : (dropItem s q idx).pending = s.pending := rfl
@[simp] theorem dropItem_cascId (s : State) (q : Nat) (idx : W32) : (dropItem s q idx).cascId = s.cascId := rfl
@[simp] theorem dropItem_rstLow (s : State) (q : Nat) (idx : W32) : (dropItem s q idx).rstLow = s.rstLow := rfl
@[simp] theorem dropItem_powered (s : State) (q : Nat) (idx : W32) : (dropItem s q idx).powered = s.powered := rfl
@[simp] theorem dropItem_fuses (s : State) (q : Nat) (idx : W32) : (dropItem s q idx).fuses = s.fuses := rfl
@[simp] theorem dropItem_newFuses (s : State) (q : Nat) (idx : W32) : (dropItem s q idx).newFuses = s.newFuses := rfl
@[simp] theorem dropItem_caps (s : State) (q : Nat) (idx : W32) : (dropItem s q idx).caps = s.caps := rfl
@[simp] theorem dropItem_epoch (s : State) (q : Nat) (idx : W32) : (dropItem s q idx).epoch = s.epoch := rfl
@[simp] theorem dropItem_capev (s : State) (q : Nat) (idx : W32) : (dropItem s q idx).capev = s.capev := rfl
@[simp] theorem dropItem_uhSel (s : State) (q : Nat) (idx : W32) : (dropItem s q idx).uhSel = s.uhSel := rfl
@[simp] theorem dropItem_uhData (s : State) (q : Nat) (idx : W32) : (dropItem s q idx).uhData = s.uhData := rfl
@[simp] theorem dropItem_history (s : State) (q : Nat) (idx : W32) : (dropItem s q idx).history = s.history := rfl
@[simp] theorem dropItem_breath (s : State) (q : Nat) (idx : W32) : (dropItem s q idx).breath = s.breath := rfl
@[simp] theorem dropItem_queues (s : State) (q : Nat) (idx : W32) : (dropItem s q idx).queues = s.queues := rfl
@[simp] theorem dropItem_items (s : State) (q : Nat) (idx : W32) : (dropItem s q idx).items = s.items.filter (fun i => !isItem q idx i) := rfl
@[simp] theorem dropItem_tasks (s : State) (q : Nat) (idx : W32) : (dropItem s q idx).tasks = s.tasks := rfl
@[simp] theorem dropItem_dispatches (s : State) (q : Nat) (idx : W32) : (dropItem s q idx).dispatches = s.dispatches := rfl
@[simp] theorem dropItem_reissues (s : State) (q : Nat) (idx : W32) : (dropItem s q idx).reissues = s.reissues := rfl
@[simp] theorem dropItem_irq (s : State) (q : Nat) (idx : W32) : (dropItem s q idx).irq = s.irq := rfl
@[simp] theorem dropItem_bell (s : State) (q : Nat) (idx : W32) : (dropItem s q idx).bell = s.bell := rfl
@[simp] theorem dropItem_mute (s : State) (q : Nat) (idx : W32) : (dropItem s q idx).mute = s.mute := rfl
@[simp] theorem dropItem_perf (s : State) (q : Nat) (idx : W32) : (dropItem s q idx).perf = s.perf := rfl
@[simp] theorem dropItem_sens (s : State) (q : Nat) (idx : W32) : (dropItem s q idx).sens = s.sens := rfl
@[simp] theorem dropItem_tr (s : State) (q : Nat) (idx : W32) : (dropItem s q idx).tr = s.tr := rfl
@[simp] theorem dropItem_str (s : State) (q : Nat) (idx : W32) : (dropItem s q idx).str = s.str := rfl
@[simp] theorem dropItem_pg (s : State) (q : Nat) (idx : W32) : (dropItem s q idx).pg = s.pg := rfl
@[simp] theorem dropItem_cores (s : State) (q : Nat) (idx : W32) : (dropItem s q idx).cores = s.cores := rfl
@[simp] theorem dropItem_phys (s : State) (q : Nat) (idx : W32) : (dropItem s q idx).phys = s.phys := rfl
@[simp] theorem dropItem_clusters (s : State) (q : Nat) (idx : W32) : (dropItem s q idx).clusters = s.clusters := rfl
@[simp] theorem dropItem_reed (s : State) (q : Nat) (idx : W32) : (dropItem s q idx).reed = s.reed := rfl
@[simp] theorem dropItem_cle (s : State) (q : Nat) (idx : W32) : (dropItem s q idx).cle = s.cle := rfl
@[simp] theorem dropItem_link (s : State) (q : Nat) (idx : W32) : (dropItem s q idx).link = s.link := rfl
@[simp] theorem dropItem_casc (s : State) (q : Nat) (idx : W32) : (dropItem s q idx).casc = s.casc := rfl
@[simp] theorem dropItem_mem (s : State) (q : Nat) (idx : W32) : (dropItem s q idx).mem = s.mem := rfl
@[simp] theorem dropItem_xspi (s : State) (q : Nat) (idx : W32) : (dropItem s q idx).xspi = s.xspi := rfl
@[simp] theorem dropItem_tap (s : State) (q : Nat) (idx : W32) : (dropItem s q idx).tap = s.tap := rfl
@[simp] theorem dropItem_sent (s : State) (q : Nat) (idx : W32) : (dropItem s q idx).sent = s.sent := rfl
@[simp] theorem dropItem_edge (s : State) (q : Nat) (idx : W32) : (dropItem s q idx).edge = s.edge := rfl
@[simp] theorem dropItem_free (s : State) (q : Nat) (idx : W32) : (dropItem s q idx).free = s.free := rfl

/-! ### modTask -/

@[simp] theorem modTask_pending (s : State) (c t : Nat) (f : Task → Task) : (modTask s c t f).pending = s.pending := rfl
@[simp] theorem modTask_cascId (s : State) (c t : Nat) (f : Task → Task) : (modTask s c t f).cascId = s.cascId := rfl
@[simp] theorem modTask_rstLow (s : State) (c t : Nat) (f : Task → Task) : (modTask s c t f).rstLow = s.rstLow := rfl
@[simp] theorem modTask_powered (s : State) (c t : Nat) (f : Task → Task) : (modTask s c t f).powered = s.powered := rfl
@[simp] theorem modTask_fuses (s : State) (c t : Nat) (f : Task → Task) : (modTask s c t f).fuses = s.fuses := rfl
@[simp] theorem modTask_newFuses (s : State) (c t : Nat) (f : Task → Task) : (modTask s c t f).newFuses = s.newFuses := rfl
@[simp] theorem modTask_caps (s : State) (c t : Nat) (f : Task → Task) : (modTask s c t f).caps = s.caps := rfl
@[simp] theorem modTask_epoch (s : State) (c t : Nat) (f : Task → Task) : (modTask s c t f).epoch = s.epoch := rfl
@[simp] theorem modTask_capev (s : State) (c t : Nat) (f : Task → Task) : (modTask s c t f).capev = s.capev := rfl
@[simp] theorem modTask_uhSel (s : State) (c t : Nat) (f : Task → Task) : (modTask s c t f).uhSel = s.uhSel := rfl
@[simp] theorem modTask_uhData (s : State) (c t : Nat) (f : Task → Task) : (modTask s c t f).uhData = s.uhData := rfl
@[simp] theorem modTask_history (s : State) (c t : Nat) (f : Task → Task) : (modTask s c t f).history = s.history := rfl
@[simp] theorem modTask_breath (s : State) (c t : Nat) (f : Task → Task) : (modTask s c t f).breath = s.breath := rfl
@[simp] theorem modTask_queues (s : State) (c t : Nat) (f : Task → Task) : (modTask s c t f).queues = s.queues := rfl
@[simp] theorem modTask_items (s : State) (c t : Nat) (f : Task → Task) : (modTask s c t f).items = s.items := rfl
@[simp] theorem modTask_tasks (s : State) (c t : Nat) (f : Task → Task) : (modTask s c t f).tasks = s.tasks.map (fun x => if x.core = c && x.thread = t then f x else x) := rfl
@[simp] theorem modTask_dispatches (s : State) (c t : Nat) (f : Task → Task) : (modTask s c t f).dispatches = s.dispatches := rfl
@[simp] theorem modTask_reissues (s : State) (c t : Nat) (f : Task → Task) : (modTask s c t f).reissues = s.reissues := rfl
@[simp] theorem modTask_irq (s : State) (c t : Nat) (f : Task → Task) : (modTask s c t f).irq = s.irq := rfl
@[simp] theorem modTask_bell (s : State) (c t : Nat) (f : Task → Task) : (modTask s c t f).bell = s.bell := rfl
@[simp] theorem modTask_mute (s : State) (c t : Nat) (f : Task → Task) : (modTask s c t f).mute = s.mute := rfl
@[simp] theorem modTask_perf (s : State) (c t : Nat) (f : Task → Task) : (modTask s c t f).perf = s.perf := rfl
@[simp] theorem modTask_sens (s : State) (c t : Nat) (f : Task → Task) : (modTask s c t f).sens = s.sens := rfl
@[simp] theorem modTask_tr (s : State) (c t : Nat) (f : Task → Task) : (modTask s c t f).tr = s.tr := rfl
@[simp] theorem modTask_str (s : State) (c t : Nat) (f : Task → Task) : (modTask s c t f).str = s.str := rfl
@[simp] theorem modTask_pg (s : State) (c t : Nat) (f : Task → Task) : (modTask s c t f).pg = s.pg := rfl
@[simp] theorem modTask_cores (s : State) (c t : Nat) (f : Task → Task) : (modTask s c t f).cores = s.cores := rfl
@[simp] theorem modTask_phys (s : State) (c t : Nat) (f : Task → Task) : (modTask s c t f).phys = s.phys := rfl
@[simp] theorem modTask_clusters (s : State) (c t : Nat) (f : Task → Task) : (modTask s c t f).clusters = s.clusters := rfl
@[simp] theorem modTask_reed (s : State) (c t : Nat) (f : Task → Task) : (modTask s c t f).reed = s.reed := rfl
@[simp] theorem modTask_cle (s : State) (c t : Nat) (f : Task → Task) : (modTask s c t f).cle = s.cle := rfl
@[simp] theorem modTask_link (s : State) (c t : Nat) (f : Task → Task) : (modTask s c t f).link = s.link := rfl
@[simp] theorem modTask_casc (s : State) (c t : Nat) (f : Task → Task) : (modTask s c t f).casc = s.casc := rfl
@[simp] theorem modTask_mem (s : State) (c t : Nat) (f : Task → Task) : (modTask s c t f).mem = s.mem := rfl
@[simp] theorem modTask_xspi (s : State) (c t : Nat) (f : Task → Task) : (modTask s c t f).xspi = s.xspi := rfl
@[simp] theorem modTask_tap (s : State) (c t : Nat) (f : Task → Task) : (modTask s c t f).tap = s.tap := rfl
@[simp] theorem modTask_sent (s : State) (c t : Nat) (f : Task → Task) : (modTask s c t f).sent = s.sent := rfl
@[simp] theorem modTask_edge (s : State) (c t : Nat) (f : Task → Task) : (modTask s c t f).edge = s.edge := rfl
@[simp] theorem modTask_free (s : State) (c t : Nat) (f : Task → Task) : (modTask s c t f).free = s.free := rfl

/-! ### endTask -/

@[simp] theorem endTask_pending (s : State) (c t : Nat) : (endTask s c t).pending = s.pending := rfl
@[simp] theorem endTask_cascId (s : State) (c t : Nat) : (endTask s c t).cascId = s.cascId := rfl
@[simp] theorem endTask_rstLow (s : State) (c t : Nat) : (endTask s c t).rstLow = s.rstLow := rfl
@[simp] theorem endTask_powered (s : State) (c t : Nat) : (endTask s c t).powered = s.powered := rfl
@[simp] theorem endTask_fuses (s : State) (c t : Nat) : (endTask s c t).fuses = s.fuses := rfl
@[simp] theorem endTask_newFuses (s : State) (c t : Nat) : (endTask s c t).newFuses = s.newFuses := rfl
@[simp] theorem endTask_caps (s : State) (c t : Nat) : (endTask s c t).caps = s.caps := rfl
@[simp] theorem endTask_epoch (s : State) (c t : Nat) : (endTask s c t).epoch = s.epoch := rfl
@[simp] theorem endTask_capev (s : State) (c t : Nat) : (endTask s c t).capev = s.capev := rfl
@[simp] theorem endTask_uhSel (s : State) (c t : Nat) : (endTask s c t).uhSel = s.uhSel := rfl
@[simp] theorem endTask_uhData (s : State) (c t : Nat) : (endTask s c t).uhData = s.uhData := rfl
@[simp] theorem endTask_history (s : State) (c t : Nat) : (endTask s c t).history = s.history := rfl
@[simp] theorem endTask_breath (s : State) (c t : Nat) : (endTask s c t).breath = s.breath := rfl
@[simp] theorem endTask_queues (s : State) (c t : Nat) : (endTask s c t).queues = s.queues := rfl
@[simp] theorem endTask_items (s : State) (c t : Nat) : (endTask s c t).items = s.items := rfl
@[simp] theorem endTask_tasks (s : State) (c t : Nat) : (endTask s c t).tasks = s.tasks.filter (fun x => !(x.core = c && x.thread = t)) := rfl
@[simp] theorem endTask_dispatches (s : State) (c t : Nat) : (endTask s c t).dispatches = s.dispatches := rfl
@[simp] theorem endTask_reissues (s : State) (c t : Nat) : (endTask s c t).reissues = s.reissues := rfl
@[simp] theorem endTask_irq (s : State) (c t : Nat) : (endTask s c t).irq = s.irq := rfl
@[simp] theorem endTask_bell (s : State) (c t : Nat) : (endTask s c t).bell = s.bell := rfl
@[simp] theorem endTask_mute (s : State) (c t : Nat) : (endTask s c t).mute = s.mute := rfl
@[simp] theorem endTask_perf (s : State) (c t : Nat) : (endTask s c t).perf = s.perf := rfl
@[simp] theorem endTask_sens (s : State) (c t : Nat) : (endTask s c t).sens = s.sens := rfl
@[simp] theorem endTask_tr (s : State) (c t : Nat) : (endTask s c t).tr = s.tr := rfl
@[simp] theorem endTask_str (s : State) (c t : Nat) : (endTask s c t).str = s.str := rfl
@[simp] theorem endTask_pg (s : State) (c t : Nat) : (endTask s c t).pg = s.pg := rfl
@[simp] theorem endTask_cores (s : State) (c t : Nat) : (endTask s c t).cores = (modCore (cancelSlots s c t [0, 1]) c (fun v => disown v t)).cores := rfl
@[simp] theorem endTask_phys (s : State) (c t : Nat) : (endTask s c t).phys = s.phys := rfl
@[simp] theorem endTask_clusters (s : State) (c t : Nat) : (endTask s c t).clusters = s.clusters := rfl
@[simp] theorem endTask_reed (s : State) (c t : Nat) : (endTask s c t).reed = s.reed := rfl
@[simp] theorem endTask_cle (s : State) (c t : Nat) : (endTask s c t).cle = s.cle := rfl
@[simp] theorem endTask_link (s : State) (c t : Nat) : (endTask s c t).link = s.link := rfl
@[simp] theorem endTask_casc (s : State) (c t : Nat) : (endTask s c t).casc = s.casc := rfl
@[simp] theorem endTask_mem (s : State) (c t : Nat) : (endTask s c t).mem = s.mem := rfl
@[simp] theorem endTask_xspi (s : State) (c t : Nat) : (endTask s c t).xspi = s.xspi := rfl
@[simp] theorem endTask_tap (s : State) (c t : Nat) : (endTask s c t).tap = s.tap := rfl
@[simp] theorem endTask_sent (s : State) (c t : Nat) : (endTask s c t).sent = s.sent := rfl
@[simp] theorem endTask_edge (s : State) (c t : Nat) : (endTask s c t).edge = s.edge := rfl
@[simp] theorem endTask_free (s : State) (c t : Nat) : (endTask s c t).free = s.free := rfl

/-! ### send -/

@[simp] theorem send_pending (s : State) (x : Sent) : (send s x).pending = s.pending := rfl
@[simp] theorem send_cascId (s : State) (x : Sent) : (send s x).cascId = s.cascId := rfl
@[simp] theorem send_rstLow (s : State) (x : Sent) : (send s x).rstLow = s.rstLow := rfl
@[simp] theorem send_powered (s : State) (x : Sent) : (send s x).powered = s.powered := rfl
@[simp] theorem send_fuses (s : State) (x : Sent) : (send s x).fuses = s.fuses := rfl
@[simp] theorem send_newFuses (s : State) (x : Sent) : (send s x).newFuses = s.newFuses := rfl
@[simp] theorem send_caps (s : State) (x : Sent) : (send s x).caps = s.caps := rfl
@[simp] theorem send_epoch (s : State) (x : Sent) : (send s x).epoch = s.epoch := rfl
@[simp] theorem send_capev (s : State) (x : Sent) : (send s x).capev = s.capev := rfl
@[simp] theorem send_uhSel (s : State) (x : Sent) : (send s x).uhSel = s.uhSel := rfl
@[simp] theorem send_uhData (s : State) (x : Sent) : (send s x).uhData = s.uhData := rfl
@[simp] theorem send_history (s : State) (x : Sent) : (send s x).history = s.history := rfl
@[simp] theorem send_breath (s : State) (x : Sent) : (send s x).breath = s.breath := rfl
@[simp] theorem send_queues (s : State) (x : Sent) : (send s x).queues = s.queues := rfl
@[simp] theorem send_items (s : State) (x : Sent) : (send s x).items = s.items := rfl
@[simp] theorem send_tasks (s : State) (x : Sent) : (send s x).tasks = s.tasks := rfl
@[simp] theorem send_dispatches (s : State) (x : Sent) : (send s x).dispatches = s.dispatches := rfl
@[simp] theorem send_reissues (s : State) (x : Sent) : (send s x).reissues = s.reissues := rfl
@[simp] theorem send_irq (s : State) (x : Sent) : (send s x).irq = s.irq := rfl
@[simp] theorem send_bell (s : State) (x : Sent) : (send s x).bell = s.bell := rfl
@[simp] theorem send_mute (s : State) (x : Sent) : (send s x).mute = s.mute := rfl
@[simp] theorem send_perf (s : State) (x : Sent) : (send s x).perf = s.perf := rfl
@[simp] theorem send_sens (s : State) (x : Sent) : (send s x).sens = s.sens := rfl
@[simp] theorem send_tr (s : State) (x : Sent) : (send s x).tr = s.tr := rfl
@[simp] theorem send_str (s : State) (x : Sent) : (send s x).str = s.str := rfl
@[simp] theorem send_pg (s : State) (x : Sent) : (send s x).pg = s.pg := rfl
@[simp] theorem send_cores (s : State) (x : Sent) : (send s x).cores = s.cores := rfl
@[simp] theorem send_phys (s : State) (x : Sent) : (send s x).phys = s.phys := rfl
@[simp] theorem send_clusters (s : State) (x : Sent) : (send s x).clusters = s.clusters := rfl
@[simp] theorem send_reed (s : State) (x : Sent) : (send s x).reed = s.reed := rfl
@[simp] theorem send_cle (s : State) (x : Sent) : (send s x).cle = s.cle := rfl
@[simp] theorem send_link (s : State) (x : Sent) : (send s x).link = s.link := rfl
@[simp] theorem send_casc (s : State) (x : Sent) : (send s x).casc = s.casc := rfl
@[simp] theorem send_mem (s : State) (x : Sent) : (send s x).mem = s.mem := rfl
@[simp] theorem send_xspi (s : State) (x : Sent) : (send s x).xspi = s.xspi := rfl
@[simp] theorem send_tap (s : State) (x : Sent) : (send s x).tap = s.tap := rfl
@[simp] theorem send_sent (s : State) (x : Sent) : (send s x).sent = s.sent ++ [x] := rfl
@[simp] theorem send_edge (s : State) (x : Sent) : (send s x).edge = s.edge := rfl
@[simp] theorem send_free (s : State) (x : Sent) : (send s x).free = s.free := rfl

/-! ### storeMem -/

@[simp] theorem storeMem_pending (s : State) (pa : Nat) (bs : List Byte) : (storeMem s pa bs).pending = s.pending := rfl
@[simp] theorem storeMem_cascId (s : State) (pa : Nat) (bs : List Byte) : (storeMem s pa bs).cascId = s.cascId := rfl
@[simp] theorem storeMem_rstLow (s : State) (pa : Nat) (bs : List Byte) : (storeMem s pa bs).rstLow = s.rstLow := rfl
@[simp] theorem storeMem_powered (s : State) (pa : Nat) (bs : List Byte) : (storeMem s pa bs).powered = s.powered := rfl
@[simp] theorem storeMem_fuses (s : State) (pa : Nat) (bs : List Byte) : (storeMem s pa bs).fuses = s.fuses := rfl
@[simp] theorem storeMem_newFuses (s : State) (pa : Nat) (bs : List Byte) : (storeMem s pa bs).newFuses = s.newFuses := rfl
@[simp] theorem storeMem_caps (s : State) (pa : Nat) (bs : List Byte) : (storeMem s pa bs).caps = s.caps := rfl
@[simp] theorem storeMem_epoch (s : State) (pa : Nat) (bs : List Byte) : (storeMem s pa bs).epoch = s.epoch := rfl
@[simp] theorem storeMem_capev (s : State) (pa : Nat) (bs : List Byte) : (storeMem s pa bs).capev = s.capev := rfl
@[simp] theorem storeMem_uhSel (s : State) (pa : Nat) (bs : List Byte) : (storeMem s pa bs).uhSel = s.uhSel := rfl
@[simp] theorem storeMem_uhData (s : State) (pa : Nat) (bs : List Byte) : (storeMem s pa bs).uhData = s.uhData := rfl
@[simp] theorem storeMem_history (s : State) (pa : Nat) (bs : List Byte) : (storeMem s pa bs).history = s.history := rfl
@[simp] theorem storeMem_breath (s : State) (pa : Nat) (bs : List Byte) : (storeMem s pa bs).breath = s.breath := rfl
@[simp] theorem storeMem_queues (s : State) (pa : Nat) (bs : List Byte) : (storeMem s pa bs).queues = s.queues := rfl
@[simp] theorem storeMem_items (s : State) (pa : Nat) (bs : List Byte) : (storeMem s pa bs).items = s.items := rfl
@[simp] theorem storeMem_tasks (s : State) (pa : Nat) (bs : List Byte) : (storeMem s pa bs).tasks = s.tasks := rfl
@[simp] theorem storeMem_dispatches (s : State) (pa : Nat) (bs : List Byte) : (storeMem s pa bs).dispatches = s.dispatches := rfl
@[simp] theorem storeMem_reissues (s : State) (pa : Nat) (bs : List Byte) : (storeMem s pa bs).reissues = s.reissues := rfl
@[simp] theorem storeMem_irq (s : State) (pa : Nat) (bs : List Byte) : (storeMem s pa bs).irq = s.irq := rfl
@[simp] theorem storeMem_bell (s : State) (pa : Nat) (bs : List Byte) : (storeMem s pa bs).bell = s.bell := rfl
@[simp] theorem storeMem_mute (s : State) (pa : Nat) (bs : List Byte) : (storeMem s pa bs).mute = s.mute := rfl
@[simp] theorem storeMem_perf (s : State) (pa : Nat) (bs : List Byte) : (storeMem s pa bs).perf = s.perf := rfl
@[simp] theorem storeMem_sens (s : State) (pa : Nat) (bs : List Byte) : (storeMem s pa bs).sens = s.sens := rfl
@[simp] theorem storeMem_tr (s : State) (pa : Nat) (bs : List Byte) : (storeMem s pa bs).tr = s.tr := rfl
@[simp] theorem storeMem_str (s : State) (pa : Nat) (bs : List Byte) : (storeMem s pa bs).str = s.str := rfl
@[simp] theorem storeMem_pg (s : State) (pa : Nat) (bs : List Byte) : (storeMem s pa bs).pg = s.pg := rfl
@[simp] theorem storeMem_cores (s : State) (pa : Nat) (bs : List Byte) : (storeMem s pa bs).cores = s.cores := rfl
@[simp] theorem storeMem_phys (s : State) (pa : Nat) (bs : List Byte) : (storeMem s pa bs).phys = s.phys := rfl
@[simp] theorem storeMem_clusters (s : State) (pa : Nat) (bs : List Byte) : (storeMem s pa bs).clusters = s.clusters := rfl
@[simp] theorem storeMem_reed (s : State) (pa : Nat) (bs : List Byte) : (storeMem s pa bs).reed = s.reed := rfl
@[simp] theorem storeMem_cle (s : State) (pa : Nat) (bs : List Byte) : (storeMem s pa bs).cle = s.cle := rfl
@[simp] theorem storeMem_link (s : State) (pa : Nat) (bs : List Byte) : (storeMem s pa bs).link = s.link := rfl
@[simp] theorem storeMem_casc (s : State) (pa : Nat) (bs : List Byte) : (storeMem s pa bs).casc = s.casc := rfl
@[simp] theorem storeMem_mem (s : State) (pa : Nat) (bs : List Byte) : (storeMem s pa bs).mem = { s.mem with bytes := writeBytes s.mem.bytes pa bs } := rfl
@[simp] theorem storeMem_xspi (s : State) (pa : Nat) (bs : List Byte) : (storeMem s pa bs).xspi = s.xspi := rfl
@[simp] theorem storeMem_tap (s : State) (pa : Nat) (bs : List Byte) : (storeMem s pa bs).tap = s.tap := rfl
@[simp] theorem storeMem_sent (s : State) (pa : Nat) (bs : List Byte) : (storeMem s pa bs).sent = s.sent := rfl
@[simp] theorem storeMem_edge (s : State) (pa : Nat) (bs : List Byte) : (storeMem s pa bs).edge = s.edge := rfl
@[simp] theorem storeMem_free (s : State) (pa : Nat) (bs : List Byte) : (storeMem s pa bs).free = s.free := rfl

/-! ### issueReq -/

@[simp] theorem issueReq_pending (s : State) (r : Req) : (issueReq s r).pending = s.pending := rfl
@[simp] theorem issueReq_cascId (s : State) (r : Req) : (issueReq s r).cascId = s.cascId := rfl
@[simp] theorem issueReq_rstLow (s : State) (r : Req) : (issueReq s r).rstLow = s.rstLow := rfl
@[simp] theorem issueReq_powered (s : State) (r : Req) : (issueReq s r).powered = s.powered := rfl
@[simp] theorem issueReq_fuses (s : State) (r : Req) : (issueReq s r).fuses = s.fuses := rfl
@[simp] theorem issueReq_newFuses (s : State) (r : Req) : (issueReq s r).newFuses = s.newFuses := rfl
@[simp] theorem issueReq_caps (s : State) (r : Req) : (issueReq s r).caps = s.caps := rfl
@[simp] theorem issueReq_epoch (s : State) (r : Req) : (issueReq s r).epoch = s.epoch := rfl
@[simp] theorem issueReq_capev (s : State) (r : Req) : (issueReq s r).capev = s.capev := rfl
@[simp] theorem issueReq_uhSel (s : State) (r : Req) : (issueReq s r).uhSel = s.uhSel := rfl
@[simp] theorem issueReq_uhData (s : State) (r : Req) : (issueReq s r).uhData = s.uhData := rfl
@[simp] theorem issueReq_history (s : State) (r : Req) : (issueReq s r).history = s.history := rfl
@[simp] theorem issueReq_breath (s : State) (r : Req) : (issueReq s r).breath = s.breath := rfl
@[simp] theorem issueReq_queues (s : State) (r : Req) : (issueReq s r).queues = s.queues := rfl
@[simp] theorem issueReq_items (s : State) (r : Req) : (issueReq s r).items = s.items := rfl
@[simp] theorem issueReq_tasks (s : State) (r : Req) : (issueReq s r).tasks = s.tasks := rfl
@[simp] theorem issueReq_dispatches (s : State) (r : Req) : (issueReq s r).dispatches = s.dispatches := rfl
@[simp] theorem issueReq_reissues (s : State) (r : Req) : (issueReq s r).reissues = s.reissues := rfl
@[simp] theorem issueReq_irq (s : State) (r : Req) : (issueReq s r).irq = s.irq := rfl
@[simp] theorem issueReq_bell (s : State) (r : Req) : (issueReq s r).bell = s.bell := rfl
@[simp] theorem issueReq_mute (s : State) (r : Req) : (issueReq s r).mute = s.mute := rfl
@[simp] theorem issueReq_perf (s : State) (r : Req) : (issueReq s r).perf = s.perf := rfl
@[simp] theorem issueReq_sens (s : State) (r : Req) : (issueReq s r).sens = s.sens := rfl
@[simp] theorem issueReq_tr (s : State) (r : Req) : (issueReq s r).tr = s.tr := rfl
@[simp] theorem issueReq_str (s : State) (r : Req) : (issueReq s r).str = s.str := rfl
@[simp] theorem issueReq_pg (s : State) (r : Req) : (issueReq s r).pg = s.pg := rfl
@[simp] theorem issueReq_cores (s : State) (r : Req) : (issueReq s r).cores = s.cores := rfl
@[simp] theorem issueReq_phys (s : State) (r : Req) : (issueReq s r).phys = s.phys := rfl
@[simp] theorem issueReq_clusters (s : State) (r : Req) : (issueReq s r).clusters = s.clusters := rfl
@[simp] theorem issueReq_reed (s : State) (r : Req) : (issueReq s r).reed = s.reed := rfl
@[simp] theorem issueReq_cle (s : State) (r : Req) : (issueReq s r).cle = s.cle := rfl
@[simp] theorem issueReq_link (s : State) (r : Req) : (issueReq s r).link = s.link := rfl
@[simp] theorem issueReq_casc (s : State) (r : Req) : (issueReq s r).casc = s.casc := rfl
@[simp] theorem issueReq_mem (s : State) (r : Req) : (issueReq s r).mem = { s.mem with reqs := s.mem.reqs ++ [{ r with tag := freeTag s r }] } := rfl
@[simp] theorem issueReq_xspi (s : State) (r : Req) : (issueReq s r).xspi = s.xspi := rfl
@[simp] theorem issueReq_tap (s : State) (r : Req) : (issueReq s r).tap = s.tap := rfl
@[simp] theorem issueReq_sent (s : State) (r : Req) : (issueReq s r).sent = s.sent := rfl
@[simp] theorem issueReq_edge (s : State) (r : Req) : (issueReq s r).edge = s.edge := rfl
@[simp] theorem issueReq_free (s : State) (r : Req) : (issueReq s r).free = s.free := rfl

/-! ### pendG -/

@[simp] theorem pendG_pending (s : State) (b : Nat) : (pendG s b).pending = s.pending := rfl
@[simp] theorem pendG_cascId (s : State) (b : Nat) : (pendG s b).cascId = s.cascId := rfl
@[simp] theorem pendG_rstLow (s : State) (b : Nat) : (pendG s b).rstLow = s.rstLow := rfl
@[simp] theorem pendG_powered (s : State) (b : Nat) : (pendG s b).powered = s.powered := rfl
@[simp] theorem pendG_fuses (s : State) (b : Nat) : (pendG s b).fuses = s.fuses := rfl
@[simp] theorem pendG_newFuses (s : State) (b : Nat) : (pendG s b).newFuses = s.newFuses := rfl
@[simp] theorem pendG_caps (s : State) (b : Nat) : (pendG s b).caps = s.caps := rfl
@[simp] theorem pendG_epoch (s : State) (b : Nat) : (pendG s b).epoch = s.epoch := rfl
@[simp] theorem pendG_capev (s : State) (b : Nat) : (pendG s b).capev = s.capev := rfl
@[simp] theorem pendG_uhSel (s : State) (b : Nat) : (pendG s b).uhSel = s.uhSel := rfl
@[simp] theorem pendG_uhData (s : State) (b : Nat) : (pendG s b).uhData = s.uhData := rfl
@[simp] theorem pendG_history (s : State) (b : Nat) : (pendG s b).history = s.history := rfl
@[simp] theorem pendG_breath (s : State) (b : Nat) : (pendG s b).breath = s.breath := rfl
@[simp] theorem pendG_queues (s : State) (b : Nat) : (pendG s b).queues = s.queues := rfl
@[simp] theorem pendG_items (s : State) (b : Nat) : (pendG s b).items = s.items := rfl
@[simp] theorem pendG_tasks (s : State) (b : Nat) : (pendG s b).tasks = s.tasks := rfl
@[simp] theorem pendG_dispatches (s : State) (b : Nat) : (pendG s b).dispatches = s.dispatches := rfl
@[simp] theorem pendG_reissues (s : State) (b : Nat) : (pendG s b).reissues = s.reissues := rfl
@[simp] theorem pendG_bell (s : State) (b : Nat) : (pendG s b).bell = s.bell := rfl
@[simp] theorem pendG_mute (s : State) (b : Nat) : (pendG s b).mute = s.mute := rfl
@[simp] theorem pendG_perf (s : State) (b : Nat) : (pendG s b).perf = s.perf := rfl
@[simp] theorem pendG_sens (s : State) (b : Nat) : (pendG s b).sens = s.sens := rfl
@[simp] theorem pendG_tr (s : State) (b : Nat) : (pendG s b).tr = s.tr := rfl
@[simp] theorem pendG_str (s : State) (b : Nat) : (pendG s b).str = s.str := rfl
@[simp] theorem pendG_pg (s : State) (b : Nat) : (pendG s b).pg = s.pg := rfl
@[simp] theorem pendG_cores (s : State) (b : Nat) : (pendG s b).cores = s.cores := rfl
@[simp] theorem pendG_phys (s : State) (b : Nat) : (pendG s b).phys = s.phys := rfl
@[simp] theorem pendG_clusters (s : State) (b : Nat) : (pendG s b).clusters = s.clusters := rfl
@[simp] theorem pendG_reed (s : State) (b : Nat) : (pendG s b).reed = s.reed := rfl
@[simp] theorem pendG_cle (s : State) (b : Nat) : (pendG s b).cle = s.cle := rfl
@[simp] theorem pendG_link (s : State) (b : Nat) : (pendG s b).link = s.link := rfl
@[simp] theorem pendG_casc (s : State) (b : Nat) : (pendG s b).casc = s.casc := rfl
@[simp] theorem pendG_mem (s : State) (b : Nat) : (pendG s b).mem = s.mem := rfl
@[simp] theorem pendG_xspi (s : State) (b : Nat) : (pendG s b).xspi = s.xspi := rfl
@[simp] theorem pendG_tap (s : State) (b : Nat) : (pendG s b).tap = s.tap := rfl
@[simp] theorem pendG_sent (s : State) (b : Nat) : (pendG s b).sent = s.sent := rfl
@[simp] theorem pendG_edge (s : State) (b : Nat) : (pendG s b).edge = s.edge := rfl
@[simp] theorem pendG_free (s : State) (b : Nat) : (pendG s b).free = s.free := rfl

/-! ### pendQ -/

@[simp] theorem pendQ_pending (s : State) (q : Nat) : (pendQ s q).pending = s.pending := rfl
@[simp] theorem pendQ_cascId (s : State) (q : Nat) : (pendQ s q).cascId = s.cascId := rfl
@[simp] theorem pendQ_rstLow (s : State) (q : Nat) : (pendQ s q).rstLow = s.rstLow := rfl
@[simp] theorem pendQ_powered (s : State) (q : Nat) : (pendQ s q).powered = s.powered := rfl
@[simp] theorem pendQ_fuses (s : State) (q : Nat) : (pendQ s q).fuses = s.fuses := rfl
@[simp] theorem pendQ_newFuses (s : State) (q : Nat) : (pendQ s q).newFuses = s.newFuses := rfl
@[simp] theorem pendQ_caps (s : State) (q : Nat) : (pendQ s q).caps = s.caps := rfl
@[simp] theorem pendQ_epoch (s : State) (q : Nat) : (pendQ s q).epoch = s.epoch := rfl
@[simp] theorem pendQ_capev (s : State) (q : Nat) : (pendQ s q).capev = s.capev := rfl
@[simp] theorem pendQ_uhSel (s : State) (q : Nat) : (pendQ s q).uhSel = s.uhSel := rfl
@[simp] theorem pendQ_uhData (s : State) (q : Nat) : (pendQ s q).uhData = s.uhData := rfl
@[simp] theorem pendQ_history (s : State) (q : Nat) : (pendQ s q).history = s.history := rfl
@[simp] theorem pendQ_breath (s : State) (q : Nat) : (pendQ s q).breath = s.breath := rfl
@[simp] theorem pendQ_queues (s : State) (q : Nat) : (pendQ s q).queues = s.queues := rfl
@[simp] theorem pendQ_items (s : State) (q : Nat) : (pendQ s q).items = s.items := rfl
@[simp] theorem pendQ_tasks (s : State) (q : Nat) : (pendQ s q).tasks = s.tasks := rfl
@[simp] theorem pendQ_dispatches (s : State) (q : Nat) : (pendQ s q).dispatches = s.dispatches := rfl
@[simp] theorem pendQ_reissues (s : State) (q : Nat) : (pendQ s q).reissues = s.reissues := rfl
@[simp] theorem pendQ_bell (s : State) (q : Nat) : (pendQ s q).bell = s.bell := rfl
@[simp] theorem pendQ_mute (s : State) (q : Nat) : (pendQ s q).mute = s.mute := rfl
@[simp] theorem pendQ_perf (s : State) (q : Nat) : (pendQ s q).perf = s.perf := rfl
@[simp] theorem pendQ_sens (s : State) (q : Nat) : (pendQ s q).sens = s.sens := rfl
@[simp] theorem pendQ_tr (s : State) (q : Nat) : (pendQ s q).tr = s.tr := rfl
@[simp] theorem pendQ_str (s : State) (q : Nat) : (pendQ s q).str = s.str := rfl
@[simp] theorem pendQ_pg (s : State) (q : Nat) : (pendQ s q).pg = s.pg := rfl
@[simp] theorem pendQ_cores (s : State) (q : Nat) : (pendQ s q).cores = s.cores := rfl
@[simp] theorem pendQ_phys (s : State) (q : Nat) : (pendQ s q).phys = s.phys := rfl
@[simp] theorem pendQ_clusters (s : State) (q : Nat) : (pendQ s q).clusters = s.clusters := rfl
@[simp] theorem pendQ_reed (s : State) (q : Nat) : (pendQ s q).reed = s.reed := rfl
@[simp] theorem pendQ_cle (s : State) (q : Nat) : (pendQ s q).cle = s.cle := rfl
@[simp] theorem pendQ_link (s : State) (q : Nat) : (pendQ s q).link = s.link := rfl
@[simp] theorem pendQ_casc (s : State) (q : Nat) : (pendQ s q).casc = s.casc := rfl
@[simp] theorem pendQ_mem (s : State) (q : Nat) : (pendQ s q).mem = s.mem := rfl
@[simp] theorem pendQ_xspi (s : State) (q : Nat) : (pendQ s q).xspi = s.xspi := rfl
@[simp] theorem pendQ_tap (s : State) (q : Nat) : (pendQ s q).tap = s.tap := rfl
@[simp] theorem pendQ_sent (s : State) (q : Nat) : (pendQ s q).sent = s.sent := rfl
@[simp] theorem pendQ_edge (s : State) (q : Nat) : (pendQ s q).edge = s.edge := rfl
@[simp] theorem pendQ_free (s : State) (q : Nat) : (pendQ s q).free = s.free := rfl

/-! ### modLink -/

@[simp] theorem modLink_pending (s : State) (f : Link → Link) : (modLink s f).pending = s.pending := rfl
@[simp] theorem modLink_cascId (s : State) (f : Link → Link) : (modLink s f).cascId = s.cascId := rfl
@[simp] theorem modLink_rstLow (s : State) (f : Link → Link) : (modLink s f).rstLow = s.rstLow := rfl
@[simp] theorem modLink_powered (s : State) (f : Link → Link) : (modLink s f).powered = s.powered := rfl
@[simp] theorem modLink_fuses (s : State) (f : Link → Link) : (modLink s f).fuses = s.fuses := rfl
@[simp] theorem modLink_newFuses (s : State) (f : Link → Link) : (modLink s f).newFuses = s.newFuses := rfl
@[simp] theorem modLink_caps (s : State) (f : Link → Link) : (modLink s f).caps = s.caps := rfl
@[simp] theorem modLink_epoch (s : State) (f : Link → Link) : (modLink s f).epoch = s.epoch := rfl
@[simp] theorem modLink_capev (s : State) (f : Link → Link) : (modLink s f).capev = s.capev := rfl
@[simp] theorem modLink_uhSel (s : State) (f : Link → Link) : (modLink s f).uhSel = s.uhSel := rfl
@[simp] theorem modLink_uhData (s : State) (f : Link → Link) : (modLink s f).uhData = s.uhData := rfl
@[simp] theorem modLink_history (s : State) (f : Link → Link) : (modLink s f).history = s.history := rfl
@[simp] theorem modLink_breath (s : State) (f : Link → Link) : (modLink s f).breath = s.breath := rfl
@[simp] theorem modLink_queues (s : State) (f : Link → Link) : (modLink s f).queues = s.queues := rfl
@[simp] theorem modLink_items (s : State) (f : Link → Link) : (modLink s f).items = s.items := rfl
@[simp] theorem modLink_tasks (s : State) (f : Link → Link) : (modLink s f).tasks = s.tasks := rfl
@[simp] theorem modLink_dispatches (s : State) (f : Link → Link) : (modLink s f).dispatches = s.dispatches := rfl
@[simp] theorem modLink_reissues (s : State) (f : Link → Link) : (modLink s f).reissues = s.reissues := rfl
@[simp] theorem modLink_irq (s : State) (f : Link → Link) : (modLink s f).irq = s.irq := rfl
@[simp] theorem modLink_bell (s : State) (f : Link → Link) : (modLink s f).bell = s.bell := rfl
@[simp] theorem modLink_mute (s : State) (f : Link → Link) : (modLink s f).mute = s.mute := rfl
@[simp] theorem modLink_perf (s : State) (f : Link → Link) : (modLink s f).perf = s.perf := rfl
@[simp] theorem modLink_sens (s : State) (f : Link → Link) : (modLink s f).sens = s.sens := rfl
@[simp] theorem modLink_tr (s : State) (f : Link → Link) : (modLink s f).tr = s.tr := rfl
@[simp] theorem modLink_str (s : State) (f : Link → Link) : (modLink s f).str = s.str := rfl
@[simp] theorem modLink_pg (s : State) (f : Link → Link) : (modLink s f).pg = s.pg := rfl
@[simp] theorem modLink_cores (s : State) (f : Link → Link) : (modLink s f).cores = s.cores := rfl
@[simp] theorem modLink_phys (s : State) (f : Link → Link) : (modLink s f).phys = s.phys := rfl
@[simp] theorem modLink_clusters (s : State) (f : Link → Link) : (modLink s f).clusters = s.clusters := rfl
@[simp] theorem modLink_reed (s : State) (f : Link → Link) : (modLink s f).reed = s.reed := rfl
@[simp] theorem modLink_cle (s : State) (f : Link → Link) : (modLink s f).cle = s.cle := rfl
@[simp] theorem modLink_link (s : State) (f : Link → Link) : (modLink s f).link = f s.link := rfl
@[simp] theorem modLink_casc (s : State) (f : Link → Link) : (modLink s f).casc = s.casc := rfl
@[simp] theorem modLink_mem (s : State) (f : Link → Link) : (modLink s f).mem = s.mem := rfl
@[simp] theorem modLink_xspi (s : State) (f : Link → Link) : (modLink s f).xspi = s.xspi := rfl
@[simp] theorem modLink_tap (s : State) (f : Link → Link) : (modLink s f).tap = s.tap := rfl
@[simp] theorem modLink_sent (s : State) (f : Link → Link) : (modLink s f).sent = s.sent := rfl
@[simp] theorem modLink_edge (s : State) (f : Link → Link) : (modLink s f).edge = s.edge := rfl
@[simp] theorem modLink_free (s : State) (f : Link → Link) : (modLink s f).free = s.free := rfl

/-! ### countStray -/

@[simp] theorem countStray_pending (s : State) : (countStray s).pending = s.pending := rfl
@[simp] theorem countStray_cascId (s : State) : (countStray s).cascId = s.cascId := rfl
@[simp] theorem countStray_rstLow (s : State) : (countStray s).rstLow = s.rstLow := rfl
@[simp] theorem countStray_powered (s : State) : (countStray s).powered = s.powered := rfl
@[simp] theorem countStray_fuses (s : State) : (countStray s).fuses = s.fuses := rfl
@[simp] theorem countStray_newFuses (s : State) : (countStray s).newFuses = s.newFuses := rfl
@[simp] theorem countStray_caps (s : State) : (countStray s).caps = s.caps := rfl
@[simp] theorem countStray_epoch (s : State) : (countStray s).epoch = s.epoch := rfl
@[simp] theorem countStray_capev (s : State) : (countStray s).capev = s.capev := rfl
@[simp] theorem countStray_uhSel (s : State) : (countStray s).uhSel = s.uhSel := rfl
@[simp] theorem countStray_uhData (s : State) : (countStray s).uhData = s.uhData := rfl
@[simp] theorem countStray_history (s : State) : (countStray s).history = s.history := rfl
@[simp] theorem countStray_queues (s : State) : (countStray s).queues = s.queues := rfl
@[simp] theorem countStray_items (s : State) : (countStray s).items = s.items := rfl
@[simp] theorem countStray_tasks (s : State) : (countStray s).tasks = s.tasks := rfl
@[simp] theorem countStray_dispatches (s : State) : (countStray s).dispatches = s.dispatches := rfl
@[simp] theorem countStray_reissues (s : State) : (countStray s).reissues = s.reissues := rfl
@[simp] theorem countStray_irq (s : State) : (countStray s).irq = s.irq := rfl
@[simp] theorem countStray_bell (s : State) : (countStray s).bell = s.bell := rfl
@[simp] theorem countStray_mute (s : State) : (countStray s).mute = s.mute := rfl
@[simp] theorem countStray_perf (s : State) : (countStray s).perf = s.perf := rfl
@[simp] theorem countStray_sens (s : State) : (countStray s).sens = s.sens := rfl
@[simp] theorem countStray_tr (s : State) : (countStray s).tr = s.tr := rfl
@[simp] theorem countStray_str (s : State) : (countStray s).str = s.str := rfl
@[simp] theorem countStray_pg (s : State) : (countStray s).pg = s.pg := rfl
@[simp] theorem countStray_cores (s : State) : (countStray s).cores = s.cores := rfl
@[simp] theorem countStray_phys (s : State) : (countStray s).phys = s.phys := rfl
@[simp] theorem countStray_clusters (s : State) : (countStray s).clusters = s.clusters := rfl
@[simp] theorem countStray_reed (s : State) : (countStray s).reed = s.reed := rfl
@[simp] theorem countStray_cle (s : State) : (countStray s).cle = s.cle := rfl
@[simp] theorem countStray_link (s : State) : (countStray s).link = s.link := rfl
@[simp] theorem countStray_casc (s : State) : (countStray s).casc = s.casc := rfl
@[simp] theorem countStray_mem (s : State) : (countStray s).mem = s.mem := rfl
@[simp] theorem countStray_xspi (s : State) : (countStray s).xspi = s.xspi := rfl
@[simp] theorem countStray_tap (s : State) : (countStray s).tap = s.tap := rfl
@[simp] theorem countStray_sent (s : State) : (countStray s).sent = s.sent := rfl
@[simp] theorem countStray_edge (s : State) : (countStray s).edge = s.edge := rfl
@[simp] theorem countStray_free (s : State) : (countStray s).free = s.free := rfl

/-! ### countVerified -/

@[simp] theorem countVerified_pending (s : State) (n : Nat) : (countVerified s n).pending = s.pending := rfl
@[simp] theorem countVerified_cascId (s : State) (n : Nat) : (countVerified s n).cascId = s.cascId := rfl
@[simp] theorem countVerified_rstLow (s : State) (n : Nat) : (countVerified s n).rstLow = s.rstLow := rfl
@[simp] theorem countVerified_powered (s : State) (n : Nat) : (countVerified s n).powered = s.powered := rfl
@[simp] theorem countVerified_fuses (s : State) (n : Nat) : (countVerified s n).fuses = s.fuses := rfl
@[simp] theorem countVerified_newFuses (s : State) (n : Nat) : (countVerified s n).newFuses = s.newFuses := rfl
@[simp] theorem countVerified_caps (s : State) (n : Nat) : (countVerified s n).caps = s.caps := rfl
@[simp] theorem countVerified_epoch (s : State) (n : Nat) : (countVerified s n).epoch = s.epoch := rfl
@[simp] theorem countVerified_capev (s : State) (n : Nat) : (countVerified s n).capev = s.capev := rfl
@[simp] theorem countVerified_uhSel (s : State) (n : Nat) : (countVerified s n).uhSel = s.uhSel := rfl
@[simp] theorem countVerified_uhData (s : State) (n : Nat) : (countVerified s n).uhData = s.uhData := rfl
@[simp] theorem countVerified_history (s : State) (n : Nat) : (countVerified s n).history = s.history := rfl
@[simp] theorem countVerified_breath (s : State) (n : Nat) : (countVerified s n).breath = s.breath := rfl
@[simp] theorem countVerified_queues (s : State) (n : Nat) : (countVerified s n).queues = s.queues := rfl
@[simp] theorem countVerified_items (s : State) (n : Nat) : (countVerified s n).items = s.items := rfl
@[simp] theorem countVerified_tasks (s : State) (n : Nat) : (countVerified s n).tasks = s.tasks := rfl
@[simp] theorem countVerified_dispatches (s : State) (n : Nat) : (countVerified s n).dispatches = s.dispatches := rfl
@[simp] theorem countVerified_reissues (s : State) (n : Nat) : (countVerified s n).reissues = s.reissues := rfl
@[simp] theorem countVerified_irq (s : State) (n : Nat) : (countVerified s n).irq = s.irq := rfl
@[simp] theorem countVerified_bell (s : State) (n : Nat) : (countVerified s n).bell = s.bell := rfl
@[simp] theorem countVerified_mute (s : State) (n : Nat) : (countVerified s n).mute = s.mute := rfl
@[simp] theorem countVerified_perf (s : State) (n : Nat) : (countVerified s n).perf = s.perf := rfl
@[simp] theorem countVerified_sens (s : State) (n : Nat) : (countVerified s n).sens = s.sens := rfl
@[simp] theorem countVerified_tr (s : State) (n : Nat) : (countVerified s n).tr = s.tr := rfl
@[simp] theorem countVerified_pg (s : State) (n : Nat) : (countVerified s n).pg = s.pg := rfl
@[simp] theorem countVerified_cores (s : State) (n : Nat) : (countVerified s n).cores = s.cores := rfl
@[simp] theorem countVerified_phys (s : State) (n : Nat) : (countVerified s n).phys = s.phys := rfl
@[simp] theorem countVerified_clusters (s : State) (n : Nat) : (countVerified s n).clusters = s.clusters := rfl
@[simp] theorem countVerified_reed (s : State) (n : Nat) : (countVerified s n).reed = s.reed := rfl
@[simp] theorem countVerified_cle (s : State) (n : Nat) : (countVerified s n).cle = s.cle := rfl
@[simp] theorem countVerified_link (s : State) (n : Nat) : (countVerified s n).link = s.link := rfl
@[simp] theorem countVerified_casc (s : State) (n : Nat) : (countVerified s n).casc = s.casc := rfl
@[simp] theorem countVerified_mem (s : State) (n : Nat) : (countVerified s n).mem = s.mem := rfl
@[simp] theorem countVerified_xspi (s : State) (n : Nat) : (countVerified s n).xspi = s.xspi := rfl
@[simp] theorem countVerified_tap (s : State) (n : Nat) : (countVerified s n).tap = s.tap := rfl
@[simp] theorem countVerified_sent (s : State) (n : Nat) : (countVerified s n).sent = s.sent := rfl
@[simp] theorem countVerified_edge (s : State) (n : Nat) : (countVerified s n).edge = s.edge := rfl
@[simp] theorem countVerified_free (s : State) (n : Nat) : (countVerified s n).free = s.free := rfl

/-! ### keepOuter and drawFree -/

@[simp] theorem keepOuter_pending (s t : State) : (keepOuter s t).pending = s.pending := rfl
@[simp] theorem keepOuter_cascId (s t : State) : (keepOuter s t).cascId = s.cascId := rfl
@[simp] theorem keepOuter_rstLow (s t : State) : (keepOuter s t).rstLow = s.rstLow := rfl
@[simp] theorem keepOuter_powered (s t : State) : (keepOuter s t).powered = s.powered := rfl
@[simp] theorem keepOuter_fuses (s t : State) : (keepOuter s t).fuses = s.fuses := rfl
@[simp] theorem keepOuter_newFuses (s t : State) : (keepOuter s t).newFuses = s.newFuses := rfl
@[simp] theorem keepOuter_caps (s t : State) : (keepOuter s t).caps = t.caps := rfl
@[simp] theorem keepOuter_epoch (s t : State) : (keepOuter s t).epoch = t.epoch := rfl
@[simp] theorem keepOuter_capev (s t : State) : (keepOuter s t).capev = t.capev := rfl
@[simp] theorem keepOuter_uhSel (s t : State) : (keepOuter s t).uhSel = t.uhSel := rfl
@[simp] theorem keepOuter_uhData (s t : State) : (keepOuter s t).uhData = t.uhData := rfl
@[simp] theorem keepOuter_history (s t : State) : (keepOuter s t).history = t.history := rfl
@[simp] theorem keepOuter_breath (s t : State) : (keepOuter s t).breath = t.breath := rfl
@[simp] theorem keepOuter_queues (s t : State) : (keepOuter s t).queues = t.queues := rfl
@[simp] theorem keepOuter_items (s t : State) : (keepOuter s t).items = t.items := rfl
@[simp] theorem keepOuter_tasks (s t : State) : (keepOuter s t).tasks = t.tasks := rfl
@[simp] theorem keepOuter_dispatches (s t : State) : (keepOuter s t).dispatches = t.dispatches := rfl
@[simp] theorem keepOuter_reissues (s t : State) : (keepOuter s t).reissues = t.reissues := rfl
@[simp] theorem keepOuter_irq (s t : State) : (keepOuter s t).irq = t.irq := rfl
@[simp] theorem keepOuter_bell (s t : State) : (keepOuter s t).bell = t.bell := rfl
@[simp] theorem keepOuter_mute (s t : State) : (keepOuter s t).mute = t.mute := rfl
@[simp] theorem keepOuter_perf (s t : State) : (keepOuter s t).perf = t.perf := rfl
@[simp] theorem keepOuter_sens (s t : State) : (keepOuter s t).sens = t.sens := rfl
@[simp] theorem keepOuter_tr (s t : State) : (keepOuter s t).tr = t.tr := rfl
@[simp] theorem keepOuter_str (s t : State) : (keepOuter s t).str = t.str := rfl
@[simp] theorem keepOuter_pg (s t : State) : (keepOuter s t).pg = t.pg := rfl
@[simp] theorem keepOuter_cores (s t : State) : (keepOuter s t).cores = t.cores := rfl
@[simp] theorem keepOuter_phys (s t : State) : (keepOuter s t).phys = t.phys := rfl
@[simp] theorem keepOuter_clusters (s t : State) : (keepOuter s t).clusters = t.clusters := rfl
@[simp] theorem keepOuter_reed (s t : State) : (keepOuter s t).reed = t.reed := rfl
@[simp] theorem keepOuter_cle (s t : State) : (keepOuter s t).cle = t.cle := rfl
@[simp] theorem keepOuter_link (s t : State) : (keepOuter s t).link = t.link := rfl
@[simp] theorem keepOuter_casc (s t : State) : (keepOuter s t).casc = t.casc := rfl
@[simp] theorem keepOuter_mem (s t : State) : (keepOuter s t).mem = t.mem := rfl
@[simp] theorem keepOuter_xspi (s t : State) : (keepOuter s t).xspi = t.xspi := rfl
@[simp] theorem keepOuter_tap (s t : State) : (keepOuter s t).tap = s.tap := rfl
@[simp] theorem keepOuter_sent (s t : State) : (keepOuter s t).sent = t.sent := rfl
@[simp] theorem keepOuter_edge (s t : State) : (keepOuter s t).edge = t.edge := rfl
@[simp] theorem keepOuter_free (s t : State) : (keepOuter s t).free = t.free := rfl

@[simp] theorem drawFree_pending (s : State) : (drawFree s).2.pending = s.pending := rfl
@[simp] theorem drawFree_cascId (s : State) : (drawFree s).2.cascId = s.cascId := rfl
@[simp] theorem drawFree_rstLow (s : State) : (drawFree s).2.rstLow = s.rstLow := rfl
@[simp] theorem drawFree_powered (s : State) : (drawFree s).2.powered = s.powered := rfl
@[simp] theorem drawFree_fuses (s : State) : (drawFree s).2.fuses = s.fuses := rfl
@[simp] theorem drawFree_newFuses (s : State) : (drawFree s).2.newFuses = s.newFuses := rfl
@[simp] theorem drawFree_caps (s : State) : (drawFree s).2.caps = s.caps := rfl
@[simp] theorem drawFree_epoch (s : State) : (drawFree s).2.epoch = s.epoch := rfl
@[simp] theorem drawFree_capev (s : State) : (drawFree s).2.capev = s.capev := rfl
@[simp] theorem drawFree_uhSel (s : State) : (drawFree s).2.uhSel = s.uhSel := rfl
@[simp] theorem drawFree_uhData (s : State) : (drawFree s).2.uhData = s.uhData := rfl
@[simp] theorem drawFree_history (s : State) : (drawFree s).2.history = s.history := rfl
@[simp] theorem drawFree_breath (s : State) : (drawFree s).2.breath = s.breath := rfl
@[simp] theorem drawFree_queues (s : State) : (drawFree s).2.queues = s.queues := rfl
@[simp] theorem drawFree_items (s : State) : (drawFree s).2.items = s.items := rfl
@[simp] theorem drawFree_tasks (s : State) : (drawFree s).2.tasks = s.tasks := rfl
@[simp] theorem drawFree_dispatches (s : State) : (drawFree s).2.dispatches = s.dispatches := rfl
@[simp] theorem drawFree_reissues (s : State) : (drawFree s).2.reissues = s.reissues := rfl
@[simp] theorem drawFree_irq (s : State) : (drawFree s).2.irq = s.irq := rfl
@[simp] theorem drawFree_bell (s : State) : (drawFree s).2.bell = s.bell := rfl
@[simp] theorem drawFree_mute (s : State) : (drawFree s).2.mute = s.mute := rfl
@[simp] theorem drawFree_perf (s : State) : (drawFree s).2.perf = s.perf := rfl
@[simp] theorem drawFree_sens (s : State) : (drawFree s).2.sens = s.sens := rfl
@[simp] theorem drawFree_tr (s : State) : (drawFree s).2.tr = s.tr := rfl
@[simp] theorem drawFree_str (s : State) : (drawFree s).2.str = s.str := rfl
@[simp] theorem drawFree_pg (s : State) : (drawFree s).2.pg = s.pg := rfl
@[simp] theorem drawFree_cores (s : State) : (drawFree s).2.cores = s.cores := rfl
@[simp] theorem drawFree_phys (s : State) : (drawFree s).2.phys = s.phys := rfl
@[simp] theorem drawFree_clusters (s : State) : (drawFree s).2.clusters = s.clusters := rfl
@[simp] theorem drawFree_reed (s : State) : (drawFree s).2.reed = s.reed := rfl
@[simp] theorem drawFree_cle (s : State) : (drawFree s).2.cle = s.cle := rfl
@[simp] theorem drawFree_link (s : State) : (drawFree s).2.link = s.link := rfl
@[simp] theorem drawFree_casc (s : State) : (drawFree s).2.casc = s.casc := rfl
@[simp] theorem drawFree_mem (s : State) : (drawFree s).2.mem = s.mem := rfl
@[simp] theorem drawFree_xspi (s : State) : (drawFree s).2.xspi = s.xspi := rfl
@[simp] theorem drawFree_tap (s : State) : (drawFree s).2.tap = s.tap := rfl
@[simp] theorem drawFree_sent (s : State) : (drawFree s).2.sent = s.sent := rfl
@[simp] theorem drawFree_edge (s : State) : (drawFree s).2.edge = s.edge := rfl
@[simp] theorem drawFree_free (s : State) : (drawFree s).2.free = s.free + 1 := rfl

/-! ### inBreath -/

@[simp] theorem inBreath_pending (s : State) : (inBreath s).pending = s.pending := rfl
@[simp] theorem inBreath_cascId (s : State) : (inBreath s).cascId = s.cascId := rfl
@[simp] theorem inBreath_rstLow (s : State) : (inBreath s).rstLow = s.rstLow := rfl
@[simp] theorem inBreath_powered (s : State) : (inBreath s).powered = s.powered := rfl
@[simp] theorem inBreath_fuses (s : State) : (inBreath s).fuses = s.fuses := rfl
@[simp] theorem inBreath_newFuses (s : State) : (inBreath s).newFuses = s.newFuses := rfl
@[simp] theorem inBreath_caps (s : State) : (inBreath s).caps = s.caps := rfl
@[simp] theorem inBreath_epoch (s : State) : (inBreath s).epoch = s.epoch := rfl
@[simp] theorem inBreath_capev (s : State) : (inBreath s).capev = s.capev := rfl
@[simp] theorem inBreath_uhSel (s : State) : (inBreath s).uhSel = s.uhSel := rfl
@[simp] theorem inBreath_uhData (s : State) : (inBreath s).uhData = s.uhData := rfl
@[simp] theorem inBreath_history (s : State) : (inBreath s).history = s.history := rfl
@[simp] theorem inBreath_breath (s : State) : (inBreath s).breath = s.breath := rfl
@[simp] theorem inBreath_queues (s : State) : (inBreath s).queues = s.queues := rfl
@[simp] theorem inBreath_items (s : State) : (inBreath s).items = s.items := rfl
@[simp] theorem inBreath_tasks (s : State) : (inBreath s).tasks = s.tasks := rfl
@[simp] theorem inBreath_dispatches (s : State) : (inBreath s).dispatches = s.dispatches := rfl
@[simp] theorem inBreath_reissues (s : State) : (inBreath s).reissues = s.reissues := rfl
@[simp] theorem inBreath_irq (s : State) : (inBreath s).irq = s.irq := rfl
@[simp] theorem inBreath_bell (s : State) : (inBreath s).bell = s.bell := rfl
@[simp] theorem inBreath_mute (s : State) : (inBreath s).mute = s.mute := rfl
@[simp] theorem inBreath_perf (s : State) : (inBreath s).perf = s.perf := rfl
@[simp] theorem inBreath_sens (s : State) : (inBreath s).sens = s.sens := rfl
@[simp] theorem inBreath_tr (s : State) : (inBreath s).tr = s.tr := rfl
@[simp] theorem inBreath_str (s : State) : (inBreath s).str = s.str := rfl
@[simp] theorem inBreath_pg (s : State) : (inBreath s).pg = s.pg := rfl
@[simp] theorem inBreath_cores (s : State) : (inBreath s).cores = s.cores := rfl
@[simp] theorem inBreath_phys (s : State) : (inBreath s).phys = s.phys := rfl
@[simp] theorem inBreath_clusters (s : State) : (inBreath s).clusters = s.clusters := rfl
@[simp] theorem inBreath_reed (s : State) : (inBreath s).reed = s.reed := rfl
@[simp] theorem inBreath_cle (s : State) : (inBreath s).cle = s.cle := rfl
@[simp] theorem inBreath_link (s : State) : (inBreath s).link = s.link := rfl
@[simp] theorem inBreath_casc (s : State) : (inBreath s).casc = s.casc := rfl
@[simp] theorem inBreath_mem (s : State) : (inBreath s).mem = s.mem := rfl
@[simp] theorem inBreath_xspi (s : State) : (inBreath s).xspi = s.xspi := rfl
@[simp] theorem inBreath_tap (s : State) : (inBreath s).tap = s.tap := rfl
@[simp] theorem inBreath_sent (s : State) : (inBreath s).sent = s.sent := rfl
@[simp] theorem inBreath_edge (s : State) : (inBreath s).edge = false := rfl
@[simp] theorem inBreath_free (s : State) : (inBreath s).free = s.free := rfl

end Sys2Proof.Laws
end

