-- ==== Sys2Proof/Laws/Items.lean ====
section
/-! SUPPORT. What the shared operations on items, tasks and windows can change, said once: `ItemSide s t` says that t differs
from s in tasks, items, cores, reissues, the Collective Engine, the outstanding fault records and what was sent, and in
nothing else. And where an item that ends is found. -/

namespace Sys2Proof.Machine

/-- `s` with the parts that the ending of items and tasks can change, taken from `t`. -/
def takeItemSide (s t : State) : State :=
  { s with tasks := t.tasks, items := t.items, cores := t.cores, reissues := t.reissues, cle := t.cle,
           tr := { s.tr with recs := t.tr.recs }, link := t.link, casc := t.casc, sent := t.sent }

/-- t differs from s in the item side alone. -/
def ItemSide (s t : State) : Prop := t = takeItemSide s t

theorem ItemSide.refl (s : State) : ItemSide s s := rfl

theorem ItemSide.trans {s t u : State} (a : ItemSide s t) (b : ItemSide t u) : ItemSide s u := by
  unfold ItemSide at *
  rw [b, a]; rfl

/-- A fold of operations of the item side stays on the item side. -/
theorem ItemSide.foldl {α : Type} {f : State → α → State} (h : ∀ s a, ItemSide s (f s a)) (l : List α) (s : State) :
    ItemSide s (l.foldl f s) := by
  induction l generalizing s with
  | nil => exact .refl s
  | cons a l ih => exact (h s a).trans (ih _)

theorem itemSide_modItem (s : State) (q : Nat) (idx : W32) (f : Item → Item) : ItemSide s (modItem s q idx f) := rfl
theorem itemSide_dropItem (s : State) (q : Nat) (idx : W32) : ItemSide s (dropItem s q idx) := rfl
theorem itemSide_modCore (s : State) (k : Nat) (f : Core → Core) : ItemSide s (modCore s k f) := rfl
theorem itemSide_setGroup (s : State) (g : Nat) (v : Group) : ItemSide s (setGroup s g v) := rfl
theorem itemSide_setOp (s : State) (o : CleOp) : ItemSide s (setOp s o) := rfl
theorem itemSide_send (s : State) (x : Sent) : ItemSide s (send s x) := rfl
theorem itemSide_cancelSlots (s : State) (core thread : Nat) (ks : List Nat) : ItemSide s (cancelSlots s core thread ks) := rfl

/-- Aborting tasks touches tasks, items and cores alone (R185, R262). -/
theorem itemSide_abortThreads (f : Nat) (s : State) (core : Nat) (ts : List Nat) : ItemSide s (abortThreads f s core ts) := by
  induction f generalizing s ts with
  | zero => exact .refl s
  | succ f ih =>
    cases ts with
    | nil => exact .refl s
    | cons a ts =>
      simp only [abortThreads]
      refine ItemSide.trans ?_ (ih _ _)
      refine ItemSide.trans ?_ (itemSide_modCore _ _ _)
      refine ItemSide.trans ?_ (ItemSide.foldl (fun s t => itemSide_cancelSlots s core t _) _ _)
      rfl

theorem itemSide_abortTask (s : State) (core thread : Nat) : ItemSide s (abortTask s core thread) := itemSide_abortThreads ..

theorem itemSide_closeWindow (s : State) (core w : Nat) : ItemSide s (closeWindow s core w) := by
  unfold closeWindow
  split
  · exact .refl s
  · exact (itemSide_modCore ..).trans (itemSide_abortThreads ..)

theorem itemSide_dropHalo (s : State) (core w : Nat) : ItemSide s (dropHalo s core w) := (itemSide_closeWindow ..).trans (itemSide_modCore ..)

theorem itemSide_closeAllWindows (s : State) (core : Nat) : ItemSide s (closeAllWindows s core) :=
  ItemSide.foldl (fun _ _ => itemSide_closeWindow ..) _ _

theorem itemSide_abortItemTasks (s : State) (q : Nat) (idx : W32) : ItemSide s (abortItemTasks s q idx) :=
  ((ItemSide.foldl (fun _ _ => itemSide_abortTask ..) _ _).trans (ItemSide.foldl (fun _ (p : Nat × Nat) => itemSide_dropHalo _ p.1 p.2) _ _)).trans rfl

/-! ### What leaves by the link and bridge ports -/

theorem itemSide_modLink (s : State) (f : Link → Link) : ItemSide s (modLink s f) := rfl

theorem itemSide_setWait (s : State) (p : Option Nat) (l : List (Nat × Bool × List Byte)) : ItemSide s (setWait s p l) := by
  cases p <;> rfl

theorem itemSide_takeFlit (s : State) (p : Option Nat) (c : Nat) (x : Nat × Bool × List Byte) : ItemSide s (takeFlit s p c x) := by
  cases p <;> rfl

theorem itemSide_takeFlits (p : Option Nat) (n : Nat) (s : State) : ItemSide s (takeFlits p n s).1 := by
  induction n generalizing s with
  | zero => exact .refl s
  | succ n ih =>
    unfold takeFlits
    split
    · exact .refl s
    · split
      · exact .refl s
      · exact (itemSide_takeFlit ..).trans (ih _)

theorem itemSide_emit (s : State) (fs : List (List Byte)) (n : Nat) : ItemSide s (emit s fs n) :=
  ItemSide.trans (itemSide_modLink s _) (ItemSide.foldl (f := sendCodeword) (fun _ _ => rfl) _ _)

theorem itemSide_pump (s : State) : ItemSide s (pump s) := by
  unfold pump
  dsimp only
  split
  · exact .refl s
  · exact ((itemSide_modLink s _).trans (itemSide_takeFlits ..)).trans (itemSide_emit ..)

theorem itemSide_queuePacket (s : State) (p : Option Nat) (vc : Nat) (dl : Bool) (b : List (List Byte)) :
    ItemSide s (queuePacket s p vc dl b) := by
  unfold queuePacket readyChannel
  dsimp only
  refine ItemSide.trans ?_ (itemSide_setWait ..)
  split <;> rfl

theorem itemSide_outLink (s : State) (vc : Nat) (dl : Bool) (b : List (List Byte)) : ItemSide s (outLink s vc dl b) :=
  (itemSide_queuePacket ..).trans (itemSide_pump _)

theorem itemSide_pumpBridge (s : State) (d : Nat) : ItemSide s (pumpBridge s d) := by
  unfold pumpBridge
  dsimp only
  split
  · exact .refl s
  · exact (itemSide_takeFlits ..).trans (ItemSide.foldl (fun _ _ => itemSide_send ..) _ _)

theorem itemSide_outBridge (s : State) (d vc : Nat) (dl : Bool) (b : List (List Byte)) : ItemSide s (outBridge s d vc dl b) := by
  unfold outBridge
  split
  · exact (itemSide_queuePacket ..).trans (itemSide_pumpBridge ..)
  · exact .refl s

theorem itemSide_routeDie {s t : State} {e : Byte} {d : Nat} (h : routeDie s e = some (d, t)) : ItemSide s t := by
  unfold routeDie at h
  dsimp only at h
  split at h
  · cases h
    exact .refl s
  · split at h
    · split at h
      · cases h
        rfl
      · cases h
    · cases h

/-- A packet of this die on its way changes the ports and what was sent (R302, R312). -/
theorem itemSide_ship (s : State) (n : W16) (die vc : Nat) (dl : Bool) (b : List (List Byte)) : ItemSide s (ship s n die vc dl b) := by
  unfold ship
  split
  · split
    · exact .refl s
    · exact itemSide_outBridge ..
  · split
    · next h =>
      split
      · exact (itemSide_routeDie h).trans (itemSide_outLink ..)
      · exact (itemSide_routeDie h).trans (itemSide_outBridge ..)
    · exact .refl s

theorem itemSide_toRank (s : State) (o : CleOp) (r : Nat) (t : UnitTag) (b : List Byte) : ItemSide s (toRank s o r t b) := by
  unfold toRank
  split
  · exact itemSide_ship ..
  · exact .refl s

theorem itemSide_toOthers (s : State) (o : CleOp) (t : UnitTag) (b : List Byte) : ItemSide s (toOthers s o t b) :=
  ItemSide.foldl (fun _ _ => itemSide_toRank ..) _ _

theorem itemSide_toNext (s : State) (o : CleOp) (t : UnitTag) (b : List Byte) : ItemSide s (toNext s o t b) := by
  unfold toNext
  split
  · exact .refl s
  · exact itemSide_toRank ..

theorem itemSide_closeOp (s : State) (q : Nat) (idx : W32) (st : Byte) (d : W64) : ItemSide s (closeOp s q idx st d) := by
  unfold closeOp
  split
  · exact .refl s
  · dsimp only
    split <;> rfl

/-- Ending an item (Table 2.8). -/
theorem itemSide_endNow (s : State) (q : Nat) (idx : W32) (st d : Nat) : ItemSide s (endNow s q idx st d) :=
  ((itemSide_abortItemTasks s q idx).trans (itemSide_closeOp ..)).trans ((itemSide_modItem ..).trans rfl)

theorem itemSide_commitNow (s : State) (q : Nat) (idx : W32) : ItemSide s (commitNow s q idx) := by
  unfold commitNow
  split
  · exact .refl s
  · exact (itemSide_closeOp ..).trans (itemSide_modItem ..)

theorem itemSide_settleOp (s : State) (q : Nat) (idx : W32) : ItemSide s (settleOp s q idx) := by
  unfold settleOp
  split
  · exact .refl s
  · dsimp only
    split
    · split
      · exact itemSide_endNow ..
      · exact itemSide_commitNow ..
    · exact .refl s

theorem itemSide_endItem (s : State) (q : Nat) (idx : W32) (st d : Nat) : ItemSide s (endItem s q idx st d) := by
  unfold endItem
  split
  · exact itemSide_endNow ..
  · dsimp only
    split
    · exact .refl s
    · refine ItemSide.trans ?_ (itemSide_settleOp ..)
      refine ItemSide.trans ?_ (itemSide_modItem ..)
      refine ItemSide.trans ?_ (itemSide_toOthers ..)
      exact (itemSide_abortItemTasks ..).trans rfl

theorem itemSide_hwAbort (s : State) (q : Nat) (idx : W32) (u : W16) : ItemSide s (hwAbort s q idx u) := by
  unfold hwAbort
  dsimp only
  split
  · split
    · exact (itemSide_modItem ..).trans (itemSide_endItem ..)
    · exact itemSide_modItem ..
  · exact itemSide_modItem ..

/-! ### Where an item is after its entry changes -/

/-- Changing an item's entry by a function that keeps its name finds the changed entry. -/
theorem findItem_modItem (s : State) (q : Nat) (idx : W32) (f : Item → Item) (h : ∀ i, isItem q idx i = true → isItem q idx (f i) = true) :
    findItem (modItem s q idx f) q idx = (findItem s q idx).map f := by
  simp only [findItem, modItem]
  induction s.items with
  | nil => rfl
  | cons a l ih =>
    by_cases ha : isItem q idx a = true
    · simp [List.find?, ha, h a ha]
    · simp only [Bool.not_eq_true] at ha
      simpa [List.find?, ha] using ih

/-- Changing one item's entry leaves every other item where it is. -/
theorem findItem_modItem_other (s : State) (q q' : Nat) (idx idx' : W32) (f : Item → Item)
    (hf : ∀ i, (f i).q = i.q ∧ (f i).idx = i.idx) (hne : ¬(q' = q ∧ idx' = idx)) :
    findItem (modItem s q idx f) q' idx' = findItem s q' idx' := by
  simp only [findItem, modItem]
  induction s.items with
  | nil => rfl
  | cons a l ih =>
    by_cases ha : isItem q idx a = true
    · have h1 : isItem q' idx' a = false := by
        rw [Bool.eq_false_iff]
        intro hb
        simp only [isItem, Bool.and_eq_true, decide_eq_true_eq] at ha hb
        exact hne ⟨hb.1.symm.trans ha.1, hb.2.symm.trans ha.2⟩
      have h2 : isItem q' idx' (f a) = false := by
        simp only [isItem, (hf a).1, (hf a).2]
        exact h1
      simpa [List.find?, ha, h1, h2] using ih
    · simp only [Bool.not_eq_true] at ha
      by_cases hb : isItem q' idx' a = true
      · simp [List.find?, ha, hb]
      · simp only [Bool.not_eq_true] at hb
        simpa [List.find?, ha, hb] using ih

/-! ### An item that ends -/

theorem ItemSide.queues {s t : State} (h : ItemSide s t) : t.queues = s.queues := by rw [h]; rfl
theorem ItemSide.breath {s t : State} (h : ItemSide s t) : t.breath = s.breath := by rw [h]; rfl
theorem ItemSide.mem {s t : State} (h : ItemSide s t) : t.mem = s.mem := by rw [h]; rfl
theorem ItemSide.bell {s t : State} (h : ItemSide s t) : t.bell = s.bell := by rw [h]; rfl
theorem ItemSide.irq {s t : State} (h : ItemSide s t) : t.irq = s.irq := by rw [h]; rfl

/-- Item i but for its mark that its halo exchange starts again, and for what its row blocks hold. -/
def Item.rid (i : Item) (g : Bool × List RowGroup) : Item := { i with haloHit := g.1, groups := g.2 }

/-- t holds the items of s, each as it was but for its halo mark and its row blocks. -/
def SameItems (s t : State) : Prop := ∃ g : Item → Bool × List RowGroup, t.items = s.items.map (fun i => i.rid (g i))

theorem SameItems.refl (s : State) : SameItems s s := ⟨fun i => (i.haloHit, i.groups), by simp [Item.rid]⟩

theorem SameItems.of_eq {s t : State} (h : t.items = s.items) : SameItems s t := ⟨fun i => (i.haloHit, i.groups), by simp [h, Item.rid]⟩

theorem SameItems.trans {s t u : State} : SameItems s t → SameItems t u → SameItems s u
  | ⟨g, hg⟩, ⟨k, hk⟩ => ⟨fun i => k (i.rid (g i)), by rw [hk, hg, List.map_map]; rfl⟩

theorem SameItems.foldl {α : Type} {f : State → α → State} (h : ∀ s a, SameItems s (f s a)) (l : List α) (s : State) :
    SameItems s (l.foldl f s) := by
  induction l generalizing s with
  | nil => exact .refl s
  | cons a l ih => exact (h s a).trans (ih _)

theorem sameItems_modCore (s : State) (k : Nat) (f : Core → Core) : SameItems s (modCore s k f) := .of_eq rfl
theorem sameItems_cancelSlots (s : State) (core thread : Nat) (ks : List Nat) : SameItems s (cancelSlots s core thread ks) := .of_eq rfl

theorem dropNodes_rid (i : Item) (m : TaskShape) : ∃ g, dropNodes i m = i.rid g := by
  unfold dropNodes
  split
  · exact ⟨(i.haloHit, i.groups), rfl⟩
  · exact ⟨(i.haloHit, _), rfl⟩

/-- What an item keeps of tasks that are aborted differs from it in the mark and the row blocks alone. -/
theorem lostTasks_rid (i : Item) (ts : List Task) : ∃ g, lostTasks i ts = i.rid g := by
  unfold lostTasks
  dsimp only
  split
  · exact ⟨(i.haloHit, i.groups), rfl⟩
  · have key : ∀ (l : List Task) (x : Item), (∃ g, x = i.rid g) → ∃ g, l.foldl (fun x t => dropNodes x t.shape) x = i.rid g := by
      intro l
      induction l with
      | nil => exact fun _ h => h
      | cons t l ih =>
        rintro x ⟨g, rfl⟩
        obtain ⟨k, hk⟩ := dropNodes_rid (i.rid g) t.shape
        exact ih _ ⟨k, hk⟩
    exact key _ _ ⟨(true, i.groups), rfl⟩

theorem sameItems_abortThreads (f : Nat) (s : State) (core : Nat) (ts : List Nat) : SameItems s (abortThreads f s core ts) := by
  induction f generalizing s ts with
  | zero => exact .refl s
  | succ f ih =>
    cases ts with
    | nil => exact .refl s
    | cons a ts =>
      simp only [abortThreads]
      refine SameItems.trans ?_ (ih _ _)
      refine SameItems.trans ?_ (sameItems_modCore _ _ _)
      refine SameItems.trans ?_ (SameItems.foldl (fun s t => sameItems_cancelSlots s core t _) _ _)
      exact ⟨fun i => (lostTasks_rid i _).choose, List.map_congr_left (fun i _ => (lostTasks_rid i _).choose_spec)⟩

theorem sameItems_closeWindow (s : State) (core w : Nat) : SameItems s (closeWindow s core w) := by
  unfold closeWindow
  split
  · exact .refl s
  · exact (sameItems_modCore ..).trans (sameItems_abortThreads ..)

theorem sameItems_dropHalo (s : State) (core w : Nat) : SameItems s (dropHalo s core w) := (sameItems_closeWindow ..).trans (sameItems_modCore ..)

theorem sameItems_abortItemTasks (s : State) (q : Nat) (idx : W32) : SameItems s (abortItemTasks s q idx) :=
  ((SameItems.foldl (fun _ _ => sameItems_abortThreads ..) _ _).trans (SameItems.foldl (fun _ (p : Nat × Nat) => sameItems_dropHalo _ p.1 p.2) _ _)).trans
    (.of_eq rfl)

theorem sameItems_closeOp (s : State) (q : Nat) (idx : W32) (st : Byte) (d : W64) : SameItems s (closeOp s q idx st d) := by
  unfold closeOp
  split
  · exact .refl s
  · dsimp only
    split <;> exact .of_eq rfl

/-- The item found under a name, after a change of marks and row blocks. -/
theorem SameItems.find {s t : State} (h : SameItems s t) (q : Nat) (idx : W32) :
    ∃ g : Item → Bool × List RowGroup, findItem t q idx = (findItem s q idx).map (fun i => i.rid (g i)) := by
  obtain ⟨g, hg⟩ := h
  refine ⟨g, ?_⟩
  simp only [findItem, hg]
  induction s.items with
  | nil => rfl
  | cons a l ih =>
    have e : isItem q idx (a.rid (g a)) = isItem q idx a := rfl
    by_cases ha : isItem q idx a = true
    · simp [List.find?, e, ha]
    · simp only [Bool.not_eq_true] at ha
      simpa [List.find?, e, ha] using ih

/-- An item that ends stays in the store under its name, ended, with the status and DETAIL it was given (Table 2.8). -/
theorem findItem_endNow (s : State) (q : Nat) (idx : W32) (st d : Nat) (i : Item) (h : findItem s q idx = some i) :
    ∃ g, findItem (endNow s q idx st d) q idx = some ((i.rid g).endWith st d (lowBreath s)) := by
  obtain ⟨g, hg⟩ := ((sameItems_abortItemTasks s q idx).trans
    (sameItems_closeOp _ q idx (BitVec.ofNat 8 st) (BitVec.ofNat 64 d))).find q idx
  refine ⟨g i, ?_⟩
  have e : findItem (endNow s q idx st d) q idx = findItem (modItem (closeOp (abortItemTasks s q idx) q idx (BitVec.ofNat 8 st)
      (BitVec.ofNat 64 d)) q idx (fun i => i.endWith st d (lowBreath s))) q idx := rfl
  rw [e, findItem_modItem (f := fun i => i.endWith st d (lowBreath s)) (h := fun _ hi => hi), hg, h]
  rfl

end Sys2Proof.Machine
end

