-- ==== Sys2Proof/Laws/Work.lean ====
section
/-! SUPPORT. What an item's work can change beyond the item side, said once: `WorkSide s t` says that t differs from s in the
item side, the fault records, the memory side, the block-check counts, the Bell record and the counter of free values, and in
nothing else; the Collective Engine's progress stays within it. -/

namespace Sys2Proof.Machine

/-- `s` with the parts that an item's work can change, taken from `t`. -/
def takeWorkSide (s t : State) : State :=
  { s with tasks := t.tasks, items := t.items, cores := t.cores, reissues := t.reissues, cle := t.cle, tr := t.tr,
           link := t.link, casc := t.casc, sent := t.sent, mem := t.mem, str := t.str, bell := t.bell, free := t.free }

/-- t differs from s in the work side alone. -/
def WorkSide (s t : State) : Prop := t = takeWorkSide s t

theorem WorkSide.refl (s : State) : WorkSide s s := rfl

theorem WorkSide.trans {s t u : State} (a : WorkSide s t) (b : WorkSide t u) : WorkSide s u := by
  unfold WorkSide at *
  rw [b, a]; rfl

theorem WorkSide.foldl {α : Type} {f : State → α → State} (h : ∀ s a, WorkSide s (f s a)) (l : List α) (s : State) :
    WorkSide s (l.foldl f s) := by
  induction l generalizing s with
  | nil => exact .refl s
  | cons a l ih => exact (h s a).trans (ih _)

theorem WorkSide.ite {p : Prop} [Decidable p] {s t u : State} (a : WorkSide s t) (b : WorkSide s u) :
    WorkSide s (if p then t else u) := by
  split <;> assumption

theorem ItemSide.work {s t : State} (h : ItemSide s t) : WorkSide s t := by
  unfold WorkSide
  rw [h]; rfl

theorem WorkSide.queues {s t : State} (h : WorkSide s t) : t.queues = s.queues := by rw [h]; rfl
theorem WorkSide.breath {s t : State} (h : WorkSide s t) : t.breath = s.breath := by rw [h]; rfl
theorem WorkSide.irq {s t : State} (h : WorkSide s t) : t.irq = s.irq := by rw [h]; rfl
theorem WorkSide.reed {s t : State} (h : WorkSide s t) : t.reed = s.reed := by rw [h]; rfl

theorem workSide_stageEvent (s : State) (e : BellEvent) : WorkSide s (stageEvent s e) := by
  unfold stageEvent
  split <;> rfl

theorem workSide_bellRaise (s : State) (code : Nat) (u : W16) (ctx : CtxId) (src arg : Nat) :
    WorkSide s (bellRaise s code u ctx src arg) := workSide_stageEvent ..

theorem workSide_issueReq (s : State) (r : Req) : WorkSide s (issueReq s r) := rfl

theorem workSide_openFault (s : State) (e q : Nat) (idx : W32) (ctx : CtxId) (a : W64) (w : Bool) (r l : Nat) (p : W64) :
    WorkSide s (openFault s e q idx ctx a w r l p).1 := by
  unfold openFault
  dsimp only
  split
  · rfl
  · split <;> rfl

theorem workSide_spoilOutputs (s : State) (it : Item) : WorkSide s (spoilOutputs s it) :=
  WorkSide.foldl (f := fun st (r : Nat × Nat) => storeAny st r.1 r.2) (fun _ _ => rfl) _ _

theorem workSide_itemErr (s : State) (q : Nat) (idx : W32) (e : MErr) : WorkSide s (itemErr s q idx e) := by
  unfold itemErr
  split
  · exact .refl s
  · split
    · exact ((workSide_bellRaise ..).trans (workSide_spoilOutputs ..)).trans (itemSide_endItem ..).work
    · exact (itemSide_endItem ..).work
    · exact (workSide_openFault ..).trans (itemSide_modItem ..).work

theorem workSide_countVerified (s : State) (n : Nat) : WorkSide s (countVerified s n) := rfl

theorem workSide_blockMismatch (s : State) (q : Nat) (idx : W32) (ctx : CtxId) (b : W64) (n : Nat) :
    WorkSide s (blockMismatch s q idx ctx b n) := by
  unfold blockMismatch
  refine WorkSide.trans ?_ (itemSide_endItem ..).work
  refine WorkSide.trans ?_ (workSide_bellRaise ..)
  rfl

theorem workSide_issueOuts {s t : State} {q : Nat} {idx : W32} {pool : Nat} {ctx : CtxId} {outs : List Out}
    (h : issueOuts s q idx pool ctx outs = .ok t) : WorkSide s t := by
  unfold issueOuts at h
  split at h
  · cases h
  · cases h
    exact WorkSide.foldl (fun _ _ => workSide_issueReq ..) _ _

/-! ### The Collective Engine -/

theorem itemSide_countDups (s : State) (n : Nat) : ItemSide s (countDups s n) := rfl

theorem itemSide_takeEarly (s : State) (o : CleOp) : ItemSide s (takeEarly s o) := rfl

theorem itemSide_sendAgreement (s : State) (o : CleOp) (r : Agreement) : ItemSide s (sendAgreement s o r) :=
  ((itemSide_send ..).trans (itemSide_toOthers ..)).trans (itemSide_takeEarly ..)

theorem itemSide_beginOp (s : State) (o : CleOp) : ItemSide s (beginOp s o) := by
  unfold beginOp
  dsimp only
  split <;> exact (itemSide_setGroup ..).trans (itemSide_sendAgreement ..)

theorem itemSide_sendDone (s : State) (o : CleOp) : ItemSide s (sendDone s o) := by
  unfold sendDone
  refine ItemSide.trans ?_ (itemSide_settleOp ..)
  refine ItemSide.trans ?_ (itemSide_toOthers ..)
  rfl

theorem itemSide_yieldFail (s : State) (q : Nat) (idx : W32) : ItemSide s (yieldFail s q idx) := by
  unfold yieldFail
  dsimp only
  split
  · exact .refl s
  · split
    · exact .refl s
    · have h := (itemSide_abortItemTasks s q idx).trans (itemSide_modItem _ q idx (fun i => { i with holdKeys := [], retryFull := false, ready := none }))
      split
      · exact h.trans (itemSide_sendDone ..)
      · exact h

theorem itemSide_sendChunk (s : State) (o : CleOp) (t : UnitTag) (k : Nat) (c : W32) (bs : List Byte) : ItemSide s (sendChunk s o t k c bs) :=
  (itemSide_send ..).trans (itemSide_toNext ..)

theorem itemSide_sendMarker (s : State) (o : CleOp) (t : UnitTag) (k : W32) (c : W64) : ItemSide s (sendMarker s o t k c) :=
  (itemSide_send ..).trans (itemSide_toNext ..)

theorem itemSide_sendChunks (s : State) (o : CleOp) (us : List (Nat × Nat × List Byte)) : ItemSide s (sendChunks s o us) :=
  ItemSide.trans (itemSide_setOp s _) (ItemSide.foldl (fun _ _ => itemSide_sendChunk ..) _ _)

theorem itemSide_endSource (s : State) (o : CleOp) (k : Nat) : ItemSide s (endSource s o k) :=
  (itemSide_setOp ..).trans (itemSide_sendMarker ..)

theorem workSide_sendParts (x : Source) (q : Nat) (idx : W32) (l : List Nat) (s : State) : WorkSide s (sendParts x q idx l s) := by
  induction l generalizing s with
  | nil => exact .refl s
  | cons off l ih =>
    unfold sendParts
    dsimp only
    split
    · exact .refl s
    · split
      · exact ih s
      · split
        · exact workSide_itemErr ..
        · exact workSide_blockMismatch ..
        · split
          · exact workSide_itemErr ..
          · exact ((workSide_countVerified ..).trans (itemSide_sendChunks ..).work).trans (ih _)

theorem workSide_sendContribution (s : State) (o : CleOp) : WorkSide s (sendContribution s o) := by
  unfold sendContribution
  dsimp only
  split
  · exact .refl s
  · split
    · rfl
    · split
      · exact workSide_sendParts ..
      · split
        · exact (workSide_sendParts ..).trans (itemSide_endSource ..).work
        · exact workSide_sendParts ..

theorem workSide_writeResult (s : State) (o : CleOp) : WorkSide s (writeResult s o) := by
  unfold writeResult
  dsimp only
  split
  · exact .refl s
  · split
    · exact workSide_itemErr ..
    · next h1 =>
      split
      · exact workSide_itemErr ..
      · next h2 => exact ((workSide_issueOuts h1).trans (workSide_issueOuts h2)).trans rfl

theorem workSide_cleStage (s : State) (q : Nat) (idx : W32) : WorkSide s (cleStage s q idx) := by
  unfold cleStage
  dsimp only
  split
  · split
    · exact .refl s
    · split
      · split
        · exact (itemSide_beginOp ..).work
        · exact .refl s
      · split
        · exact (itemSide_yieldFail ..).work
        · split
          · exact .refl s
          · split
            · split
              · exact (itemSide_endItem ..).work
              · exact workSide_sendContribution ..
            · split
              · split
                · exact workSide_writeResult ..
                · exact .refl s
              · split
                · exact (itemSide_sendDone ..).work
                · exact .refl s
  · exact .refl s

theorem workSide_cleAdvance (s : State) (q : Nat) (idx : W32) : WorkSide s (cleAdvance s q idx) :=
  (((workSide_cleStage ..).trans (workSide_cleStage ..)).trans (workSide_cleStage ..)).trans (workSide_cleStage ..)

theorem workSide_grantOne (s : State) (o : CleOp) : WorkSide s (grantOne s o) := by
  unfold grantOne
  split
  · exact workSide_cleAdvance ..
  · refine WorkSide.ite rfl ?_
    refine WorkSide.trans ?_ (workSide_cleAdvance ..)
    rfl

theorem workSide_bufferGrants (s : State) : WorkSide s (bufferGrants s) := WorkSide.foldl (fun _ _ => workSide_grantOne ..) _ _

end Sys2Proof.Machine
end

