-- ==== Sys2Proof/Laws/Boundary.lean ====
section
/-! SUPPORT. What one boundary does to the breath state, and that its later parts leave the queues of its enables as they
are: the number is taken first and nothing after it touches the tick. -/

namespace Sys2Proof.Machine

/-- t differs from s in the paging pools, memory and its requests, the block-check counts, the lines of the cluster caches, the
Bell record and the counter of free values alone: what a migration's start can touch. -/
def MigSide (s t : State) : Prop :=
  t = { s with pg := t.pg, mem := t.mem, str := t.str, clusters := t.clusters, bell := t.bell, free := t.free }

theorem MigSide.refl (s : State) : MigSide s s := rfl

theorem MigSide.trans {s t u : State} (a : MigSide s t) (b : MigSide t u) : MigSide s u := by
  unfold MigSide at *
  rw [b, a]

theorem MigSide.foldl {α : Type} {f : State → α → State} (h : ∀ s a, MigSide s (f s a)) (l : List α) (s : State) :
    MigSide s (l.foldl f s) := by
  induction l generalizing s with
  | nil => exact .refl s
  | cons a l ih => exact (h s a).trans (ih _)

theorem MigSide.setPg {s t : State} (h : MigSide s t) (p : Paging) : MigSide s { t with pg := p } := h.trans rfl
theorem MigSide.breath {s t : State} (h : MigSide s t) : t.breath = s.breath := by rw [h]
theorem MigSide.queues {s t : State} (h : MigSide s t) : t.queues = s.queues := by rw [h]
theorem MigSide.items {s t : State} (h : MigSide s t) : t.items = s.items := by rw [h]
theorem MigSide.irq {s t : State} (h : MigSide s t) : t.irq = s.irq := by rw [h]

theorem migSide_putInfo (s : State) (lpn : Nat) (i : InfoEntry) : MigSide s (putInfo s lpn i) := by
  unfold putInfo
  split
  · exact .refl s
  · next ps _ =>
    have key : ∀ (l : List (W64 × Nat × Nat)) (a : State × List Byte), MigSide s a.1 →
        MigSide s (l.foldl (fun acc p => (storeMem acc.1 p.2.1 (acc.2.take p.2.2), acc.2.drop p.2.2)) a).1 := by
      intro l
      induction l with
      | nil => intro a h; exact h
      | cons p l ih => intro a h; exact ih _ (h.trans rfl)
    exact key _ _ (.refl s)

theorem migSide_bellRaise (s : State) (code : Nat) (u : W16) (ctx : CtxId) (src arg : Nat) :
    MigSide s (bellRaise s code u ctx src arg) := by
  unfold bellRaise stageEvent
  split <;> rfl

theorem migSide_badAccess (s : State) (e : MErr) : MigSide s (badAccess s e) := by
  unfold badAccess
  split
  · exact migSide_bellRaise ..
  · exact .refl s

theorem migSide_issueReq (s : State) (r : Req) : MigSide s (issueReq s r) := rfl
theorem migSide_countVerified (s : State) (n : Nat) : MigSide s (countVerified s n) := rfl
theorem migSide_dropLines (s : State) (far : Bool) (f : Nat) : MigSide s (dropLines s far f) := rfl

theorem migSide_takeUnit (s : State) (u : PoolUnit) : MigSide s (takeUnit s u) := by
  unfold takeUnit
  split
  · split <;> rfl
  · rfl
  · rfl

theorem migSide_startCopy {s t : State} {lpn : Nat} {i : InfoEntry} {far : Bool} {item : Option (Nat × W32)}
    (h : startCopy s lpn i far item = .started t) : MigSide s t := by
  unfold startCopy at h
  split at h
  · cases h
  · split at h
    · cases h
    · cases h
    · cases h
    · cases h
    · split at h
      · cases h
      · cases h
      · cases h
        refine MigSide.trans ?_ (MigSide.foldl (f := issueReq) migSide_issueReq _ _)
        refine MigSide.trans ?_ (migSide_putInfo ..)
        refine MigSide.trans ?_ (migSide_dropLines ..)
        refine MigSide.setPg (MigSide.trans ?_ (migSide_countVerified ..)) _
        exact (show MigSide s { s with free := s.free + 1 } from rfl).trans (migSide_takeUnit ..)

theorem migSide_startMig {s t : State} {lpn : Nat} {far : Bool} {item : Option (Nat × W32)}
    (h : startMig s lpn far item = .started t) : MigSide s t := by
  unfold startMig at h
  split at h
  · cases h
  · split at h
    · cases h
    · split at h
      · split at h
        · cases h
        · split at h
          · cases h
          · exact migSide_startCopy h
      · split at h
        · cases h
        · split at h
          · cases h
          · split at h <;> cases h

theorem migSide_autoMig (s : State) (far : Bool) (lpn : Nat) : MigSide s (autoMig s far lpn) := by
  unfold autoMig
  split
  · exact .refl s
  · split
    · next h => exact migSide_startMig h
    · rfl
    · rfl
    · exact ((migSide_countVerified ..).trans (migSide_bellRaise ..)).setPg _
    · exact (migSide_badAccess ..).setPg _
    · split
      · exact .refl s
      · rfl
    · exact .refl s
    · exact .refl s

theorem migSide_demotePages (s : State) (e : SeqEntry) (a n : Nat) : MigSide s (demotePages s e a n) := by
  unfold demotePages
  split
  · exact migSide_badAccess ..
  · refine MigSide.foldl (fun s lpn => ?_) _ _
    split
    · split
      · exact migSide_autoMig ..
      · exact .refl s
    · exact migSide_badAccess ..

theorem migSide_demotionScan (s : State) : MigSide s (demotionScan s) := by
  unfold demotionScan
  split
  · exact .refl s
  · dsimp only
    exact (MigSide.foldl (f := fun st (p : Nat × SeqEntry) => demotePages st p.2 0 p.2.layerCount.toNat)
      (fun s p => migSide_demotePages s p.2 0 p.2.layerCount.toNat) _ _).setPg _

theorem migSide_promoteWanted (s : State) : MigSide s (promoteWanted s) := by
  unfold promoteWanted
  refine MigSide.trans ?_ (MigSide.foldl (fun s lpn => migSide_autoMig s false lpn) _ _)
  rfl

/-! ### The tick -/

theorem foldl_keeps {α β : Type} {g : State → β} {f : State → α → State} (h : ∀ s a, g (f s a) = g s) (l : List α) (s : State) :
    g (l.foldl f s) = g s := by
  induction l generalizing s with
  | nil => rfl
  | cons a l ih => exact (ih _).trans (h s a)

theorem breath_stageEvent (s : State) (e : BellEvent) : (stageEvent s e).breath = s.breath := (workSide_stageEvent s e).breath
theorem breath_answer (s : State) (x : Slot) (tag : W16) (c : Nat) (r : Nat) : (answer s x tag c r).breath = s.breath := by
  cases x <;> simp only [answer, complete] <;> split <;> rfl

theorem breath_applyBind (s : State) (b : BindWait) : (applyBind s b).breath = s.breath := by
  have a : ∀ (s : State) (k : Bool) (i : Nat), (answerBind s k i).breath = s.breath := by
    intro s k i
    unfold answerBind
    split
    · rfl
    · exact breath_answer ..
  unfold applyBind
  split
  · exact a ..
  · split
    · exact a ..
    · rfl

theorem breath_reopenHalo (again : Bool) (s : State) (p : Nat × Nat) : (reopenHalo again s p).breath = s.breath := by
  unfold reopenHalo
  split
  · exact (itemSide_dropHalo ..).breath
  · exact (itemSide_closeWindow ..).breath

theorem breath_restartHalo (s : State) (it : Item) : (restartHalo s it).breath = s.breath :=
  foldl_keeps (g := State.breath) (breath_reopenHalo _) _ _

theorem breath_abortUnbegun (s : State) (i : Item) : (abortUnbegun s i).breath = s.breath := by
  unfold abortUnbegun
  refine (itemSide_endNow ..).breath.trans ?_
  change (dropWaitingOp s i.q i.idx).breath = _
  unfold dropWaitingOp
  split <;> rfl

theorem breath_closings (s : State) : (closings s).breath = s.breath := by
  unfold closings
  refine foldl_keeps (g := State.breath) (fun s q => ?_) _ _
  unfold beginClosing
  dsimp only
  refine (foldl_keeps (g := State.breath) (fun s i => (itemSide_endItem ..).breath) _ _).trans ?_
  exact (foldl_keeps (g := State.breath) breath_abortUnbegun _ _)

theorem breath_admission (s : State) : (admission s).breath = s.breath := by
  unfold admission
  split
  · rfl
  · refine foldl_keeps (g := State.breath) (fun s q => ?_) _ _
    unfold admitQueue
    dsimp only
    have h := foldl_keeps (g := State.breath) (f := fun st (i : Item) => issueReq st (ringRead (getQ s q) q i.idx)) (fun _ _ => rfl)
    split
    · exact (h _ _)
    · exact (h _ _)

theorem breath_enables (s : State) (qs : List Nat) : (enables s qs).breath = s.breath := by
  unfold enables
  refine foldl_keeps (g := State.breath) (fun s q => ?_) _ _
  unfold enableQueue
  dsimp only
  split <;> rfl

theorem breath_queueWork (s : State) : (queueWork s).breath = s.breath := by
  unfold queueWork
  split
  · rfl
  · exact (breath_enables ..).trans ((breath_admission ..).trans (breath_closings ..))

theorem breath_applyBinds (s : State) : (applyBinds s).breath = s.breath := foldl_keeps (g := State.breath) breath_applyBind _ _
theorem breath_restartHalos (s : State) : (restartHalos s).breath = s.breath := foldl_keeps (g := State.breath) breath_restartHalo _ _

theorem breath_exchangeBreaths (s : State) : (exchangeBreaths s).breath = s.breath := rfl
theorem breath_limitWork (s : State) : (limitWork s).breath = s.breath := rfl
theorem breath_endClusterResets (s : State) : (endClusterResets s).breath = s.breath := rfl
theorem breath_coreWork (s : State) : (coreWork s).breath = s.breath := rfl
theorem breath_recordReplay (s : State) : (recordReplay s).breath = s.breath := rfl

/-- What a boundary leaves of the tick is what taking the number leaves (R53, R64). -/
theorem breath_boundary (s : State) (fromTimer : Bool) : (boundary s fromTimer).breath = (takeNum s fromTimer).breath := by
  unfold boundary
  dsimp only
  rw [(migSide_promoteWanted _).breath, (migSide_demotionScan _).breath, (workSide_bufferGrants _).breath, breath_queueWork,
    breath_applyBinds, breath_restartHalos, breath_exchangeBreaths, breath_limitWork, breath_endClusterResets, breath_coreWork,
    breath_recordReplay]

theorem breath_takeNum (s : State) (fromTimer : Bool) : (takeNum s fromTimer).breath = { s.breath with
    num := nextNum s.breath, renum := s.breath.renum || renumbers s.breath, announced := none, started := true,
    fromTimer := fromTimer, late := 0 } := by
  unfold takeNum
  dsimp only
  split
  · split
    · exact breath_stageEvent ..
    · rfl
  · rfl

end Sys2Proof.Machine
end

