-- ==== Sys2Proof/Laws/Tab.lean ====
section
/-! SUPPORT. What reading a numbered collection gives after a write to it, and that writes keep its canonical form. -/

namespace Sys2Proof.Laws

open Sys2Proof Sys2Proof.Machine

theorem tget_tdrop_same {α : Type} (d : α) (t : Tab α) (k : Nat) : tget d (tdrop t k) k = d := by
  induction t with
  | nil => rfl
  | cons p t ih =>
    obtain ⟨i, a⟩ := p
    by_cases h : i = k
    · subst h; simpa [tdrop] using ih
    · simp only [tdrop, List.filter_cons, ne_eq, h, not_false_eq_true, decide_true, if_true, tget, if_false]
      exact ih

theorem tget_tdrop_other {α : Type} (d : α) (t : Tab α) (k j : Nat) (h : j ≠ k) : tget d (tdrop t k) j = tget d t j := by
  induction t with
  | nil => rfl
  | cons p t ih =>
    obtain ⟨i, a⟩ := p
    by_cases hi : i = k
    · subst hi
      have e : tdrop ((i, a) :: t) i = tdrop t i := by simp [tdrop]
      rw [e, ih]
      simp [tget, Ne.symm h]
    · have e : tdrop ((i, a) :: t) k = (i, a) :: tdrop t k := by simp [tdrop, hi]
      rw [e]
      simp only [tget, ih]

/-- Reading the key just written gives the value. -/
@[simp] theorem tget_tput_same {α : Type} [DecidableEq α] (d : α) (t : Tab α) (k : Nat) (v : α) : tget d (tput d t k v) k = v := by
  induction t with
  | nil => by_cases h : v = d <;> simp [tput, tget, h]
  | cons p t ih =>
    obtain ⟨i, a⟩ := p
    by_cases h1 : i < k
    · have : i ≠ k := by omega
      simp [tput, tget, h1, this, ih]
    · by_cases h2 : i = k
      · subst h2
        by_cases hv : v = d
        · simp [tput, hv, tget_tdrop_same]
        · simp [tput, hv, tget]
      · by_cases hv : v = d
        · simp [tput, h1, h2, hv, tget, tget_tdrop_same]
        · simp [tput, h1, h2, hv, tget]

/-- Every other key reads as before. -/
theorem tget_tput_other {α : Type} [DecidableEq α] (d : α) (t : Tab α) (k j : Nat) (v : α) (h : j ≠ k) :
    tget d (tput d t k v) j = tget d t j := by
  induction t with
  | nil => by_cases hv : v = d <;> simp [tput, tget, hv, Ne.symm h]
  | cons p t ih =>
    obtain ⟨i, a⟩ := p
    by_cases h1 : i < k
    · simp [tput, tget, h1, ih]
    · by_cases h2 : i = k
      · subst h2
        by_cases hv : v = d
        · simp [tput, hv, tget, tget_tdrop_other d t i j h, Ne.symm h]
        · simp [tput, hv, tget, Ne.symm h]
      · by_cases hv : v = d
        · simp [tput, h1, h2, hv, tget, tget_tdrop_other d t k j h]
        · simp [tput, h1, h2, hv, tget, Ne.symm h]

theorem twfFrom_mono {α : Type} [DecidableEq α] (d : α) (lo hi : Nat) (t : Tab α) (h : lo ≤ hi) (w : twfFrom d hi t = true) :
    twfFrom d lo t = true := by
  cases t with
  | nil => rfl
  | cons p t =>
    obtain ⟨i, a⟩ := p
    simp only [twfFrom, Bool.and_eq_true, decide_eq_true_eq] at w ⊢
    exact ⟨⟨by omega, w.1.2⟩, w.2⟩

theorem twfFrom_filter {α : Type} [DecidableEq α] (d : α) (f : Nat × α → Bool) (lo : Nat) (t : Tab α) (w : twfFrom d lo t = true) :
    twfFrom d lo (t.filter f) = true := by
  induction t generalizing lo with
  | nil => rfl
  | cons p t ih =>
    obtain ⟨i, a⟩ := p
    simp only [twfFrom, Bool.and_eq_true, decide_eq_true_eq] at w
    by_cases hf : f (i, a) = true
    · simp only [List.filter_cons, hf, if_true, twfFrom, Bool.and_eq_true, decide_eq_true_eq]
      exact ⟨w.1, ih _ w.2⟩
    · simp only [List.filter_cons, hf]
      exact twfFrom_mono d lo (i + 1) _ (by omega) (ih _ w.2)

theorem twfFrom_tput {α : Type} [DecidableEq α] (d : α) (lo k : Nat) (t : Tab α) (v : α) (hk : lo ≤ k) (w : twfFrom d lo t = true) :
    twfFrom d lo (tput d t k v) = true := by
  induction t generalizing lo with
  | nil => by_cases hv : v = d <;> simp [tput, twfFrom, hv, hk]
  | cons p t ih =>
    obtain ⟨i, a⟩ := p
    simp only [twfFrom, Bool.and_eq_true, decide_eq_true_eq] at w
    by_cases h1 : i < k
    · simp only [tput, h1, if_true, twfFrom, Bool.and_eq_true, decide_eq_true_eq]
      exact ⟨w.1, ih _ (by omega) w.2⟩
    · by_cases h2 : i = k
      · subst h2
        by_cases hv : v = d
        · simp only [tput, hv, lt_irrefl, if_false, if_true, tdrop]
          exact twfFrom_mono d lo (i + 1) _ (by omega) (twfFrom_filter d _ _ _ w.2)
        · simp only [tput, hv, lt_irrefl, if_false, if_true, twfFrom, Bool.and_eq_true, decide_eq_true_eq]
          exact ⟨⟨hk, hv⟩, w.2⟩
      · by_cases hv : v = d
        · simp only [tput, h1, h2, hv, if_false, if_true, tdrop, twfFrom, Bool.and_eq_true, decide_eq_true_eq]
          exact ⟨w.1, twfFrom_filter d _ _ _ w.2⟩
        · simp only [tput, h1, h2, hv, if_false, twfFrom, Bool.and_eq_true, decide_eq_true_eq]
          exact ⟨⟨hk, hv⟩, ⟨by omega, w.1.2⟩, w.2⟩

/-- A write keeps the canonical form. -/
theorem twf_tput {α : Type} [DecidableEq α] (d : α) (t : Tab α) (k : Nat) (v : α) (w : twf d t = true) : twf d (tput d t k v) = true :=
  twfFrom_tput d 0 k t v (Nat.zero_le k) w

theorem twf_tmod {α : Type} [DecidableEq α] (d : α) (t : Tab α) (k : Nat) (f : α → α) (w : twf d t = true) :
    twf d (tmod d t k f) = true := twf_tput d t k _ w

end Sys2Proof.Laws
end

