-- ==== Sys2Proof/Laws/Memory.lean ====
section
/-! SUPPORT. Writes of consecutive bytes: what each address reads as afterwards, and that they keep the canonical form. -/

namespace Sys2Proof.Laws

open Sys2Proof Sys2Proof.Machine

theorem tget_append {α : Type} (d : α) (a b : Tab α) (k : Nat) (h : ∀ p ∈ a, p.1 ≠ k) : tget d (a ++ b) k = tget d b k := by
  induction a with
  | nil => rfl
  | cons p t ih =>
    obtain ⟨i, x⟩ := p
    have h1 : i ≠ k := h (i, x) (by simp)
    simp only [List.cons_append, tget, h1, if_false]
    exact ih (fun p hp => h p (by simp [hp]))

theorem tget_none {α : Type} (d : α) (t : Tab α) (k : Nat) (h : ∀ p ∈ t, p.1 ≠ k) : tget d t k = d := by
  have := tget_append d t [] k h
  simpa [tget] using this

/-- A filter that keeps every entry of key `k`. -/
theorem tget_filter {α : Type} (d : α) (f : Nat × α → Bool) (t : Tab α) (k : Nat) (h : ∀ a, f (k, a) = true) :
    tget d (t.filter f) k = tget d t k := by
  induction t with
  | nil => rfl
  | cons p t ih =>
    obtain ⟨i, a⟩ := p
    by_cases hi : i = k
    · subst hi; simp [h a, tget]
    · by_cases hf : f (i, a) = true
      · simp [hf, tget, hi, ih]
      · simp [hf, tget, hi, ih]

theorem tget_append_left {α : Type} (d : α) (a b : Tab α) (k : Nat) (h : ∀ p ∈ b, p.1 ≠ k) : tget d (a ++ b) k = tget d a k := by
  induction a with
  | nil => exact tget_none d b k h
  | cons p t ih =>
    obtain ⟨i, x⟩ := p
    simp only [List.cons_append, tget, ih]

theorem listed_keys (a : Nat) (bs : List Byte) : ∀ p ∈ listed a bs, a ≤ p.1 ∧ p.1 < a + bs.length := by
  induction bs generalizing a with
  | nil => simp [listed]
  | cons b t ih =>
    intro p hp
    simp only [listed] at hp
    split at hp
    · have := ih (a + 1) p hp
      simp only [List.length_cons]; omega
    · simp only [List.mem_cons] at hp
      rcases hp with rfl | hp
      · simp
      · have := ih (a + 1) p hp
        simp only [List.length_cons]; omega

theorem tget_listed (a k : Nat) (bs : List Byte) (h : k < bs.length) : tget 0 (listed a bs) (a + k) = bs.getD k 0 := by
  induction bs generalizing a k with
  | nil => simp at h
  | cons b t ih =>
    simp only [listed]
    cases k with
    | zero =>
      split
      · rename_i hb
        have := tget_none (0 : Byte) (listed (a + 1) t) (a + 0) (fun p hp => by have := listed_keys (a + 1) t p hp; omega)
        simpa [hb] using this
      · simp [tget]
    | succ n =>
      have hn : n < t.length := by simpa using h
      have e : a + (n + 1) = (a + 1) + n := by omega
      split
      · rw [e, ih (a + 1) n hn]; simp
      · rw [e]
        have : a ≠ a + 1 + n := by omega
        simp only [tget, this, if_false, ih (a + 1) n hn]; simp

/-- A byte outside the written range reads as before. -/
theorem tget_writeBytes_outside (t : Tab Byte) (a x : Nat) (bs : List Byte) (h : x < a ∨ a + bs.length ≤ x) :
    tget 0 (writeBytes t a bs) x = tget 0 t x := by
  unfold writeBytes
  rcases h with h | h
  · rw [tget_append_left, tget_append_left, tget_filter]
    · intro v; simpa using h
    · intro p hp; have := listed_keys a bs p hp; omega
    · intro p hp
      have := (List.mem_filter.mp hp).2
      simp only [decide_eq_true_eq] at this; omega
  · rw [List.append_assoc, tget_append, tget_append, tget_filter]
    · intro v; simpa using h
    · intro p hp; have := listed_keys a bs p hp; omega
    · intro p hp
      have := (List.mem_filter.mp hp).2
      simp only [decide_eq_true_eq] at this; omega

/-- A written byte reads back. -/
theorem tget_writeBytes_inside (t : Tab Byte) (a k : Nat) (bs : List Byte) (h : k < bs.length) :
    tget 0 (writeBytes t a bs) (a + k) = bs.getD k 0 := by
  unfold writeBytes
  rw [List.append_assoc, tget_append, tget_append_left, tget_listed a k bs h]
  · intro p hp
    have := (List.mem_filter.mp hp).2
    simp only [decide_eq_true_eq] at this; omega
  · intro p hp
    have := (List.mem_filter.mp hp).2
    simp only [decide_eq_true_eq] at this; omega

theorem twfFrom_append {α : Type} [DecidableEq α] (d : α) (lo mid : Nat) (a b : Tab α) (ha : twfFrom d lo a = true)
    (hlt : ∀ p ∈ a, p.1 < mid) (hm : lo ≤ mid) (hb : twfFrom d mid b = true) : twfFrom d lo (a ++ b) = true := by
  induction a generalizing lo with
  | nil => exact twfFrom_mono d lo mid b hm hb
  | cons p t ih =>
    obtain ⟨i, x⟩ := p
    simp only [twfFrom, Bool.and_eq_true, decide_eq_true_eq] at ha
    simp only [List.cons_append, twfFrom, Bool.and_eq_true, decide_eq_true_eq]
    have hi : i < mid := hlt (i, x) (by simp)
    exact ⟨ha.1, ih (i + 1) ha.2 (fun p hp => hlt p (by simp [hp])) (by omega)⟩

theorem twf_listed (a : Nat) (bs : List Byte) : twfFrom 0 a (listed a bs) = true := by
  induction bs generalizing a with
  | nil => rfl
  | cons b t ih =>
    simp only [listed]
    split
    · exact twfFrom_mono 0 a (a + 1) _ (by omega) (ih (a + 1))
    · rename_i hb
      simp only [twfFrom, Bool.and_eq_true, decide_eq_true_eq]
      exact ⟨⟨le_refl a, hb⟩, ih (a + 1)⟩

theorem twfFrom_above (lo k : Nat) (t : Tab Byte) (w : twfFrom 0 lo t = true) (h : ∀ p ∈ t, k ≤ p.1) : twfFrom 0 k t = true := by
  cases t with
  | nil => rfl
  | cons p t =>
    obtain ⟨i, a⟩ := p
    simp only [twfFrom, Bool.and_eq_true, decide_eq_true_eq] at w ⊢
    exact ⟨⟨h (i, a) (by simp), w.1.2⟩, w.2⟩

/-- A write of bytes keeps the canonical form. -/
theorem twf_writeBytes (t : Tab Byte) (a : Nat) (bs : List Byte) (w : twf 0 t = true) : twf 0 (writeBytes t a bs) = true := by
  unfold twf writeBytes at *
  have h1 := twfFrom_filter (0 : Byte) (fun p => decide (p.1 < a)) 0 t w
  have h3 := twfFrom_filter (0 : Byte) (fun p => decide (a + bs.length ≤ p.1)) 0 t w
  have h3' : twfFrom 0 (a + bs.length) (t.filter (fun p => decide (a + bs.length ≤ p.1))) = true :=
    twfFrom_above 0 _ _ h3 (fun p hp => by simpa using (List.mem_filter.mp hp).2)
  rw [List.append_assoc]
  refine twfFrom_append 0 0 a _ _ h1 (fun p hp => by simpa using (List.mem_filter.mp hp).2) (by omega) ?_
  exact twfFrom_append 0 a (a + bs.length) _ _ (twf_listed a bs) (fun p hp => (listed_keys a bs p hp).2) (by omega) h3'

/-- A store into the memory side keeps its canonical form. -/
theorem twf_storeMem (s : State) (pa : Nat) (bs : List Byte) (w : twf 0 s.mem.bytes = true) : twf 0 (storeMem s pa bs).mem.bytes = true :=
  twf_writeBytes s.mem.bytes pa bs w

/-- The memory side of the machine at reset is in canonical form. -/
theorem twf_reset : twf 0 State.reset.mem.bytes = true := rfl

end Sys2Proof.Laws
end

