-- ==== Sys2Proof/Laws/Step.lean ====
section
/-! SUPPORT. What the four wrappers of a command's effect answer, said once: `live` (commands of a running die), `work` and `atEdge` among them, `pins`
(Mute and warm reset), `always` (supplies, fuses, test access port), and the machine at cold reset. -/

namespace Sys2Proof.Laws

open Sys2Proof Sys2Proof.Machine Sys2Proof.Safety

/-- A command of a running die on a die that is up. -/
theorem live_up {s : State} {f : State → State} (h : up s) : live s f = .next (keepOuter s (f s)) := by
  unfold up at h; simp [live, h]

/-- A command of a running die on a die held still. -/
theorem live_still {s : State} {f : State → State} (h : still s = true) : live s f = .next s := by
  simp [live, h]

/-- A command that is work of the breath, on a die that is up. -/
theorem work_up {s : State} {f : State → State} (h : up s) : work s f = .next (keepOuter s (f (inBreath s))) := live_up h

/-- A change of a boundary, on a die that is up: before any work of the breath, and not after it. -/
theorem atEdge_up {s : State} {f : State → State} (h : up s) (he : s.edge = true) : atEdge s f = .next (keepOuter s (f s)) := by
  unfold atEdge
  rw [live_up h]
  simp [he]

theorem atEdge_late {s : State} {f : State → State} (h : up s) (he : s.edge = false) : atEdge s f = .next s := by
  unfold atEdge
  rw [live_up h]
  simp only [he, Bool.false_eq_true, if_false]
  rfl

theorem up_iff (s : State) : up s ↔ s.rstLow = false ∧ s.mute.muted = false ∧ s.powered = true := by
  simp [up, still, and_assoc]

/-- An effect that leaves the pins, supplies, fuses, the test access port and the waiting commands passes through unchanged. -/
theorem keepOuter_of_same {s t : State} (h1 : t.pending = s.pending) (h2 : t.cascId = s.cascId) (h3 : t.rstLow = s.rstLow)
    (h4 : t.powered = s.powered) (h5 : t.fuses = s.fuses) (h6 : t.newFuses = s.newFuses) (h7 : t.tap = s.tap) : keepOuter s t = t := by
  cases s; cases t; simp_all [keepOuter]

@[simp] theorem keepOuter_self (s : State) : keepOuter s s = s := rfl

/-- Whatever a command of a running die does, these stay. -/
theorem live_keeps {s t : State} {f : State → State} (h : live s f = .next t) :
    t.pending = s.pending ∧ t.cascId = s.cascId ∧ t.rstLow = s.rstLow ∧ t.powered = s.powered ∧ t.fuses = s.fuses ∧
      t.newFuses = s.newFuses ∧ t.tap = s.tap := by
  unfold live at h
  injection h with h
  subst h
  split <;> simp

theorem pins_keeps {s t : State} {f : State → State} (h : pins s f = .next t) :
    t.pending = s.pending ∧ t.cascId = s.cascId ∧ t.rstLow = s.rstLow ∧ t.powered = s.powered ∧ t.fuses = s.fuses ∧
      t.newFuses = s.newFuses ∧ t.tap = s.tap := by
  unfold pins at h
  injection h with h
  subst h
  simp

/-- Every command but those of Safety.reachesStill is a command of a running die. -/
theorem exec_live (c : Instr) (s : State) (h : reachesStill c = false) : ∃ f, exec c s = live s f := by
  cases c <;> first
    | (simp only [exec, execDoorbellWrite, execQctrlWrite, execCplErrClear, execRegisterWrite, execBreathInPulse, execBreathMiss,
    execFreeRunBoundary, execBreathPulseTimer, execMarkerSend, execBreathMarker, execMarkerCountdown,
    execQueueClosed, execCommandCopy, execNegotiate, execNop, execAttFwd, execAttBwd, execSeqAlloc, execSeqAppend,
    execSeqFork, execSeqFree, execPageMigrate, execTierHint, execPtcInval, execBankStage, execFaultDone,
    execAllGather, execReduceScatter, execAllReduce, execBroadcast, execRingPass, execScoutMax, execGroupSet,
    execSoftmax, execRmsNorm, execFunc, execTestPack, execMemScrub, execMemoryReadResponse,
    execMemoryWriteResponse, execCompletionRecordWrite, execStreamArm, execTaskDispatch, execTaskDrain,
    execTaskOverrun, execWaitTimeout, execWindowOpen, execWindowClose, execCounterWait, execWindowWrite,
    execPageWalk, execFaultRecordPost, execFctrlWrite, execRingErrClear, execFaultHeadWrite, execTaskReissue,
    execBankSwap, execPoolReturn, execPageCopyDone, execPageSwitch, execAltFrameReturn, execImageLoad,
    execImageCancel, execCtxAlloc, execCtxBind, execCtxRelease, execCoreBind, execUnitEvent, execBellLog,
    execFwReady, execMailboxDoneClear, execImageVerified, execRejectReport, execRefold, execRefoldTimeout,
    execRetirementRefold, execCtxFence, execCtxScrubDone, execCtxScrubbed, execCoreRebind, execSeqtSelect,
    execUnitHistorySelect, execPerfFreeze, execPfTagsWrite, execBrthEvcntWrite, execIrqPendingClear,
    execUnitFaultDetected, execClusterResetDone, execSpareSubstitution, execDieLost, execExchangeTimeout,
    execRestoration, execHistoryWrite, execFwHang, execBootReady, execMuteRunt, execBellEventLog, execBellFlush,
    execBellFlushDone, execSensorSample, execLinkCodeword, execRetry, execCredit, execLaneMap, execEcho,
    execLinkRetrain, execLinkDown, execLaneRetire, execDataPacket, execAgreementRecord, execPieceChunk,
    execStreamEndMarker, execDoneMsg, execFailMsg, execRejoin, execRejoinReply, execCommitMsg, execRestartMsg,
    execBufferWaitExpiry, execLinkTrained, execBridgeTrainingDone, execMailboxReservedOp]
       exact ⟨_, rfl⟩)
    | (cases h)

/-- The machine at cold reset is at its reset values: doing it twice does no more. -/
@[simp] theorem coldState_coldState (s : State) : coldState (coldState s) = coldState s := rfl

@[simp] theorem coldState_pending (s : State) : (coldState s).pending = s.pending := rfl
@[simp] theorem coldState_cascId (s : State) : (coldState s).cascId = s.cascId := rfl
@[simp] theorem coldState_powered (s : State) : (coldState s).powered = s.powered := rfl
@[simp] theorem coldState_rstLow (s : State) : (coldState s).rstLow = true := rfl
@[simp] theorem coldState_fuses (s : State) : (coldState s).fuses = s.fuses := rfl
@[simp] theorem coldState_newFuses (s : State) : (coldState s).newFuses = s.newFuses := rfl
@[simp] theorem coldState_tap (s : State) : (coldState s).tap = s.tap := rfl
@[simp] theorem coldState_mute (s : State) : (coldState s).mute = {} := rfl
@[simp] theorem coldReset_pending (s : State) : (coldReset s).pending = s.pending := rfl
@[simp] theorem coldReset_cascId (s : State) : (coldReset s).cascId = s.cascId := rfl
@[simp] theorem coldReset_powered (s : State) : (coldReset s).powered = s.powered := rfl
@[simp] theorem coldReset_rstLow (s : State) : (coldReset s).rstLow = true := rfl
@[simp] theorem coldReset_fuses (s : State) : (coldReset s).fuses = s.fuses := rfl
@[simp] theorem coldReset_newFuses (s : State) : (coldReset s).newFuses = s.newFuses := rfl
@[simp] theorem coldReset_tap (s : State) : (coldReset s).tap = s.tap := rfl
@[simp] theorem coldReset_mute (s : State) : (coldReset s).mute = {} := rfl

/-- A cold reset leaves the machine at its reset values. -/
theorem coldReset_held (s : State) : coldReset s = coldState (coldReset s) := rfl

end Sys2Proof.Laws
end

