-- ==== Sys2Proof/WellFormed.lean ====
section
/-! DEFINITION. Well-formed commands: operands inside the ranges that the spec gives them. A command outside them has no
counterpart at the die; its meaning is total all the same (log 15). -/

namespace Sys2Proof

/-- A queue of the register window (R24). -/
def queueOk (q : Nat) : Bool := decide (q < 392)
/-- A queue of one engine (Table 2.1). -/
def queueIn (lo hi q : Nat) : Bool := decide (lo ≤ q) && decide (q ≤ hi)
/-- A logical core: logical cluster × 8 + core (R188). -/
def coreOk (k : Nat) : Bool := decide (k < 64)
/-- A thread of a core (Table 1.1). -/
def threadOk (t : Nat) : Bool := decide (t < 32)
/-- A window of a core (R183). -/
def winOk (w : Nat) : Bool := decide (w < 64)
/-- An arrival counter of a core (R188). -/
def counterOk (j : Nat) : Bool := decide (j < 1024)
/-- A die of a package, by CASC_ID. -/
def dieOk (d : Nat) : Bool := decide (d < 4)
/-- A logical or physical cluster. -/
def clusterOk (n : Nat) : Bool := decide (n < 8)
/-- A physical lane of the link (R299). -/
def laneOk (n : Nat) : Bool := decide (n < 36)
/-- A group of the Collective Engine (R275). -/
def groupOk (g : Nat) : Bool := decide (g < 256)
/-- A rank of a group of at most 256 members. -/
def tagOk (t : UnitTag) : Bool := groupOk t.group && decide (t.rank < 256)
/-- Rows and segments of a task (R152). -/
def shapeOk (t : TaskShape) : Bool :=
  decide (1 ≤ t.rows) && (decide (t.kind ≠ .part) || (decide (1 ≤ t.segCount) && decide (2 ^ Nat.log2 t.segCount = t.segCount)))
/-- Who asks for a translation. -/
def requesterOk (r : Requester) : Bool :=
  match r with
  | .task c t => coreOk c && threadOk t
  | .item q _ => queueOk q
  | .prefetch => true
/-- A fuse of R402. -/
def fuseOk (t : FuseTarget) : Bool :=
  match t with
  | .digest slot _ => decide (slot < 4)
  | .revoke slot => decide (slot < 4)
  | .mfr _ => true
  | .lock => true

/-- The checks of each command's operands. -/
def Instr.wf (i : Instr) : Bool :=
  match i with
  | .doorbellWrite q _ _ => queueOk q
  | .qctrlWrite q _ => queueOk q
  | .cplErrClear q => queueOk q
  | .registerWrite o _ _ => decide (o < 2 ^ 25) && decide (o % 4 = 0)
  | .breathInPulse _ high _ => decide (1 ≤ high)
  | .breathMiss => true
  | .freeRunBoundary => true
  | .breathPulseTimer => true
  | .markerSend _ => true
  | .breathMarker port _ _ _ _ => match port with
    | .link => true
    | .bridge d => dieOk d
  | .markerCountdown => true
  | .queueClosed q => queueOk q
  | .commandCopy q _ _ => queueOk q
  | .negotiate q _ => queueOk q
  | .nop q _ => queueOk q
  | .attFwd q _ => queueIn 0 63 q
  | .attBwd q _ => queueIn 0 63 q
  | .seqAlloc q _ => queueIn 64 95 q
  | .seqAppend q _ => queueIn 64 95 q
  | .seqFork q _ => queueIn 64 95 q
  | .seqFree q _ => queueIn 64 95 q
  | .pageMigrate q _ => queueIn 64 95 q
  | .tierHint q _ => queueIn 64 95 q
  | .ptcInval q _ => queueIn 64 95 q
  | .bankStage q _ => queueIn 64 95 q
  | .faultDone q _ => queueIn 64 95 q
  | .allGather q _ => queueIn 96 351 q
  | .reduceScatter q _ => queueIn 96 351 q
  | .allReduce q _ => queueIn 96 351 q
  | .broadcast q _ => queueIn 96 351 q
  | .ringPass q _ => queueIn 96 351 q
  | .scoutMax q _ => queueIn 96 351 q
  | .groupSet q _ => queueIn 96 351 q
  | .softmax q _ => queueIn 352 383 q
  | .rmsNorm q _ => queueIn 352 383 q
  | .func q _ => queueIn 352 383 q
  | .testPack q _ core record _ => queueIn 384 391 q && decide (core < 72) && decide (record < 4096)
  | .memScrub q _ => queueIn 384 391 q
  | .memoryReadResponse _ _ _ _ => true
  | .memoryWriteResponse _ _ => true
  | .completionRecordWrite q => queueOk q
  | .streamArm core slot _ => coreOk core && decide (slot < 128)
  | .taskDispatch q _ core thread shape => queueOk q && coreOk core && threadOk thread && shapeOk shape
  | .taskDrain core thread => coreOk core && threadOk thread
  | .taskOverrun => true
  | .waitTimeout core thread => coreOk core && threadOk thread
  | .windowOpen core thread win _ lenU acFirst acNum =>
    coreOk core && threadOk thread && winOk win && decide (1 ≤ lenU) && decide (acFirst + acNum ≤ 1024)
  | .windowClose core win => coreOk core && winOk win
  | .counterWait core thread counter _ => coreOk core && threadOk thread && counterOk counter
  | .windowWrite core win _ _ _ writer _ => coreOk core && winOk win && coreOk writer
  | .pageWalk _ _ _ _ who => requesterOk who
  | .faultRecordPost => true
  | .fctrlWrite _ => true
  | .ringErrClear => true
  | .faultHeadWrite _ => true
  | .taskReissue q _ => queueOk q
  | .bankSwap => true
  | .poolReturn => true
  | .pageCopyDone lpn => decide (lpn < 2 ^ 28)
  | .pageSwitch lpn => decide (lpn < 2 ^ 28)
  | .altFrameReturn lpn => decide (lpn < 2 ^ 28)
  | .imageLoad _ _ _ _ => true
  | .imageCancel _ _ => true
  | .ctxAlloc _ _ => true
  | .ctxBind _ _ _ _ => true
  | .ctxRelease _ _ _ => true
  | .coreBind _ _ _ _ => true
  | .unitEvent _ _ _ => true
  | .bellLog _ _ _ _ => true
  | .fwReady _ _ => true
  | .mailboxDoneClear _ => true
  | .imageVerified _ => true
  | .rejectReport _ => true
  | .refold _ _ => true
  | .refoldTimeout _ => true
  | .retirementRefold _ => true
  | .ctxFence => true
  | .ctxScrubDone => true
  | .ctxScrubbed => true
  | .coreRebind core => coreOk core
  | .seqtSelect _ => true
  | .unitHistorySelect _ => true
  | .perfFreeze _ => true
  | .pfTagsWrite _ => true
  | .brthEvcntWrite _ => true
  | .irqPendingClear word _ => decide (word ≤ 7)
  | .unitFaultDetected _ _ _ => true
  | .clusterResetDone n => clusterOk n
  | .spareSubstitution _ => true
  | .dieLost die => dieOk die
  | .exchangeTimeout q _ _ => queueOk q
  | .restoration _ => true
  | .historyWrite _ => true
  | .fwHang core => decide (core ≤ 8)
  | .warmReset _ _ => true
  | .coldReset => true
  | .coldBoot _ => true
  | .bootReady => true
  | .muteEnter lowAc => decide (8 ≤ lowAc)
  | .muteRunt lowAc => decide (1 ≤ lowAc) && decide (lowAc < 8)
  | .muteSideband die => dieOk die
  | .muteExit high _ => decide (8 ≤ high)
  | .bellEventLog => true
  | .bellFlush => true
  | .bellFlushDone _ => true
  | .sensorSample temps _ _ _ => decide (temps.length = 32)
  | .stateRead _ => true
  | .fuseProgram t => fuseOk t
  | .extest => true
  | .idcode => true
  | .samplePreload => true
  | .ijtag => true
  | .bypass => true
  | .linkCodeword a b c d e => decide (a.length = 8) && decide (b.length = 8) && decide (c.length = 8) && decide (d.length = 8) &&
      decide (e.length = 4) && (a ++ b ++ c ++ d ++ e).all (fun l => l.all (fun x => decide (x < 1024)))
  | .retry _ => true
  | .credit freed cls1 => decide (freed.length = 8) && decide (cls1.length = 8)
  | .laneMap lane spare _ => decide (lane < 32) && decide (32 ≤ spare) && laneOk spare
  | .echo _ _ _ _ _ => true
  | .linkRetrain => true
  | .linkDown => true
  | .laneRetire lane _ => laneOk lane
  | .dataPacket vc _ header first rest => decide (vc < 8) && decide (header.length = 24) && decide (first.length ≤ 230) &&
      decide (rest.length ≤ 16) && rest.all (fun f => decide (f.length ≤ 254))
  | .agreementRecord t _ => tagOk t
  | .pieceChunk t _ _ data => tagOk t && decide (data.length ≤ 4096)
  | .streamEndMarker t _ _ => tagOk t
  | .doneMsg t => tagOk t
  | .failMsg t _ _ => tagOk t
  | .rejoin t => tagOk t
  | .rejoinReply t _ => tagOk t
  | .commitMsg t => tagOk t
  | .restartMsg t => tagOk t
  | .bufferWaitExpiry g => groupOk g
  | .linkTrained good _ die _ => good.all laneOk && dieOk die
  | .bridgeTrainingDone die modules => dieOk die && decide (modules ≤ 16)
  | .powerLoss => true
  | .mailboxReservedOp _ _ op => !([0x01, 0x02, 0x03, 0x04, 0x05, 0x10, 0x11, 0x12, 0x13].contains op.toNat)
  | .tapReset => true

end Sys2Proof
end

