-- ==== Sys2Proof/Tests/Slice0.lean ====
section
/-! SUPPORT. Tests: an ill-formed command for each check of WellFormed; for each statement of the certificate that has
hypotheses a state and operands that meet them, clause by clause; and one-step tests from the spec's own examples. -/

namespace Sys2Proof.Tests

set_option Elab.async false

open Sys2Proof Sys2Proof.Machine Sys2Proof.Safety

/-! ### States for the tests -/

/-- A stage entry for layers 0 to 3 on the eight cores of cluster 0. -/
def layer0 : StageEntry :=
  { layerFirst := 0, layerCount := 4, cluster := 0, coreMask := 0xFF, threads := 16, accTask := 1024, spTask := 4096, spKv := 65536,
    spWin := 4096, spRow := 256, trMax := 8, tk := 64, fill := 8 }
def image0 : Load := { pa := 0, length := 4096, tag := 7, image := { imageId := 5, variant := 1, stages := [layer0] } }
def cluster0 : Cluster := { phys := 0, map := [0, 1, 2, 3, 4, 5, 6, 7], spare := 8, spareLines := 1310 }
/-- A running Kiqua-8 in breath 10: one cluster in service, core 0 bound to context 5, the pages of VA 0 to 2^30 mapped. -/
def die : State := { State.reset with
  rstLow := false, caps := [0x101, 0, 0, 0, 0, 0, 0, 0], breath := { num := 10 }
  reed := { booted := true, st := .running, active := some image0 }
  clusters := [(0, cluster0)], cores := [(0, { bind := 1, ctx := 5 })]
  tr := { drootEn := true, ctxtEn := true
          active := [{ cls := .d, ctx := 0, size := 30, page := 0, frame := 0, r := true, w := true, pinned := false }] } }

/-- The same state at the boundary that opened its breath (R72). -/
def atBoundary (s : State) : State := { s with edge := true }
/-- A command from (byte offset, value) pairs. -/
def command (l : List (Nat × Nat)) : BitVec 512 := BitVec.ofNat 512 (l.foldl (fun n p => n + p.2 * 2 ^ (8 * p.1)) 0)
/-- An item of a queue that has passed its checks and may begin. -/
def ready (q : Nat) (l : List (Nat × Nat)) : Item := { q := q, idx := 3, cmd := command l, stage := .accepted, checked := true }
def busy (q : Nat) (l : List (Nat × Nat)) : Item := { ready q l with stage := .executing, begun := true }
def withItem (i : Item) : State := { die with items := [i] }
def task0 : Task :=
  { core := 0, thread := 2, q := 0, idx := 3, ctx := 5, serial := 0, dispatched := 10,
    shape := { kind := .wholeRow, rowFirst := 0, rows := 1, segFirst := 0, segCount := 1 } }
def withTask (k : Task) : State := { withItem { busy 0 [(1, 0x10), (8, 5)] with nRows := 1 } with tasks := [k] }
/-- A command of one of the three engines whose item begins at once. -/
def queue1 : Queue := { st := 2, en := true, log2 := 4, negVer := 0x10 }
def withQueue (v : Queue) : State := { die with queues := [(0, v)] }
def request (o : Owner) (pool : Nat) : Req :=
  { tag := some 7, pool := pool, owner := o, write := true, pa := 512, len := 2, data := [1, 2], ctx := 0, addr := 0 }
def withRequest (r : Req) : State := { die with mem := { die.mem with reqs := [r] } }

/-! ### Ill-formed commands -/

theorem test_wf_queue : Instr.wf (.doorbellWrite 392 true 0) = false ∧ Instr.wf (.doorbellWrite 391 true 0) = true := by decide
theorem test_wf_register : Instr.wf (.registerWrite (2 ^ 25) true 0) = false ∧ Instr.wf (.registerWrite 2 true 0) = false := by decide
theorem test_wf_pulse : Instr.wf (.breathInPulse 20 0 0) = false := by decide
theorem test_wf_bridge : Instr.wf (.breathMarker (.bridge 4) 0 0 0 0) = false ∧ Instr.wf (.dieLost 4) = false := by decide
theorem test_wf_engine_queues : Instr.wf (.attFwd 64 0) = false ∧ Instr.wf (.seqAlloc 96 0) = false ∧ Instr.wf (.allGather 352 0) = false ∧
    Instr.wf (.softmax 351 0) = false ∧ Instr.wf (.memScrub 383 0) = false := by decide
theorem test_wf_test_pack : Instr.wf (.testPack 384 0 72 0 true) = false ∧ Instr.wf (.testPack 384 0 0 4096 true) = false := by decide
theorem test_wf_stream : Instr.wf (.streamArm 64 0 0) = false ∧ Instr.wf (.streamArm 0 128 0) = false := by decide
theorem test_wf_shape : Instr.wf (.taskDispatch 0 0 0 32 task0.shape) = false ∧
    Instr.wf (.taskDispatch 0 0 0 0 { task0.shape with rows := 0 }) = false ∧
    Instr.wf (.taskDispatch 0 0 0 0 { task0.shape with kind := .part, segCount := 3 }) = false := by decide
theorem test_wf_window : Instr.wf (.windowOpen 0 0 64 0 1 0 1) = false ∧ Instr.wf (.windowOpen 0 0 0 0 0 0 1) = false ∧
    Instr.wf (.windowOpen 0 0 0 0 1 1024 1) = false ∧ Instr.wf (.counterWait 0 0 1024 0) = false := by decide
theorem test_wf_page : Instr.wf (.pageSwitch (2 ^ 28)) = false ∧ Instr.wf (.pageWalk .d 0 0 false (.task 64 0)) = false := by decide
theorem test_wf_pins : Instr.wf (.muteEnter 7) = false ∧ Instr.wf (.muteRunt 8) = false ∧ Instr.wf (.muteExit 7 0) = false := by decide
theorem test_wf_fuse : Instr.wf (.fuseProgram (.digest 4 0)) = false ∧ Instr.wf (.fuseProgram (.revoke 4)) = false := by decide
theorem test_wf_sensor : Instr.wf (.sensorSample [] 0 0 0) = false ∧ Instr.wf (.irqPendingClear 8 0) = false := by decide
theorem test_wf_link : let e : List (List Nat) := List.replicate 8 []
    Instr.wf (.linkCodeword e e e e (List.replicate 3 [])) = false ∧ Instr.wf (.linkCodeword e e e e (List.replicate 4 [1024])) = false ∧
      Instr.wf (.linkCodeword e e e e (List.replicate 4 [1023])) = true ∧
      Instr.wf (.credit [] []) = false ∧ Instr.wf (.laneMap 32 32 0) = false ∧ Instr.wf (.laneRetire 36 true) = false ∧
      Instr.wf (.bridgeTrainingDone 0 17) = false ∧ Instr.wf (.dataPacket 8 false (List.replicate 24 0) [] []) = false ∧
      Instr.wf (.dataPacket 0 false [] [] []) = false := by
  decide
def tag0 : UnitTag := { group := 0, kind := false, sn := 0, attempt := 0, rank := 1, piece := 0 }
theorem test_wf_tag : Instr.wf (.doneMsg { tag0 with group := 256 }) = false ∧ Instr.wf (.rejoin { tag0 with rank := 256 }) = false ∧
    Instr.wf (.bufferWaitExpiry 256) = false := by decide
theorem test_wf_mailbox : Instr.wf (.mailboxReservedOp .host 0 0x12) = false ∧ Instr.wf (.fwHang 9) = false ∧
    Instr.wf (.clusterResetDone 8) = false := by decide

/-! ### What meets the hypotheses of each statement -/

theorem test_die_is_up : up die ∧ running die = true ∧ isK5 die = false ∧ powerOrder die := by
  refine ⟨?_, ?_, ?_, ?_⟩ <;> decide +kernel

theorem witness_step : (State.reset).pending = [] ∧ Sys2Proof.core.run 1 { die with pending := [.bypass] } =
    .next { die with pending := [], tap := { ir := .bypass, captured := 0 } } := ⟨rfl, rfl⟩

theorem witness_invariant : Sound die ∧ step { die with pending := [.bypass] } = .next { die with tap := { ir := .bypass, captured := 0 } } :=
  ⟨⟨fun h => absurd h (by decide), by decide⟩, rfl⟩

theorem witness_still : still { die with mute := { muted := true } } = true ∧ reachesStill .linkRetrain = false ∧
    still { die with rstLow := true } = true ∧ still { die with powered := false } = true := by decide +kernel

theorem witness_fuses : (State.reset).rstLow = true ∧ (State.reset).powered = true ∧ die.rstLow = false ∧
    (State.reset).newFuses.lock = false ∧ (State.reset).newFuses.mfrSet = false ∧ (∀ p ∈ (State.reset).newFuses.digests, p.1 ≠ 3) ∧
    exec (.fuseProgram .lock) State.reset = .next { State.reset with newFuses := { lock := true } } := by
  refine ⟨rfl, rfl, rfl, rfl, rfl, ?_, rfl⟩; decide

theorem witness_overrun : let s := { withTask task0 with items := [], breath := { die.breath with num := 12 } }
    findTask s 0 2 = some task0 ∧ pastDeadline s task0 = true ∧ (∀ it, findItem s 0 3 = some it → isLong s it task0.shape = false) := by
  refine ⟨by decide, by decide, ?_⟩
  intro it h
  exact absurd h (by simp [findItem])

theorem witness_pf_tags : fld (512 : W64) 9 0 ≤ 512 ∧ 512 < fld (513 : W64) 9 0 := by decide +kernel
theorem witness_offsets : (2 : Nat) % 8 ≠ 0 ∧ 0x30000 ≤ 0x30000 ∧ 0x3FFFF < 0x40000 := by decide +kernel

/-- Pulses on a die with P = 256 us and GUARD = 2 us: at both edges of the window, beside them, in free-run and locked. -/
def timed (b : Breath → Breath) : State := { die with breath := b { die.breath with period := 256, guard := 200, started := true } }
theorem witness_pulses : let s := timed id
    let f := timed (fun b => { b with freeRun := true })
    up s ∧ up f ∧ periodPs s = 256000000 ∧ guardPs s = 2000000 ∧ s.breath.started = true ∧ s.breath.freeRun = false ∧
      258000000 ≤ periodPs s + guardPs s ∧ periodPs s ≤ 254000000 + guardPs s ∧ 253999999 + guardPs s < periodPs s ∧
      periodPs f ≤ 2 * 128000000 ∧ 2 * 127999999 < periodPs f ∧
      (timed (fun b => { b with pulseLock := true })).breath.pulseLock = true ∧
      (timed (fun b => { b with freeRun := true, fromTimer := true })).breath.fromTimer = true ∧
      (timed (fun b => { b with started := false })).breath.started = false := by
  refine ⟨?_, ?_, ?_⟩ <;> decide +kernel

theorem witness_markers : let s := { timed id with breath := { (timed id).breath with src := 1, marker := some { b := 11, remaining := 5, hops := 1 } } }
    up s ∧ s.cascId = 0 ∧ s.breath.src = 1 ∧ s.breath.marker ≠ none ∧ s.breath.upDie.toNat = 0 ∧
      (timed (fun b => { b with announced := some { b := 20, remaining := 0, hops := 0 } })).breath.announced ≠ none ∧
      s.breath.num.toNat + 1 < 2 ^ 64 ∧ (-1 : Int) < 0 ∧ ({ die with cascId := 2 }).cascId ≠ 0 ∧
      (0 : Int) < ({ die with link := { lat := 1 } }).link.lat.toNat ∧ die.breath.src = 0 := by decide +kernel

theorem witness_boundary : let s := { withQueue { queue1 with st := 0 } with breath := { die.breath with freeRun := true } }
    let a := { withQueue { queue1 with cmdTail := 2 } with breath := { die.breath with freeRun := true } }
    up s ∧ s.breath.freeRun = true ∧ s.reed.warm = false ∧ (getQ s 0).st = 0 ∧ (getQ s 0).en = true ∧
      ((getQ s 0).cmdBase.toNat % 2 ^ 10 = 0 ∧ (getQ s 0).cplBase.toNat % 2 ^ 9 = 0) ∧ ¬(1 ≤ ({ queue1 with log2 := 0 } : Queue).log2.toNat) ∧
      up a ∧ running a = true ∧ a.reed.binds = [] ∧ (∀ p ∈ a.queues, p.2.st = 0 ∨ p.2.en = true) ∧
      (a.queues.filter (fun p => admits p.2)).map (fun p => p.1) = [0] := by decide +kernel

theorem witness_doorbell : let s := withQueue queue1
    up s ∧ queuePresent s 0 = true ∧ queuePresent s 391 = true ∧ (getQ s 0).st ≠ 0 ∧ (getQ s 1).st = 0 ∧
      2 ^ (getQ s 0).log2.toNat < ((17 : W32) - (getQ s 0).accHead).toNat ∧
      ¬(2 ^ (getQ s 0).log2.toNat < ((16 : W32) - (getQ s 0).accHead).toNat) ∧
      ¬(2 ^ (getQ s 0).log2.toNat < ((getQ s 0).cplTail - 0).toNat) := by decide +kernel

theorem witness_queue_life : let c := atBoundary (withQueue { queue1 with closing := true })
    let k5 := { die with reed := { die.reed with active := some { image0 with image := { image0.image with variant := 2 } } } }
    let stopped := fun (i : Item) => { withItem i with queues := [(0, { queue1 with cplErr := true, st := 3, stBeforeStop := 2 })] }
    let i := ready 0 [(1, 2)]
    let due := { i with stage := .recordFailed }
    up c ∧ c.edge = true ∧ (getQ c 0).closing = true ∧ (∀ i ∈ c.items, i.q ≠ 0) ∧ queuePresent c 0 = true ∧ up k5 ∧
      queuePresent k5 96 = false ∧ (∃ x ∈ (stopped i).items, x.q = 0) ∧ up (stopped i) ∧ (getQ (stopped i) 0).cplErr = true ∧
      queuePresent (stopped i) 0 = true ∧ (getQ (stopped i) 0).stBeforeStop ≠ 3 ∧
      (stopped due).items.find? (fun x => x.q = 0) = some due ∧ due.stage = .recordFailed ∧
      (stopped i).items.find? (fun x => x.q = 0) = some i ∧ i.stage = .accepted ∧ (getQ c 0).cplErr = false := by decide +kernel

theorem witness_records : let i := { ready 0 [(1, 2)] with stage := .ended, status := 0x15 }
    let s := { withItem i with queues := [(0, queue1)] }
    let r := { request (.record 0 3) 67 with len := 32 }
    let u := { s with mem := { s.mem with reqs := [r] }, items := [{ i with stage := .recordSent }] }
    up s ∧ s.items.find? (fun x => x.q = 0) = some i ∧ (getQ s 0).st ≠ 3 ∧ i.stage = .ended ∧ outputsLeft s 0 i.idx = 0 ∧
      (getQ (withQueue { queue1 with st := 3 }) 0).st = 3 ∧
      ¬(u.items.map (fun x => x.stage) = [.committed] ∨ u.items.map (fun x => x.stage) = [.ended]) ∧
      up u ∧ reqOf u (7 : W16).toNat = some r ∧ r.write = true ∧ r.owner = .record 0 3 ∧ r.pool = 67 ∧
      findItem u 0 3 = some { i with stage := .recordSent } := by decide +kernel

/-- A queue of one admitted item, whose read of its ring slot holds a tag. -/
def copying (q : Nat) (v : Queue) : State :=
  let s := withRequest { request (.command q 3) 67 with write := false, len := 64, data := [] }
  { s with items := [{ q := q, idx := 3 }], queues := [(q, v)] }
theorem witness_copy : let i : Item := { q := 0, idx := 3 }
    let s := copying 0 queue1
    let none_ := { withItem i with queues := [(0, queue1)] }
    up s ∧ s.items.find? (fun x => x.q = 0 && x.stage = .admitted) = some i ∧ (copyReq s 0 3).isSome = true ∧ copyReq none_ 0 3 = none ∧
      none_.items.find? (fun x => x.q = 0 && x.stage = .admitted) = some i ∧ (getQ s 0).closing = false ∧
      s.items.filter (fun x => x.q = 0) = [i] ∧ i.checked = false ∧ i.copyFailed = false ∧ (getQ s 0).st = 2 ∧
      (getQ (copying 0 { queue1 with closing := true }) 0).closing = true := by decide +kernel

/-- Commands that meet each condition of Table 2.11 in turn: another major version, another engine's, another context's, one with
an illegal format, one of no rows, and one that passes. -/
theorem witness_issue_checks : let s := copying 352 queue1
    let ok := command [(0, 0x10), (1, 0x42), (16, 0), (24, 4096), (32, 1), (36, 1), (40, 1), (41, 1), (42, 1)]
    up s ∧ (getQ s 352).closing = false ∧ (getQ s 352).st = 2 ∧ (copyReq s 352 3).isSome = true ∧
      s.items.filter (fun x => x.q = 352) = [{ q := 352, idx := 3 }] ∧
      cmdAt (command [(0, 0x20), (1, 2)]) 0 1 / 16 ≠ (getQ s 352).negVer.toNat / 16 ∧ cmdAt ok 0 1 / 16 = (getQ s 352).negVer.toNat / 16 ∧
      opcodeEngine 0x10 ≠ engineOf 352 ∧ opcodeEngine 0x10 ≠ 5 ∧ opcodeEngine (cmdAt ok 1 1) = engineOf 352 ∧
      cmdAt (command [(8, 9)]) 8 2 % 4096 ≠ (getQ s 352).ctx.toNat ∧ cmdAt ok 8 2 % 4096 = (getQ s 352).ctx.toNat ∧ cmdAt ok 1 1 ≠ 0x01 := by
  decide +kernel

theorem witness_negotiate : let i := ready 0 [(0, 0x10), (1, 1), (16, 0x10)]
    let s := { withItem i with queues := [(0, { queue1 with st := 1, negVer := 0 })] }
    let n := ready 0 [(0, 0x10), (1, 2)]
    up s ∧ findItem s 0 3 = some i ∧ isOpenNegotiate i = true ∧ reservedSet i.cmd = false ∧ cmdAt i.cmd 16 1 = 0x10 ∧ i.behind = false ∧
      isOpenNegotiate { i with behind := true } = true ∧ cmdAt (command [(0, 0x10), (1, 1), (16, 0x0F)]) 16 1 < 0x10 ∧
      findItem (withItem n) 0 3 = some n ∧ n.opcode = 0x02 ∧ mayBegin (withItem n) n = true := by decide +kernel

/-- One row of one column of each Row Engine command, its input at VA 4096. -/
def rowItem (op : Nat) : Item := ready 352 [(1, op), (16, 4096), (24, 8192), (32, 1), (36, 1), (40, 1), (41, 1), (42, 1)]
def rowTask : Task := { task0 with q := 352, ctx := 0, shape := { kind := .rowEngine, rowFirst := 0, rows := 1, segFirst := 0, segCount := 0 } }
/-- The writes of a drain translate, as its statement asks. -/
def sendsOk (s : State) (k : Task) (it : Item) (outs : List Out) (last : Bool) : Bool :=
  (allBlocks s k.ctx (checkOuts s (drainAll s k outs))).toBool && (drainBlocks s k.ctx (drainList s k it outs last)).toBool
theorem witness_rows : ∀ op ∈ [0x40, 0x41, 0x42], let s := withItem (rowItem op)
    let it := { rowItem op with stage := .executing, begun := true, nRows := 1 }
    let d := { withItem it with tasks := [rowTask] }
    up s ∧ itemReady s 352 3 op (rowItem op) ∧ (rowItem op).begun = false ∧ itemReady d 352 3 op it ∧ it.begun = true ∧
      up d ∧ noParts d ∧ drainBegins d 0 2 rowTask it ∧ engineOf rowTask.q = 3 ∧ rowTask.shape.kind = .rowEngine ∧
      (match roeTask (inBreath d) it rowTask.shape with
       | .ok (.fine n, outs) =>
         decide (outs.length = 1) &&
           sendsOk (countVerified (inBreath d) n) rowTask it outs (decide (it.nRows ≤ (roeDone rowTask.shape it).drained.length))
       | _ => false) = true := by decide +kernel

/-- A live sequence of context 5 with layers 0 to 3, one head of 32 elements, and no token. -/
def entry5 : SeqEntry :=
  { ver := 0x10, state := 1, kvFmt := 2, srcFmt := 1, headDim := 32, kvHeads := 1, layerCount := 4, ctx := 5, nextLayer := 4, lastSn := 1, picFmt := 0x10 }
def fields (n : Nat) (l : List (Nat × Nat)) : List Byte := toLE n (l.foldl (fun n p => n + p.2 * 2 ^ (8 * p.1)) 0)
def attItem (op : Nat) : Item :=
  ready 0 [(1, op), (8, 5), (16, 4096), (24, 1), (28, 1), (32, 1), (36, 1), (38, 1), (40, 32), (42, 2)]
def fwdDesc : List Byte :=
  fields 128 [(0, 0x10), (1, 1), (2, 2), (3, 1), (8, 0x3F800000), (40, 64), (44, 128), (56, 0x2000), (64, 0x3000), (72, 0x4000)]
def bwdDesc : List Byte :=
  fields 192 [(0, 0x10), (1, 2), (2, 2), (3, 1), (6, 2), (7, 1), (8, 0x3F800000), (40, 64), (44, 128), (48, 64), (56, 128), (60, 128), (64, 0x2000),
    (72, 0x3000), (80, 0x4000), (88, 0x5000), (96, 0x6000), (104, 0x7000), (112, 0x8000)]
def attState (i : Item) (d : List Byte) : State := { withItem i with
  pg := { die.pg with active := [(1, entry5)] }, mem := { die.mem with bytes := writeBytes [] 4096 d } }


theorem witness_attention_begins : ∀ p ∈ [(0x10, fwdDesc), (0x11, bwdDesc)],
    let i := attItem p.1
    let s := attState i p.2
    let d := { i with desc := p.2 }
    up s ∧ opOf s 0 3 = none ∧ i.begun = false ∧ itemBegins s 0 3 p.1 i ∧ readVa s i.ctx (cmd64 i.cmd 16) (descBytes i) = .ok p.2 ∧
      (if p.1 = 0x11 then bwdDescLegal d else fwdDescLegal d) = true ∧ descRsv d = false ∧ spEn d = false ∧
      (∀ k, k < aCount d → entryFails d (getSeq s (aSeq d + k)) = none) ∧
      ((List.range (aCount d)).map (fun k => getSeq s (aSeq d + k))).head? = some entry5 ∧ ({ entry5 with ctx := 6 } : SeqEntry).ctx ≠ d.ctx ∧
      fwdDescLegal { d with desc := fields 128 [] } = false := by decide +kernel

/-- An attention item at work with a task of its one row, whose sequence holds no token. -/
def attRun (p : Nat × List Byte) : Item :=
  { attItem p.1 with desc := p.2, begun := true, stage := .executing, entries := [entry5], nRows := 1 }
def attDie (p : Nat × List Byte) : State := { attState (attRun p) p.2 with tasks := [task0] }
theorem witness_attention_goes_on : ∀ p ∈ [(0x10, fwdDesc), (0x11, bwdDesc)], let s := attDie p
    up s ∧ opOf s 0 3 = none ∧ findItem s 0 3 = some (attRun p) ∧ (attRun p).begun = true ∧ mayRun s (attRun p) = true ∧
      (attRun p).opcode = p.1 ∧ noParts s ∧ drainBegins s 0 2 task0 (attRun p) ∧ engineOf task0.q = 0 ∧ task0.shape.kind = .wholeRow ∧
      completes (attRun p) (taskRows task0.shape) = true ∧ completes { attRun p with nRows := 2 } (taskRows task0.shape) = false := by decide +kernel

theorem witness_attention_forward : let p := (0x10, fwdDesc)
    let it := attRun p
    let b := inBreath (attDie p)
    let keys : List (RowId × List Nat) := [({ s := 0, h := 0, i := 0 }, [])]
    let s1 := cacheReads (wantPromotion (countVerified b 0) it keys) 0 5 []
    keyBytesOf (pageView b it) it keys = .ok [] ∧ taskRowKeys (pageView b it) it task0.shape = .ok keys ∧
      verifyMixed b 5 (coldRanges b 0 5 [] ++ fwdOperands it ((keys.filter (fun p => !p.2.isEmpty)).map (fun p => p.1))) = .ok (.fine 0) ∧
      (match mapE (fun (p : RowId × List Nat) => fwdInputs (pageView b it) it p.1 p.2) keys with
       | .ok ins =>
         (match mapE (fun (p : Nat × FwdAcc) => fwdOuts s1 it p.1 p.2) ((taskRows task0.shape).zip (ins.map fwdRow)) with
          | .ok outs => sendsOk s1 task0 it outs.flatten true
          | .error _ => false)
       | .error _ => false) = true := by decide +kernel

theorem witness_attention_backward : let p := (0x11, bwdDesc)
    let it := attRun p
    let b := inBreath (attDie p)
    let keys : List (RowId × List Nat) := [({ s := 0, h := 0, i := 0 }, [])]
    let s1 := cacheReads (wantPromotion (countVerified b 0) it keys) 0 5 []
    keyBytesOf (pageView b it) it keys = .ok [] ∧ verifyMixed b 5 (coldRanges b 0 5 [] ++ bwdOperands it []) = .ok (.fine 0) ∧
      (match mapE (bwdHead (pageView b it) it false) (taskRows task0.shape) with
       | .ok hs =>
         (match mapE (bwdInputs (pageView b it) it) hs, bwdTail (pageView s1 it) it with
          | .ok ins, .ok rows =>
            let dQ := (hs.zip ins).map (fun p => let a := bwdAcc (bwdRow it p.1.n p.2 {})
                                                 dqOut it p.1.n a.o a.kx)
            hs.all (fun h => !h.live) && decide (keys = hs.map (fun h => (rowOf it h.n, h.keys))) &&
              sendsOk s1 task0 it (dQ ++ (tailGrads it rows).1) true && sendsOk s1 task0 it dQ false
          | _, _ => false)
       | .error _ => false) = true := by decide +kernel

/-- Paging Engine commands on sequence 1 under context 5, OP_SN 2. -/
def pagItem (op : Nat) (l : List (Nat × Nat)) : Item := ready 64 ([(1, op), (8, 5), (24, 1), (28, 2), (32, 2), (42, 4)] ++ l)
def geometry5 : Geometry := { kvHeads := 1, headDim := 32, picFmt := 0x10, srcFmt := 1, kvFmt := 2 }
def pagState (i : Item) (es : Tab SeqEntry) : State := { withItem i with
  pg := { die.pg with active := es, geometry := [(5, geometry5)], size0 := 64, size1 := 64, infoSize := 64, listSize := 64 } }
/-- The journal's page translates. -/
def journalFits (s : State) : Bool := (pagesOf (inBreath s) 0 true (infoAddr s s.pg.infoSize.toNat) 16).toBool

theorem witness_sequence_checks : ∀ op ∈ [0x20, 0x21, 0x22, 0x23, 0x24, 0x25],
    let i := pagItem op []
    let s := pagState i [(1, { entry5 with ctx := 6 })]
    let u := pagState i [(1, { entry5 with lastSn := 2 })]
    up s ∧ mayStage s 64 3 ∧ itemBegins s 64 3 op i ∧ (getSeq s (pSeq i)).live = true ∧ (getSeq s (pSeq i)).ctx ≠ i.ctx ∧
      mayStage u 64 3 ∧ itemBegins u 64 3 op i ∧ (getSeq u (pSeq i)).ctx = i.ctx ∧ (pOpSn i - (getSeq u (pSeq i)).lastSn).toInt ≤ 0 := by decide +kernel

theorem witness_seq_alloc : let i := pagItem 0x20 [(36, 0)]
    let s := pagState i []
    let more := pagItem 0x20 [(36, 2 ^ 20)]
    let e : SeqEntry :=
      { ver := 0x10, state := 1, kvFmt := 2, srcFmt := 1, headDim := 32, kvHeads := 1, layerCount := 4, ctx := 5, nextLayer := 4, lastSn := 2, picFmt := 0x10 }
    up s ∧ mayStage s 64 3 ∧ itemBegins s 64 3 0x20 i ∧ opOf s 64 3 = none ∧ outputsLeft s 64 3 = 0 ∧ i.applying = 0 ∧
      (getSeq s (pSeq i)).live = false ∧ 0 < (pOpSn i - (getSeq s (pSeq i)).lastSn).toInt ∧ 1 ≤ pLayers i ∧ pLayer i + pLayers i ≤ 65536 ∧
      tierLegal s (pTier i) = true ∧ geomLegal (tget {} s.pg.geometry i.ctx.toNat) = true ∧
      (e.framesFor (heldBelow e (pTokens i)) : Int) ≤ freeUnreserved s [] [] false ∧ e.framesFor (heldBelow e (pTokens i)) < 2 ^ 32 ∧
      journalFits s = true ∧
      (let m := { e with capacity := 2 ^ 20 }; freeUnreserved s [] [] false < (m.framesFor (heldBelow m (pTokens more)) : Int)) := by decide +kernel

/-- A sequence of one layer whose lists name pages 1 to 3 of frames 1 to 3, page 1 in the near tier. -/
def entry1 : SeqEntry := { entry5 with layerCount := 1, nextLayer := 1, kvRoot := 1, kvLv := 1, picRoot := 2, picLv := 1 }
def listsOf (b : Tab Byte) : Tab Byte :=
  let page := fun (m : Tab Byte) n => writeBytes m (16 * 65536 + 16 * n) (infoBytes { frame := n, refcnt := 1, st := 1 })
  writeBytes (writeBytes ([1, 2, 3].foldl page b) (17 * 65536 + 4096) (toLE 4 1 ++ toLE 4 2)) (17 * 65536 + 8192) (toLE 4 3)
def pagesDie (i : Item) (es : Tab SeqEntry) : State :=
  let s := pagState i es
  { s with pg := { s.pg with info := 16, list := 17 }, mem := { s.mem with bytes := listsOf [] } }

/-- Each of the four commands that change a sequence has an effect to stage: an allocation, an append of one token, a fork of an empty
sequence, and a free. -/
theorem witness_staged_effects : ∀ op ∈ [0x20, 0x21, 0x22, 0x23],
    let i := if op = 0x21 then ready 64 [(1, op), (8, 5), (16, 4096), (24, 1), (32, 2), (36, 1), (42, 1)] else pagItem op []
    let s := if op = 0x20 then pagState i [] else if op = 0x21 then pagesDie i [(1, entry1)] else pagState i [(1, entry5)]
    let s1 := modItem (inBreath s) 64 3 (fun x => { x with stage := .executing, begun := true })
    let effect := if op = 0x20 then stageAlloc s1 i else if op = 0x21 then stageAppend s1 i else if op = 0x22 then stageFork s1 i else stageFree s1 i
    up s ∧ mayStage s 64 3 ∧ opOf s 64 3 = none ∧ pChecks s i false = none ∧ i.applying = 0 ∧ itemBegins s 64 3 op i ∧
      (match effect with
       | .ok w =>
         (match w.changes (if op = 0x22 then pSeq2 i else pSeq i), issuePages s1 i w.pages with
          | .ok cs, .ok s2 =>
            w.cancels.isEmpty && (if op = 0x21 then decide (outputsLeft s2 64 3 ≠ 0)
              else decide (outputsLeft s2 64 3 = 0) && !(partWrites cs 1).isEmpty)
          | _, _ => false)
       | .error _ => false) = true := by decide +kernel

theorem witness_last_write : let i := { busy 64 [(1, 0x23)] with issued := true, applying := 1, staged := [.resv false 1, .entry 1 entry5] }
    let r := request (.output 64 3) 64
    let s := { withRequest r with items := [i] }
    up s ∧ reqOf s (7 : W16).toNat = some r ∧ r.write = true ∧ r.owner = .output 64 3 ∧ r.waiters = [] ∧ 64 ≤ r.pool ∧ engineOf 64 = 1 ∧
      findItem s 64 3 = some i ∧ i.stage = .executing ∧ i.issued = true ∧ opOf s 64 3 = none ∧ outputsLeft s 64 3 = 1 ∧ i.applying ≠ 0 ∧
      (∀ k ∈ ([1, 2, 3] : List Nat).drop i.applying, partWrites i.staged k = []) ∧
      i.staged = [.resv false 1] ++ [.entry 1 entry5] ∧ (∀ c ∈ [Change.resv false 1], ∀ m f, c ≠ .entry m f) := by
  refine ⟨?_, ?_, ?_, ?_, ?_, ?_, ?_, ?_, ?_, ?_, ?_, ?_, ?_, ?_, ?_, ?_⟩ <;> first | decide +kernel | skip
  intro c hc m f h
  simp only [List.mem_singleton] at hc
  exact absurd (hc.symm.trans h) (by simp)

/-- A PAGE_MIGRATE of the one page of a sequence to the far tier, which has one frame. -/
def movePage : Item := ready 64 [(1, 0x24), (8, 5), (24, 1), (32, 2), (42, 1), (44, 1)]
def moveDie : State :=
  let s := pagesDie movePage [(1, { entry1 with kvRoot := 0, kvLv := 0 })]
  { s with pg := { s.pg with size1 := 1, arena1 := 1 } }
def moveRun : State := modItem (inBreath moveDie) 64 3 (fun x => { x with stage := .executing, begun := true })
theorem move_frame : pickFree (busyFrames moveRun [] true) 0 (tierFrames moveRun true) moveRun.free = some 0 := by
  have h : (tierFrames moveRun true) - 0 - ((busyFrames moveRun [] true).filter (fun u => 0 ≤ u && u < tierFrames moveRun true)).length = 1 := by
    decide +kernel
  unfold pickFree
  simp only [h, Nat.mod_one]
  decide +kernel
theorem started_of (s : State) (lpn f : Nat) (far : Bool) (it : Option (Nat × W32)) (i : InfoEntry) (hi : readInfo s lpn = .ok i)
    (hs : i.st = 1) (ht : i.far ≠ far) (hw : frameWritten s i.far i.frame = false) (hu : ¬freeUnreserved s [] [] far ≤ 0)
    (hf : pickFree (busyFrames s [] far) 0 (tierFrames s far) s.free = some f)
    (hc : (match readPage s i.far i.frame, pagesOf s 0 true (infoAddr s lpn) 16 with
      | .ok bs, .ok _ => (copyReqs s lpn far f bs).toBool
      | _, _ => false) = true) : ∃ u, startMig s lpn far it = .started u := by
  revert hc
  generalize hp : readPage s i.far i.frame = p
  generalize hg : pagesOf s 0 true (infoAddr s lpn) 16 = g
  intro hc
  cases p with
  | error e => cases hc
  | ok bs =>
    cases g with
    | error e => cases hc
    | ok at_ =>
      cases hr : copyReqs s lpn far f bs with
      | error e => simp [hr, Except.toBool] at hc
      | ok rs =>
        have e : (match startMig s lpn far it with | .started _ => true | _ => false) = true := by
          unfold startMig startCopy
          rw [hi]
          simp only [hs, ht, hw, hu, hf, hp, hg, hr, decide_false, decide_true, Bool.and_false, if_true, if_false]
          rfl
        cases hm : startMig s lpn far it <;> rw [hm] at e <;> first | exact ⟨_, rfl⟩ | cases e
theorem move_info : readInfo moveRun 3 = .ok { frame := 3, refcnt := 1, st := 1 } := by decide +kernel
theorem move_unwritten :  frameWritten moveRun false 3 = false := by decide +kernel
theorem move_room : ¬freeUnreserved moveRun [] [] true ≤ 0 := by decide +kernel
theorem move_copied : (match readPage moveRun false 3, pagesOf moveRun 0 true (infoAddr moveRun 3) 16 with
      | .ok bs, .ok _ => (copyReqs moveRun 3 true 0 bs).toBool
      | _, _ => false) = true := by decide +kernel
theorem witness_started_copy : ∃ u, startMig moveRun 3 true (some (64, 3)) = .started u :=
  started_of moveRun 3 0 true _ { frame := 3, refcnt := 1, st := 1 } move_info rfl (by decide) move_unwritten move_room move_frame move_copied

theorem witness_migrate : let i := pagItem 0x24 []
    let h := pagItem 0x25 [(45, 2)]
    let s := pagState i [(1, entry5)]
    let u := pagState h [(1, entry5)]
    let m := moveDie
    up s ∧ mayStage s 64 3 ∧ opOf s 64 3 = none ∧ (getSeq s (pSeq i)).live = true ∧ (getSeq s (pSeq i)).ctx = i.ctx ∧ itemBegins s 64 3 0x24 i ∧
      0 < (pOpSn i - (getSeq s (pSeq i)).lastSn).toInt ∧ layersInside i (getSeq s (pSeq i)) = true ∧ tierLegal s (pTier i) = true ∧
      i.issued = false ∧ i.applying = 0 ∧ entryPages s (getSeq s (pSeq i)) (pLayer i - entry5.layerFirst.toNat) (pLayers i) = .ok [] ∧
      journalFits s = true ∧
      up m ∧ mayStage m 64 3 ∧ opOf m 64 3 = none ∧ (getSeq m 1).live = true ∧ (getSeq m 1).ctx = movePage.ctx ∧
      itemBegins m 64 3 0x24 movePage ∧ 0 < (pOpSn movePage - (getSeq m 1).lastSn).toInt ∧ layersInside movePage (getSeq m 1) = true ∧
      tierLegal m (pTier movePage) = true ∧ decide (pTier movePage = 1) = true ∧ entryPages moveRun (getSeq m 1) 0 1 = .ok [3] ∧
      up u ∧ mayStage u 64 3 ∧ itemBegins u 64 3 0x25 h ∧ layersInside h entry5 = true ∧ pHint h ≤ 2 ∧ pHint (pagItem 0x25 [(45, 3)]) = 3 ∧
      pHint (pagItem 0x25 [(45, 4)]) = 4 ∧ 4 < pHint (pagItem 0x25 [(45, 5)]) := by decide +kernel

theorem witness_invalidation : let i := ready 64 [(1, 0x26), (48, 65536), (56, 65536)]
    let e : PtcEntry := { cls := .d, ctx := 0, size := 16, page := 1, frame := 0, r := true, w := true, pinned := true }
    let s := { withItem i with tr := { die.tr with inactive := [e, { e with page := 2 }] } }
    let r := { request (.output 0 3) 0 with viaPtc := some { cls := .d, ctx := 0, page := 1 } }
    let u := { s with mem := { s.mem with reqs := [r] } }
    let gone := (s.tr.active ++ s.tr.inactive).filter (invalOf i).hits
    up s ∧ itemBegins s 64 3 0x26 i ∧ i.issued = false ∧ (∀ r ∈ s.mem.reqs, (64, 3) ∉ r.waiters) ∧ (invalOf i).hits e = true ∧
      (invalOf i).hits { e with page := 2 } = false ∧ (∀ r ∈ s.mem.reqs, (invalOf i).carries gone r = false) ∧
      up u ∧ itemBegins u 64 3 0x26 i ∧ (∀ r ∈ u.mem.reqs, (64, 3) ∉ r.waiters) ∧ r ∈ u.mem.reqs ∧ (invalOf i).carries gone r = true := by
  decide +kernel

def fault0 : FaultRec :=
  { key := { cls := .d, ctx := 0, page := 9 }, ctx := 0, write := false, reason := 1, level := 0, engine := 1, breath := 9, va := 0, pte := 0,
    number := some 0, attached := [(64, 4)] }
theorem witness_fault_done : let i := ready 64 [(1, 0x28)]
    let x : Item := { ready 64 [(1, 0x21)] with idx := 4, stage := .executing, holdKeys := [fault0.key] }
    let s := { withItem i with items := [i, x], tr := { die.tr with recs := [fault0], tail := 1 } }
    up s ∧ itemBegins s 64 3 0x28 i ∧ opOf s 64 3 = none ∧ i.ctx = 0 ∧ fld (cmd64 i.cmd 48) 33 32 = 0 ∧
      s.tr.recs.find? (fun r => r.number = some ((cmd64 i.cmd 48).setWidth 32) && s.tr.tail ≠ (cmd64 i.cmd 48).setWidth 32) = some fault0 ∧
      (64, 4) ∈ fault0.attached ∧ findItem s 64 4 = some x ∧ x.holdKeys = [fault0.key] ∧ x.ready = none ∧
      up (withItem i) ∧ itemBegins (withItem i) 64 3 0x28 i ∧ (∀ r ∈ (withItem i).tr.recs, r.number ≠ some 0) ∧
      (ready 64 [(1, 0x28), (8, 5)]).ctx ≠ 0 := by decide +kernel

theorem witness_resume : let i := { busy 64 [(1, 0x21)] with ready := some 9 }
    let s := atBoundary (withItem i)
    up s ∧ s.edge = true ∧ findItem s 64 3 = some i ∧ i.holdKeys = [] ∧ i.ready = some 9 ∧ (9 : W64).toNat < s.breath.num.toNat ∧
      s.breath.num.toNat ≤ (10 : W64).toNat ∧ (withItem i).edge = false := by decide +kernel
theorem witness_pool_return : let r : Returning := { unit := .frame false 3, at_ := 9, before := 0 }
    let s := atBoundary { die with pg := { die.pg with returning := [r], used0 := [3, 4] } }
    up s ∧ s.edge = true ∧ r ∈ s.pg.returning ∧ r.at_.toNat < s.breath.num.toNat ∧ (∀ k ∈ s.tasks, r.before ≤ k.serial) ∧
      copyPending s r.unit = false ∧ 4 ∈ s.pg.used0 ∧ (∀ r ∈ s.pg.returning, r.unit ≠ .frame false 4) := by decide +kernel

theorem witness_bank_swap : let s := atBoundary { die with pg := { die.pg with staged := some 9 }, tr := { die.tr with staged := some 9 } }
    let u := { s with tr := { s.tr with staged := some 10 } }
    up s ∧ s.edge = true ∧ s.pg.staged = some 9 ∧ (9 : W64).toNat < s.breath.num.toNat ∧ s.tr.staged = some 9 ∧ up u ∧ u.tr.staged = some 10 ∧
      u.breath.num.toNat ≤ (10 : W64).toNat := by decide +kernel

/-! ### Bank images of zeros -/

theorem readBytes_nil (a n : Nat) : readBytes [] a n = List.replicate n 0#8 := by
  have h : ∀ n k : Nat, rangeFrom (0#8) n k [] = List.replicate n 0#8 := by
    intro n; induction n with
    | zero => intro k; rfl
    | succ n ih => intro k; simp [rangeFrom, ih, List.replicate_succ]
  simp [readBytes, dropBelow, h]

theorem pieces_zeros (n m : Nat) : ∀ p ∈ pieces n (List.replicate m (0#8)), ∃ j, p = List.replicate j 0#8 := by
  have h : ∀ f m : Nat, ∀ p ∈ cutUp n f (List.replicate m (0#8)), ∃ j, p = List.replicate j 0#8 := by
    intro f; induction f with
    | zero => intro m p hp; simp [cutUp] at hp
    | succ f ih =>
      intro m p hp
      simp only [cutUp] at hp
      split at hp
      · simp at hp
      · simp only [List.mem_cons, List.take_replicate, List.drop_replicate] at hp
        rcases hp with rfl | hp
        · exact ⟨_, rfl⟩
        · exact ih _ p hp
  exact h _ _

theorem leAt_zeros (j o n : Nat) : leAt (List.replicate j (0#8)) o n = 0 := by
  have h : ∀ k : Nat, leNat (List.replicate k (0#8)) = 0 := by
    intro k; induction k with
    | zero => rfl
    | succ k ih => simp [List.replicate_succ, leNat, ih]
  simp [leAt, List.drop_replicate, List.take_replicate, h]

theorem zeros_no_entry (n m : Nat) : (pieces n (List.replicate m (0#8))).any seqRsv = false ∧
    (pieces n (List.replicate m (0#8))).any ptcRsv = false ∧ (n = 16 → ptcImage (List.replicate m (0#8)) = some []) := by
  refine ⟨?_, ?_, ?_⟩
  · simp only [List.any_eq_false]
    intro p hp
    obtain ⟨j, rfl⟩ := pieces_zeros _ _ p hp
    simp [seqRsv, leAt_zeros]
  · simp only [List.any_eq_false]
    intro p hp
    obtain ⟨j, rfl⟩ := pieces_zeros _ _ p hp
    simp [ptcRsv, leAt_zeros]
  · rintro rfl
    have h : (pieces 16 (List.replicate m (0#8))).filterMap (fun b => (parsePtc b).map (fun p => (b, p))) = [] := by
      rw [List.filterMap_eq_nil_iff]
      intro p hp
      obtain ⟨j, rfl⟩ := pieces_zeros _ _ p hp
      simp [parsePtc, leAt_zeros]
    simp only [ptcImage, h]
    rfl

def stageItem (o : Nat) : Item := { ready 64 [(1, 0x27), (16, 65536), (46, o)] with q := 64 }
theorem stage_read (o n : Nat) (h : pagesOf (withItem (stageItem o)) 0 false 65536 n = .ok [(65536, 65536, n)])
    (hm : memCheck (withItem (stageItem o)).mem 0 65536 n false = .ok) :
    readVa (withItem (stageItem o)) 0 65536 n = .ok (List.replicate n 0#8) := by
  have hb : (withItem (stageItem o)).mem.bytes = [] := rfl
  unfold readVa; rw [h]; simp only [readPieces, hm, if_true, hb, readBytes_nil, List.append_nil]

theorem witness_bank_stage : ∀ o ∈ [0, 1], let i := stageItem o
    let s := withItem i
    up s ∧ itemBegins s 64 3 0x27 i ∧ opOf s 64 3 = none ∧ i.ctx = 0 ∧ pTarget i = o ∧ cmd64 i.cmd 16 = 65536 ∧
      pTarget (stageItem 2) = 2 ∧ chkOn s (addrCls (cmd64 i.cmd 16)) = false := by
  decide +kernel

theorem witness_bank_stage_reads :
    readVa (withItem (stageItem 0)) 0 65536 4194304 = .ok (List.replicate 4194304 0#8) ∧
    readVa (withItem (stageItem 1)) 0 65536 2097152 = .ok (List.replicate 2097152 0#8) :=
  ⟨stage_read 0 _ (by decide +kernel) (by decide +kernel), stage_read 1 _ (by decide +kernel) (by decide +kernel)⟩

/-- A group of two members, of which this die is rank 0. -/
def group0 : Group := { nm1 := 1, st := 1, quota := 4, members := [{ node := 0, die := 0 }, { node := 1, die := 0 }] }
def withGroup (g : Group) (s : State) : State := { s with cle := { s.cle with groups := [(0, g)] } }
def collective (op : Nat) (red : Nat) : Item := ready 96 [(1, op), (16, 4096), (24, 8192), (32, 1024), (36, 1024), (40, 1), (41, red)]
theorem witness_collectives : ∀ op ∈ [0x30, 0x31, 0x32, 0x33, 0x34, 0x35], let i := collective op 1
    let s := withGroup group0 (withItem i)
    let u := withGroup { group0 with mode := true } (withItem i)
    up s ∧ opOf s 96 3 = none ∧ itemBegins s 96 3 op i ∧ itemBegins u 96 3 op i ∧ i.landed = [] ∧
      (cleWant (getGroup s 0) i.cmd = 0 ∨ op = 0x31 ∨ op = 0x32) ∧ (op = 0x35 ∨ (getGroup u 0).grant < cleWant (getGroup u 0) i.cmd) ∧
      cleWant (getGroup s 0) (collective 0x31 2).cmd = 0 := by decide +kernel
def groupDesc (rank : Nat) : List Byte := fields 72 [(1, 1), (2, rank), (64, 0), (68, 1)]
theorem witness_group_set : let i := ready 96 [(1, 0x36), (44, 9), (48, 4096)]
    let s := { withItem i with mem := { die.mem with bytes := writeBytes [] 4096 (groupDesc 0) }, link := { die.link with routes := [0, 0x10] } }
    let ms : List Member := parseMembers (groupDesc 0) 2
    up s ∧ itemBegins s 96 3 0x36 i ∧ opOf s 96 3 = none ∧ spOpen s 0 = false ∧ cmd64 i.cmd 48 ≠ 0 ∧
      readVa s i.ctx (cmd64 i.cmd 48) 64 = .ok ((groupDesc 0).take 64) ∧ readVa s i.ctx (cmd64 i.cmd 48) 72 = .ok (groupDesc 0) ∧
      leAt ((groupDesc 0).take 64) 1 1 + 1 = 2 ∧ leAt (groupDesc 0) 2 1 = 0 ∧ leAt (groupDesc 0) 3 1 / 2 = 0 ∧ leAt (groupDesc 0) 4 60 = 0 ∧
      (∀ r, r < 2 → leAt (groupDesc 0) (64 + 4 * r) 4 / 2 ^ 18 = 0) ∧ ms[0]? = some ({ node := s.link.node, die := s.cascId } : Member) ∧ ms.Nodup ∧
      (∀ m ∈ ms, unreachable s m.node = false) ∧ ms[1]? ≠ some ({ node := s.link.node, die := s.cascId } : Member) ∧ 2 ≤ leAt (groupDesc 2) 2 1 := by
  decide +kernel

/-- A pack item; core 2 of the die is bound to its context and idle, core 0 is not, and physical core 8 is the spare. -/
def packing : State := { withItem (ready 384 [(1, 0x50), (8, 5), (16, 4096), (24, 64), (32, 7)]) with
  cores := [(0, { bind := 1, ctx := 6 }), (2, { bind := 1, ctx := 5 })] }
theorem witness_tests_and_scrubs : let i := ready 384 [(1, 0x50), (8, 5), (16, 4096), (24, 64), (32, 7)]
    let m := ready 384 [(1, 0x51), (16, 4096), (24, 4096)]
    let s := withItem m
    let s1 := modItem (inBreath packing) 384 3 (fun x => { x with stage := .executing, begun := true })
    up packing ∧ opOf packing 384 3 = none ∧ itemReady packing 384 3 0x50 i ∧ packBytes packing i = .ok (List.replicate 64 0) ∧
      packOk packing i (List.replicate 64 0) = false ∧ 8 ∈ packCores packing ∧ 2 ∈ packCores packing ∧ 0 ∈ packCores packing ∧ i.ran = [] ∧
      idleFor s1 i 8 = true ∧ slotLeft s1 i 8 = true ∧ logicalOf packing 2 = some 2 ∧ idleFor s1 i 2 = true ∧ slotLeft s1 i 2 = true ∧
      logicalOf packing 0 = some 0 ∧ (getCore packing 0).ctx ≠ i.ctx ∧ idleFor s1 i 0 = false ∧
      up s ∧ opOf s 384 3 = none ∧ itemReady s 384 3 0x51 m ∧
      scrubGo s m.ctx (blocksTouched (cmd64 m.cmd 16) (cmdAt m.cmd 24 8)) 0 [] = .ok (0, []) := by decide +kernel

theorem witness_write_answers : let r := request (.output 0 3) 0
    let s := withRequest r
    up s ∧ reqOf s (8 : W16).toNat = none ∧ reqOf s (7 : W16).toNat = some r ∧ r.write = true ∧ (getCore s r.pool).slots = [] ∧
      engineOf 0 ≠ 1 ∧ findItem s 0 3 = none := by decide +kernel
theorem witness_answers_alone : answersAlone (withRequest (request (.output 0 3) 0)) (request (.output 0 3) 0) := by
  refine ⟨by decide +kernel, by intro l f x; simp [request], ?_⟩
  intro q idx h
  have e : Owner.output 0 3 = Owner.output q idx := by
    rcases h with h | ⟨c, i, g, h⟩
    · exact h
    · simp [request] at h
  cases e
  exact ⟨by decide, fun it h => absurd h (by simp [withRequest, die, findItem, State.reset])⟩

/-- The layers with a partition for piccolo keys and one for the Row Engine. -/
def roomyImage : Load := { image0 with image := { image0.image with stages := [{ layer0 with spPic := 4096, spRow := 4096 }] } }
def roomy (s : State) : State := { s with reed := { s.reed with active := some roomyImage } }
theorem witness_dispatch : let it := attRun (0x10, fwdDesc)
    let s := roomy (attState it fwdDesc)
    up s ∧ findItem s 0 3 = some it ∧ noParts s ∧ coreAccepts s 1 it.ctx = false ∧
      placeTask (inBreath s) it 0 2 { task0.shape with rows := 2 } = none ∧ mayRun s it = true ∧ taskOpen s it (wholeShape 0 1) = true ∧
      coreAccepts s 0 it.ctx = true ∧ findTask s 0 2 = none ∧
      placeTask (inBreath s) it 0 2 (wholeShape 0 1) = some { time := 0, home := some (0, 0), create := some (wholeShape 0 1), group := none } ∧
      (let i := { rowItem 0x40 with stage := .executing, begun := true, nRows := 1 }
       let u := roomy { withItem i with cores := [(0, { bind := 1 })] }
       up u ∧ mayRun u i = true ∧ taskOpen u i rowTask.shape = true ∧ coreAccepts u 0 0 = true ∧ findTask u 0 16 = none ∧
         placeTask (inBreath u) i 0 16 rowTask.shape = some { time := 0, home := none, create := some rowTask.shape, group := none }) := by
  decide +kernel

theorem witness_deadlines : let it := attRun (0x10, fwdDesc)
    let k := { task0 with dispatched := 8 }
    let s := atBoundary { attState it fwdDesc with tasks := [k] }
    let w : Wait := { counter := 1, threshold := 4, boundaries := 4 }
    let z := atBoundary { attState it fwdDesc with tasks := [{ k with wait := some w }] }
    let wide := { k with shape := { k.shape with rows := 2 } }
    let y := atBoundary { attState it fwdDesc with tasks := [wide] }
    up s ∧ s.edge = true ∧ die.edge = false ∧ noParts s ∧ (∀ k ∈ (atBoundary (attDie (0x10, fwdDesc))).tasks, pastDeadline s k = false) ∧
      s.tasks = [k] ∧ k.shape.kind = .wholeRow ∧ findItem s 0 3 = some it ∧ isLong s it k.shape = true ∧ pastDeadline s k = true ∧
      k.counted = false ∧ pastDeadline s { k with counted := true } = true ∧
      up y ∧ wide ∈ y.tasks ∧ pastDeadline y wide = true ∧ isLong y it wide.shape = false ∧
      up z ∧ findTask z 0 2 = some { k with wait := some w } ∧ isLong z it k.shape = true ∧ 4 ≤ w.boundaries ∧
      ({ w with boundaries := 3 } : Wait).boundaries < 4 := by decide +kernel

/-- Part tasks of the two segments of a row of a sequence-parallel item, with their merge task at work. -/
def part0 : TaskShape := { kind := .part, rowFirst := 0, rows := 1, segFirst := 0, segCount := 1 }
def part1 : TaskShape := { part0 with segFirst := 1 }
def rows0 : RowGroup := { rowFirst := 0, rows := 1, shapes := [part0, part1, mergeShape 0 1], entry := 0, at_ := some 10, out := [part0, mergeShape 0 1] }
def partItem : Item := { attRun (0x10, fwdDesc) with groups := [rows0] }
def partDie : State := { attState partItem fwdDesc with
  tasks := [{ task0 with shape := part0 }, { task0 with thread := 3, shape := mergeShape 0 1 }] }
theorem witness_drains : let k : Task := { task0 with shape := part0 }
    let op : CleOp := { group := 0, kind := true, sn := 0, attempt := 0, q := 0, idx := 3, exch := 3 }
    let it := { partItem with rows := [(0, .fwd {})] }
    let v : Window := { lenU := 4, acNum := 1, ctx := 5, st := 1, openedBy := some 3 }
    let s := { partDie with items := [it], cle := { die.cle with ops := [op] }, cores := [(0, { bind := 1, ctx := 5, windows := [(1, v)] })] }
    let asleep := { k with wait := some { counter := 4, threshold := 1, boundaries := 0 } }
    up s ∧ findTask s 0 2 = some k ∧ findItem s 0 3 = some it ∧ k.shape.kind = .part ∧ mayDrain s k it = true ∧
      mayDrain { s with tasks := [asleep] } asleep it = false ∧ asleep.wait.isSome = true ∧
      streamsOpen { s with cores := [(0, { bind := 1, slots := [(8, { st := 1 })] })] } k = true ∧
      pastDeadline s { k with shape := { part0 with rows := 2 }, dispatched := 8 } = true ∧ isLong s it { part0 with rows := 2 } = false ∧
      (opOf s 0 3).isSome = true ∧ sharedReady s it = true ∧ findGroup it k.shape = some rows0 ∧ mergeOf rows0 k.shape = some (mergeShape 0 1) ∧
      runnerOf s it (mergeShape 0 1) = some { task0 with thread := 3, shape := mergeShape 0 1 } ∧
      exchangeWindow s { task0 with thread := 3, shape := mergeShape 0 1 } ((feeders rows0 (mergeShape 0 1)).length * nodeUnits it k.shape.rows)
        = some (1, v) := by decide +kernel
theorem witness_drain_faults : let it : Item := { ready 352 [(1, 0x40), (16, 4096), (24, 2 ^ 31), (32, 1), (36, 1), (40, 1), (41, 1), (42, 1)] with
      stage := .executing, begun := true, nRows := 1 }
    let s := { withItem it with tasks := [rowTask] }
    up s ∧ findTask s 0 2 = some rowTask ∧ findItem s 352 3 = some it ∧ noParts s ∧ rowTask.shape.kind = .rowEngine ∧ mayDrain s rowTask it = true ∧
      (match roeTask (inBreath s) it rowTask.shape with
       | .ok (.fine n, outs) =>
         let s1 := countVerified (inBreath s) n
         (match allBlocks s1 rowTask.ctx (checkOuts s1 (drainAll s1 rowTask outs)), drainBlocks s1 rowTask.ctx (drainList s1 rowTask it outs true) with
          | .ok _, .error (.fault _ _ _ _ _) => true
          | _, _ => false)
       | _ => false) = true := by decide +kernel

def windowed (st : BitVec 2) : State := { withTask task0 with cores := [(0,
  { bind := 1, ctx := 5, windows := [(1, { baseU := 264, lenU := 8, acFirst := 4, acNum := 2, ctx := 5, st := st, gen := 3 })],
    counters := [(4, { count := 1, ctx := 5, st := 1, win := 1 })] })] }
theorem witness_windows : let s := windowed 1
    let k : Task := { task0 with wait := some { counter := 4, threshold := 3, boundaries := 0 } }
    let z := { s with tasks := [k] }
    up s ∧ noParts s ∧ findTask s 0 2 = some task0 ∧ task0.wait = none ∧ findTask z 0 2 = some k ∧ k.wait.isSome = true ∧
      mayOpen (withTask task0) 0 1 256 8 4 2 = true ∧ (getWin (getCore (withTask task0) 0) 1).st ≠ 1 ∧ mayOpen s 0 1 256 8 8 2 = true ∧
      mayOpen (withTask task0) 0 1 520 8 1022 2 = true ∧ mayOpen (withTask task0) 0 1 521 8 4 2 = false ∧
      mayOpen (withTask task0) 0 1 255 8 4 2 = false ∧ mayOpen (withTask task0) 0 1 256 8 1023 2 = false ∧
      mayOpen s 0 2 264 8 8 2 = false ∧ (getWin (getCore s 0) 1).st = 1 ∧ (getWin (getCore (windowed 2) 0) 1).st ≠ 1 ∧
      2 ∈ waitersOfWin z 0 1 ∧
      (getCtr (getCore s 0) 4).st = 1 ∧ 0 ≤ ((getCtr (getCore s 0) 4).count - 1).toInt ∧
      ((getCtr (getCore s 0) 4).count - 2).toInt < 0 := by decide +kernel
theorem witness_window_writes : let s := windowed 1
    let v := getWin (getCore s 0) 1
    let held := setCore s 0 { getCore s 0 with windows := [(1, { v with halo := some (0, 3) })] }
    up s ∧ coreLive s 0 = true ∧ physOf s 0 = some 0 ∧ (v.st = 1 ∧ v.gen = 3 ∧ 5 = v.ctx ∧ 7 < v.lenU.toNat ∧ (getCore s 0).bind ≠ 2) ∧
      v.halo = none ∧ haloMay (inBreath held) 0 1 7 0 [] = false ∧ (getWin (getCore held 0) 1).st = 1 ∧ ¬(8 < v.lenU.toNat) ∧ ¬(v.gen = 2) ∧ v.lateLogged.contains 3 = false ∧
      s.bell.staging.length < 256 ∧ (getWin (getCore (windowed 2) 0) 1).st ≠ 1 ∧
      ({ v with lateLogged := [2] } : Window).lateLogged.contains (2 : Byte).toNat = true := by decide +kernel

/-- A dense stream of one row of 64 bytes to scratchpad byte 0. -/
def stream0 : BitVec 256 := BitVec.ofNat 256 ((4096) + 64 * 2 ^ 64 + 1 * 2 ^ 96)
/-- The same bytes written to memory, and a stream of no rows. -/
def stream2 : BitVec 256 := stream0 ||| BitVec.ofNat 256 (64 * 2 ^ 128 + 2 * 2 ^ 192)
def streamNone : BitVec 256 := BitVec.ofNat 256 ((4096) + 64 * 2 ^ 64)
theorem witness_streams : let s := withTask task0
    let slot : StreamSlot := { st := 1, gen := 3, left := 1, desc := stream0 }
    let a := { s with cores := [(0, { bind := 1, ctx := 5, slots := [(8, slot)] })] }
    let r := { request (.stream 0 8 3 0 false 5) 0 with write := false, data := [] }
    let u := { a with mem := { a.mem with reqs := [r] } }
    up s ∧ findTask s 0 (12 / 4) = none ∧ findTask s 0 (8 / 4) = some task0 ∧ (getSlot (getCore s 0) 8).st ≠ 1 ∧ sdReserved stream0 = false ∧
      sdLegal stream0 = true ∧ armable (inBreath s) 0 task0 stream0 = true ∧ sdLegal streamNone = false ∧
      sdReserved streamNone = false ∧ sdReserved stream2 = false ∧ sdLegal stream2 = true ∧ armable (inBreath s) 0 task0 stream2 = true ∧
      sdKind stream2 = 2 ∧ sdReserved (stream0 ||| 2 ^ 255) = true ∧
      (getSlot (getCore a 0) 8).st = 1 ∧ opOf a 0 3 = none ∧ (findItem a 0 3).isSome = true ∧ up u ∧ reqOf u (7 : W16).toNat = some r ∧
      r.write = false ∧ r.owner = .stream 0 8 3 0 false 5 ∧
      (∀ p ∈ (getCore u 0).slots, p.2.todo = []) ∧ sdCount stream0 = false ∧ physOf u 0 = some 0 ∧ r.pa % 256 + r.len ≤ 256 ∧
      findTask u 0 2 = some task0 ∧ verifyMixed (inBreath u) task0.ctx (slot.cold ++ [(r.addr, r.len)]) = .ok (.fine 0) ∧
      (getSlot (getCore u 0) 8).gen = 3 ∧ (getSlot (getCore u 0) 8).gen ≠ 2 := by decide +kernel

/-- A Class D table at 0x10000 whose first entries lead to a 64 KiB page at 0x50000, and whose second entry is not valid. -/
def walkState : State := { die with tr := { active := [], drootEn := true, droot := 0x10 }, items := [busy 64 [(1, 0x21), (8, 5)]]
                                    mem := { die.mem with bytes := writeBytes (writeBytes (writeBytes (writeBytes []
    0x10000 (toLE 8 0x20001)) 0x20000 (toLE 8 0x30001)) 0x30000 (toLE 8 0x40001)) 0x40000 (toLE 8 0x50007) } }
theorem witness_walks : up walkState ∧ walk walkState .d 5 0 true = .leaf 16 0x50000 true true ∧ (∀ e ∈ walkState.tr.active, e.pinned = false) ∧
    walk walkState .d 5 0x10000 false = .fault 1 0 0 ∧ (1 : Nat) ≠ 5 ∧ (findItem walkState 64 3).isSome = true ∧ walkState.tr.recs.length < 512 ∧
    walkState.tr.recs.any (fun x => x.key = keyOf 5 (fieldOf .d 0x10000)) = false := by decide +kernel

theorem witness_fault_ring : let r := { fault0 with number := none }
    let s := { die with tr := { die.tr with fEn := true, fLog2 := 1, recs := [r] } }
    let q := { request .faultRecord 67 with len := 32 }
    let u := { s with mem := { s.mem with reqs := [q] } }
    let f := { s with tr := { s.tr with failedRec := some fault0, recs := [fault0] } }
    let e := { f with tr := { f.tr with ringErr := true } }
    up s ∧ s.tr.fEn = true ∧ s.tr.ringErr = false ∧ ringRoom s = true ∧ faultInFlight s = false ∧ s.tr.failedRec = none ∧
      s.tr.recs.find? (fun x => x.number.isNone) = some r ∧ up f ∧ f.tr.fEn = true ∧ f.tr.ringErr = false ∧ ringRoom f = true ∧
      faultInFlight f = false ∧ f.tr.failedRec = some fault0 ∧ ringRoom { s with tr := { s.tr with tail := 2 } } = false ∧ die.tr.fEn = false ∧
      faultInFlight u = true ∧ die.tr.failedRec = none ∧ (∀ r ∈ die.tr.recs, r.number.isSome = true) ∧
      up e ∧ e.tr.ringErr = true ∧ e.tr.fEn = true ∧ e.tr.failedRec = some fault0 ∧
      ({ e with tr := { e.tr with fEn := false } }).tr.ringErr = true ∧ up u ∧ reqOf u (7 : W16).toNat = some q ∧ q.write = true ∧
      q.owner = .faultRecord ∧ q.waiters = [] ∧ 64 ≤ q.pool := by decide +kernel

/-- LPN 1 of information area 0x2000000 in one of the states of Table 10.11, its frame 3 of tier 0 and its ALT 4 of tier 1. -/
def page1 (st : Nat) : InfoEntry := { frame := 3, refcnt := 1, st := st, altFar := true, alt := 4 }
def migState (st : Nat) : State :=
  let s := { die with pg := { die.pg with info := 0x200, size0 := 8, size1 := 8, arena1 := 0x100, infoSize := 8
                                          migrations := [{ lpn := 1, far := true, item := none, at_ := 9 }] } }
  { s with mem := { s.mem with bytes := writeBytes [] (infoAddr s 1).toNat (infoBytes (page1 st)) } }
theorem witness_migrations : (∀ st ∈ [2, 3, 4], up (migState st) ∧ readInfo (migState st) 1 = .ok (page1 st) ∧
      (findMig (migState st) 1).map (fun m => m.item) = some none) ∧ copyWriting (migState 2) 1 = false ∧
    copyWriting { migState 2 with mem := { (migState 2).mem with reqs := [request (.copy 1 true 4) 64] } } 1 = true ∧
    (atBoundary (migState 3)).edge = true ∧ readInfo (atBoundary (migState 3)) 1 = .ok (page1 3) ∧
    (9 : W64).toNat < (atBoundary (migState 3)).breath.num.toNat ∧ ¬((9 : W64).toNat < ({ die.breath with num := 9 }).num.toNat) ∧
    readInfo (atBoundary (migState 4)) 1 = .ok (page1 4) ∧ (∀ k ∈ (atBoundary (migState 4)).tasks, 9 ≤ k.dispatched.toNat) ∧
    (∀ x ∈ (migState 4).items, ¬(x.opcode = 0x24 ∧ x.stage = .executing)) ∧ (∀ p ∈ (migState 4).pg.autoWait, p.1 ≠ 1) ∧
    (∃ k ∈ ({ migState 4 with tasks := [{ task0 with dispatched := 8 }] } : State).tasks, k.dispatched.toNat < (9 : W64).toNat) := by
  decide +kernel

theorem witness_mailbox : let b := { die with reed := { die.reed with host := { busy := true } } }
    cannotTake b .host = true ∧ slotReady die .host ∧ slotReady die .firmware ∧ (0xFF : Byte) ≠ 0 ∧ opDefined (0xFF : Byte).toNat = false ∧
      cannotTake { die with reed := { die.reed with st := .halted } } .firmware = true := by decide +kernel

theorem witness_contexts : let s := { die with reed := { die.reed with ctxs := [1, 5] }, cores := [] }
    up s ∧ slotReady s .host ∧ nthFree s.reed.ctxs 1 4096 0 = some 2 ∧ nthFree ((List.range 4095).map (fun k => k + 1)) 1 4096 0 = none ∧
      queuePresent s 391 = true ∧ allocated s 5 = true ∧ (getQ s 391).st = 0 ∧ releasing s 5 = false ∧ allocated s 2 = false ∧
      s.queues.any (fun p => p.2.ctx.toNat = 5 && p.2.st ≠ 0) = false ∧ slotFree s .firmware ∧ (0x07 : W64).toNat < 128 ∧ (0x07 : W64).getLsbD 3 = false ∧
      coreLive s 7 = true ∧ (getCore s 7).bind = 0 ∧ (getCore s 7).rebind = none := by decide +kernel

def release0 (step : Nat) : Release := { ctx := 5, tag := 2, step := step, at_ := 9 }
theorem witness_releases : let s := fun step => atBoundary { die with reed := { die.reed with ctxs := [5], releases := [release0 step] } }
    let re := atBoundary { die with cores := [(0, { bind := 2, rebind := some (6, true, 9) })] }
    up die ∧ die.edge = false ∧ up (s 0) ∧ (s 0).edge = true ∧ (s 0).reed.releases = [release0 0] ∧ (release0 0).at_ ≠ die.breath.num ∧
      (∀ p ∈ (s 0).cores, p.2.rebind = none) ∧ 0 ∈ coresOfCtx (s 0) 5 1 ∧ up (s 2) ∧ (s 2).reed.releases = [release0 2] ∧
      up (s 6) ∧ (s 6).edge = true ∧ (s 6).reed.releases = [release0 6] ∧
      (mail (s 6) .host).done = false ∧ up re ∧ re.edge = true ∧ (getCore re 0).rebind = some (6, true, 9) ∧ (9 : W64) ≠ re.breath.num ∧
      re.bell.staging.length < 256 := by decide +kernel

theorem witness_firmware : let w := { die with reed := { die.reed with fw := { done := true, waiting := [{ result := 0, tag := 4, code := 1 }] } } }
    up die ∧ slotFree die .firmware ∧ unitValid ((0x1001 : W64).setWidth 16) = true ∧ (0x1001 : W64).toNat < 2 ^ 16 ∧
      (0x11001 : W64).toNat / 2 ^ 16 = 1 ∧ unitValid ((0x11001 : W64).setWidth 16) = true ∧ 2 ^ 17 ≤ (0x20000 : W64).toNat ∧
      0x8000 ≤ fld (0x8000 : W64) 15 0 ∧ fld (0x8000 : W64) 47 44 = 0 ∧ fld (0x8000 : W64) 63 49 = 0 ∧ fld (0x7FFF : W64) 15 0 < 0x8000 ∧
      die.bell.staging.length < 256 ∧ (mail die .host).waiting = [] ∧ up w ∧ slotFree w .firmware ∧ (mail w .firmware).done = true ∧
      (mail w .firmware).waiting = [{ result := 0, tag := 4, code := 1 }] := by decide +kernel

theorem witness_image_loads : let v := { die with reed := { die.reed with verifying := some image0, st := .verifying } }
    let p := { die with reed := { die.reed with pending := some { image0 with waited := 256 }, st := .pending } }
    up die ∧ die.reed.warm = false ∧ slotReady die .host ∧ loadOf die = none ∧ (0x1000 : W64).toNat % 4096 = 0 ∧ (loadOf v).isSome = true ∧
      slotReady v .host ∧ loadReason v image0 true = some 1 ∧ (mail v .host).done = false ∧ loadOf p = some { image0 with waited := 256 } ∧
      256 ≤ ({ image0 with waited := 256 } : Load).waited ∧ image0.waited < 256 := by decide +kernel

theorem witness_refold : let p := atBoundary { die with reed := { die.reed with pending := some image0, st := .pending } }
    let it := attRun (0x10, fwdDesc)
    let l := { p with items := [it], tasks := [task0], breath := { p.breath with num := 12 } }
    up p ∧ p.edge = true ∧ p.reed.pending = some image0 ∧ p.reed.verifying = none ∧ longRunning p = false ∧
      p.casc.lost.contains 0 = false ∧ p.reed.refolded = none ∧ p.reed.refolded ≠ some p.breath.num ∧
      ({ p with reed := { p.reed with refolded := some 10 } }).reed.refolded = some p.breath.num ∧ die.edge = false ∧
      up l ∧ l.reed.pending = some image0 ∧ longRunning l = true ∧ (mail p .host).done = false := by decide +kernel

theorem witness_detections : logicalOf die (unitIdx 0x1007) = some 7 ∧ unitValid 0x1007 = true ∧ unitKind 0x1007 = 1 ∧ unitValid 0x1048 = false ∧
    unitKind 0x200F = 2 ∧ logicalCluster die (unitIdx 0x200F / 16) = some 0 ∧ (getCluster die 0).spareLines ≠ 0 ∧ unitValid 0x200F = true ∧
    unitKind 0x8000 = 8 ∧ unitValid 0x8000 = true ∧ unitKind 0x8008 = 8 ∧ unitIdx 0x8008 = 8 ∧
    unitIdx 0x8000 ≠ 8 ∧ logicalCluster die (unitIdx 0x8000) = some 0 ∧ unitKind 0x3021 = 3 ∧ unitValid 0x3021 = true ∧ unitKind 0x4023 = 4 ∧
    unitValid 0x4023 = true ∧ unitKind 0x6003 = 6 ∧ unitValid 0x6003 = true ∧ unitValid 0x8008 = true ∧
    sourceKind .testPack = some 1 ∧ (findItem (withItem (ready 0 [])) 0 3).isSome = true ∧ (ready 0 []).stage ≠ .recordSent ∧
    ({ die with reed := { die.reed with active := none } }).reed.active = none ∧ die.reed.active ≠ none := by decide +kernel

def suspect (u : W16) (st : Byte) : State := atBoundary { die with history := [(u.toNat, { st := st, changed := 9 })] }
theorem witness_spares : let s := suspect 0x1003 1
    let r := { suspect 0x1003 2 with clusters := [(0, { cluster0 with spare := 0xF })] }
    let p := { suspect 0x3000 1 with history := [(0x3000, { st := 1, changed := 9 }), (0x3020, { role := 1 })] }
    let l := { s with items := [attRun (0x10, fwdDesc)], tasks := [{ task0 with core := 3 }], breath := { s.breath with num := 12 } }
    up s ∧ s.edge = true ∧ wantsSpare s 0x1003 = true ∧ unitKind 0x1003 = 1 ∧ logicalOf s (unitIdx 0x1003) = some 3 ∧ 3 / 8 < clustersEn s ∧
      longOn s 3 = false ∧ up l ∧ logicalOf l (unitIdx 0x1003) = some 3 ∧ longOn l 3 = true ∧
      (getCluster s 0).spare < 9 ∧ (BitVec.ofNat 16 (0x1000 + cluster0.phys * 9 + cluster0.spare)) ≠ (0x1003 : W16) ∧ wantsSpare die 0x1003 = false ∧
      up p ∧ p.edge = true ∧ wantsSpare p 0x3000 = true ∧ unitKind 0x3000 = 3 ∧ spareSlice p = some 0x3020 ∧
      up r ∧ r.edge = true ∧ r.reed.active ≠ none ∧ (getUnit r 0x1003).st = 2 ∧ (getUnit r 0x1003).role = 0 ∧ unitDue r 0x1003 = true ∧
      spareLeft r 0x1003 = false ∧ r.reed.refolded ≠ some r.breath.num ∧
      unitValid 0x1003 = true ∧ logicalOf r (unitIdx 0x1003) = some 3 ∧ 8 * (3 / 8) + (coresOf (getCluster r 0) - 1) = 7 ∧ (physOf r 7).isSome = true ∧
      spareLeft (suspect 0x1003 2) 0x1003 = true := by decide +kernel

theorem witness_losses : let s := atBoundary { die with casc := { die.casc with unreachable := [(2, 4), (3, 3)] } }
    let l := atBoundary { die with casc := { die.casc with lost := [2] }, link := { die.link with lost := true, st := 2 } }
    let i := { busy 96 [(1, 0x30)] with exchangeWait := 64 }
    let e := atBoundary (withItem i)
    let c := { die with clusters := [(0, { cluster0 with resetting := true })] }
    up s ∧ s.edge = true ∧ die.edge = false ∧ isK5 s = false ∧ s.casc.lost.contains 2 = false ∧ s.casc.unreachable.find? (fun x => x.1 = 2) = some (2, 4) ∧
      s.casc.unreachable.find? (fun x => x.1 = 3) = some (3, 3) ∧ (2 : Nat) ≠ s.cascId.toNat ∧ up l ∧ l.edge = true ∧
      unitKind 0x7002 = 7 ∧ l.casc.lost.contains (unitIdx 0x7002) = true ∧ l.link.lost = true ∧ l.link.st = 2 ∧ die.link.lost = false ∧
      up e ∧ e.edge = true ∧ findItem e 96 3 = some i ∧ i.stage = .executing ∧ 64 ≤ i.exchangeWait ∧ opOf e 96 3 = none ∧
      (getCluster c 0).resetting = true ∧ (getCluster die 0).resetting = false ∧ die.bell.staging.length < 256 := by decide +kernel

theorem witness_resets : let m := { die with mute := { muted := true } }
    let b := { die with reed := { booted := true } }
    die.rstLow = false ∧ die.powered = true ∧ die.mute.muted = false ∧ m.mute.muted = true ∧ die.reed.active ≠ none ∧ 99 < 100 ∧ 100 ≤ 100 ∧
      b.reed.active = none ∧ die.mem.reqs = [] ∧ die.bell.flushing = none ∧ (State.reset).rstLow = true ∧ State.reset = coldState State.reset ∧
      bestTrailer (State.reset).xspi = none ∧ bestTrailer { trailerA := some (3, 9), trailerB := some (4, 12) } = some 12 ∧
      up b ∧ b.reed.booted = true ∧ b.reed.st = .boot ∧ die.reed.st ≠ .boot := by decide +kernel

def event0 : BellEvent := { code := 0x0042, fault := true }
theorem witness_bell : let s := { die with bell := { die.bell with staging := [event0, { event0 with fault := false }], droppedSince := 2 } }
    up s ∧ die.bell.staging = [] ∧ s.bell.staging = event0 :: [{ event0 with fault := false }] ∧ event0.fault = true ∧ s.bell.droppedSince ≠ 0 ∧
      die.bell.droppedSince = 0 := by decide +kernel

/-- Event 8192 in slot 0 and event 8193 in slot 1, of which a flush to 8193 writes the first. -/
def flushState : State := { die with bell := { die.bell with slots := [(0, { event0 with seq := 8192 }), (1, { event0 with seq := 8193 })]
                                                             head := 8194, flushed := 8192, flushing := some 8193, flushAgain := true } }
theorem witness_snapshots : let b := { atBoundary flushState with breath := { flushState.breath with num := 512 } }
    let d := atBoundary { die with breath := { die.breath with num := 512 } }
    up flushState ∧ flushState.bell.flushing = some 8193 ∧ twf {} flushState.bell.slots = true ∧
    (∀ p ∈ flushState.bell.slots, p.1 = p.2.seq.toNat % 8192) ∧
    isBelow 8193 (flushCount flushState 8193) { event0 with seq := 8192 } = true ∧
    isBelow 8193 (flushCount flushState 8193) { event0 with seq := 8193 } = false ∧
    die.bell.flushing = none ∧ die.bell.flushed = die.bell.head ∧ (8193 : W32) ≠ flushState.bell.head ∧
    up b ∧ b.edge = true ∧ b.breath.num.toNat % 256 = 0 ∧ b.bell.flushing ≠ none ∧
    up d ∧ d.edge = true ∧ d.breath.num.toNat % 256 = 0 ∧ d.bell.flushing = none ∧ d.bell.flushed ≠ (4 : W32) ∧
    faultUnflushed { flushState with bell := { flushState.bell with flushing := none } } = true ∧
    ¬((die.edge = true ∧ die.breath.num.toNat % 256 = 0) ∨ faultUnflushed die = true) ∧ flushState.bell.staging.length < 256 := by decide +kernel

theorem witness_mute : let m := { die with mute := { muted := true }, breath := { die.breath with started := true } }
    canMute die = true ∧ canMute m = false ∧ isK5 die = false ∧ 3 ≠ die.cascId.toNat ∧ m.mute.rstSeen = false ∧ m.mute.wrstSeen = false ∧
      m.breath.started = true ∧ m.reed.active ≠ none ∧ ({ m with mute := { muted := true, rstSeen := true } }).mute.rstSeen = true ∧
      7 < 8 ∧ die.bell.staging.length ≤ 256 := by decide +kernel

theorem witness_sensors : up die ∧ (List.replicate 32 (0x0690 : W16)).length = 32 ∧ (List.replicate 31 (0 : W16)).length ≠ 32 := by decide +kernel

theorem witness_maintenance : let m := { die with mute := { muted := true } }
    m.powered = true ∧ m.mute.muted = true ∧ (stateWord m (5 * 2 ^ 56)).isSome = true ∧ stateWord m (10 * 2 ^ 56) = none ∧
      stateWord m (2 ^ 56 + 72 * 2 ^ 48) = none ∧ die.mute.muted = false := by decide +kernel

def linked : State := { die with link := { die.link with
  st := 2, width := 32, rxNext := 5, retryBuf := [{ seq := 1, data := [] }, { seq := 2, data := [] }], echoSent := 64, echoGot := 63, echoBest := 100 } }
/-- The lanes of a codeword that is no codeword of the code, and what they decode to. -/
def badLanes : List (List Nat) := List.replicate 32 (List.replicate 17 1)
theorem decode_zeros : rsDecode (takeSymbols (List.replicate 32 [])) = some (List.replicate 544 0, []) := by decide +kernel
theorem decode_bad : rsDecode (takeSymbols badLanes) = none := by decide +kernel
theorem witness_codewords : let l := switchLanes linked.link
    let laid := fun (lanes : List (List Nat)) => (List.range linked.link.width).map (fun k => lanes.getD (rxLane l (k % max 1 linked.link.width)) [])
    let lost := { linked with link := { linked.link with rxDiscard := true, rxPos := 7 } }
    let first := { linked with link := { linked.link with rxNext := 0 } }
    up linked ∧ linked.link.st = 2 ∧ laid [] = List.replicate 32 [] ∧ laid badLanes = badLanes ∧ linked.link.rxDiscard = false ∧
      lost.link.rxDiscard = true ∧ lost.link.rxPos ≠ lost.link.rxNext ∧ (0 : BitVec 10) ≠ linked.link.rxNext ∧ first.link.rxNext = 0 ∧
      (let again := { linked with link := { linked.link with rxDiscard := true, rxNext := 1023, rxPos := 7 } }
       (0 : BitVec 10) = again.link.rxNext + 1 ∧ (0 : BitVec 10) ≠ again.link.rxPos ∧ (0 : BitVec 10) ≠ again.link.rxNext) ∧
      (∃ x ∈ ({ first with link := { first.link with retryBuf := [{ seq := 0, data := [] }] } }).link.retryBuf, x.seq = 0) ∧
      (∀ x ∈ first.link.retryBuf, x.seq ≠ 0) ∧ (first.link.retryBuf.length < 768) ∧
      linked.link.txCtl = [] ∧ linked.link.txWait = [] ∧ linked.link.txCarry < 256 ∧ (∃ w ∈ linked.link.retryBuf, w.seq = 2) ∧
      (∀ w ∈ linked.link.retryBuf, w.marks = []) ∧ (∀ w ∈ linked.link.retryBuf, w.seq ≠ 3) ∧ die.link.st = 0 ∧ die.link.st ≠ 2 ∧
      linked.link.echoSent ≠ 0 ∧ 63 ≤ linked.link.echoGot ∧ min linked.link.echoBest (((90 : W64) - 10).toNat - (4 : W32).toNat) < 2 ^ 32 ∧
      ({ linked.link with echoGot := 62 }).echoGot < 63 ∧ ({ linked.link with echoSent := 0 }).echoSent = 0 := by decide +kernel

theorem witness_lanes : let s := atBoundary { linked with link := { linked.link with overLimit := [(7, 4)] } }
    let n := { s with link := { s.link with retired := BitVec.ofNat 36 0xF00000000 } }
    up s ∧ s.link.st = 2 ∧ s.edge = true ∧ linked.edge = false ∧ s.link.retired.getLsbD 7 = false ∧ (∃ p ∈ s.link.overLimit, p.1 = 7 ∧ 4 ≤ p.2) ∧
      s.link.rxLaneOf = [] ∧ freeSpares s.link = [32, 33, 34, 35] ∧ s.link.width ≠ 16 ∧ freeSpares n.link = [] ∧ n.link.width = 32 ∧
      16 < ((List.range 36).filter (fun k => !n.link.retired.getLsbD k)).length ∧ n.reed.active ≠ none ∧ n.reed.warm = false ∧
      n.reed.refolded ≠ some n.breath.num ∧ n.link.retired.getLsbD 35 = true ∧ (∀ p ∈ linked.link.overLimit, p.1 = 7 → p.2 < 4) ∧
      die.link.st = 0 ∧ ({ linked with link := { linked.link with st := 1 } }).link.st = 1 ∧ (goodLanes die.link (List.range 36)).length = 36 ∧
      16 ≤ (goodLanes die.link (List.range 16)).length ∧ (goodLanes die.link (List.range 15)).length < 16 ∧ die.link.creditTx = [] ∧
      die.link.txWait = [] ∧ (∀ w ∈ linked.link.retryBuf, w.marks = []) ∧ isK5 die = false ∧ 3 ≠ die.cascId.toNat ∧ (getBridge die 3).wait = [] := by
  decide +kernel

/-- The header of a packet of one flit for a node and die, and its flits. -/
def headerFor (node die : Nat) : List Byte := toLE 2 node ++ toLE 1 die ++ toLE 3 0 ++ toLE 2 1 ++ toLE 16 0
def oneFlit (node die : Nat) : List (List Byte) := [headerFor node die ++ [7]]
theorem witness_packets : let s := { die with casc := { die.casc with mode := 1, ports := [(2, { st := 2 })] }, link := { die.link with routes := [0, 0x10, 0x12, 0, 0x26] }, cle := { die.cle with vcw := 1 } }
    let h := { s with link := { s.link with rxHeld := [0, 3] } }
    let b := { s with casc := { s.casc with mode := 2, ports := [(1, { st := 2 }), (2, { st := 2 })] } }
    let a := { die with link := { die.link with txWait := [(1, false, []), (2, false, [])], creditTx := List.replicate 16 1 }, cle := { die.cle with vcw := 0x0101010101010101 } }
    up s ∧ isK5 s = false ∧ (oneFlit 0 2).length ≤ 17 ∧ s.link.rxHeld.getD 0 0 < (oneFlit 0 2).length ∧
      (parseHeader (oneFlit 0 2)).len = (oneFlit 0 2).length ∧ (parseHeader [[]]).len ≠ 1 ∧ (parseHeader (oneFlit 0 2)).node = s.link.node ∧
      (parseHeader (oneFlit 0 2)).die = 2 ∧ (2 : Nat) ≠ s.cascId.toNat ∧ (getBridge s 2).st = 2 ∧ (getBridge s 2).wait = [] ∧
      weightOf s 0 ≠ 0 ∧ weightOf s 1 = 0 ∧ (parseHeader (oneFlit 0 0)).die = s.cascId.toNat ∧
      (parseHeader (oneFlit 2 0)).node ≠ s.link.node ∧ s.casc.mode ≠ 0 ∧ die.casc.mode = 0 ∧
      (s.link.routes.getD 2 0).toNat / 16 = 1 ∧ (s.link.routes.getD 2 0).toNat % 4 = 2 ∧
      (s.link.routes.getD 1 0).toNat / 16 = 1 ∧ (s.link.routes.getD 1 0).toNat % 4 = s.cascId.toNat ∧ s.link.st ≠ 2 ∧
      (parseHeader (oneFlit 4 0)).node.toNat = 4 ∧ (b.link.routes.getD 4 0).toNat / 16 = 2 ∧ b.casc.mode = 2 ∧ (parseHeader (oneFlit 4 0)).node ≠ b.link.node ∧
      ((List.range 4).filter (fun x => (b.link.routes.getD 4 0).getLsbD x))[b.link.bondNext % 2]? = some 1 ∧ (getBridge b 1).st = 2 ∧
      (s.link.routes.getD 3 0).toNat / 16 = 0 ∧ (oneFlit 0 0).length ≤ h.link.rxHeld.getD 1 0 ∧ (parseHeader (oneFlit 0 0)).node = h.link.node ∧
      pickChannel a none = some 2 ∧ (nextFlit a none 1).isSome = true := by decide +kernel

/-- An open all-gather of a group of two, begun, its own record and stream out. -/
def op0 : CleOp :=
  { group := 0, kind := false, sn := 0, attempt := 0, q := 96, idx := 3, begun := true, sentData := true,
    agreed := [(0, { offer := 64, digest := 1 })] }
/-- An all-gather of one element. -/
def gather1 : Item := { ready 96 [(1, 0x30), (16, 4096), (24, 8192), (32, 1), (36, 1), (40, 1), (41, 1)] with stage := .executing, begun := true }
def opState (o : CleOp) : State :=
  let s := withGroup group0 (withItem gather1)
  { s with cle := { s.cle with ops := [o] } }
/-- The same in a group of three or four. -/
def larger (n : BitVec 8) (s : State) : State := { s with cle := { s.cle with groups := [(0, { group0 with nm1 := n })] } }
def cleEnd : CleEnded := { group := 0, kind := false, sn := 0, status := 0, detail := 0 }
theorem witness_exchange_units : let s := opState op0
    let z := { die with cle := { die.cle with ended := [{ cleEnd with zero := some { zeroShape := true } }] } }
    up s ∧ opByTag die tag0 = none ∧ relayOp die tag0 = none ∧ ahead die tag0 = false ∧
      ahead (withGroup group0 die) tag0 = true ∧ opByTag (withGroup group0 die) tag0 = none ∧ relayOp (withGroup group0 die) tag0 = none ∧
      opByTag z tag0 = none ∧ (relayOp z tag0).isSome = true ∧ goesOn (larger 2 z) { tag0 with rank := 2 } 0x30 0 = true ∧ goesOn (larger 1 z) tag0 0x30 0 = false ∧
      opByTag s tag0 = some op0 ∧ (∃ a ∈ op0.agreed, a.1 = ({ tag0 with rank := 0 } : UnitTag).rank) ∧ (∀ a ∈ op0.agreed, a.1 ≠ tag0.rank) ∧
      op0.kind = false ∧ op0.begun = true ∧ op0.failFrom = [] ∧ opByTag (larger 2 s) tag0 = some op0 ∧ groupSize (larger 2 s) 0 = 3 ∧ (2 : Nat) ≠ tag0.rank ∧
      (∀ a ∈ op0.agreed, a.1 ≠ 2) ∧ op0.markers = [] ∧ passes s op0 tag0 = false ∧ passes (larger 2 s) op0 { tag0 with rank := 2 } = true ∧
      crc32c [1] ≠ (0 : W32).toNat ∧ op0.mismatches = [] ∧
      (({ op0 with mismatches := [((1, 0, 0), 3)] }).mismatches.find? (fun x => x.1 = (tag0.rank, tag0.piece.toNat, 0))) = some ((1, 0, 0), 3) := by
  decide +kernel
theorem witness_streams_of_units : let s := opState op0
    let whole := { op0 with chunks := [((1, 0, 0), [1, 2, 3, 4])] }
    let w := opState whole
    let mark := fun (o : CleOp) (crc : W64) => { o with markers := [(1, 0, (0 : W32), crc)] }
    streamHere s (mark op0 0) 1 0 = false ∧ streamHere w (mark whole 0) 1 0 = true ∧ passes w whole tag0 = false ∧ opByTag w tag0 = some whole ∧
      whole.sentData = true ∧ whole.wrote = false ∧ findItem w 96 3 = some gather1 ∧ 1 ∈ neededRanks whole gather1.cmd 0 (groupSize w 0) ∧
      1 ∉ whole.ended ∧ crc64 (streamBytes whole 1) ≠ (1 : W64).toNat ∧ (2 : Nat) ∉ op0.doneFrom ∧
      (let f := { op0 with sentDone := false }
       f.rejoining = false ∧ f.heldFor = none ∧ (∀ x ∈ f.failFrom, x.1 ≠ 0) ∧ tag0.rank ≠ 0 ∧ outputsLeft s 96 3 = 0 ∧ s.tasks = []) ∧
      (let a := { op0 with doneFrom := [0], sentDone := true }
       let k := opState a
       opByTag k tag0 = some a ∧ opOf k 96 3 = some a ∧ (findItem k 96 3).isSome = true ∧ groupSize k 0 = 2 ∧
         (∀ m, m < groupSize k 0 → m ≠ tag0.rank → m ∈ a.doneFrom) ∧ a.sentDone = true ∧ (0 : Nat) ∉ ({ a with doneFrom := [] }).doneFrom) := by
  decide +kernel
theorem witness_stream_verifies : ∃ crc : W64, crc64 (streamBytes { op0 with chunks := [((1, 0, 0), [1, 2, 3, 4])] } 1) = crc.toNat :=
  ⟨BitVec.ofNat 64 (crc64 [1, 2, 3, 4]), by decide +kernel⟩
theorem witness_chunk_verifies : ∃ crc : W32, crc32c [1] = crc.toNat := ⟨BitVec.ofNat 32 (crc32c [1]), by decide +kernel⟩
theorem witness_buffer_wait : let o := { op0 with begun := false, sentData := false, agreed := [], want := 3, waiting := 5 }
    let s := opState o
    s.cle.ops = [o] ∧ o.kind = false ∧ o.begun = false ∧ 5 ≤ o.waiting ∧ o.rejoining = false ∧ o.heldFor = none ∧ o.failFrom = [] ∧ o.agreed = [] ∧
      o.record.opcode = 0 ∧ (findItem s 96 3).map (mayRun s) = some true ∧ 2 ≤ groupSize s 0 ∧ s.cle.earlyAgree = [] ∧ s.cle.earlyFail = [] ∧
      (∀ o ∈ (opState op0).cle.ops, o.group = 0 → o.kind = true ∨ o.begun = true ∨ o.waiting < 5) := by decide +kernel
theorem witness_rejoining : let o := { op0 with rejoining := true }
    let s := opState o
    let e := { die with cle := { die.cle with ended := [{ cleEnd with status := 0x24 }] } }
    let z := { die with cle := { die.cle with ended := [{ cleEnd with zero := some { zeroShape := true } }] } }
    endedByTag e tag0 = some { cleEnd with status := 0x24 } ∧ endedByTag s tag0 = none ∧ opBySn die tag0 = none ∧ opBySn e tag0 = none ∧
      opBySn s tag0 = some o ∧ opByTag s tag0 = some o ∧ (relayOp z tag0).isSome = true ∧ opByTag z tag0 = none ∧ relayOp die tag0 = none ∧
      ahead die tag0 = false ∧ op0.rejoining = false ∧ opOf s 96 3 = some o ∧ (findItem s 96 3).isSome = true ∧
      (∃ r, r < groupSize s 0 ∧ r ∉ o.doneFrom) ∧ cmdAt gather1.cmd 32 4 ≤ cmdAt gather1.cmd 36 4 ∧ 2 ≤ groupSize s 0 ∧
      s.cle.earlyAgree = [] ∧ s.cle.earlyDone = [] ∧ s.cle.earlyFail = [] ∧
      (let a := { o with kind := true }
       let k := opState a
       opByTag k { tag0 with kind := true } = some a ∧ opOf k 96 3 = some a ∧ (findItem k 96 3).isSome = true ∧
         groupSize k 0 ≤ a.replies + 2) ∧
      (let a := { o with doneFrom := [0, 1] }
       let k := opState a
       opBySn k tag0 = some a ∧ opByTag k tag0 = some a ∧ opOf k 96 3 = some a ∧ a.failFrom = [] ∧ (∀ r, r < groupSize k 0 → r ∈ a.doneFrom)) ∧
      (opByTag (larger 3 s) tag0 = some o ∧ o.replies + 2 < groupSize (larger 3 s) 0) := by decide +kernel

/-- A command of queue 352: SRC, DST, the rows, one column, the two format bytes, FUNC 1. -/
def rowCommand (rows fmt : Nat) : BitVec 512 :=
  command [(0, 0x10), (1, 0x42), (16, 65536), (24, 4096), (32, rows), (36, 1), (40, fmt), (41, fmt), (42, 1)]
theorem witness_field_checks : let s := { roomy { withItem { q := 352, idx := 3 } with queues := [(352, queue1)] } with items := [{ q := 352, idx := 3 }] }
    fieldsLegal s 352 (rowCommand 1 0xFF) = false ∧ fieldsLegal s 352 (rowCommand 0 1) = true ∧ zeroShape (rowCommand 0 1) = true ∧
      issueVerdict s 352 (rowCommand 1 1) = .pass ∧ reservedSet (rowCommand 1 1) = false := by
  decide +kernel

/-! ### Worked examples of the spec -/

/-- Table 0.6: KQ_CAP0 of a four-die package before and after a core retires in a cluster whose spare is in use. -/
theorem test_cap0 : let full : Cluster := cluster0
    let s := fun c : Cluster => { die with
      casc := { die.casc with dies := 3 }
      clusters := (0, c) :: (List.range 7).map (fun k => (k + 1, { full with phys := k + 1 })) }
    (capWords (s full) 1 8 1).headD 0 = 0x0100000001340871 ∧
      (capWords (s { full with map := [0, 1, 2, 3, 4, 5, 6, 15] }) 1 8 2).headD 0 = 0x020000000133F871 := by decide +kernel

/-- Table 4.9. -/
theorem test_stochastic_rounding : stochRound fmtBF16 0x3F804000 0x30000000 = 0x3F81 ∧ stochRound fmtBF16 0x3F804000 0x40000000 = 0x3F80 ∧
    stochRound fmtBF16 0x3F804000 0x60000000 = 0x3F80 ∧ stochRound fmtBF16 0xBF804000 0x30000000 = 0xBF81 := by decide +kernel

/-- Table 6.4: the RMS norm of elements of 1.5 × 2¹²⁶ is 1.0 in every column (here 512 columns, the leaf of 1,152). -/
theorem test_rms_norm : (rmsRow fmtBF16 (dec32 0x35800000) (List.replicate 512 (fmtBF16.decode 0x7EC0))
    (List.replicate 512 (.fin false 1 0))).headD 0 = 0x3F80 := by decide +kernel

def ints (e : Int) (l : List Int) : List Machine.Num := l.map (fun x => .fin (decide (x < 0)) x.natAbs e)
def keyOfInts (pos : Nat) (e : Int) (k v : List Int) : KeyData := { kpos := pos, pic := picKeyOf (ints e k), k := ints e k, v := ints 0 v }
/-- The row of Tables 5.10 to 5.12 (in units of 1/4). -/
def row510 : RowIn :=
  { scale := 0x3F000000, pFmt := 0x02, hd := 4, q := ints (-2) [4, 2, -2, 1]
    keys := [keyOfInts 0 (-2) [4, 4, 0, 0] [2, 0, 0, 1], keyOfInts 1 (-2) [2, 0, 4, 0] [0, 4, 0, 1], keyOfInts 2 (-2) [0, 0, 0, 8] [0, 0, -1, 1]]
    keep := fun _ => true }
theorem test_attention_row : let a := fwdRow row510
    a.mHat = 0x3FB40000 ∧ a.resc = false ∧ a.l = 0x3F8A2000 ∧
      a.o.map (fun o => quotient fmtBF16 o a.l a.kv 0) = [0x3F77, 0x3F69, 0xBE95, 0x3F80] ∧ rowLse a = 0x3FBDBE97 := by decide +kernel

/-- The row of Tables 5.13 and 5.14: a rescout. -/
def row513 : RowIn :=
  { row510 with
    q := ints 0 [64, -64, 0, 0]
    keys := [keyOfInts 0 0 [64, 64, 0, 0] [1, 2, 3, 4], keyOfInts 1 0 [0, 0, 1, 0] [3, 0, 1, -4]] }
theorem test_rescout : let a := fwdRow row513
    rowBound row513 = 0x45200000 ∧ a.resc = true ∧ a.l = 0x40000000 ∧
      a.o.map (fun o => quotient fmtBF16 o a.l a.kv 0) = [0x4000, 0x3F80, 0x4000, 0] ∧ rowLse a = 0x3F317218 := by decide +kernel

/-- Table 3.7: the order in which queues 5, 70 and 360 are served. -/
theorem test_admission_order : let s := fun b : W64 => { die with breath := { die.breath with num := b } }
    queueOrder (s 1000) [5, 70, 360] = [360, 5, 70] ∧ queueOrder (s 1001) [5, 70, 360] = [360, 5, 70] ∧
      queueOrder (s 1182) [5, 70, 360] = [70, 360, 5] := by decide +kernel

/-- R132 and Table 6.6: exp of 0 is 1, exp of −∞ is +0, and the function of a NaN is the canonical NaN. -/
theorem test_functions : exp32 0 = 0x3F800000 ∧ exp32 0xFF800000 = 0 ∧ exp32 0x7F812345 = 0x7FC00000 := by decide +kernel

/-! ### A signed image and a signed test pack

`Config.ecdsaP384` and `Config.sha384` have no body, so that nothing shows that a signature verifies; the witnesses take that
one answer as their premise and show every other check of the image and of the pack met. -/

/-- A word of little-endian fields given as (width in bytes, value) pairs, and zeros up to `n` bytes. -/
def packed (n : Nat) (l : List (Nat × Nat)) : List Byte :=
  let bs := l.flatMap (fun p => toLE p.1 p.2)
  bs ++ List.replicate (n - bs.length) 0
def sectionEntry (t off size : Nat) : List (Nat × Nat) := [(4, t), (4, off), (8, size)]
/-- A Kiqua-5 image of one stage entry on the cores of cluster 0, its signature block zero. -/
def imageBytes : List Byte :=
  packed 64 [(4, 0x4953514B), (1, 0x10), (1, 1), (2, 6), (4, 77), (4, 1088)] ++
  packed 128 (sectionEntry 1 192 64 ++ sectionEntry 2 256 64 ++ sectionEntry 3 320 384 ++ sectionEntry 6 704 16 ++ sectionEntry 7 768 64 ++
    sectionEntry 8 832 64) ++
  packed 64 [(1, 2), (1, 0), (1, 1), (1, 0), (2, 20), (1, 20), (1, 100), (1, 0), (1, 1)] ++
  packed 64 [(2, 0), (2, 4), (1, 0), (1, 0xFF), (1, 0), (1, 16), (4, 1024), (4, 4096), (4, 65536), (4, 0), (4, 4096), (4, 256), (2, 8), (2, 64), (1, 8)] ++
  (List.range 16).flatMap (fun _ => packed 24 [(8, 2 ^ 63), (8, 2 ^ 63 + 2 ^ 61), (8, 2 ^ 63 + 2 ^ 62)]) ++
  packed 384 []
def imageLoad : Load := { pa := 0, length := 1088, tag := 7 }
/-- A die with that image at address 0, its key's digest in fuse slot 1. -/
def imageDie : State := { die with
  reed := { die.reed with verifying := some imageLoad, st := .verifying }
  fuses := { die.fuses with digests := [(1, Config.sha384 (keyBytes imageBytes 1088))] }
  mem := { die.mem with bytes := listed 0 imageBytes } }

theorem image_format : formatOk imageBytes 1088 = true := by decide +kernel
theorem image_checks : let i := parseImage imageBytes
    variantOk imageDie i = true ∧ i.arithVer = 1 ∧ breathOk imageDie i = true ∧ stagesOk imageDie i = true ∧
      (List.range 16).all (programOk i.tops) = true ∧ groupsOk i = true ∧ linkOk imageDie i = true ∧ fwOk imageBytes = true := by decide +kernel
theorem image_slot : (parseImage imageBytes).keySlot.toNat = 1 ∧ imageDie.fuses.revoked.contains 1 = false := by decide +kernel
theorem image_read : readPa imageDie 0 1088 = (.ok, imageBytes) := by decide +kernel

theorem witness_verified_image (h : signatureOk imageBytes 1088 = true) : loadReason imageDie imageLoad true = none := by
  have hk : keyOk imageDie 1 imageBytes 1088 = true := by
    simp only [keyOk, image_slot.2]
    simp [imageDie]
  obtain ⟨h1, h2, h3, h4, h5, h6, h7, h8⟩ := image_checks
  have hr : readPa imageDie imageLoad.pa imageLoad.length = (.ok, imageBytes) := image_read
  unfold loadReason
  rw [hr]
  show imageReason imageDie imageBytes 1088 true = none
  simp only [imageReason, image_format, image_slot.1, hk, h, h1, h2, h3, h4, h5, h6, h7, h8]
  rfl

/-- A pack of one test, its signature block zero. -/
def packBytes : List Byte := packed 64 [(4, 0x4B505354), (1, 0x10), (1, 1), (2, 1), (4, 7), (4, 4096)] ++ List.replicate 320 0
def packItem : Item := ready 384 [(1, 0x50), (16, 4096), (24, 384), (32, 7)]
def packDie : State := { withItem packItem with fuses := { die.fuses with digests := [(1, Config.sha384 (keyBytes packBytes 384))] } }
theorem witness_signed_pack (h : signatureOk packBytes 384 = true) : packOk packDie packItem packBytes = true := by
  have hl : packBytes.length = 384 := by decide +kernel
  have hs : leAt packBytes 5 1 % 4 = 1 := by decide +kernel
  have hk : keyOk packDie 1 packBytes 384 = true := by
    simp [keyOk, packDie, die, State.reset, withItem]
  have hf : (leAt packBytes 0 4 = 0x4B505354 && leAt packBytes 4 1 = 0x10 && decide (1 ≤ leAt packBytes 6 2 ∧ leAt packBytes 6 2 ≤ 4096) &&
      leAt packBytes 12 4 % 4096 = 0 && decide (64 + 128 * leAt packBytes 6 2 + 192 ≤ 384) &&
      leAt packBytes 8 4 = cmdAt packItem.cmd 32 4) = true := by decide +kernel
  simp only [packOk, hl, hs, hk, h, hf, Bool.and_true]

end Sys2Proof.Tests
end

/-! A queue after a write to it, and what a doorbell write does case by case (chapter 02, R28, R29). -/

namespace Sys2Proof.Proofs.Queues

open Sys2Proof Sys2Proof.Machine Sys2Proof.Safety Sys2Proof.Laws

/-! ### A queue's registers after a write to them -/

@[simp] theorem getQ_setQ_same (s : State) (q : Nat) (v : Queue) : getQ (setQ s q v) q = v :=
  tget_tput_same ..

theorem getQ_setQ_other (s : State) {p q : Nat} (v : Queue) (h : p ≠ q) : getQ (setQ s q v) p = getQ s p :=
  tget_tput_other _ _ _ _ _ h

@[simp] theorem queuePresent_setQ (s : State) (p q : Nat) (v : Queue) : queuePresent (setQ s q v) p = queuePresent s p := rfl

@[simp] theorem keepOuter_setQ (s : State) (q : Nat) (v : Queue) : keepOuter s (setQ s q v) = setQ s q v := rfl

/-! ### DB_ERR and its interrupt -/

@[simp] theorem getQ_setDbErr_same (s : State) (q : Nat) : getQ (setDbErr s q) q = { getQ s q with dbErr := true } :=
  getQ_setQ_same ..

theorem getQ_setDbErr_other (s : State) {p q : Nat} (h : p ≠ q) : getQ (setDbErr s q) p = getQ s p :=
  getQ_setQ_other s _ h

/-- The pending bit of one of the 392 queues reads as set once it is pended. -/
theorem pendQ_getLsbD_same (s : State) {q : Nat} (hq : q < 392) : (pendQ s q).irq.qpend.getLsbD q = true := by
  simp only [pendQ, BitVec.getLsbD_or, BitVec.getLsbD_ofNat, hq, Nat.testBit_two_pow_self, decide_true, Bool.and_self, Bool.or_true]

theorem setDbErr_frame (s : State) (q : Nat) :
    setDbErr s q = { s with queues := (setDbErr s q).queues, irq := { s.irq with qpend := (setDbErr s q).irq.qpend } } := rfl

@[simp] theorem keepOuter_setDbErr (s : State) (q : Nat) : keepOuter s (setDbErr s q) = setDbErr s q := rfl

/-! ### The doorbell word: CMD_TAIL in the low half, CPL_HEAD in the high half -/

/-- CMD_TAIL as a doorbell write carries it. -/
def doorbellTail (w : W64) : W32 := w.setWidth 32
/-- CPL_HEAD as a doorbell write carries it. -/
def doorbellHead (w : W64) : W32 := (w >>> 32).setWidth 32

theorem ofNat_low_half (w : W64) : BitVec.ofNat 32 w.toNat = doorbellTail w := BitVec.ofNat_toNat ..

theorem ofNat_high_half (w : W64) : BitVec.ofNat 32 (w.toNat / 2 ^ 32) = doorbellHead w := by
  rw [← Nat.shiftRight_eq_div_pow, ← BitVec.toNat_ushiftRight, BitVec.ofNat_toNat, doorbellHead]

theorem halves_toNat (w : W64) : at_ 32 (doorbellHead w).toNat + (doorbellTail w).toNat = w.toNat := by
  simp only [at_, doorbellHead, doorbellTail, BitVec.toNat_setWidth, BitVec.toNat_ushiftRight, Nat.shiftRight_eq_div_pow]
  omega

/-- What the doorbell register of a present queue reads: CPL_HEAD over CMD_TAIL. -/
theorem readReg_doorbell {s : State} {q : Nat} (hq : q < 392) (hp : queuePresent s q = true) :
    readReg s (0x20000 + 8 * q) = BitVec.ofNat 64 (at_ 32 (getQ s q).cplHead.toNat + (getQ s q).cmdTail.toNat) := by
  have aligned : (0x20000 + 8 * q) % 8 = 0 := by omega
  have index : (0x20000 + 8 * q - 0x20000) / 8 = q := by omega
  have inRange : 0x20000 + 8 * q < 0x20000 + 8 * 392 := by omega
  have notGlobal : ¬ 0x20000 + 8 * q < 0x10000 := by omega
  have notMail : ¬ 0x20000 + 8 * q < 0x20000 := by omega
  simp only [readReg, aligned, index, inRange, notGlobal, notMail, hp, ne_eq, not_true_eq_false, if_true, if_false]

/-! ### The cases of a doorbell write -/

/-- A counter of the write is more than the ring away (R29): the two conditions of a discarded write. -/
def TooFar (v : Queue) (w : W64) : Prop :=
  2 ^ v.log2.toNat < (doorbellTail w - v.accHead).toNat ∨ 2 ^ v.log2.toNat < (v.cplTail - doorbellHead w).toNat

/-- The queue after a taken write: both counters at once (R28). -/
def takeDoorbell (v : Queue) (w : W64) : Queue := { v with cmdTail := doorbellTail w, cplHead := doorbellHead w }

theorem doorbell_narrow (s : State) (q : Nat) (w : W64) : doorbell s q false w = s := by
  simp [doorbell]

theorem doorbell_closed {s : State} {q : Nat} (w : W64) (hst : (getQ s q).st = 0) : doorbell s q true w = s := by
  simp [doorbell, hst]

/-- The model's test of a doorbell write, on the word's two halves, is R29's. -/
theorem doorbell_test_iff (v : Queue) (w : W64) :
    (cdiff (BitVec.ofNat 32 w.toNat) v.accHead > 2 ^ v.log2.toNat ||
      cdiff v.cplTail (BitVec.ofNat 32 (w.toNat / 2 ^ 32)) > 2 ^ v.log2.toNat) = true ↔ TooFar v w := by
  simp only [ofNat_low_half, ofNat_high_half, cdiff, TooFar, gt_iff_lt, Bool.or_eq_true, decide_eq_true_eq]

/-- The first guard of a doorbell write lets a 64-bit write to a present queue that is not closed through. -/
theorem doorbell_guard_open {s : State} {q : Nat} (hp : queuePresent s q = true) (hst : (getQ s q).st ≠ 0) :
    ¬ (!true || !queuePresent s q || decide ((getQ s q).st = 0)) = true := by
  simp only [hp, hst, Bool.not_true, decide_false, Bool.or_self, Bool.false_eq_true, not_false_eq_true]

theorem doorbell_tooFar {s : State} {q : Nat} {w : W64} (hp : queuePresent s q = true) (hst : (getQ s q).st ≠ 0)
    (far : TooFar (getQ s q) w) : doorbell s q true w = setDbErr s q :=
  (if_neg (doorbell_guard_open hp hst)).trans (if_pos ((doorbell_test_iff _ w).mpr far))

theorem doorbell_near {s : State} {q : Nat} {w : W64} (hp : queuePresent s q = true) (hst : (getQ s q).st ≠ 0)
    (near : ¬ TooFar (getQ s q) w) : doorbell s q true w = setQ s q (takeDoorbell (getQ s q) w) := by
  refine (if_neg (doorbell_guard_open hp hst)).trans ((if_neg (mt (doorbell_test_iff _ w).mp near)).trans ?_)
  rw [ofNat_low_half, ofNat_high_half, takeDoorbell]

theorem readReg_of_taken {s : State} {q : Nat} (w : W64) (hq : q < 392) (hp : queuePresent s q = true) :
    readReg (setQ s q (takeDoorbell (getQ s q) w)) (0x20000 + 8 * q) = w := by
  rw [readReg_doorbell hq (by simpa using hp), getQ_setQ_same]
  simp only [takeDoorbell, halves_toNat, BitVec.ofNat_toNat, BitVec.setWidth_eq]

/-- The command on a die that is up is `doorbell`. -/
theorem exec_doorbellWrite {s : State} (hup : up s) (q : Nat) (size64 : Bool) (w : W64) :
    exec (.doorbellWrite q size64 w) s = .next (keepOuter s (doorbell s q size64 w)) :=
  live_up (f := fun s => doorbell s q size64 w) hup

/-- Settles O17: the write is ignored when narrow or when the queue is closed, and otherwise R29's test alone decides whether
it is discarded with DB_ERR or both counters are taken. -/
theorem doorbellsAreTakenOrDiscardedWhole : Obligations.DoorbellsAreTakenOrDiscardedWhole := by
  intro s q w hup hq hp
  simp only [exec_doorbellWrite hup]
  refine ⟨?narrow, fun closed => ?closed, fun enabled tooFar => ?discarded, fun enabled near => ?taken⟩
  case narrow => rw [doorbell_narrow, keepOuter_self]
  case closed => rw [doorbell_closed w closed, keepOuter_self]
  case discarded =>
    rw [doorbell_tooFar hp enabled tooFar, keepOuter_setDbErr]
    exact ⟨_, rfl, getQ_setDbErr_same s q, pendQ_getLsbD_same _ hq, fun _ => getQ_setDbErr_other s, setDbErr_frame s q⟩
  case taken =>
    rw [doorbell_near hp enabled near, keepOuter_setQ]
    exact ⟨_, rfl, getQ_setQ_same .., readReg_of_taken w hq hp, fun _ => getQ_setQ_other s _, rfl⟩

end Sys2Proof.Proofs.Queues

/-! The event counters of KQ_BRTH_EVCNT: a write to them field by field, and each event's count (chapter 03, R66). -/

namespace Sys2Proof.Proofs.Breath

open Sys2Proof Sys2Proof.Machine Sys2Proof.Safety Sys2Proof.Laws

/-! ### What the operations of an event leave of the breath timer -/

@[simp] theorem abortTask_breath (s : State) (core thread : Nat) : (abortTask s core thread).breath = s.breath :=
  (itemSide_abortTask ..).breath

@[simp] theorem stageEvent_breath (s : State) (e : BellEvent) : (stageEvent s e).breath = s.breath := by
  unfold stageEvent
  split <;> rfl

@[simp] theorem bellRaise_breath (s : State) (code : Nat) (unit : W16) (ctx : CtxId) (src arg : Nat) :
    (bellRaise s code unit ctx src arg).breath = s.breath :=
  stageEvent_breath ..

/-! ### Saturation -/

/-- A counter of any width counts up to its largest value and stays there. -/
theorem satAdd_toNat {n : Nat} (c : BitVec n) (k : Nat) : (satAdd c k).toNat = min (c.toNat + k) (2 ^ n - 1) := by
  have fits : min (c.toNat + k) (2 ^ n - 1) < 2 ^ n := by
    have := Nat.two_pow_pos n
    omega
  rw [satAdd, BitVec.toNat_ofNat, Nat.mod_eq_of_lt fits]

/-- R66's counters are 16 bits wide: one more, up to 0xFFFF. -/
theorem satAdd_one_toNat (c : W16) : (satAdd c 1).toNat = min (c.toNat + 1) 0xFFFF := satAdd_toNat c 1

/-! ### The count of each event -/

theorem runtPulse_runtCnt (s : State) : (runtPulse s).breath.runtCnt = satAdd s.breath.runtCnt 1 := rfl

theorem enterFreeRun_missedCnt (s : State) (late : Nat) : (enterFreeRun s late).breath.missedCnt = satAdd s.breath.missedCnt 1 := by
  simp only [enterFreeRun, pendG_breath, bellRaise_breath]

theorem countStray_strayCnt (s : State) : (countStray s).breath.strayCnt = satAdd s.breath.strayCnt 1 := rfl

/-- A task whose item is not of R68's long shape, or is gone, is not a long task. -/
theorem longTask_eq_false {s : State} {k : Task} (h : ∀ it, findItem s k.q k.idx = some it → isLong s it k.shape = false) :
    longTask s k = false := by
  unfold longTask
  cases found : findItem s k.q k.idx with
  | none => rfl
  | some it => exact h it found

/-- An overrun task on its thread is aborted and counted; its item, its row block and the Bell leave the counter as it is. -/
theorem overrunOne_overrunCnt {s : State} {k : Task} (onThread : findTask s k.core k.thread = some k)
    (past : pastDeadline s k = true) (short : longTask s k = false) :
    (overrunOne s k).breath.overrunCnt = satAdd s.breath.overrunCnt 1 := by
  have counts : ¬ ((findTask s k.core k.thread).isNone || !pastDeadline s k) = true := by simp [onThread, past]
  simp only [overrunOne, if_neg counts, short, Bool.false_eq_true, if_false, bellRaise_breath, modItem_breath, abortTask_breath]

/-! ### The write -/

@[simp] theorem keepOuter_evcntWrite (s : State) (v : W64) : keepOuter s (evcntWrite s v) = evcntWrite s v := rfl

/-- The command on a die that is up is `evcntWrite`. -/
theorem exec_brthEvcntWrite {s : State} (hup : up s) (v : W64) : exec (.brthEvcntWrite v) s = .next (evcntWrite s v) := by
  rw [← keepOuter_evcntWrite]
  exact live_up (f := fun s => evcntWrite s v) hup

/-- Settles O8: the write is `clearOnZero` on each field, and each event adds one to its own counter by `satAdd`. -/
theorem eventCountersSaturateAndClearFieldByField : Obligations.EventCountersSaturateAndClearFieldByField := by
  refine ⟨fun s v hup => ?write, fun s => ?runt, fun s late => ?missed, fun s => ?stray,
    fun s k onThread past short => ?overrun⟩
  case write => rw [exec_brthEvcntWrite hup]; simp only [evcntWrite, clearOnZero]
  case runt => rw [runtPulse_runtCnt, satAdd_one_toNat]
  case missed => rw [enterFreeRun_missedCnt, satAdd_one_toNat]
  case stray => rw [countStray_strayCnt, satAdd_one_toNat]
  case overrun => rw [overrunOne_overrunCnt onThread past (longTask_eq_false short), satAdd_one_toNat]

end Sys2Proof.Proofs.Breath

/-! The selection of a Sequence Table entry and the words it reads back as (chapter 10, R226). -/

namespace Sys2Proof.Proofs.SequenceSelect

open Sys2Proof Sys2Proof.Machine Sys2Proof.Safety Sys2Proof.Laws

/-! ### Bytes and their little-endian value (R76) -/

@[simp] theorem length_toLE (n v : Nat) : (toLE n v).length = n := by
  induction n generalizing v with
  | zero => rfl
  | succ n ih => rw [toLE, List.length_cons, ih]

theorem leNat_lt (bs : List Byte) : leNat bs < 2 ^ (8 * bs.length) := by
  induction bs with
  | nil => exact Nat.one_pos
  | cons b bs ih =>
    have := b.isLt
    rw [leNat, List.length_cons, Nat.mul_succ, Nat.pow_add]
    omega

/-- The lowest byte of a value is split off it again. -/
theorem toLE_succ_byte_add (n : Nat) (b : Byte) (r : Nat) : toLE (n + 1) (b.toNat + 256 * r) = b :: toLE n r := by
  have low : BitVec.ofNat 8 (b.toNat + 256 * r) = b := by
    apply BitVec.eq_of_toNat_eq
    rw [BitVec.toNat_ofNat]
    omega
  have rest : (b.toNat + 256 * r) / 256 = r := by omega
  rw [toLE, low, rest]

theorem toLE_leNat (bs : List Byte) : toLE bs.length (leNat bs) = bs := by
  induction bs with
  | nil => rfl
  | cons b bs ih => rw [leNat, List.length_cons, toLE_succ_byte_add, ih]

/-- A word made of 8 bytes of a structure gives those bytes back. -/
theorem toLE_word_leAt {bs : List Byte} {off : Nat} (h : off + 8 ≤ bs.length) :
    toLE 8 (BitVec.ofNat 64 (leAt bs off 8)).toNat = (bs.drop off).take 8 := by
  have len : ((bs.drop off).take 8).length = 8 := by
    rw [List.length_take, List.length_drop]
    omega
  have fits : leAt bs off 8 < 2 ^ 64 := (leNat_lt _).trans_eq (by rw [len])
  have bytes := toLE_leNat ((bs.drop off).take 8)
  rw [len] at bytes
  rwa [BitVec.toNat_ofNat, Nat.mod_eq_of_lt fits]

/-! ### KQ_SEQT_DATA_k -/

/-- An entry is 64 bytes (R197). -/
@[simp] theorem length_seqBytes (e : SeqEntry) : (seqBytes e).length = 64 := by
  unfold seqBytes
  simp only [List.length_append, length_toLE]

/-- KQ_SEQT_DATA_k within its block of registers. -/
theorem readMem_seqtData (s : State) {k : Nat} (hk : k < 8) :
    readMem s (0x40080 + 8 * k) = leAt (seqBytes s.pg.latched) (8 * k) 8 := by
  have notGeometry : ¬ (0x50000 ≤ 0x40080 + 8 * k ∧ 0x40080 + 8 * k < 0x60000) := by omega
  have data : 0x40080 ≤ 0x40080 + 8 * k ∧ 0x40080 + 8 * k < 0x400C0 := by omega
  refine (if_neg notGeometry).trans ((if_pos data).trans ?_)
  rw [Nat.add_sub_cancel_left]

/-- A word of the block from 0x040_0000 is the one that `readMem` reads there. -/
theorem readReg_mem (s : State) {o : Nat} (aligned : o % 8 = 0) (h : o < 0x100000) :
    readReg s (0x400000 + o) = BitVec.ofNat 64 (readMem s o) := by
  simp (disch := omega) only [readReg, if_neg, if_pos, Nat.add_sub_cancel_left]

/-- KQ_SEQT_DATA_k holds eight bytes of the latched entry, whatever is selected now. -/
theorem readReg_seqtData (s : State) {k : Nat} (hk : k < 8) :
    readReg s (0x440080 + 8 * k) = BitVec.ofNat 64 (leAt (seqBytes s.pg.latched) (8 * k) 8) := by
  have offset : 0x440080 + 8 * k = 0x400000 + (0x40080 + 8 * k) := by omega
  rw [offset, readReg_mem s (by omega) (by omega), readMem_seqtData s hk]

theorem toLE_readReg_seqtData (s : State) {k : Nat} (hk : k < 8) :
    toLE 8 (readReg s (0x440080 + 8 * k)).toNat = ((seqBytes s.pg.latched).drop (8 * k)).take 8 := by
  rw [readReg_seqtData s hk]
  apply toLE_word_leAt
  rw [length_seqBytes]
  omega

/-- The entry latched at reset is all zeros. -/
theorem leAt_seqBytes_default : ∀ k, k < 8 → leAt (seqBytes {}) (8 * k) 8 = 0 := by decide

/-! ### KQ_SEQT_SEL -/

/-- INDEX of a written KQ_SEQT_SEL. -/
theorem fld_index (v : W64) : fld v 15 0 = v.toNat % 2 ^ 16 := by
  rw [fld, nfld, Nat.shiftRight_zero]

theorem seqtSelect_latched (s : State) (v : W64) : (seqtSelect s v).pg.latched =
    tget {} (if v.getLsbD 16 then s.pg.inactive else s.pg.active) (v.toNat % 2 ^ 16) := by
  rw [← fld_index, seqtSelect]

theorem seqtSelect_selBank (s : State) (v : W64) : (seqtSelect s v).pg.selBank = v.getLsbD 16 := rfl

theorem seqtSelect_selIndex (s : State) (v : W64) : (seqtSelect s v).pg.selIndex.toNat = v.toNat % 2 ^ 16 := by
  rw [← fld_index, seqtSelect, BitVec.toNat_ofNat, fld_index, Nat.mod_mod]

theorem seqtSelect_frame (s : State) (v : W64) : seqtSelect s v =
    { s with pg := { s.pg with
        latched := (seqtSelect s v).pg.latched
        selIndex := (seqtSelect s v).pg.selIndex
        selBank := (seqtSelect s v).pg.selBank } } := rfl

@[simp] theorem keepOuter_seqtSelect (s : State) (v : W64) : keepOuter s (seqtSelect s v) = seqtSelect s v := rfl

/-- The command on a die that is up is `seqtSelect`. -/
theorem exec_seqtSelect {s : State} (hup : up s) (v : W64) : exec (.seqtSelect v) s = .next (seqtSelect s v) := by
  rw [← keepOuter_seqtSelect]
  exact live_up (f := fun s => seqtSelect s v) hup

/-- Settles O10: the data registers are a window on the latched entry, and a selection changes that entry and its own two
fields alone. -/
theorem sequenceSelectLatchesTheEntry : Obligations.SequenceSelectLatchesTheEntry := by
  refine ⟨fun k hk => ?reset, fun s v hup => ?select⟩
  case reset =>
    rw [readReg_seqtData _ hk]
    exact congrArg (BitVec.ofNat 64) (leAt_seqBytes_default k hk)
  case select =>
    refine ⟨seqtSelect s v, exec_seqtSelect hup v, seqtSelect_latched s v, seqtSelect_selBank s v, seqtSelect_selIndex s v,
      seqtSelect_frame s v, fun k hk => ?_⟩
    rw [toLE_readReg_seqtData _ hk, seqtSelect_latched]

end Sys2Proof.Proofs.SequenceSelect

/-! The selection of a unit's history record and the two words it reads back as (chapter 16, R360). -/

namespace Sys2Proof.Proofs.UnitHistory

open Sys2Proof Sys2Proof.Machine Sys2Proof.Safety Sys2Proof.Laws Sys2Proof.Proofs.SequenceSelect

/-! ### Adjacent little-endian fields -/

/-- Two adjacent fields are one, the second above the first. -/
theorem toLE_append_toLE {m a : Nat} (n b : Nat) (fits : a < 256 ^ m) :
    toLE m a ++ toLE n b = toLE (m + n) (a + 256 ^ m * b) := by
  induction m generalizing a with
  | zero =>
    obtain rfl : a = 0 := by omega
    rw [toLE, List.nil_append, Nat.zero_add, Nat.zero_add, Nat.pow_zero, Nat.one_mul]
  | succ m ih =>
    have low : BitVec.ofNat 8 (a + 256 ^ (m + 1) * b) = BitVec.ofNat 8 a := by
      apply BitVec.eq_of_toNat_eq
      rw [Nat.pow_succ', Nat.mul_assoc, BitVec.toNat_ofNat, BitVec.toNat_ofNat, Nat.add_mul_mod_self_left]
    have rest : (a + 256 ^ (m + 1) * b) / 256 = a / 256 + 256 ^ m * b := by
      rw [Nat.pow_succ', Nat.mul_assoc, Nat.add_mul_div_left _ _ (by decide)]
    have restFits : a / 256 < 256 ^ m := Nat.div_lt_of_lt_mul (by rwa [← Nat.pow_succ'])
    rw [toLE, List.cons_append, ih restFits, Nat.add_right_comm, toLE, low, rest]

/-! ### The two words of a record (Table 16.8) -/

/-- Bytes 0 to 7 of a record: STATE, ROLE, UE and CE. -/
def lowBytes (r : UnitRec) : List Byte := toLE 1 r.st.toNat ++ toLE 1 r.role.toNat ++ toLE 2 r.ue.toNat ++ toLE 4 r.ce.toNat

/-- Bytes 8 to 15 of a record: CE_WIN, TFAIL and CHANGED. -/
def highBytes (r : UnitRec) : List Byte := toLE 2 r.ceWin.toNat ++ toLE 2 r.tfail.toNat ++ toLE 4 r.changed.toNat

theorem length_lowBytes (r : UnitRec) : (lowBytes r).length = 8 := by
  simp only [lowBytes, List.length_append, length_toLE]

theorem uhWord_lt (r : UnitRec) (k : Nat) : uhWord r k < 2 ^ 64 := by
  unfold uhWord at_
  split <;> omega

theorem toLE_uhWord_zero (r : UnitRec) : toLE 8 (uhWord r 0) = lowBytes r := by
  rw [lowBytes, toLE_append_toLE _ _ (by omega), toLE_append_toLE _ _ (by omega), toLE_append_toLE _ _ (by omega), uhWord,
    if_pos rfl]
  congr 1
  unfold at_
  omega

theorem toLE_uhWord_one (r : UnitRec) : toLE 8 (uhWord r 1) = highBytes r := by
  rw [highBytes, toLE_append_toLE _ _ (by omega), toLE_append_toLE _ _ (by omega), uhWord, if_neg Nat.one_ne_zero]
  congr 1
  unfold at_
  omega

/-! ### KQ_UH_SEL, KQ_UH_DATA0 and KQ_UH_DATA1 -/

/-- A word of the first 64 KiB is the global register there. -/
theorem readReg_global (s : State) {o : Nat} (aligned : o % 8 = 0) (h : o < 0x10000) :
    readReg s o = BitVec.ofNat 64 (readGlobal s o) :=
  congrArg (BitVec.ofNat 64) ((if_neg (not_not_intro aligned)).trans (if_pos h))

theorem readReg_uhSel (s : State) : readReg s 0x310 = BitVec.ofNat 64 s.uhSel.toNat := by
  rw [readReg_global s (by decide) (by decide)]
  simp only [readGlobal, Nat.reduceLeDiff, Nat.reduceLT, false_and, and_false, if_false]

theorem readReg_uhData0 (s : State) : readReg s 0x318 = BitVec.ofNat 64 (uhWord s.uhData 0) := by
  rw [readReg_global s (by decide) (by decide)]
  simp only [readGlobal, Nat.reduceLeDiff, Nat.reduceLT, false_and, and_false, if_false]

theorem readReg_uhData1 (s : State) : readReg s 0x320 = BitVec.ofNat 64 (uhWord s.uhData 1) := by
  rw [readReg_global s (by decide) (by decide)]
  simp only [readGlobal, Nat.reduceLeDiff, Nat.reduceLT, false_and, and_false, if_false]

theorem toNat_readReg_uhSel (s : State) : (readReg s 0x310).toNat = s.uhSel.toNat := by
  rw [readReg_uhSel, BitVec.toNat_ofNat]
  omega

theorem toLE_readReg_uhData0 (s : State) : toLE 8 (readReg s 0x318).toNat = lowBytes s.uhData := by
  rw [readReg_uhData0, BitVec.toNat_ofNat, Nat.mod_eq_of_lt (uhWord_lt ..), toLE_uhWord_zero]

theorem toLE_readReg_uhData1 (s : State) : toLE 8 (readReg s 0x320).toNat = highBytes s.uhData := by
  rw [readReg_uhData1, BitVec.toNat_ofNat, Nat.mod_eq_of_lt (uhWord_lt ..), toLE_uhWord_one]

/-- The record latched at reset is all zeros. -/
theorem uhWord_default (k : Nat) : uhWord {} k = 0 := by
  unfold uhWord
  split <;> rfl

/-! ### The write to KQ_UH_SEL -/

@[simp] theorem keepOuter_uhSelect (s : State) (v : W64) : keepOuter s (uhSelect s v) = uhSelect s v := rfl

/-- The command on a die that is up is `uhSelect`. -/
theorem exec_unitHistorySelect {s : State} (hup : up s) (v : W64) : exec (.unitHistorySelect v) s = .next (uhSelect s v) := by
  rw [← keepOuter_uhSelect]
  exact live_up (f := fun s => uhSelect s v) hup

/-- Settles O9: a selection changes the code and the latched record alone, and each data register is one half of that
record's 16 bytes. -/
theorem unitHistorySelectLatchesTheRecord : Obligations.UnitHistorySelectLatchesTheRecord := by
  refine ⟨fun o ho => ?reset, fun s v hup => ?select⟩
  case reset =>
    simp only [List.mem_cons, List.not_mem_nil, or_false] at ho
    obtain rfl | rfl | rfl := ho
    · exact readReg_uhSel _
    · rw [readReg_uhData0]; exact congrArg (BitVec.ofNat 64) (uhWord_default 0)
    · rw [readReg_uhData1]; exact congrArg (BitVec.ofNat 64) (uhWord_default 1)
  case select =>
    intro u r bytes t
    have halves : bytes = lowBytes r ++ highBytes r := by
      simp only [bytes, lowBytes, highBytes, List.append_assoc]
    refine ⟨exec_unitHistorySelect hup v, ?code, ?data0, ?data1⟩
    case code => rw [toNat_readReg_uhSel, BitVec.toNat_ofNat]
    case data0 => rw [toLE_readReg_uhData0, halves, List.take_left' (length_lowBytes r)]
    case data1 => rw [toLE_readReg_uhData1, halves, List.drop_left' (length_lowBytes r)]

end Sys2Proof.Proofs.UnitHistory

/-! The interrupt lines: which sources of Table 19.5 hold KQ_IRQ[n] high (chapter 19, R410). -/

namespace Sys2Proof.Proofs.InterruptLines

open Sys2Proof Sys2Proof.Machine

/-- One source drives line n when its three terms stand together. -/
theorem sourceDrives_iff (pending enable : Bool) (line : BitVec 3) (n : Nat) :
    (pending && enable && decide (line.toNat = n)) = true ↔ pending = true ∧ enable = true ∧ line.toNat = n := by
  rw [Bool.and_eq_true, Bool.and_eq_true, decide_eq_true_iff, and_assoc]

/-- The queues together drive line n when the source of one of them does. -/
theorem someQueueDrives_iff (s : State) (n : Nat) :
    s.queues.any (fun p => s.irq.qpend.getLsbD p.1 && p.2.irqEn && decide (p.2.irqLine.toNat = n)) = true ↔
      ∃ p ∈ s.queues, s.irq.qpend.getLsbD p.1 = true ∧ p.2.irqEn = true ∧ p.2.irqLine.toNat = n := by
  simp only [List.any_eq_true, sourceDrives_iff]

/-- Settles O12: the level is the disjunction of the six sources of KQ_IRQ_GSTAT and of the queues, and each of them is
the conjunction of its three terms. -/
theorem interruptLineFollowsItsSources : Obligations.InterruptLineFollowsItsSources := by
  intro s n
  simp only [irqLevel, Bool.or_eq_true, or_assoc, sourceDrives_iff, someQueueDrives_iff]

end Sys2Proof.Proofs.InterruptLines

/-! The outer state of the die (pins, supplies, fuses and waiting commands): what a command can do to it, said once, and the
statements about the whole machine that follow (chapters 15 and 18). -/

namespace Sys2Proof.Proofs.OuterState

open Sys2Proof Sys2Proof.Machine Sys2Proof.Safety Sys2Proof.Laws

/-! ### Reset values -/

/-- A die at its reset values reads RST_N low and is not muted. -/
theorem rstLow_of_held {t : State} (held : t = coldState t) : t.rstLow = true := by rw [held]; rfl

theorem muted_of_held {t : State} (held : t = coldState t) : t.mute.muted = false := by rw [held]; rfl

/-- The test access port is outside what a cold reset clears (R401). -/
theorem held_withTap {s : State} (held : s = coldState s) (x : Tap) : { s with tap := x } = coldState { s with tap := x } :=
  congrArg (fun u : State => { u with tap := x }) held

/-- So is the counter of free values (log 3). -/
theorem held_withFreeTap {s : State} (held : s = coldState s) (n : Nat) (x : Tap) :
    { s with free := n, tap := x } = coldState { s with free := n, tap := x } :=
  congrArg (fun u : State => { u with free := n, tap := x }) held

/-- And so are the fuses (R402). -/
theorem held_withNewFuses {s : State} (held : s = coldState s) (x : Fuses) :
    { s with newFuses := x } = coldState { s with newFuses := x } :=
  congrArg (fun u : State => { u with newFuses := x }) held

/-! ### What a command can do to the outer state -/

/-- The waiting commands, the pins, the supplies and the fuses read as before. -/
structure SameOuter (s t : State) : Prop where
  pending : t.pending = s.pending
  cascId : t.cascId = s.cascId
  rstLow : t.rstLow = s.rstLow
  powered : t.powered = s.powered
  fuses : t.fuses = s.fuses
  newFuses : t.newFuses = s.newFuses

theorem SameOuter.refl (s : State) : SameOuter s s := ⟨rfl, rfl, rfl, rfl, rfl, rfl⟩

theorem sameOuter_keepOuter (s t : State) : SameOuter s (keepOuter s t) := ⟨rfl, rfl, rfl, rfl, rfl, rfl⟩

/-- What command c can do to the outer state of s on its way to t: nothing, a cold reset or the loss of power (R385, R389), a
cold boot (R339), or one fuse (R402). A die at its reset values keeps them unless it boots. -/
inductive OuterChange : Instr → State → State → Prop where
  | keeps {c : Instr} {s t : State} (same : SameOuter s t) (held : s.rstLow = true → s = coldState s → t = coldState t) :
      OuterChange c s t
  | reset {c : Instr} {s t : State} (pending : t.pending = s.pending) (cascId : t.cascId = s.cascId) (fuses : t.fuses = s.fuses)
      (newFuses : t.newFuses = s.newFuses) (held : t = coldState t) : OuterChange c s t
  | boot {ok : Bool} {s t : State} (pending : t.pending = s.pending) (cascId : t.cascId = s.cascId) (newFuses : t.newFuses = s.newFuses)
      (fuses : t.fuses = s.newFuses) (rstLow : t.rstLow = false) (powered : t.powered = true) : OuterChange (.coldBoot ok) s t
  | program {f : FuseTarget} {s : State} :
      OuterChange (.fuseProgram f) s { s with newFuses := programFuse s.newFuses f }

theorem OuterChange.unchanged (c : Instr) (s : State) : OuterChange c s s := .keeps (.refl s) fun _ held => held

/-- A change of a die whose RST_N is high. -/
theorem OuterChange.running {c : Instr} {s t : State} (high : s.rstLow = false) (same : SameOuter s t) : OuterChange c s t :=
  .keeps same fun low _ => by rw [high] at low; cases low

/-- Any change of the inner state happens on a running die alone. -/
theorem outerChange_keepOuter (c : Instr) {s t : State} (inReset : s.rstLow = true → t = s) : OuterChange c s (keepOuter s t) := by
  cases low : s.rstLow with
  | false => exact .running low (sameOuter_keepOuter s t)
  | true => rw [inReset low, keepOuter_self]; exact .unchanged c s

theorem outerChange_live (c : Instr) (s : State) (f : State → State) :
    ∃ t, live s f = .next t ∧ OuterChange c s t := by
  cases dead : still s with
  | true => exact ⟨s, live_still dead, .unchanged c s⟩
  | false =>
    have high : s.rstLow = false := ((up_iff s).mp dead).1
    exact ⟨_, live_up dead, .running high (sameOuter_keepOuter s _)⟩

theorem outerChange_coldReset (c : Instr) (s : State) : OuterChange c s (coldReset s) := .reset rfl rfl rfl rfl rfl

theorem outerChange_powerLoss (c : Instr) (s : State) : OuterChange c s (powerLoss s) := .reset rfl rfl rfl rfl rfl

theorem outerChange_coldRequest (c : Instr) (s : State) : OuterChange c s (coldRequest s) := by
  unfold coldRequest
  split
  · exact .unchanged c s
  · next running =>
    split
    · exact .running (by simp_all) ⟨rfl, rfl, rfl, rfl, rfl, rfl⟩
    · exact outerChange_coldReset c s

theorem outerChange_coldBoot (ok : Bool) (s : State) : OuterChange (.coldBoot ok) s (coldBoot s ok) := by
  unfold coldBoot
  split
  · exact .unchanged _ s
  · split <;> exact .boot rfl rfl rfl rfl rfl rfl

theorem outerChange_muteExit (c : Instr) (s : State) (high muted : Nat) : OuterChange c s (muteExit s high muted) := by
  unfold muteExit
  split
  · exact .unchanged c s
  · next released =>
    split
    · exact .reset rfl rfl rfl rfl rfl
    · refine .keeps (sameOuter_keepOuter ..) fun _ held => ?_
      simp [muted_of_held held] at released

theorem outerChange_stateRead (c : Instr) (s : State) (a : W64) : OuterChange c s (stateRead s a) := by
  unfold stateRead
  split
  · exact .unchanged c s
  · exact .keeps ⟨rfl, rfl, rfl, rfl, rfl, rfl⟩ fun _ held => held_withTap held _

theorem outerChange_tapReset (c : Instr) (s : State) : OuterChange c s (tapReset s) :=
  .keeps ⟨rfl, rfl, rfl, rfl, rfl, rfl⟩ fun _ held => held_withTap held _

theorem outerChange_tapSelect (c : Instr) (s : State) (ir : TapIr) : OuterChange c s (tapSelect s ir) := by
  unfold tapSelect
  split
  · exact .unchanged c s
  · cases ir <;> refine .keeps ⟨rfl, rfl, rfl, rfl, rfl, rfl⟩ fun _ held => ?_
    case idcode | bypass | ijtag => exact held_withTap held _
    case extest | samplePreload => exact held_withFreeTap held _ _

theorem outerChange_fuseProgram (s : State) (f : FuseTarget) : OuterChange (.fuseProgram f) s (fuseProgram s f) := by
  unfold fuseProgram
  split
  · exact .program
  · exact .unchanged _ s

theorem warmRequest_inReset {s : State} (low : s.rstLow = true) (cycles : Nat) (byReed : Bool) : warmRequest s cycles byReed = s := by
  simp [warmRequest, low]

theorem canMute_inReset {s : State} (low : s.rstLow = true) : canMute s = false := by simp [canMute, low]

theorem muteEnter_inReset {s : State} (low : s.rstLow = true) (n : Nat) : muteEnter s n = s := by
  simp [muteEnter, canMute_inReset low]

theorem muteSideband_inReset {s : State} (low : s.rstLow = true) (die : Nat) : muteSideband s die = s := by
  simp [muteSideband, canMute_inReset low]

/-- Every command answers a next state, and this is all that it can do to the outer state. -/
theorem exec_outerChange (c : Instr) (s : State) : ∃ t, exec c s = .next t ∧ OuterChange c s t := by
  cases inner : reachesStill c with
  | false =>
    obtain ⟨f, hf⟩ := exec_live c s inner
    rw [hf]
    exact outerChange_live c s f
  | true =>
    cases c <;> first | exact absurd inner Bool.false_ne_true | refine ⟨_, rfl, ?_⟩
    case warmReset cycles byReed => exact outerChange_keepOuter _ (warmRequest_inReset · cycles byReed)
    case muteEnter n => exact outerChange_keepOuter _ (muteEnter_inReset · n)
    case muteSideband die => exact outerChange_keepOuter _ (muteSideband_inReset · die)
    case coldReset => exact outerChange_coldRequest _ s
    case coldBoot ok => exact outerChange_coldBoot ok s
    case powerLoss => exact outerChange_powerLoss _ s
    case muteExit high muted => exact outerChange_muteExit _ s high muted
    case stateRead a => exact outerChange_stateRead _ s a
    case fuseProgram f => exact outerChange_fuseProgram s f
    case tapReset => exact outerChange_tapReset _ s
    case extest | idcode | samplePreload | ijtag | bypass => exact outerChange_tapSelect _ s _

theorem outerChange_of_exec {c : Instr} {s t : State} (h : exec c s = .next t) : OuterChange c s t := by
  obtain ⟨u, hu, change⟩ := exec_outerChange c s
  obtain rfl : u = t := by rw [hu] at h; injection h
  exact change

theorem OuterChange.keepsPending {c : Instr} {s t : State} (h : OuterChange c s t) : t.pending = s.pending := by
  cases h with
  | keeps same _ => exact same.pending
  | reset pending | boot pending => exact pending
  | program => rfl

theorem OuterChange.keepsCascId {c : Instr} {s t : State} (h : OuterChange c s t) : t.cascId = s.cascId := by
  cases h with
  | keeps same _ => exact same.cascId
  | reset _ cascId | boot _ cascId => exact cascId
  | program => rfl

/-! ### The queue of commands -/

/-- Settles O2: what a command can do to the outer state leaves the waiting commands and the pins. -/
theorem everyCommandAnswersAndAddsNoCommand : Obligations.EveryCommandAnswersAndAddsNoCommand := by
  intro c s
  obtain ⟨t, ht, change⟩ := exec_outerChange c s
  exact ⟨t, ht, change.keepsPending, change.keepsCascId⟩

theorem step_nil {s : State} (h : s.pending = []) : step s = .next s := by rw [step, h]

theorem step_cons {s : State} {c : Instr} {rest : List Instr} (h : s.pending = c :: rest) :
    step s = exec c { s with pending := rest } := by rw [step, h]

/-- Settles O1: the two cases of `step`. -/
theorem stepRunsTheFrontCommand : Obligations.StepRunsTheFrontCommand :=
  ⟨fun _ _ _ => step_cons rfl, fun _ => step_nil⟩

/-- A step answers, and takes the first waiting command off the queue. -/
theorem step_answers (s : State) : ∃ t, step s = .next t ∧ t.pending = s.pending.drop 1 := by
  cases waiting : s.pending with
  | nil => exact ⟨s, step_nil waiting, waiting⟩
  | cons c rest =>
    obtain ⟨t, ht, change⟩ := exec_outerChange c { s with pending := rest }
    exact ⟨t, (step_cons waiting).trans ht, change.keepsPending⟩

theorem run_succ (M : Host.Core) {s u : M.State} {n : Nat} (h : M.step s = .next u) : M.run (n + 1) s = M.run n u := by
  rw [Host.Core.run, h]

/-- Settles O3, by induction on the number of steps. -/
theorem commandsAreTakenInOrder : Obligations.CommandsAreTakenInOrder := by
  intro n
  induction n with
  | zero => rintro s t ⟨⟩; rfl
  | succ n ih =>
    intro s t run
    obtain ⟨u, hu, taken⟩ := step_answers s
    replace run := (run_succ Sys2Proof.core hu).symm.trans run
    rw [ih u t run, taken, List.drop_drop, Nat.add_comm]

/-! ### The invariant -/

theorem sound_of_held {t : State} (held : t = coldState t) : Sound t := ⟨fun _ => held, fun _ => rstLow_of_held held⟩

theorem OuterChange.keepsSound {c : Instr} {s t : State} (h : OuterChange c s t) (sound : Sound s) : Sound t := by
  obtain ⟨inReset, order⟩ := sound
  cases h with
  | keeps same held =>
    refine ⟨fun low => ?_, fun off => ?_⟩
    · rw [same.rstLow] at low
      exact held low (inReset low)
    · rw [same.powered] at off
      rw [same.rstLow]
      exact order off
  | reset _ _ _ _ held => exact sound_of_held held
  | boot _ _ _ _ high on =>
    exact ⟨fun low => absurd (high.symm.trans low) (by decide), fun off => absurd (on.symm.trans off) (by decide)⟩
  | program =>
    refine ⟨fun low => ?_, order⟩
    exact held_withNewFuses (inReset low) _

/-- Taking a command off the queue leaves the die at its reset values, when it is. -/
theorem sound_withPending {s : State} (sound : Sound s) (rest : List Instr) : Sound { s with pending := rest } :=
  ⟨fun low => congrArg (fun u : State => { u with pending := rest }) (sound.1 low), sound.2⟩

/-- Settles O5: each outer change keeps a die in reset at its reset values. -/
theorem everyStepKeepsTheInvariant : Obligations.EveryStepKeepsTheInvariant := by
  intro s t sound h
  cases waiting : s.pending with
  | nil =>
    rw [step_nil waiting] at h
    injection h with h
    exact h ▸ sound
  | cons c rest =>
    rw [step_cons waiting] at h
    exact (outerChange_of_exec h).keepsSound (sound_withPending sound rest)

/-- Settles O4: the state after reset is its own cold state, and lists no byte. -/
theorem resetMeetsTheInvariant : Obligations.ResetMeetsTheInvariant :=
  ⟨sound_of_held rfl, twf_reset, fun _ => rfl⟩

/-- Settles O6: every command but those of `reachesStill` goes through `live`. -/
theorem stillDieKeepsEveryBit : Obligations.StillDieKeepsEveryBit := by
  intro c s dead inner
  obtain ⟨f, hf⟩ := exec_live c s inner
  rw [hf, live_still dead]

/-! ### Fuses (R402) -/

theorem mem_insBy {α : Type} (key : α → Nat) (x y : α) (l : List α) : y ∈ insBy key x l ↔ y = x ∨ y ∈ l := by
  induction l with
  | nil => simp [insBy]
  | cons a l ih =>
    unfold insBy
    split
    · exact List.mem_cons
    · rw [List.mem_cons, ih, List.mem_cons, or_left_comm]

theorem mem_sortBy {α : Type} (key : α → Nat) (y : α) (l : List α) : y ∈ sortBy key l ↔ y ∈ l := by
  have general : ∀ acc : List α, y ∈ l.foldl (fun acc x => insBy key x acc) acc ↔ y ∈ l ∨ y ∈ acc := by
    induction l with
    | nil => intro acc; simp
    | cons a l ih =>
      intro acc
      simp only [List.foldl_cons, ih, mem_insBy, List.mem_cons]
      tauto
  rw [sortBy, general]
  simp

theorem mem_insUp (k n : Nat) (l : List Nat) : n ∈ insUp l k ↔ n = k ∨ n ∈ l := by
  induction l with
  | nil => simp [insUp]
  | cons a l ih =>
    unfold insUp
    split
    · simp only [List.mem_cons, ih]; tauto
    · split
      · next same => subst same; simp
      · simp only [List.mem_cons]

/-- What programming never takes back. -/
structure FusesKept (f g : Fuses) : Prop where
  locked : f.lock = true → g.lock = true ∧ g.digests = f.digests ∧ g.mfr = f.mfr
  code : f.mfrSet = true → g.mfrSet = true ∧ g.mfr = f.mfr
  revoked : ∀ n ∈ f.revoked, n ∈ g.revoked
  digests : ∀ p ∈ f.digests, p ∈ g.digests

theorem FusesKept.refl (f : Fuses) : FusesKept f f := ⟨fun h => ⟨h, rfl, rfl⟩, fun h => ⟨h, rfl⟩, fun _ h => h, fun _ h => h⟩

theorem programFuse_kept (f : Fuses) (x : FuseTarget) : FusesKept f (programFuse f x) := by
  unfold programFuse
  cases x with
  | digest slot v =>
    dsimp only
    split
    · exact .refl f
    · next free =>
      simp only [Bool.or_eq_true, not_or] at free
      exact ⟨fun lock => absurd lock free.1.1, fun h => ⟨h, rfl⟩, fun _ h => h,
        fun p hp => (mem_sortBy _ p _).mpr (List.mem_append_left _ hp)⟩
  | mfr v =>
    dsimp only
    split
    · exact .refl f
    · next free =>
      simp only [Bool.or_eq_true, not_or] at free
      exact ⟨fun lock => absurd lock free.1, fun set => absurd set free.2, fun _ h => h, fun _ h => h⟩
  | revoke slot =>
    dsimp only
    split
    · exact ⟨fun h => ⟨h, rfl, rfl⟩, fun h => ⟨h, rfl⟩, fun n hn => (mem_insUp slot n _).mpr (.inr hn), fun _ h => h⟩
    · exact .refl f
  | lock => exact ⟨fun _ => ⟨rfl, rfl, rfl⟩, fun h => ⟨h, rfl⟩, fun _ h => h, fun _ h => h⟩

theorem OuterChange.fusesKept {c : Instr} {s t : State} (h : OuterChange c s t) : FusesKept s.newFuses t.newFuses := by
  cases h with
  | keeps same _ => rw [same.newFuses]; exact .refl _
  | reset _ _ _ newFuses | boot _ _ newFuses => rw [newFuses]; exact .refl _
  | program => exact programFuse_kept _ _

theorem OuterChange.keepsFuses {c : Instr} {s t : State} (h : OuterChange c s t) (notBoot : ∀ ok, c ≠ .coldBoot ok) :
    t.fuses = s.fuses := by
  cases h with
  | keeps same _ => exact same.fuses
  | reset _ _ fuses => exact fuses
  | boot => exact absurd rfl (notBoot _)
  | program => rfl

theorem coldBoot_fuses {s : State} (low : s.rstLow = true) (ok : Bool) :
    (coldBoot s ok).fuses = s.newFuses ∧ (coldBoot s ok).rstLow = false ∧ (coldBoot s ok).powered = true := by
  unfold coldBoot
  rw [low]
  cases ok <;> exact ⟨rfl, rfl, rfl⟩

theorem exec_fuseProgram_high {s : State} (high : s.rstLow = false) (f : FuseTarget) : exec (.fuseProgram f) s = .next s := by
  simp only [exec, execFuseProgram, always, fuseProgram, high, Bool.false_and, Bool.false_eq_true, if_false]

theorem exec_fuseProgram_low {s : State} (low : s.rstLow = true) (on : s.powered = true) (f : FuseTarget) :
    exec (.fuseProgram f) s = .next { s with newFuses := programFuse s.newFuses f } := by
  simp only [exec, execFuseProgram, always, fuseProgram, low, on, Bool.and_self, if_true]

theorem programFuse_emptySlot {f : Fuses} {n : Nat} (v : BitVec 384) (hn : n < 4) (unlocked : f.lock = false)
    (empty : ∀ p ∈ f.digests, p.1 ≠ n) : (n, v) ∈ (programFuse f (.digest n v)).digests := by
  have free : ¬ (f.lock || decide (4 ≤ n) || f.digests.any (fun p => p.1 = n)) = true := by
    simpa [unlocked, hn] using fun a hp => empty (n, a) hp rfl
  simp only [programFuse, if_neg free, mem_sortBy]
  exact List.mem_append_right _ (List.mem_singleton_self _)

/-- Settles O7: the fuses in effect and as programmed through each outer change, then FUSE_PROGRAM target by target. -/
theorem fusesAreProgrammedInResetAndKept : Obligations.FusesAreProgrammedInResetAndKept := by
  refine ⟨⟨fun c s t h notBoot => ?inEffect, fun ok s low => ?boot⟩, fun c s t h => ?kept,
    fun s => ⟨fun high f => ?ignored, fun low on => ⟨fun n v hn unlocked empty => ?digest, fun v unlocked unset => ?mfr,
      fun n hn => ?revoke, ?lock⟩⟩⟩
  case inEffect => exact (outerChange_of_exec h).keepsFuses notBoot
  case boot => exact ⟨_, rfl, coldBoot_fuses low ok⟩
  case kept =>
    have kept := (outerChange_of_exec h).fusesKept
    exact ⟨kept.locked, kept.code, kept.revoked, kept.digests⟩
  case ignored => exact exec_fuseProgram_high high f
  case digest => exact ⟨_, exec_fuseProgram_low low on _, programFuse_emptySlot v hn unlocked empty, rfl⟩
  case mfr => rw [exec_fuseProgram_low low on]; simp only [programFuse, unlocked, unset, Bool.or_self, Bool.false_eq_true, if_false]
  case revoke =>
    refine ⟨_, exec_fuseProgram_low low on _, ?_, rfl⟩
    simp only [programFuse, hn, if_true, mem_insUp, true_or]
  case lock => exact exec_fuseProgram_low low on _

end Sys2Proof.Proofs.OuterState

/-! Writes of registers: policy fields, pending bits, and the register port (chapters 18 and 19). -/

namespace Sys2Proof.Proofs.RegisterWrites

open Sys2Proof Sys2Proof.Machine Sys2Proof.Safety Sys2Proof.Laws

/-! ### A command of a running die whose effect is known -/

/-- On a die that is up, an effect that stays within the die is what the command answers. -/
theorem live_next {s t : State} {f : State → State} (hup : up s) (h : f s = t) (inner : keepOuter s t = t) : live s f = .next t := by
  rw [live_up hup, h, inner]

/-- Two effects that stay within the die, one after the other. -/
theorem inner_trans {s t u : State} (a : keepOuter s t = t) (b : keepOuter t u = u) : keepOuter s u = u := by
  rw [← b, ← a]
  rfl

/-! ### Pending bits (R409) -/

theorem getLsbD_clear {n : Nat} (p m : BitVec n) {b : Nat} (hb : b < n) : (p &&& ~~~m).getLsbD b = (p.getLsbD b && !m.getLsbD b) := by
  simp only [BitVec.getLsbD_and, BitVec.getLsbD_not, hb, decide_true, Bool.true_and]

/-- The bits that a write to word k of the queues' pending bits names. -/
theorem getLsbD_qpendMask (v : W64) (k : Nat) {b : Nat} (hb : b < 392) : (BitVec.ofNat 392 (v.toNat <<< (64 * k))).getLsbD b =
    (decide (64 * k ≤ b) && decide (b < 64 * k + 64) && v.getLsbD (b - 64 * k)) := by
  simp only [BitVec.getLsbD_ofNat, hb, decide_true, Bool.true_and, Nat.testBit_shiftLeft, ge_iff_le]
  by_cases low : 64 * k ≤ b
  · by_cases high : b < 64 * k + 64
    · simp [low, high, BitVec.getLsbD]
    · have outside : 64 ≤ b - 64 * k := by omega
      simp [high, BitVec.getLsbD_of_ge v _ outside, BitVec.testBit_toNat]
  · simp [low]

theorem irqClear_zero (s : State) (v : W64) :
    irqClear s 0 v = { s with irq := { s.irq with gstat := s.irq.gstat &&& ~~~(BitVec.ofNat 6 v.toNat) } } := rfl

theorem irqClear_succ (s : State) {k : Nat} (hk : k < 7) (v : W64) : irqClear s (k + 1) v =
    { s with irq := { s.irq with qpend := s.irq.qpend &&& ~~~(BitVec.ofNat 392 (v.toNat <<< (64 * k))) } } := by
  have word : k + 1 ≤ 7 := by omega
  simp only [irqClear, Nat.succ_ne_zero, word, if_true, if_false, Nat.add_sub_cancel]

/-! ### Policy fields -/

theorem pfTagsWrite_taken (s : State) {v : W64} (h : fld v 9 0 ≤ 512) :
    pfTagsWrite s v = { s with str := { s.str with pfTags := BitVec.ofNat 10 (fld v 9 0) } } := if_pos h

theorem pfTagsWrite_ignored (s : State) {v : W64} (h : 512 < fld v 9 0) : pfTagsWrite s v = s := if_neg (by omega)

/-- Settles O11: each write is one update of its own field, and a W1C write masks the pending bits it names. -/
theorem policyAndPendingWritesChangeTheirFieldsAlone : Obligations.PolicyAndPendingWritesChangeTheirFieldsAlone := by
  refine ⟨fun s v hup => ⟨?freeze, fun h => ?taken, fun h => ?ignored, ?head⟩, fun s v hup => ⟨?global, fun k hk => ?queues⟩⟩
  case freeze => exact live_next (f := (perfFreeze · v)) hup rfl rfl
  case taken => exact live_next (f := (pfTagsWrite · v)) hup (pfTagsWrite_taken s h) rfl
  case ignored => exact live_next (f := (pfTagsWrite · v)) hup (pfTagsWrite_ignored s h) rfl
  case head => exact live_next (f := fun s => { s with tr := { s.tr with head := BitVec.ofNat 32 (fld v 63 32) } }) hup rfl rfl
  case global =>
    refine ⟨_, live_next (f := (irqClear · 0 v)) hup (irqClear_zero s v) rfl, rfl, fun b hb => ?_⟩
    rw [getLsbD_clear _ _ hb, BitVec.getLsbD_ofNat, decide_eq_true hb, Bool.true_and, BitVec.testBit_toNat]
  case queues =>
    refine ⟨_, live_next (f := (irqClear · (k + 1) v)) hup (irqClear_succ s hk v) rfl, rfl, fun b hb => ?_⟩
    rw [getLsbD_clear _ _ hb, getLsbD_qpendMask v k hb]

/-! ### The register port -/

theorem writeReg_narrow (s : State) (o : Nat) (v : W64) : writeReg s o false v = s := rfl

theorem writeReg_misaligned (s : State) {o : Nat} (h : o % 8 ≠ 0) (v : W64) : writeReg s o true v = s := by
  simp [writeReg, h]

/-- The offsets from 0x003_0000 to 0x003_FFFF, which no table gives (R405). -/
theorem writeReg_reserved (s : State) {o : Nat} (low : 0x30000 ≤ o) (high : o < 0x40000) (v : W64) : writeReg s o true v = s := by
  simp (disch := omega) only [writeReg, Bool.not_true, Bool.false_or, if_neg, ite_self]

theorem readReg_reserved (s : State) {o : Nat} (low : 0x30000 ≤ o) (high : o < 0x40000) : readReg s o = 0 := by
  simp (disch := omega) only [readReg, if_neg, ite_self]
  rfl

theorem writeReg_global (s : State) {o : Nat} (aligned : o % 8 = 0) (h : o < 0x10000) (v : W64) :
    writeReg s o true v = writeGlobal s o v := by
  simp [writeReg, aligned, h]

theorem writeReg_doorbell (s : State) {q : Nat} (hq : q < 392) (v : W64) : writeReg s (0x20000 + 8 * q) true v = doorbell s q true v := by
  have aligned : (0x20000 + 8 * q) % 8 = 0 := by omega
  have index : (0x20000 + 8 * q - 0x20000) / 8 = q := by omega
  simp (disch := omega) only [writeReg, Bool.not_true, Bool.false_or, aligned, ne_eq, not_true_eq_false, decide_false,
    Bool.false_eq_true, if_false, if_neg, if_pos, index]

theorem qctrl_absent {s : State} {q : Nat} (h : queuePresent s q = false) (v : W64) : qctrl s q v = s := by
  simp [qctrl, h]

theorem writeQueue_qctrl (s : State) (q : Nat) (v : W64) : writeQueue s q 0 v = qctrl s q v := by
  cases present : queuePresent s q with
  | false => simp [writeQueue, present, qctrl_absent present]
  | true => simp [writeQueue, present]

theorem writeReg_qctrl (s : State) {q : Nat} (hq : q < 392) (v : W64) : writeReg s (0x40000 + 64 * q) true v = qctrl s q v := by
  have aligned : (0x40000 + 64 * q) % 8 = 0 := by omega
  have index : (0x40000 + 64 * q - 0x40000) / 64 = q := by omega
  have offset : (0x40000 + 64 * q - 0x40000) % 64 = 0 := by omega
  simp (disch := omega) only [writeReg, Bool.not_true, Bool.false_or, aligned, ne_eq, not_true_eq_false, decide_false,
    Bool.false_eq_true, if_false, if_neg, if_pos, index, offset, writeQueue_qctrl]

theorem writeReg_memory (s : State) {o : Nat} (aligned : o % 8 = 0) (h : o < 0x100000) (v : W64) :
    writeReg s (0x400000 + o) true v = writeMemRegs s o v := by
  have aligned' : (0x400000 + o) % 8 = 0 := by omega
  simp (disch := omega) only [writeReg, Bool.not_true, Bool.false_or, aligned', ne_eq, not_true_eq_false, decide_false,
    Bool.false_eq_true, if_false, if_neg, if_pos, Nat.add_sub_cancel_left]

/-- A write on a die that is up does what `writeReg` does. -/
theorem exec_registerWrite {s t : State} (hup : up s) {o : Nat} {wide : Bool} {v : W64} (h : writeReg s o wide v = t)
    (inner : keepOuter s t = t) : exec (.registerWrite o wide v) s = .next t :=
  live_next (f := (writeReg · o wide v)) hup h inner

/-- A write whose effect is that of another command, on any die. -/
theorem exec_registerWrite_eq {o : Nat} {v : W64} {f : State → State} (h : ∀ s, writeReg s o true v = f s) (s : State) :
    exec (.registerWrite o true v) s = live s f :=
  congrArg (live s) (funext h)

/-- Settles O13: the register port finds each register at its offset, and a register with a row of its own is written by that
row's own meaning. -/
theorem registerWritesActAtTheirOffsets : Obligations.RegisterWritesActAtTheirOffsets := by
  intro s v hup
  refine ⟨fun o => exec_registerWrite hup (writeReg_narrow s o v) rfl, fun o ho => exec_registerWrite hup (writeReg_misaligned s ho v) rfl,
    fun o low high => ⟨exec_registerWrite hup (writeReg_reserved s low high v) rfl, readReg_reserved s low high⟩,
    fun q hq => ⟨exec_registerWrite_eq (fun s => writeReg_doorbell s hq v) s, exec_registerWrite_eq (fun s => writeReg_qctrl s hq v) s⟩,
    ?evcnt, ?history, ?freeze, ?pending, ?fctrl, ?head, ?tags, ?sequence, ?enables, ?breath, ?capacity⟩
  case evcnt | history | freeze | pending =>
    exact exec_registerWrite_eq (fun s => writeReg_global s (by decide) (by decide) v) s
  case fctrl => exact exec_registerWrite_eq (fun s => writeReg_memory s (o := 0x18) (by decide) (by decide) v) s
  case head => exact exec_registerWrite_eq (fun s => writeReg_memory s (o := 0x20) (by decide) (by decide) v) s
  case tags => exact exec_registerWrite_eq (fun s => writeReg_memory s (o := 0x10000) (by decide) (by decide) v) s
  case sequence => exact exec_registerWrite_eq (fun s => writeReg_memory s (o := 0x40060) (by decide) (by decide) v) s
  case enables | breath | capacity => exact exec_registerWrite hup (writeReg_global s (by decide) (by decide) v) rfl

end Sys2Proof.Proofs.RegisterWrites

/-! The Bell record: logging an event, and the snapshots of the record (chapter 17, R366 to R375). -/

namespace Sys2Proof.Proofs.BellRecord

open Sys2Proof Sys2Proof.Machine Sys2Proof.Safety Sys2Proof.Laws Sys2Proof.Proofs.RegisterWrites

/-! ### What logging can change -/

/-- t differs from s in the Bell record, the pending bits and the counter of free values alone. -/
def BellSide (s t : State) : Prop := t = { s with bell := t.bell, irq := t.irq, free := t.free }

theorem BellSide.refl (s : State) : BellSide s s := rfl

theorem BellSide.trans {s t u : State} (a : BellSide s t) (b : BellSide t u) : BellSide s u := by
  unfold BellSide at *
  rw [b, a]

theorem BellSide.keepOuter {s t : State} (h : BellSide s t) : keepOuter s t = t := by
  unfold BellSide at h
  rw [h]
  rfl

theorem bellSide_stageEvent (s : State) (e : BellEvent) : BellSide s (stageEvent s e) := by
  unfold stageEvent
  split <;> rfl

theorem bellSide_bellRaise (s : State) (code : Nat) (u : W16) (ctx : CtxId) (src arg : Nat) :
    BellSide s (bellRaise s code u ctx src arg) := bellSide_stageEvent ..

theorem bellSide_recordEvent (s : State) (e : BellEvent) : BellSide s (recordEvent s e) := by
  unfold recordEvent
  dsimp only
  split <;> rfl

theorem bellSide_noteDropped (s : State) : BellSide s (noteDropped s) := by
  unfold noteDropped
  split <;> rfl

theorem logEvent_nil {s : State} (h : s.bell.staging = []) : logEvent s = s := by
  unfold logEvent
  rw [h]

theorem logEvent_cons {s : State} {e : BellEvent} {rest : List BellEvent} (h : s.bell.staging = e :: rest) :
    logEvent s = noteDropped (recordEvent { s with bell := { s.bell with staging := rest } } e) := by
  unfold logEvent
  rw [h]

theorem bellSide_logEvent (s : State) : BellSide s (logEvent s) := by
  cases waiting : s.bell.staging with
  | nil => rw [logEvent_nil waiting]; exact .refl s
  | cons e rest =>
    rw [logEvent_cons waiting]
    refine BellSide.trans ?_ (bellSide_noteDropped _)
    refine BellSide.trans ?_ (bellSide_recordEvent _ e)
    rfl

/-! ### One event is logged (R366 to R369) -/

/-- The event as its slot holds it (R368). -/
def loggedEvent (s : State) (e : BellEvent) : BellEvent :=
  { e with seq := s.bell.head, breath := s.breath.num, offset := BitVec.ofNat 32 (Config.freeWord s.free).toNat }

/-- The event takes HEAD, its slot and, when of class F, the pending bit. -/
theorem recordEvent_bell (s : State) (e : BellEvent) : (recordEvent s e).bell = { s.bell with
    slots := tput {} s.bell.slots (s.bell.head.toNat % 8192) (loggedEvent s e), head := s.bell.head + 1
    faultPend := s.bell.faultPend || e.fault } := by
  unfold recordEvent
  dsimp only
  split <;> rfl

theorem pendG_getLsbD (s : State) {b : Nat} (hb : b < 6) : (pendG s b).irq.gstat.getLsbD b = true := by
  simp only [pendG, BitVec.getLsbD_or, BitVec.getLsbD_ofNat, hb, Nat.testBit_two_pow_self, decide_true, Bool.and_self, Bool.or_true]

theorem recordEvent_irq_fault (s : State) {e : BellEvent} (h : e.fault = true) :
    (recordEvent s e).irq.gstat.getLsbD 3 = true := by
  unfold recordEvent
  dsimp only
  rw [if_pos h]
  exact pendG_getLsbD _ (by decide)

theorem recordEvent_irq_other (s : State) {e : BellEvent} (h : e.fault = false) : (recordEvent s e).irq = s.irq := by
  simp only [recordEvent, h, Bool.false_eq_true, if_false]
  rfl

/-- BELL_DROP leaves the slots, HEAD and the pending bits. -/
theorem noteDropped_bell (s : State) :
    (noteDropped s).bell = { s.bell with staging := (noteDropped s).bell.staging, droppedSince := 0 } := by
  unfold noteDropped
  split
  · next none => rw [← none]
  · rfl

theorem noteDropped_irq (s : State) : (noteDropped s).irq = s.irq := by
  unfold noteDropped
  split <;> rfl

theorem noteDropped_none {s : State} (h : s.bell.droppedSince = 0) : noteDropped s = s := if_pos h

theorem noteDropped_staging {s : State} (h : s.bell.droppedSince ≠ 0) : (noteDropped s).bell.staging =
    s.bell.staging ++ [{ code := 0x00FF, arg := BitVec.ofNat 64 s.bell.droppedSince, fault := true }] := by
  rw [noteDropped, if_neg h]

section
variable {s : State} {e : BellEvent} {rest : List BellEvent} (waiting : s.bell.staging = e :: rest)
include waiting

/-- What the record holds once the oldest staged event is logged. -/
theorem logEvent_bell : (logEvent s).bell = { s.bell with
    slots := tput {} s.bell.slots (s.bell.head.toNat % 8192) (loggedEvent s e), head := s.bell.head + 1
    faultPend := s.bell.faultPend || e.fault, staging := (logEvent s).bell.staging, droppedSince := 0 } := by
  rw [logEvent_cons waiting, noteDropped_bell, recordEvent_bell]
  rfl

theorem logEvent_irq_fault (h : e.fault = true) : (logEvent s).irq.gstat.getLsbD 3 = true := by
  rw [logEvent_cons waiting, noteDropped_irq]
  exact recordEvent_irq_fault _ h

theorem logEvent_irq_other (h : e.fault = false) : (logEvent s).irq = s.irq := by
  rw [logEvent_cons waiting, noteDropped_irq, recordEvent_irq_other _ h]

theorem logEvent_staging (h : s.bell.droppedSince = 0) : (logEvent s).bell.staging = rest := by
  rw [logEvent_cons waiting, noteDropped_none (by rw [recordEvent_bell]; exact h), recordEvent_bell]

theorem logEvent_staging_dropped (h : s.bell.droppedSince ≠ 0) : (logEvent s).bell.staging =
    rest ++ [{ code := 0x00FF, arg := BitVec.ofNat 64 s.bell.droppedSince, fault := true }] := by
  rw [logEvent_cons waiting, noteDropped_staging (by rw [recordEvent_bell]; exact h), recordEvent_bell]

end

/-- Settles O51: the oldest staged event through `recordEvent`, then `noteDropped`. -/
theorem bellEventsFillTheirSlots : Obligations.BellEventsFillTheirSlots := by
  intro s hup
  refine ⟨fun none => live_next (f := logEvent) hup (logEvent_nil none) rfl, fun e rest waiting => ?_⟩
  have side := bellSide_logEvent s
  have bell := logEvent_bell waiting
  refine ⟨logEvent s, (loggedEvent s e).offset, live_next (f := logEvent) hup rfl side.keepOuter,
    ?head, ?slot, fun k hk => ?others, fun fault => ⟨logEvent_irq_fault waiting fault, ?pending⟩, logEvent_irq_other waiting,
    logEvent_staging waiting, fun lost => ⟨?counted, _, logEvent_staging_dropped waiting lost, rfl, rfl⟩, side⟩
  case head | counted => rw [bell]
  case slot =>
    rw [bell]
    exact tget_tput_same ..
  case others =>
    rw [bell]
    exact tget_tput_other _ _ _ _ _ hk
  case pending =>
    rw [bell]
    exact (congrArg _ fault).trans (Bool.or_true _)

/-! ### A snapshot starts (R375) -/

theorem flushDue_iff (s : State) :
    flushDue s = true ↔ (s.edge = true ∧ s.breath.num.toNat % 256 = 0) ∨ faultUnflushed s = true := by
  simp only [flushDue, Bool.or_eq_true, Bool.and_eq_true, decide_eq_true_eq]

theorem flushTrigger_notDue {s : State} (h : ¬ flushDue s = true) : flushTrigger s = s := by
  simp only [Bool.not_eq_true] at h
  simp [flushTrigger, h]

theorem flushTrigger_idle {s : State} (due : flushDue s = true) (h : s.bell.flushing = none) : flushTrigger s = startFlush s := by
  simp [flushTrigger, due, h]

theorem flushTrigger_again {s : State} (due : flushDue s = true) (h : s.bell.flushing ≠ none) :
    flushTrigger s = { s with bell := { s.bell with flushAgain := true } } := by
  simp [flushTrigger, due, Option.isSome_iff_ne_none.mpr h]

theorem startFlush_empty {s : State} (h : s.bell.flushed = s.bell.head) : startFlush s = s := if_pos h

theorem startFlush_some {s : State} (h : s.bell.flushed ≠ s.bell.head) :
    startFlush s = { s with bell := { s.bell with flushing := some s.bell.head } } := if_neg h

theorem flushTrigger_empty {s : State} (idle : s.bell.flushing = none) (h : s.bell.flushed = s.bell.head) : flushTrigger s = s := by
  by_cases due : flushDue s = true
  · rw [flushTrigger_idle due idle, startFlush_empty h]
  · exact flushTrigger_notDue due

/-! ### A snapshot ends (R374) -/

/-- The end of a flush changes the two marks of flushes alone. -/
theorem endFlush_frame (s : State) : endFlush s = { s with bell := { s.bell with
    flushing := (endFlush s).bell.flushing, flushAgain := false } } := by
  unfold endFlush startFlush
  dsimp only
  split
  · split <;> rfl
  · rfl

theorem endFlush_last {s : State} (h : s.bell.flushAgain = false) : (endFlush s).bell.flushing = none := by
  simp [endFlush, h]

theorem endFlush_again {s : State} (h : s.bell.flushAgain = true) :
    (endFlush s).bell.flushing = if s.bell.flushed = s.bell.head then none else some s.bell.head := by
  simp only [endFlush, h, if_true, startFlush]
  split <;> rfl

theorem flushDone_idle {s : State} (h : s.bell.flushing = none) (ok : Bool) : flushDone s ok = s := by
  simp [flushDone, h]

theorem flushDone_ok {s : State} {h : W32} (busy : s.bell.flushing = some h) :
    flushDone s true = endFlush { s with xspi := flushTrailer s h, bell := { s.bell with flushed := h } } := by
  simp [flushDone, busy]

theorem flushDone_failed {s : State} {h : W32} (busy : s.bell.flushing = some h) :
    flushDone s false = endFlush (bellRaise (cutFlush s) 0x0052 0 0 1 1) := by
  simp [flushDone, busy]

/-- A trailer that a flush leaves has the number it had; one that the flush overwrites is gone. -/
theorem trailerSeq_keepTrailer_le (h : W32) (n : Nat) (t : Option (Nat × W32)) : trailerSeq (keepTrailer h n t) ≤ trailerSeq t := by
  unfold keepTrailer
  split
  · split
    · exact Nat.zero_le _
    · exact Nat.le_refl _
  · exact Nat.le_refl _

/-- The trailer that a complete flush writes is the one that a cold boot takes (R376). -/
theorem bestTrailer_flushTrailer (s : State) (h : W32) : bestTrailer (flushTrailer s h) = some h := by
  have keptA := trailerSeq_keepTrailer_le h (flushCount s h) s.xspi.trailerA
  have keptB := trailerSeq_keepTrailer_le h (flushCount s h) s.xspi.trailerB
  have boundA := Nat.le_max_left (trailerSeq s.xspi.trailerA) (trailerSeq s.xspi.trailerB)
  have boundB := Nat.le_max_right (trailerSeq s.xspi.trailerA) (trailerSeq s.xspi.trailerB)
  have written : ∀ n, trailerSeq (some (n, h)) = n + 1 := fun _ => rfl
  unfold flushTrailer
  dsimp only
  split
  · simp (disch := omega) [bestTrailer, flushEvents, written, if_neg]
  · simp (disch := omega) [bestTrailer, flushEvents, written, if_pos]

theorem flushTrailer_histA (s : State) (h : W32) : (flushTrailer s h).histA = s.xspi.histA := by
  unfold flushTrailer; dsimp only; split <;> rfl

theorem flushTrailer_histB (s : State) (h : W32) : (flushTrailer s h).histB = s.xspi.histB := by
  unfold flushTrailer; dsimp only; split <;> rfl

theorem flushTrailer_bellArea (s : State) (h : W32) : (flushTrailer s h).bellArea = writeArea s h (flushCount s h) := by
  unfold flushTrailer; dsimp only; split <;> rfl

/-- Writes to the keys of a list's entries read back, when entries of one key are one entry. -/
theorem tget_foldl_tput {α β : Type} [DecidableEq α] (d : α) (key : β → Nat) (val : β → α) {p : β} {l : List β}
    (apart : ∀ x ∈ l, key x = key p → val x = val p) (t : Tab α) (h : p ∈ l ∨ tget d t (key p) = val p) :
    tget d (l.foldl (fun t x => tput d t (key x) (val x)) t) (key p) = val p := by
  induction l generalizing t with
  | nil => exact h.resolve_left (List.not_mem_nil)
  | cons a l ih =>
    refine ih (fun x hx => apart x (List.mem_cons_of_mem a hx)) _ ?_
    by_cases same : key a = key p
    · right
      rw [← same, tget_tput_same, apart a List.mem_cons_self same]
    · rcases h with h | h
      · rcases List.mem_cons.mp h with rfl | h
        · exact absurd rfl same
        · exact .inl h
      · right
        rw [tget_tput_other _ _ _ _ _ (Ne.symm same), h]

/-- A canonical table has one entry for a key. -/
theorem eq_of_twfFrom {α : Type} [DecidableEq α] {d : α} {lo : Nat} {t : Tab α} (h : twfFrom d lo t = true) :
    (∀ p ∈ t, lo ≤ p.1) ∧ ∀ p ∈ t, ∀ x ∈ t, x.1 = p.1 → x = p := by
  induction t generalizing lo with
  | nil => simp
  | cons a t ih =>
    obtain ⟨i, v⟩ := a
    simp only [twfFrom, Bool.and_eq_true, decide_eq_true_eq] at h
    obtain ⟨⟨low, -⟩, rest⟩ := h
    obtain ⟨above, unique⟩ := ih rest
    refine ⟨fun p hp => ?_, fun p hp x hx same => ?_⟩
    · rcases List.mem_cons.mp hp with rfl | hp
      · exact low
      · exact Nat.le_trans (by omega) (above p hp)
    · rcases List.mem_cons.mp hp with rfl | hp <;> rcases List.mem_cons.mp hx with rfl | hx
      · rfl
      · have := above x hx
        simp only at same
        omega
      · have := above p hp
        simp only at same
        omega
      · exact unique p hp x hx same

/-- The events below h are in the Bell area after the flush (R374). -/
theorem tget_writeArea {s : State} {h : W32} {n : Nat} (canonical : twf {} s.bell.slots = true)
    (slots : ∀ p ∈ s.bell.slots, p.1 = p.2.seq.toNat % 8192) {p : Nat × BellEvent} (hp : p ∈ s.bell.slots)
    (below : isBelow h n p.2 = true) : tget {} (writeArea s h n) (p.2.seq.toNat % 16384) = p.2 := by
  refine tget_foldl_tput {} (fun p : Nat × BellEvent => p.2.seq.toNat % 16384) (fun p => p.2)
    (fun x hx (same : x.2.seq.toNat % 16384 = p.2.seq.toNat % 16384) => ?_) _
    (.inl (List.mem_filter (p := fun p : Nat × BellEvent => isBelow h n p.2) |>.mpr ⟨hp, below⟩))
  have listed := (List.mem_filter.mp hx).1
  have key : x.1 = p.1 := by
    rw [slots x listed, slots p hp]
    omega
  rw [(eq_of_twfFrom canonical).2 p hp x listed key]

theorem cutFlush_frame (s : State) : cutFlush s = { s with xspi := (cutFlush s).xspi, free := (cutFlush s).free } := by
  unfold cutFlush
  split <;> rfl

theorem bellRaise_staging {s : State} (room : s.bell.staging.length < 256) (code : Nat) (u : W16) (ctx : CtxId) (src arg : Nat) :
    (bellRaise s code u ctx src arg).bell = { s.bell with staging := s.bell.staging ++ [{
      code := BitVec.ofNat 16 code, unit := u, ctx := ctx, src := BitVec.ofNat 2 src, arg := BitVec.ofNat 64 arg
      fault := isFaultCode code }] } := by
  rw [bellRaise, stageEvent, if_pos room]

/-- Staging an event leaves what the record holds and its flushes. -/
theorem bellRaise_bell (s : State) (code : Nat) (u : W16) (ctx : CtxId) (src arg : Nat) :
    (bellRaise s code u ctx src arg).bell = { s.bell with
      staging := (bellRaise s code u ctx src arg).bell.staging, dropped := (bellRaise s code u ctx src arg).bell.dropped
      droppedSince := (bellRaise s code u ctx src arg).bell.droppedSince } := by
  unfold bellRaise stageEvent
  split <;> rfl

theorem keepOuter_endFlush {s t : State} (h : keepOuter s t = t) : keepOuter s (endFlush t) = endFlush t := by
  rw [endFlush_frame t, ← h]
  rfl

/-- Settles O52: a trigger through the cases of `flushTrigger`, a flush's end through `endFlush`. -/
theorem snapshotsWriteTheRecord : Obligations.SnapshotsWriteTheRecord := by
  intro s hup due
  have dueIff : flushDue s = true ↔ due := flushDue_iff s
  refine ⟨fun h => ?notDue, fun idle h => ?empty, fun h idle more => ?starts, fun h busy => ?again, fun ok idle => ?idle,
    fun h busy => ⟨?completes, ?fails⟩⟩
  case notDue => exact live_next (f := flushTrigger) hup (flushTrigger_notDue (mt dueIff.mp h)) rfl
  case empty => exact live_next (f := flushTrigger) hup (flushTrigger_empty idle h) rfl
  case starts =>
    exact live_next (f := flushTrigger) hup ((flushTrigger_idle (dueIff.mpr h) idle).trans (startFlush_some more)) rfl
  case again => exact live_next (f := flushTrigger) hup (flushTrigger_again (dueIff.mpr h) busy) rfl
  case idle => exact live_next (f := (flushDone · ok)) hup (flushDone_idle idle ok) rfl
  case completes =>
    refine ⟨_, live_next (f := (flushDone · true)) hup (flushDone_ok busy) (keepOuter_endFlush rfl), ?_⟩
    have frame := endFlush_frame { s with xspi := flushTrailer s h, bell := { s.bell with flushed := h } }
    have device := congrArg State.xspi frame
    have bell := congrArg State.bell frame
    simp only at device bell
    rw [device]
    refine ⟨bestTrailer_flushTrailer s h, by rw [bell], by rw [bell], flushTrailer_histA s h, flushTrailer_histB s h,
      fun last => endFlush_last last, fun more => endFlush_again more, fun canonical slots p hp below => ?_⟩
    rw [flushTrailer_bellArea]
    exact tget_writeArea canonical slots hp below
  case fails =>
    have cut := cutFlush_frame s
    have cutBell := congrArg State.bell cut
    have raised := bellRaise_bell (cutFlush s) 0x0052 0 0 1 1
    have bell := congrArg State.bell (endFlush_frame (bellRaise (cutFlush s) 0x0052 0 0 1 1))
    simp only at cutBell bell
    have inner : keepOuter s (bellRaise (cutFlush s) 0x0052 0 0 1 1) = bellRaise (cutFlush s) 0x0052 0 0 1 1 := by
      rw [bellSide_bellRaise (cutFlush s) 0x0052 0 0 1 1, cut]
      rfl
    refine ⟨_, live_next (f := (flushDone · false)) hup (flushDone_failed busy) (keepOuter_endFlush inner), ?_, ?_,
      fun last => ?_, fun room => ?_⟩
    · rw [bell, raised, cutBell]
    · rw [bell, raised, cutBell]
    · refine endFlush_last ?_
      rw [raised, cutBell]
      exact last
    · have staged := congrArg Bell.staging (bellRaise_staging (s := cutFlush s) (by rw [cutBell]; exact room) 0x0052 0 0 1 1)
      rw [cutBell] at staged
      exact ⟨_, by rw [bell]; exact staged, rfl⟩

end Sys2Proof.Proofs.BellRecord

/-! The maintenance ports and the sensors (chapter 17, R381 and R382; chapter 18, R388 and R401). -/

namespace Sys2Proof.Proofs.Maintenance

open Sys2Proof Sys2Proof.Machine Sys2Proof.Safety Sys2Proof.Laws Sys2Proof.Proofs.RegisterWrites Sys2Proof.Proofs.BellRecord

/-! ### The state reader (R381) -/

/-- What a state read captures: the word and the valid bit over the address. -/
def capture (a : Nat) (w : Option W64) : Nat :=
  match w with
  | some x => at_ 64 x.toNat + 2 ^ 63 + a
  | none => a

theorem stateRead_eq {s : State} (on : s.powered = true) (a : W64) : stateRead s a = { s with tap := { s.tap with
    captured := BitVec.ofNat 128 (capture (a.toNat % 2 ^ 63) (if s.mute.muted then stateWord s (a.toNat % 2 ^ 63) else none)) } } := by
  simp only [stateRead, on, Bool.not_true, Bool.false_eq_true, if_false]
  rfl

theorem toNat_capture {a : Nat} (ha : a < 2 ^ 63) (w : Option W64) : (BitVec.ofNat 128 (capture a w)).toNat = capture a w := by
  refine (BitVec.toNat_ofNat ..).trans (Nat.mod_eq_of_lt ?_)
  cases w with
  | none => simp only [capture]; omega
  | some x =>
    have := x.isLt
    simp only [capture, at_]
    omega

theorem capture_mod {a : Nat} (ha : a < 2 ^ 63) (w : Option W64) : capture a w % 2 ^ 63 = a := by
  cases w <;> simp only [capture, at_] <;> omega

theorem capture_div {a : Nat} (ha : a < 2 ^ 63) (w : Option W64) : capture a w / 2 ^ 64 = (w.map BitVec.toNat).getD 0 := by
  cases w <;> simp only [capture, at_, Option.map_some, Option.map_none, Option.getD_some, Option.getD_none] <;> omega

/-- Bit 63 of what is captured is the valid bit. -/
theorem capture_valid {a : Nat} (ha : a < 2 ^ 63) (w : Option W64) : (BitVec.ofNat 128 (capture a w)).getLsbD 63 = w.isSome := by
  have bit : (BitVec.ofNat 128 (capture a w)).getLsbD 63 = decide (capture a w / 2 ^ 63 % 2 = 1) := by
    rw [BitVec.getLsbD, toNat_capture ha, Nat.testBit_eq_decide_div_mod_eq]
  rw [bit]
  cases w with
  | none => exact decide_eq_false (by simp only [capture]; omega)
  | some x => exact decide_eq_true (by simp only [capture, at_]; omega)

/-! ### The test access port (R401) -/

theorem toNat_idcode (s : State) : (BitVec.ofNat 128 (idcodeWord s)).toNat = 0x14B31001 + 2 * s.fuses.mfr.toNat := by
  have := s.fuses.mfr.isLt
  rw [BitVec.toNat_ofNat]
  simp only [idcodeWord, at_]
  omega

section
variable {s : State} (on : s.powered = true)
include on

theorem tapSelect_powered (ir : TapIr) : tapSelect s ir = match ir with
    | .idcode => { s with tap := { ir := .idcode, captured := BitVec.ofNat 128 (idcodeWord s) } }
    | .bypass => { s with tap := { ir := .bypass, captured := 0 } }
    | .ijtag => { s with tap := { s.tap with ir := .ijtag } }
    | ir => { s with tap := { ir := ir, captured := BitVec.ofNat 128 (Config.freeWord s.free).toNat }, free := s.free + 1 } := by
  have dead : (!s.powered) = false := by rw [on]; rfl
  simp only [tapSelect, dead, Bool.false_eq_true, if_false]
  cases ir <;> rfl

end

/-- Settles O55: `stateRead` through what it captures, the instructions through `tapSelect`. -/
theorem maintenancePortsReadAndLeave : Obligations.MaintenancePortsReadAndLeave := by
  intro s on
  refine ⟨fun a => ?read, ⟨_, congrArg Host.Outcome.next (tapSelect_powered on .idcode), rfl, toNat_idcode s⟩,
    congrArg Host.Outcome.next (tapSelect_powered on .bypass), congrArg Host.Outcome.next (tapSelect_powered on .ijtag), rfl,
    ⟨_, congrArg Host.Outcome.next (tapSelect_powered on .extest), rfl, rfl⟩,
    ⟨_, congrArg Host.Outcome.next (tapSelect_powered on .samplePreload), rfl, rfl⟩⟩
  case read =>
    have ha : a.toNat % 2 ^ 63 < 2 ^ 63 := Nat.mod_lt _ (by decide)
    refine ⟨_, congrArg Host.Outcome.next (stateRead_eq on a), rfl, ?address, fun w frozen found => ⟨?valid, ?word⟩, fun lacking => ⟨?invalid, ?zero⟩⟩
    case address => rw [toNat_capture ha, capture_mod ha]
    case valid => rw [capture_valid ha, frozen, if_pos rfl, found]; rfl
    case word => rw [toNat_capture ha, capture_div ha, frozen, if_pos rfl, found]; rfl
    all_goals
      have nothing : (if s.mute.muted = true then stateWord s (a.toNat % 2 ^ 63) else none) = none := by
        rcases lacking with running | unknown
        · rw [running]; rfl
        · rw [unknown, ite_self]
    case invalid => rw [capture_valid ha, nothing]; rfl
    case zero => rw [toNat_capture ha, capture_div ha, nothing]; rfl

/-! ### Sensors (R388) -/

/-- The hottest reading, the lowest index that has it, and that no reading passes it. -/
theorem hottest_some {i : Nat} {l : List W16} {j : Nat} {m : Int} (h : hottest i l = some (j, m)) :
    ∃ n, j = i + n ∧ n < l.length ∧ (l.getD n 0).toInt = m ∧ (∀ x ∈ l, x.toInt ≤ m) ∧ ∀ k, k < n → (l.getD k 0).toInt < m := by
  induction l generalizing i j m with
  | nil => cases h
  | cons t l ih =>
    have first : j = i → m = t.toInt → (∀ x ∈ l, x.toInt ≤ m) → ∃ n, j = i + n ∧ n < (t :: l).length ∧
        ((t :: l).getD n 0).toInt = m ∧ (∀ x ∈ t :: l, x.toInt ≤ m) ∧ ∀ k, k < n → ((t :: l).getD k 0).toInt < m := by
      rintro rfl rfl most
      exact ⟨0, rfl, Nat.succ_pos _, rfl, fun x hx => by
        rcases List.mem_cons.mp hx with rfl | hx
        · exact Int.le_refl _
        · exact most x hx, fun k hk => absurd hk (Nat.not_lt_zero k)⟩
    rw [hottest] at h
    cases later : hottest (i + 1) l with
    | none =>
      simp only [later, Option.some.injEq, Prod.mk.injEq] at h
      have empty : l = [] := by
        cases l with
        | nil => rfl
        | cons u l =>
          rw [hottest] at later
          split at later
          · split at later <;> cases later
          · cases later
      exact first h.1.symm h.2.symm (by simp [empty])
    | some p =>
      obtain ⟨j', m'⟩ := p
      obtain ⟨n, rfl, hn, value, most, before⟩ := ih later
      simp only [later] at h
      split at h
      · next le =>
        simp only [Option.some.injEq, Prod.mk.injEq] at h
        exact first h.1.symm h.2.symm fun x hx => h.2 ▸ Int.le_trans (most x hx) le
      · next gt =>
        simp only [Option.some.injEq, Prod.mk.injEq] at h
        obtain ⟨rfl, rfl⟩ := h
        refine ⟨n + 1, by omega, Nat.succ_lt_succ hn, value, fun x hx => ?_, fun k hk => ?_⟩
        · rcases List.mem_cons.mp hx with rfl | hx
          · omega
          · exact most x hx
        · cases k with
          | zero => simpa using gt
          | succ k => exact before k (Nat.lt_of_succ_lt_succ hk)

theorem hottest_isSome (i : Nat) (t : W16) (l : List W16) : ∃ p, hottest i (t :: l) = some p := by
  rw [hottest]
  split
  · split <;> exact ⟨_, rfl⟩
  · exact ⟨_, rfl⟩

/-- The sum of readings keeps within the range of as many readings. -/
theorem sum_bounds (l : List W16) (a : Int) :
    a - 32768 * l.length ≤ l.foldl (fun a x => a + x.toInt) a ∧ l.foldl (fun a x => a + x.toInt) a ≤ a + 32767 * l.length := by
  induction l generalizing a with
  | nil => simp
  | cons t l ih =>
    have low := BitVec.le_toInt t
    have high := BitVec.toInt_lt (x := t)
    have := ih (a + t.toInt)
    simp only [List.foldl_cons, List.length_cons]
    push_cast
    omega

/-- The mean of 32 readings, rounded down or up as `up` says. -/
def meanOf (sum : Int) (up : Nat) : Int := sum / 32 + (if sum % 32 = 0 then 0 else (up % 2 : Nat))

theorem meanOf_close (sum : Int) (up : Nat) : 32 * meanOf sum up < sum + 32 ∧ sum < 32 * meanOf sum up + 32 := by
  unfold meanOf
  split <;> omega

theorem toInt_meanOf {sum : Int} (low : -1048576 ≤ sum) (high : sum ≤ 1048544) (up : Nat) :
    (BitVec.ofInt 16 (meanOf sum up)).toInt = meanOf sum up := by
  refine BitVec.toInt_ofInt_eq_self (by decide) ?_ ?_ <;> unfold meanOf <;> split <;> omega

/-- The sensors after a sample whose hottest reading is reading i, m (R388). -/
def sampled (s : State) (temps : List W16) (vdd arith fabric : W16) (i : Nat) (m : Int) : Sensors :=
  let v := s.sens
  { v with
    hotIdx := BitVec.ofNat 5 i, tmax := BitVec.ofInt 16 m
    tavg := BitVec.ofInt 16 (meanOf (temps.foldl (fun a t => a + t.toInt) 0) (Config.freeWord s.free).toNat), vnow := vdd
    vmax := if v.vRestart || v.vmax.toNat < vdd.toNat then vdd else v.vmax
    vmin := if v.vRestart || vdd.toNat < v.vmin.toNat then vdd else v.vmin
    vRestart := false, arithMhz := arith, fabricMhz := fabric
    arithOut := v.arithOut || outsideLimits 1000 2700 arith, fabOut := v.fabOut || outsideLimits 600 1800 fabric
    tHit := v.tHit || decide (v.tAlarm.toInt < m), vHit := v.vHit || outsideLimits v.vLow.toNat v.vHigh.toNat vdd }

/-- An alarm that comes pends the sensors' interrupt (log 57). -/
def alarmComes (old new : Sensors) : Bool := (new.tHit && !old.tHit) || (new.vHit && !old.vHit)

theorem sensorSample_eq {s : State} {temps : List W16} (vdd arith fabric : W16) {i : Nat} {m : Int} (len : temps.length = 32)
    (hot : hottest 0 temps = some (i, m)) :
    sensorSample s temps vdd arith fabric =
      (let v := sampled s temps vdd arith fabric i m
       let t := { s with sens := v, free := s.free + 1 }
       if alarmComes s.sens v then pendG t 4 else t) := by
  have comes : alarmComes s.sens (sampled s temps vdd arith fabric i m) =
      (decide (s.sens.tAlarm.toInt < m) && !s.sens.tHit || outsideLimits s.sens.vLow.toNat s.sens.vHigh.toNat vdd && !s.sens.vHit) := by
    simp only [alarmComes, sampled]
    cases s.sens.tHit <;> cases s.sens.vHit <;> simp
  simp only [sensorSample, hot, len, ne_eq, not_true_eq_false, if_false, comes]
  rfl

theorem sensorSample_short {s : State} {temps : List W16} (vdd arith fabric : W16) (len : temps.length ≠ 32) :
    sensorSample s temps vdd arith fabric = s := by
  unfold sensorSample
  split
  · rfl
  · exact if_pos len

theorem outsideLimits_iff (lo hi : Nat) (v : W16) : outsideLimits lo hi v = true ↔ v.toNat < lo ∨ hi < v.toNat := by
  simp only [outsideLimits, Bool.or_eq_true, decide_eq_true_eq]

theorem pendG_getLsbD_ite (s : State) {c : Bool} {b : Nat} (hb : b < 6) :
    (if c = true then pendG s b else s).irq.gstat.getLsbD b = true ↔ s.irq.gstat.getLsbD b = true ∨ c = true := by
  cases c
  · simp
  · simp [pendG_getLsbD s hb]

/-- Settles O54: the hottest reading by `hottest_some`, the mean by `meanOf`, the rest field by field. -/
theorem sensorsKeepTheirReadings : Obligations.SensorsKeepTheirReadings := by
  intro s temps vdd arith fabric hup
  refine ⟨fun short => live_next (f := fun s => sensorSample s temps vdd arith fabric) hup (sensorSample_short _ _ _ short) rfl,
    fun len => ?_⟩
  obtain ⟨⟨i, m⟩, hot⟩ : ∃ p, hottest 0 temps = some p := by
    cases temps with
    | nil => cases len
    | cons t l => exact hottest_isSome 0 t l
  obtain ⟨n, hi, hn, value, most, before⟩ := hottest_some hot
  obtain rfl : i = n := by omega
  rw [len] at hn
  have readings := sum_bounds temps 0
  rw [len] at readings
  have hotIdx : (BitVec.ofNat 5 i).toNat = i := by rw [BitVec.toNat_ofNat, Nat.mod_eq_of_lt hn]
  have tmax : BitVec.ofInt 16 m = temps.getD i 0 := by rw [← value, BitVec.ofInt_toInt]
  have tmaxInt : (BitVec.ofInt 16 m).toInt = m := by rw [tmax, value]
  have effect := sensorSample_eq (s := s) vdd arith fabric len hot
  dsimp only at effect
  generalize new : sampled s temps vdd arith fabric i m = v at effect
  have frame : (if alarmComes s.sens v = true then pendG { s with sens := v, free := s.free + 1 } 4
      else { s with sens := v, free := s.free + 1 }) = { s with sens := v, free := s.free + 1, irq := (if alarmComes s.sens v = true
        then pendG { s with sens := v, free := s.free + 1 } 4 else { s with sens := v, free := s.free + 1 }).irq } := by
    split <;> rfl
  have bit := pendG_getLsbD_ite { s with sens := v, free := s.free + 1 } (c := alarmComes s.sens v) (b := 4) (by decide)
  generalize (if alarmComes s.sens v = true then pendG { s with sens := v, free := s.free + 1 } 4
    else { s with sens := v, free := s.free + 1 }).irq = irq at frame bit
  rw [frame] at effect
  refine ⟨_, live_next (f := fun s => sensorSample s temps vdd arith fabric) hup effect rfl, ?_⟩
  subst new
  refine ⟨?max, fun j hj => ?above, fun j hj => ?first, ?mean, rfl, rfl, rfl, ?vmax, ?vmin, ?tHit, ?vHit, ?pends, rfl⟩
  case max => simp only [sampled, hotIdx, tmax]
  case above =>
    simp only [sampled, tmaxInt]
    rw [List.getD_eq_getElem _ _ (by omega)]
    exact most _ (List.getElem_mem _)
  case first =>
    simp only [sampled, hotIdx] at hj
    simp only [sampled, tmaxInt]
    exact before j hj
  case mean =>
    have mean := toInt_meanOf (by omega) (by omega) (Config.freeWord s.free).toNat (sum := temps.foldl (fun a x => a + x.toInt) 0)
    simp only [sampled, mean]
    exact meanOf_close _ _
  case vmax =>
    simp only [sampled]
    cases s.sens.vRestart <;> simp only [Bool.true_or, Bool.false_or, Bool.false_eq_true, if_true, if_false, decide_eq_true_eq]
    split <;> omega
  case vmin =>
    simp only [sampled]
    cases s.sens.vRestart <;> simp only [Bool.true_or, Bool.false_or, Bool.false_eq_true, if_true, if_false, decide_eq_true_eq]
    split <;> omega
  case tHit => simp only [sampled, tmaxInt, Bool.or_eq_true, decide_eq_true_eq]
  case vHit => simp only [sampled, Bool.or_eq_true, outsideLimits_iff]
  case pends =>
    refine bit.trans (or_congr_right ?_)
    simp only [alarmComes, Bool.or_eq_true, Bool.and_eq_true, Bool.not_eq_true']

end Sys2Proof.Proofs.Maintenance

/-! Reed's mailbox: how a slot takes a request and how it is answered (chapter 15, R330 to R333), and the requests of the host
and of firmware. -/

namespace Sys2Proof.Proofs.Mailbox

open Sys2Proof Sys2Proof.Machine Sys2Proof.Safety Sys2Proof.Laws Sys2Proof.Proofs.RegisterWrites Sys2Proof.Proofs.BellRecord

/-! ### A slot after a change of it -/

@[simp] theorem mail_modMail_same (s : State) (x : Slot) (f : MailSlot → MailSlot) : mail (modMail s x f) x = f (mail s x) := by
  cases x <;> rfl

theorem mail_modMail_other (s : State) {x y : Slot} (f : MailSlot → MailSlot) (h : y ≠ x) : mail (modMail s x f) y = mail s y := by
  cases x <;> cases y <;> first | rfl | exact absurd rfl h

theorem modMail_modMail (s : State) (x : Slot) (f g : MailSlot → MailSlot) :
    modMail (modMail s x f) x g = modMail s x (fun m => g (f m)) := by
  cases x <;> rfl

/-- t differs from s in the two mailbox slots, whose turn is next, and the pending bits of KQ_IRQ_GSTAT alone. -/
def MailSide (s t : State) : Prop := t = { s with
  irq := { s.irq with gstat := t.irq.gstat }
  reed := { s.reed with host := t.reed.host, fw := t.reed.fw, serveFwNext := t.reed.serveFwNext } }

theorem MailSide.refl (s : State) : MailSide s s := rfl

theorem MailSide.trans {s t u : State} (a : MailSide s t) (b : MailSide t u) : MailSide s u := by
  unfold MailSide at *
  rw [b, a]

theorem MailSide.keepOuter {s t : State} (h : MailSide s t) : keepOuter s t = t := by
  unfold MailSide at h
  rw [h]
  rfl

theorem mailSide_modMail (s : State) (x : Slot) (f : MailSlot → MailSlot) : MailSide s (modMail s x f) := by
  cases x <;> rfl

theorem mailSide_withArgs (s : State) (x : Slot) (a b : W64) : MailSide s (withArgs s x a b) := mailSide_modMail ..

section
variable {s t : State} (h : MailSide s t)
include h

theorem MailSide.queues : t.queues = s.queues := by rw [h]
theorem MailSide.cores : t.cores = s.cores := by rw [h]
theorem MailSide.sent : t.sent = s.sent := by rw [h]
theorem MailSide.bell : t.bell = s.bell := by rw [h]
theorem MailSide.ctxs : t.reed.ctxs = s.reed.ctxs := by rw [h]
theorem MailSide.binds : t.reed.binds = s.reed.binds := by rw [h]
theorem MailSide.releases : t.reed.releases = s.reed.releases := by rw [h]
theorem MailSide.active : t.reed.active = s.reed.active := by rw [h]
theorem MailSide.verifying : t.reed.verifying = s.reed.verifying := by rw [h]
theorem MailSide.pendingLoad : t.reed.pending = s.reed.pending := by rw [h]
theorem MailSide.reject : t.reed.reject = s.reed.reject := by rw [h]

theorem MailSide.loadOf : loadOf t = loadOf s := by
  unfold Machine.loadOf
  rw [h.verifying, h.pendingLoad]

end

/-! ### Completions (R331) -/

/-- A slot whose DONE is clear shows a completion at once; another keeps it waiting. -/
def MailSlot.completed (m : MailSlot) (c : Completion) : MailSlot :=
  if m.done then { m with waiting := m.waiting ++ [c] } else { m with result := c.result, rspTag := c.tag, code := c.code, done := true }

/-- The completion of a request. -/
def completionOf (tag : W16) (code result : Nat) : Completion :=
  { result := BitVec.ofNat 32 result, tag := tag, code := BitVec.ofNat 8 code }

theorem mail_pendG (s : State) (b : Nat) (x : Slot) : mail (pendG s b) x = mail s x := by cases x <;> rfl

/-- The slot after its completion; for the host's, its interrupt pends when the completion is shown. -/
theorem complete_host (s : State) (tag : W16) (code result : Nat) : complete s .host tag code result =
    { s with reed := { s.reed with host := MailSlot.completed s.reed.host (completionOf tag code result) }
             irq := if s.reed.host.done then s.irq else (pendG s 1).irq } := by
  cases waits : s.reed.host.done <;>
    simp only [complete, mail, waits, MailSlot.completed, completionOf, postCompletion, modMail, if_true, if_false, Bool.false_eq_true]
  rfl

theorem complete_firmware (s : State) (tag : W16) (code result : Nat) : complete s .firmware tag code result =
    { s with reed := { s.reed with fw := MailSlot.completed s.reed.fw (completionOf tag code result) } } := by
  cases waits : s.reed.fw.done <;>
    simp only [complete, mail, waits, MailSlot.completed, completionOf, postCompletion, modMail, if_true, if_false, Bool.false_eq_true,
      reduceCtorEq]

@[simp] theorem mail_complete_same (s : State) (x : Slot) (tag : W16) (code result : Nat) :
    mail (complete s x tag code result) x = MailSlot.completed (mail s x) (completionOf tag code result) := by
  cases x
  · rw [complete_host]; rfl
  · rw [complete_firmware]; rfl

theorem mailSide_complete (s : State) (x : Slot) (tag : W16) (code result : Nat) : MailSide s (complete s x tag code result) := by
  cases x
  · rw [complete_host]
    unfold MailSide
    simp only
    split <;> rfl
  · rw [complete_firmware]
    rfl

theorem completed_busy (m : MailSlot) (c : Completion) : (MailSlot.completed m c).busy = m.busy := by
  unfold MailSlot.completed
  split <;> rfl

/-- A slot whose DONE is clear, after a completion. -/
theorem completed_done {m : MailSlot} (h : m.done = false) (c : Completion) :
    MailSlot.completed m c = { m with result := c.result, rspTag := c.tag, code := c.code, done := true } := by
  simp only [MailSlot.completed, h, Bool.false_eq_true, if_false]

theorem completed_waits {m : MailSlot} (h : m.done = true) (c : Completion) :
    MailSlot.completed m c = { m with waiting := m.waiting ++ [c] } := by
  simp only [MailSlot.completed, h, if_true]

theorem mailSide_answer (s : State) (x : Slot) (tag : W16) (code result : Nat) : MailSide s (answer s x tag code result) :=
  (mailSide_modMail ..).trans (mailSide_complete ..)

/-- An answer clears BUSY and completes (R331). -/
@[simp] theorem mail_answer_same (s : State) (x : Slot) (tag : W16) (code result : Nat) :
    mail (answer s x tag code result) x = MailSlot.completed { mail s x with busy := false } (completionOf tag code result) := by
  rw [answer, mail_complete_same, mail_modMail_same]

/-- Firmware's slot takes its answer, and nothing else changes. -/
theorem answer_firmware (s : State) (tag : W16) (code result : Nat) : answer s .firmware tag code result =
    { s with reed := { s.reed with
      fw := MailSlot.completed { s.reed.fw with busy := false } (completionOf tag code result) } } := by
  rw [answer, complete_firmware]
  rfl

/-- The answer of a slot whose DONE is clear. -/
theorem answered_answer {s : State} {x : Slot} (ready : (mail s x).done = false) (tag : W16) {code result : Nat} (hc : code < 256)
    (hr : result < 2 ^ 32) : answered (answer s x tag code result) x tag code result := by
  unfold answered
  rw [mail_answer_same, completed_done (m := { mail s x with busy := false }) ready]
  exact ⟨rfl, rfl, rfl, (BitVec.toNat_ofNat ..).trans (Nat.mod_eq_of_lt hc), (BitVec.toNat_ofNat ..).trans (Nat.mod_eq_of_lt hr)⟩

/-- The host's interrupt pends with an answer that is shown. -/
theorem answer_host_pends {s : State} (ready : (mail s .host).done = false) (tag : W16) (code result : Nat) :
    (answer s .host tag code result).irq.gstat.getLsbD 1 = true := by
  have shows : (modMail s .host (fun m => { m with busy := false })).reed.host.done = false := ready
  rw [answer, complete_host, shows]
  exact pendG_getLsbD _ (by decide)

/-! ### A request is written (R331) -/

/-- s once Reed has taken a request from slot x: BUSY is set, and the other slot is next. -/
def taken (s : State) (x : Slot) (tag : W16) (op : Nat) : State :=
  let s1 := modMail s x (fun m => { m with reqTag := tag, op := BitVec.ofNat 8 op, busy := true })
  { s1 with reed := { s1.reed with serveFwNext := decide (x = .host) } }

theorem submit_free {s : State} {x : Slot} (h : slotFree s x) (tag : W16) (op : Nat) (f : State → State) :
    submit s x tag op f = f (taken s x tag op) := by
  unfold slotFree at h
  simp only [submit, h, Bool.false_eq_true, if_false, taken]

theorem submit_lost {s : State} {x : Slot} (h : cannotTake s x = true) (tag : W16) (op : Nat) (f : State → State) :
    submit s x tag op f = modMail s x (fun m => { m with lost := true }) := by
  simp only [submit, h, if_true]

/-- Writing the arguments does not change whether the slot can take a request. -/
@[simp] theorem cannotTake_withArgs (s : State) (x y : Slot) (a b : W64) : cannotTake (withArgs s x a b) y = cannotTake s y := by
  cases x <;> cases y <;> rfl

theorem mailSide_taken (s : State) (x : Slot) (tag : W16) (op : Nat) : MailSide s (taken s x tag op) := by
  cases x <;> rfl

@[simp] theorem mail_taken_same (s : State) (x : Slot) (tag : W16) (op : Nat) :
    mail (taken s x tag op) x = { mail s x with reqTag := tag, op := BitVec.ofNat 8 op, busy := true } := by
  cases x <;> rfl

@[simp] theorem mail_withArgs_same (s : State) (x : Slot) (a b : W64) :
    mail (withArgs s x a b) x = { mail s x with arg0 := a, arg1 := b } := mail_modMail_same ..

/-- A request that meets a slot which takes none: LOST, and its arguments (R331). -/
structure Ignored (s t : State) (x : Slot) : Prop where
  lost : (mail t x).lost = true
  busy : (mail t x).busy = (mail s x).busy
  done : (mail t x).done = (mail s x).done
  side : MailSide s t

theorem ignored_lost (s : State) (x : Slot) : Ignored s (modMail s x (fun m => { m with lost := true })) x := by
  refine ⟨?_, ?_, ?_, mailSide_modMail ..⟩ <;> rw [mail_modMail_same]

theorem Ignored.withArgs {s t : State} {x : Slot} {a b : W64} (h : Ignored (withArgs s x a b) t x) : Ignored s t x where
  lost := h.lost
  busy := h.busy.trans (by rw [mail_withArgs_same])
  done := h.done.trans (by rw [mail_withArgs_same])
  side := (mailSide_withArgs ..).trans h.side

theorem submit_ignored {s : State} {x : Slot} (h : cannotTake s x = true) (tag : W16) (op : Nat) (f : State → State) :
    Ignored s (submit s x tag op f) x := by
  rw [submit_lost h]
  exact ignored_lost s x

theorem submit_withArgs_ignored {s : State} {x : Slot} (h : cannotTake s x = true) (a b : W64) (tag : W16) (op : Nat)
    (f : State → State) : Ignored s (submit (withArgs s x a b) x tag op f) x :=
  (submit_ignored ((cannotTake_withArgs ..).trans h) tag op f).withArgs

/-- A request that is answered at once with a code, and changes nothing else (R331). -/
theorem submit_answered {s : State} {x : Slot} (h : slotReady s x) (tag : W16) (op : Nat) {f : State → State} {code : Nat}
    (hf : f (taken s x tag op) = answer (taken s x tag op) x tag code 0) (hc : code < 256) :
    answered (submit s x tag op f) x tag code 0 ∧ MailSide s (submit s x tag op f) := by
  rw [submit_free h.1, hf]
  exact ⟨answered_answer (by rw [mail_taken_same]; exact h.2) tag hc (by decide), (mailSide_taken ..).trans (mailSide_answer ..)⟩

theorem slotReady_withArgs {s : State} {x : Slot} (h : slotReady s x) (a b : W64) : slotReady (withArgs s x a b) x :=
  ⟨(cannotTake_withArgs ..).trans h.1, by rw [mail_withArgs_same]; exact h.2⟩

theorem submit_withArgs_answered {s : State} {x : Slot} (h : slotReady s x) (a b : W64) (tag : W16) (op : Nat) {f : State → State}
    {code : Nat} (hf : f (taken (withArgs s x a b) x tag op) = answer (taken (withArgs s x a b) x tag op) x tag code 0)
    (hc : code < 256) : answered (submit (withArgs s x a b) x tag op f) x tag code 0 ∧
      MailSide s (submit (withArgs s x a b) x tag op f) := by
  obtain ⟨shown, side⟩ := submit_answered (slotReady_withArgs h a b) tag op hf hc
  exact ⟨shown, (mailSide_withArgs ..).trans side⟩

/-- A command that stays within the mailbox, on a die that is up. -/
theorem live_mailSide {s : State} {f : State → State} (hup : up s) (side : MailSide s (f s)) : live s f = .next (f s) :=
  live_next hup rfl side.keepOuter

/-- Settles O41: a lost request through `submit_lost`, a denied or reserved one through the answer of `submit_answered`. -/
theorem mailboxSlotsGuardTheirRequests : Obligations.MailboxSlotsGuardTheirRequests := by
  intro s x tag a b hup hosts firmwares only
  refine ⟨fun lost c hc => ?lost, fun ready c hc => ?denied, fun ready op nonzero undefined => ?reserved⟩
  case lost =>
    have next : ∀ {f : State → State}, Ignored s (f s) x → exec c s = live s f →
        ∃ t, exec c s = .next t ∧ (mail t x).lost = true ∧ (mail t x).busy = (mail s x).busy ∧
          (mail t x).done = (mail s x).done ∧ only t := fun ignored run =>
      ⟨_, run.trans (live_mailSide hup ignored.side), ignored.lost, ignored.busy, ignored.done, ignored.side⟩
    simp only [hosts, firmwares, List.cons_append, List.nil_append, List.mem_cons, List.not_mem_nil, or_false] at hc
    obtain rfl | rfl | rfl | rfl | rfl | rfl | rfl | rfl | rfl := hc
    · exact next (f := fun s => submit (withArgs s x a b) x tag 0x01 (fun s => imageLoad s x tag a b))
        (submit_withArgs_ignored lost ..) rfl
    · exact next (f := fun s => submit s x tag 0x02 (fun s => imageCancel s x tag)) (submit_ignored lost ..) rfl
    · exact next (f := fun s => submit s x tag 0x03 (fun s => ctxAlloc s x tag)) (submit_ignored lost ..) rfl
    · exact next (f := fun s => submit (withArgs s x a b) x tag 0x04 (fun s => ctxBind s x tag a b))
        (submit_withArgs_ignored lost ..) rfl
    · exact next (f := fun s => submit (withArgs s x a (mail s x).arg1) x tag 0x05 (fun s => ctxRelease s x tag a))
        (submit_withArgs_ignored lost ..) rfl
    · exact next (f := fun s => submit (withArgs s x a b) x tag 0x10 (fun s => coreBind s x tag a b))
        (submit_withArgs_ignored lost ..) rfl
    · exact next (f := fun s => submit (withArgs s x a (mail s x).arg1) x tag 0x11 (fun s => unitEvent s x tag a))
        (submit_withArgs_ignored lost ..) rfl
    · exact next (f := fun s => submit (withArgs s x a b) x tag 0x12 (fun s => bellLog s x tag a b))
        (submit_withArgs_ignored lost ..) rfl
    · exact next (f := fun s => submit s x tag 0x13 (fun s => fwReady s x tag)) (submit_ignored lost ..) rfl
  case denied =>
    have next : ∀ {f : State → State}, answered (f s) x tag 3 0 ∧ MailSide s (f s) → exec c s = live s f →
        ∃ t, exec c s = .next t ∧ answered t x tag 3 0 ∧ only t := fun denied run =>
      ⟨_, run.trans (live_mailSide hup denied.2), denied⟩
    cases x
    case host =>
      simp only [if_true, firmwares, List.mem_cons, List.not_mem_nil, or_false] at hc
      obtain rfl | rfl | rfl | rfl := hc
      · exact next (f := fun s => submit (withArgs s .host a b) .host tag 0x10 (fun s => coreBind s .host tag a b))
          (submit_withArgs_answered ready _ _ _ _ rfl (by decide)) rfl
      · exact next (f := fun s => submit (withArgs s .host a (mail s .host).arg1) .host tag 0x11 (fun s => unitEvent s .host tag a))
          (submit_withArgs_answered ready _ _ _ _ rfl (by decide)) rfl
      · exact next (f := fun s => submit (withArgs s .host a b) .host tag 0x12 (fun s => bellLog s .host tag a b))
          (submit_withArgs_answered ready _ _ _ _ rfl (by decide)) rfl
      · exact next (f := fun s => submit s .host tag 0x13 (fun s => fwReady s .host tag))
          (submit_answered ready _ _ rfl (by decide)) rfl
    case firmware =>
      simp only [reduceCtorEq, if_false, hosts, List.mem_cons, List.not_mem_nil, or_false] at hc
      obtain rfl | rfl | rfl | rfl | rfl := hc
      · exact next (f := fun s => submit (withArgs s .firmware a b) .firmware tag 0x01 (fun s => imageLoad s .firmware tag a b))
          (submit_withArgs_answered ready _ _ _ _ rfl (by decide)) rfl
      · exact next (f := fun s => submit s .firmware tag 0x02 (fun s => imageCancel s .firmware tag))
          (submit_answered ready _ _ rfl (by decide)) rfl
      · exact next (f := fun s => submit s .firmware tag 0x03 (fun s => ctxAlloc s .firmware tag))
          (submit_answered ready _ _ rfl (by decide)) rfl
      · exact next (f := fun s => submit (withArgs s .firmware a b) .firmware tag 0x04 (fun s => ctxBind s .firmware tag a b))
          (submit_withArgs_answered ready _ _ _ _ rfl (by decide)) rfl
      · exact next (f := fun s => submit (withArgs s .firmware a (mail s .firmware).arg1) .firmware tag 0x05
            (fun s => ctxRelease s .firmware tag a))
          (submit_withArgs_answered ready _ _ _ _ rfl (by decide)) rfl
  case reserved =>
    have some_op : op.toNat ≠ 0 := fun zero => nonzero (BitVec.eq_of_toNat_eq zero)
    have effect : reservedOp s x tag op.toNat = submit s x tag op.toNat (fun s => answer s x tag 2 0) := by
      simp only [reservedOp, some_op, undefined, decide_false, Bool.or_self, Bool.false_eq_true, if_false]
    obtain ⟨shown, side⟩ := submit_answered ready tag op.toNat (f := fun s => answer s x tag 2 0) rfl (by decide)
    exact ⟨_, live_next (f := fun s => reservedOp s x tag op.toNat) hup effect side.keepOuter, shown, side⟩

end Sys2Proof.Proofs.Mailbox

/-! Requests that Reed takes: contexts (chapter 09, R193), image loads (chapter 15, R323 to R325), and firmware's (R328, R361,
R370). -/

namespace Sys2Proof.Proofs.MailboxRequests

open Sys2Proof Sys2Proof.Machine Sys2Proof.Safety Sys2Proof.Laws
open Sys2Proof.Proofs.RegisterWrites Sys2Proof.Proofs.BellRecord Sys2Proof.Proofs.Mailbox

/-! ### A taken request on its way -/

/-- s once Reed has taken a request with arguments a and b. -/
abbrev takenWith (s : State) (x : Slot) (a b : W64) (tag : W16) (op : Nat) : State := taken (withArgs s x a b) x tag op

theorem submit_free_withArgs {s : State} {x : Slot} (h : slotFree s x) (a b : W64) (tag : W16) (op : Nat) (f : State → State) :
    submit (withArgs s x a b) x tag op f = f (takenWith s x a b tag op) :=
  submit_free ((cannotTake_withArgs ..).trans h) tag op f

theorem mailSide_takenWith (s : State) (x : Slot) (a b : W64) (tag : W16) (op : Nat) : MailSide s (takenWith s x a b tag op) :=
  (mailSide_withArgs ..).trans (mailSide_taken ..)

theorem mail_takenWith (s : State) (x : Slot) (a b : W64) (tag : W16) (op : Nat) : mail (takenWith s x a b tag op) x =
    { mail s x with arg0 := a, arg1 := b, reqTag := tag, op := BitVec.ofNat 8 op, busy := true } := by
  rw [mail_taken_same, mail_withArgs_same]

/-! ### Contexts (R193, R333) -/

theorem ctxAlloc_some {s : State} {tag : W16} {c : Nat} (h : nthFree s.reed.ctxs 1 4096 0 = some c) :
    ctxAlloc s .host tag = answer { s with reed := { s.reed with ctxs := insUp s.reed.ctxs c } } .host tag 0 c := by
  simp [ctxAlloc, h]

theorem ctxAlloc_none {s : State} {tag : W16} (h : nthFree s.reed.ctxs 1 4096 0 = none) :
    ctxAlloc s .host tag = answer s .host tag 5 0 := by
  simp [ctxAlloc, h]

theorem addBind_binds (s : State) (x : Slot) (tag : W16) (queue : Bool) (index : Nat) (ctx : CtxId) :
    (addBind s x tag queue index ctx).reed.binds = s.reed.binds ++
      [{ slot := x, tag := tag, queue := queue, index := index, ctx := ctx, at_ := s.breath.num }] := rfl

theorem keepOuter_addBind (s : State) (x : Slot) (tag : W16) (queue : Bool) (index : Nat) (ctx : CtxId) :
    keepOuter s (addBind s x tag queue index ctx) = addBind s x tag queue index ctx := rfl

/-- s with one more release under way. -/
def addRelease (s : State) (r : Release) : State := { s with reed := { s.reed with releases := s.reed.releases ++ [r] } }

theorem keepOuter_addRelease (s : State) (r : Release) : keepOuter s (addRelease s r) = addRelease s r := rfl

theorem ctxBind_waits {s : State} {tag : W16} {a b : W64} (present : queuePresent s a.toNat = true) (hb : b.toNat < 4096)
    (known : allocated s b.toNat = true) (closed : (getQ s a.toNat).st = 0) (kept : releasing s b.toNat = false) :
    ctxBind s .host tag a b = addBind s .host tag true a.toNat (BitVec.ofNat 12 b.toNat) := by
  simp [ctxBind, present, known, closed, kept, Nat.not_le_of_lt hb]

theorem ctxBind_unknown {s : State} {tag : W16} {a b : W64} (unknown : allocated s b.toNat = false) :
    ctxBind s .host tag a b = answer s .host tag 2 0 := by
  simp [ctxBind, unknown]

theorem ctxRelease_begins {s : State} {tag : W16} {a : W64} (positive : 1 ≤ a.toNat) (ha : a.toNat < 4096)
    (known : allocated s a.toNat = true) (idle : s.queues.any (fun p => p.2.ctx.toNat = a.toNat && p.2.st ≠ 0) = false) :
    ctxRelease s .host tag a =
      addRelease s { ctx := BitVec.ofNat 12 a.toNat, tag := tag, step := 0, at_ := s.breath.num } := by
  have nonzero : a.toNat ≠ 0 := by omega
  unfold ctxRelease
  simp only [ne_eq, not_true_eq_false, if_false, nonzero, decide_false, Nat.not_le_of_lt ha, known, Bool.not_true,
    Bool.or_self, Bool.false_eq_true, idle, addRelease]

theorem coreBind_waits {s : State} {tag : W16} {a b : W64} (ha : a.toNat < 128) (bit : a.getLsbD 3 = false) (hb : b.toNat < 4096)
    (known : allocated s b.toNat = true) (kept : releasing s b.toNat = false)
    (live_ : coreLive s (nfld a.toNat 6 4 * 8 + nfld a.toNat 2 0) = true)
    (unbound : (getCore s (nfld a.toNat 6 4 * 8 + nfld a.toNat 2 0)).bind = 0)
    (settled : (getCore s (nfld a.toNat 6 4 * 8 + nfld a.toNat 2 0)).rebind = none) :
    coreBind s .firmware tag a b =
      addBind s .firmware tag false (nfld a.toNat 6 4 * 8 + nfld a.toNat 2 0) (BitVec.ofNat 12 b.toNat) := by
  unfold coreBind
  simp only [ne_eq, not_true_eq_false, if_false, Nat.not_le_of_lt ha, bit, live_, Nat.not_le_of_lt hb, known, kept, unbound, settled,
    decide_false, Bool.or_self, Bool.not_true, Bool.false_eq_true, Option.isSome_none, if_true,
    show ((0 : BitVec 2) = 2) = False from by simp]

/-- Twelve bits hold a context identifier. -/
theorem toNat_ctx {n : Nat} (h : n < 4096) : (BitVec.ofNat 12 n).toNat = n := (BitVec.toNat_ofNat ..).trans (Nat.mod_eq_of_lt h)

/-- Settles O42: each request through `submit_free` and the one branch of its own meaning. -/
theorem contextRequestsAreTaken : Obligations.ContextRequestsAreTaken := by
  intro s tag a b hup
  refine ⟨fun ready c free hc => ?alloc, fun ready full => ?full, fun free present hb known closed kept => ?bind,
    fun ready unknown => ?unknown, fun free positive ha known idle => ?release, fun free ha bit hb known kept => ?core⟩
  case alloc =>
    let u : State := { taken s .host tag 0x03 with reed := { (taken s .host tag 0x03).reed with ctxs := insUp s.reed.ctxs c } }
    have effect : submit s .host tag 0x03 (fun s => ctxAlloc s .host tag) = answer u .host tag 0 c :=
      (submit_free ready.1 ..).trans (ctxAlloc_some free)
    have after : MailSide u (answer u .host tag 0 c) := mailSide_answer ..
    have inner : keepOuter s (answer u .host tag 0 c) = answer u .host tag 0 c := inner_trans (t := u) rfl after.keepOuter
    exact ⟨_, live_next (f := fun s => submit s .host tag 0x03 (fun s => ctxAlloc s .host tag)) hup effect inner,
      answered_answer (s := u) (x := .host) ready.2 tag (by decide) (by omega), after.ctxs, answer_host_pends (s := u) ready.2 .., after.queues⟩
  case full =>
    have effect : ctxAlloc (taken s .host tag 0x03) .host tag = answer (taken s .host tag 0x03) .host tag 5 0 := ctxAlloc_none full
    obtain ⟨shown, side⟩ := submit_answered ready tag 0x03 (f := fun s => ctxAlloc s .host tag) effect (by decide)
    exact ⟨_, live_mailSide (f := fun s => submit s .host tag 0x03 (fun s => ctxAlloc s .host tag)) hup side, shown, side.ctxs⟩
  case bind =>
    let u := takenWith s .host a b tag 0x04
    have effect : submit (withArgs s .host a b) .host tag 0x04 (fun s => ctxBind s .host tag a b) =
        addBind u .host tag true a.toNat (BitVec.ofNat 12 b.toNat) :=
      (submit_free_withArgs free ..).trans (ctxBind_waits (s := u) present hb known closed kept)
    have side : MailSide s u := mailSide_takenWith ..
    have busy : (mail u .host).busy = true := by rw [mail_takenWith]
    exact ⟨_, _, live_next (f := fun s => submit (withArgs s .host a b) .host tag 0x04 (fun s => ctxBind s .host tag a b)) hup
      effect (inner_trans side.keepOuter (keepOuter_addBind ..)), (addBind_binds ..).trans (congrArg (· ++ _) side.binds), rfl, rfl,
      toNat_ctx hb, busy, side.queues⟩
  case unknown =>
    have effect : ctxBind (takenWith s .host a b tag 0x04) .host tag a b = answer (takenWith s .host a b tag 0x04) .host tag 2 0 :=
      ctxBind_unknown unknown
    obtain ⟨shown, side⟩ := submit_withArgs_answered ready a b tag 0x04 (f := fun s => ctxBind s .host tag a b) effect (by decide)
    exact ⟨_, live_mailSide (f := fun s => submit (withArgs s .host a b) .host tag 0x04 (fun s => ctxBind s .host tag a b)) hup side,
      shown, side.binds, side.queues⟩
  case release =>
    let u := takenWith s .host a (mail s .host).arg1 tag 0x05
    have effect : submit (withArgs s .host a (mail s .host).arg1) .host tag 0x05 (fun s => ctxRelease s .host tag a) =
        addRelease u { ctx := BitVec.ofNat 12 a.toNat, tag := tag, step := 0, at_ := u.breath.num } :=
      (submit_free_withArgs free ..).trans (ctxRelease_begins (s := u) positive ha known idle)
    have side : MailSide s u := mailSide_takenWith ..
    exact ⟨_, _, live_next (f := fun s => submit (withArgs s .host a (mail s .host).arg1) .host tag 0x05
      (fun s => ctxRelease s .host tag a)) hup effect (inner_trans side.keepOuter (keepOuter_addRelease ..)),
      congrArg (· ++ _) side.releases, toNat_ctx ha, rfl, rfl, side.ctxs, side.queues⟩
  case core =>
    intro k live_ unbound settled
    let u := takenWith s .firmware a b tag 0x10
    have effect : submit (withArgs s .firmware a b) .firmware tag 0x10 (fun s => coreBind s .firmware tag a b) =
        addBind u .firmware tag false k (BitVec.ofNat 12 b.toNat) :=
      (submit_free_withArgs free ..).trans (coreBind_waits (s := u) ha bit hb known kept live_ unbound settled)
    have side : MailSide s u := mailSide_takenWith ..
    exact ⟨_, _, live_next (f := fun s => submit (withArgs s .firmware a b) .firmware tag 0x10
      (fun s => coreBind s .firmware tag a b)) hup effect (inner_trans side.keepOuter (keepOuter_addBind ..)),
      (addBind_binds ..).trans (congrArg (· ++ _) side.binds), rfl, rfl, toNat_ctx hb, side.cores⟩

/-! ### Firmware's requests (R328, R361, R370) -/

/-- Reed once firmware's request with arguments a and b is answered with a code. -/
def reedAnswered (s : State) (tag : W16) (op : Nat) (a b : W64) (code : Nat) : Reed := { s.reed with
  serveFwNext := false
  fw := MailSlot.completed { s.reed.fw with arg0 := a, arg1 := b, reqTag := tag, op := BitVec.ofNat 8 op, busy := false }
    (completionOf tag code 0) }

/-- A request of firmware's that changes the unit history and the Bell record alone, and is answered. -/
theorem submit_firmware {s : State} (free : slotFree s .firmware) (a b : W64) (tag : W16) (op : Nat) {g : State → State} {code : Nat}
    {history : Tab UnitRec} {bell : Bell}
    (effect : g (takenWith s .firmware a b tag op) =
      answer { takenWith s .firmware a b tag op with history := history, bell := bell } .firmware tag code 0) :
    submit (withArgs s .firmware a b) .firmware tag op g =
      { s with history := history, bell := bell, reed := reedAnswered s tag op a b code } := by
  rw [submit_free_withArgs free, effect, answer_firmware]
  simp only [takenWith, taken, withArgs, modMail, reduceCtorEq, decide_false, reedAnswered]

theorem setWidth_eq_ofNat {n : Nat} (a : BitVec n) (k : Nat) : BitVec.ofNat k a.toNat = a.setWidth k := BitVec.ofNat_toNat ..

theorem unitEvent_corrected {s : State} {tag : W16} {a : W64} (valid : unitValid (a.setWidth 16) = true) (h : a.toNat < 2 ^ 16) :
    unitEvent s .firmware tag a = answer (recordCE s (a.setWidth 16)) .firmware tag 0 0 := by
  have event : a.toNat / 2 ^ 16 = 0 := Nat.div_eq_of_lt h
  unfold unitEvent
  simp only [setWidth_eq_ofNat, event, valid]
  rfl

theorem unitEvent_uncorrected {s : State} {tag : W16} {a : W64} (valid : unitValid (a.setWidth 16) = true) (h : a.toNat / 2 ^ 16 = 1) :
    unitEvent s .firmware tag a = answer (recordUE s (a.setWidth 16) 1 0) .firmware tag 0 0 := by
  unfold unitEvent
  simp only [setWidth_eq_ofNat, h, valid]
  rfl

theorem unitEvent_bad {s : State} {tag : W16} {a : W64} (h : unitValid (a.setWidth 16) = false ∨ 2 ^ 17 ≤ a.toNat) :
    unitEvent s .firmware tag a = answer s .firmware tag 2 0 := by
  have bad : (decide (1 < a.toNat / 2 ^ 16) || !unitValid (a.setWidth 16)) = true := by
    rcases h with h | h
    · simp [h]
    · rw [decide_eq_true (by omega), Bool.true_or]
  unfold unitEvent
  simp only [setWidth_eq_ofNat, bad]
  rfl

/-- The record of a unit after an event of it, and every other record (Table 16.9). -/
theorem getUnit_modUnit_same (s : State) (u : W16) (f : UnitRec → UnitRec) : getUnit (modUnit s u f) u = f (getUnit s u) :=
  tget_tput_same ..

theorem getUnit_modUnit_other (s : State) {u v : W16} (f : UnitRec → UnitRec) (h : v ≠ u) : getUnit (modUnit s u f) v = getUnit s v :=
  tget_tput_other _ _ _ _ _ (fun same => h (BitVec.eq_of_toNat_eq same))

/-- A corrected event, as Table 16.9 counts it. -/
theorem getUnit_recordCE (s : State) (u : W16) : getUnit (recordCE s u) u =
    (let r := getUnit s u
     let x := { r with ce := satAdd r.ce 1, ceWin := satAdd r.ceWin 1 }
     if r.st = 0 ∧ 256 ≤ x.ceWin.toNat ∧ unitKind u ≠ 4 then { x with st := 1, changed := lowBreath s, ueSince := false } else x) := by
  rw [recordCE, getUnit_modUnit_same]
  simp only [Bool.and_eq_true, decide_eq_true_eq, and_assoc]
  rfl

theorem getUnit_recordCE_other (s : State) {u v : W16} (h : v ≠ u) : getUnit (recordCE s u) v = getUnit s v := by
  rw [recordCE, getUnit_modUnit_other _ _ h]

/-- An uncorrected event, as Table 16.9 moves the state. -/
theorem getUnit_modUnit_uncorrected (s : State) (u : W16) (src row : Nat) : getUnit (recordUE s u src row) u =
    (let r := getUnit s u
     let x := { r with ue := satAdd r.ue 1 }
     if unitKind u = 4 then x
     else if r.st = 0 then { x with st := 1, changed := lowBreath s, ueSince := false }
     else if r.st = 1 ∧ 3 ≤ x.ue.toNat then { x with st := 2, changed := lowBreath s, ueSince := false }
     else { x with ueSince := true }) := by
  have bell : ∀ t : State, getUnit (bellRaise t 0x0040 u 0 src row) u = getUnit t u := fun t => by
    rw [bellSide_bellRaise t 0x0040 u 0 src row]
    rfl
  rw [recordUE, bell, getUnit_modUnit_same]
  simp only [Bool.and_eq_true, decide_eq_true_eq]
  rfl

/-- The Bell record once an event is staged, or dropped and counted (R369). -/
def stagedBell (b : Bell) (e : BellEvent) : Bell :=
  if b.staging.length < 256 then { b with staging := b.staging ++ [e] }
  else { b with dropped := satAdd b.dropped 1, droppedSince := b.droppedSince + 1 }

theorem stageEvent_eq (s : State) (e : BellEvent) : stageEvent s e = { s with bell := stagedBell s.bell e } := by
  unfold stageEvent stagedBell
  split <;> rfl

/-- A unit's record after an uncorrected event at the breath with these low bits (Table 16.9). -/
def afterUncorrected (breath : W32) (u : W16) (r : UnitRec) : UnitRec :=
  let r1 := { r with ue := satAdd r.ue 1 }
  if unitKind u = 4 then r1
  else if r1.st = 0 then r1.become 1 breath
  else if r1.st = 1 && decide (3 ≤ r1.ue.toNat) then { (r1.become 2 breath) with role := r.role }
  else { r1 with ueSince := true }

theorem recordUE_eq (s : State) (u : W16) (src row : Nat) : recordUE s u src row = { s with
    history := (modUnit s u (afterUncorrected (lowBreath s) u)).history
    bell := stagedBell s.bell { code := 0x0040, unit := u, src := BitVec.ofNat 2 src, arg := BitVec.ofNat 64 row, fault := true } } := by
  have raised : recordUE s u src row = bellRaise (modUnit s u (afterUncorrected (lowBreath s) u)) 0x0040 u 0 src row := rfl
  rw [raised, bellRaise, stageEvent_eq]
  rfl

theorem getUnit_recordUE_other (s : State) {u v : W16} (src row : Nat) (h : v ≠ u) : getUnit (recordUE s u src row) v = getUnit s v := by
  rw [recordUE_eq]
  exact getUnit_modUnit_other s (afterUncorrected (lowBreath s) u) h

theorem bellLog_bad {s : State} {tag : W16} {a b : W64} (h : fld a 15 0 < 0x8000 ∨ fld a 47 44 ≠ 0 ∨ fld a 63 49 ≠ 0) :
    bellLog s .firmware tag a b = answer s .firmware tag 2 0 := by
  have bad : (decide (nfld a.toNat 15 0 < 0x8000) || decide (nfld a.toNat 47 44 ≠ 0) || decide (nfld a.toNat 63 49 ≠ 0)) = true := by
    simp only [Bool.or_eq_true, decide_eq_true_eq, or_assoc]
    exact h
  unfold bellLog
  simp only [bad]
  rfl

theorem bellLog_staged {s : State} {tag : W16} {a b : W64} (code : 0x8000 ≤ fld a 15 0) (low : fld a 47 44 = 0)
    (high : fld a 63 49 = 0) : bellLog s .firmware tag a b = answer (stageEvent s
      { code := a.setWidth 16, unit := BitVec.ofNat 16 (fld a 31 16), ctx := BitVec.ofNat 12 (fld a 43 32), src := 2, arg := b,
        fault := a.getLsbD 48 }) .firmware tag 0 0 := by
  have good : (decide (nfld a.toNat 15 0 < 0x8000) || decide (nfld a.toNat 47 44 ≠ 0) || decide (nfld a.toNat 63 49 ≠ 0)) = false := by
    simp only [Bool.or_eq_false_iff, decide_eq_false_iff_not, not_lt, not_not, and_assoc]
    exact ⟨code, low, high⟩
  have field : BitVec.ofNat 16 (nfld a.toNat 15 0) = a.setWidth 16 := by
    rw [← setWidth_eq_ofNat]
    exact BitVec.eq_of_toNat_eq (by simp [nfld])
  unfold bellLog
  simp only [good, field]
  rfl

/-- The acknowledgement of an answer: DONE clears, or the next answer is shown (R331). -/
theorem doneClear_idle {s : State} {x : Slot} (h : (mail s x).waiting = [] ∨ (mail s x).done = false) :
    doneClear s x = modMail s x (fun m => { m with done := false }) := by
  unfold doneClear
  dsimp only
  split
  · rfl
  · next c rest waits =>
    rw [waits] at h
    rw [h.resolve_left (List.cons_ne_nil _ _)]
    rfl

theorem doneClear_next {s : State} {x : Slot} {c : Completion} {rest : List Completion} (waits : (mail s x).waiting = c :: rest)
    (done : (mail s x).done = true) :
    doneClear s x = postCompletion (modMail s x (fun m => { m with done := false, waiting := rest })) x c := by
  unfold doneClear
  simp only [waits, done, if_true, modMail_modMail]

/-- A slot that shows a completion. -/
def shown (m : MailSlot) (c : Completion) : MailSlot := { m with result := c.result, rspTag := c.tag, code := c.code, done := true }

theorem postCompletion_firmware (s : State) (c : Completion) : postCompletion s .firmware c = modMail s .firmware (shown · c) := rfl

theorem postCompletion_host (s : State) (c : Completion) : postCompletion s .host c = pendG (modMail s .host (shown · c)) 1 := rfl

theorem mail_postCompletion (s : State) (x : Slot) (c : Completion) : mail (postCompletion s x c) x = shown (mail s x) c := by
  cases x
  · rw [postCompletion_host, mail_pendG, mail_modMail_same]
  · rw [postCompletion_firmware, mail_modMail_same]

theorem mail_postCompletion_other (s : State) {x y : Slot} (c : Completion) (h : y ≠ x) :
    mail (postCompletion s x c) y = mail s y := by
  cases x
  · rw [postCompletion_host, mail_pendG, mail_modMail_other _ _ h]
  · rw [postCompletion_firmware, mail_modMail_other _ _ h]

theorem postCompletion_host_pends (s : State) (c : Completion) : (postCompletion s .host c).irq.gstat.getLsbD 1 = true := by
  rw [postCompletion_host]
  exact pendG_getLsbD _ (by decide)

/-- t differs from s in the slots and the pending bits of KQ_IRQ_GSTAT alone. -/
def SlotSide (s t : State) : Prop := t = { s with
  irq := { s.irq with gstat := t.irq.gstat }, reed := { s.reed with host := t.reed.host, fw := t.reed.fw } }

theorem SlotSide.trans {s t u : State} (a : SlotSide s t) (b : SlotSide t u) : SlotSide s u := by
  unfold SlotSide at *
  rw [b, a]

theorem SlotSide.mailSide {s t : State} (h : SlotSide s t) : MailSide s t := by
  unfold SlotSide at h
  unfold MailSide
  rw [h]

theorem slotSide_modMail (s : State) (x : Slot) (f : MailSlot → MailSlot) : SlotSide s (modMail s x f) := by cases x <;> rfl

theorem slotSide_postCompletion (s : State) (x : Slot) (c : Completion) : SlotSide s (postCompletion s x c) := by
  cases x
  · exact (slotSide_modMail s .host (shown · c)).trans rfl
  · exact slotSide_modMail s .firmware (shown · c)

theorem irq_modMail (s : State) (x : Slot) (f : MailSlot → MailSlot) : (modMail s x f).irq = s.irq := by cases x <;> rfl

theorem slotSide_doneClear (s : State) (x : Slot) : SlotSide s (doneClear s x) := by
  unfold doneClear
  dsimp only
  split
  · exact slotSide_modMail ..
  · split
    · exact ((slotSide_modMail ..).trans (slotSide_modMail ..)).trans (slotSide_postCompletion ..)
    · exact slotSide_modMail ..

theorem mail_doneClear_other (s : State) {x y : Slot} (h : y ≠ x) : mail (doneClear s x) y = mail s y := by
  unfold doneClear
  dsimp only
  split
  · exact mail_modMail_other _ _ h
  · split
    · rw [mail_postCompletion_other _ _ h, mail_modMail_other _ _ h, mail_modMail_other _ _ h]
    · exact mail_modMail_other _ _ h

theorem fwReady_firmware (s : State) (tag : W16) :
    fwReady s .firmware tag = answer { s with reed := { s.reed with fwWait := false } } .firmware tag 0 0 := rfl

/-- Settles O44: each request of firmware's through `submit_firmware`, the acknowledgement by whether an answer waits. -/
theorem firmwareRequestsAndAnswers : Obligations.FirmwareRequestsAndAnswers := by
  intro s tag a b hup m fin reed staged u r moves
  refine ⟨fun free => ⟨fun valid h => ?corrected, fun valid h => ?uncorrected, fun h => ?badEvent, fun code low high => ?log,
    fun h => ?badLog, ?ready⟩, fun x => ?acknowledged⟩
  case badEvent =>
    have effect := submit_firmware free a (mail s .firmware).arg1 tag 0x11 (g := fun s => unitEvent s .firmware tag a)
      (history := s.history) (bell := s.bell) (unitEvent_bad h)
    exact live_next (f := fun s => submit (withArgs s .firmware a (mail s .firmware).arg1) .firmware tag 0x11
      (fun s => unitEvent s .firmware tag a)) hup effect rfl
  case badLog =>
    have effect := submit_firmware free a b tag 0x12 (g := fun s => bellLog s .firmware tag a b)
      (history := s.history) (bell := s.bell) (bellLog_bad h)
    exact live_next (f := fun s => submit (withArgs s .firmware a b) .firmware tag 0x12
      (fun s => bellLog s .firmware tag a b)) hup effect rfl
  case log =>
    have effect := submit_firmware free a b tag 0x12 (g := fun s => bellLog s .firmware tag a b) (history := s.history)
      ((bellLog_staged code low high).trans (by rw [stageEvent_eq]; rfl))
    exact live_next (f := fun s => submit (withArgs s .firmware a b) .firmware tag 0x12
      (fun s => bellLog s .firmware tag a b)) hup effect rfl
  case corrected =>
    have effect := submit_firmware free a (mail s .firmware).arg1 tag 0x11 (g := fun s => unitEvent s .firmware tag a)
      (history := (recordCE s u).history) (bell := s.bell) (unitEvent_corrected valid h)
    refine ⟨_, live_next (f := fun s => submit (withArgs s .firmware a (mail s .firmware).arg1) .firmware tag 0x11
      (fun s => unitEvent s .firmware tag a)) hup effect rfl, rfl, ?_, fun v other => ?_⟩
    · exact getUnit_recordCE s u
    · exact getUnit_recordCE_other s other
  case uncorrected =>
    have effect := submit_firmware free a (mail s .firmware).arg1 tag 0x11 (g := fun s => unitEvent s .firmware tag a)
      (history := (recordUE s u 1 0).history) (bell := staged { code := 0x0040, unit := u, src := 1, fault := true })
      ((unitEvent_uncorrected valid h).trans (by rw [recordUE_eq, recordUE_eq s]; rfl))
    refine ⟨_, live_next (f := fun s => submit (withArgs s .firmware a (mail s .firmware).arg1) .firmware tag 0x11
      (fun s => unitEvent s .firmware tag a)) hup effect rfl, rfl, ?_, fun v other => ?_⟩
    · exact getUnit_modUnit_uncorrected s u 1 0
    · exact getUnit_recordUE_other s 1 0 other
  case ready =>
    have effect : submit s .firmware tag 0x13 (fun s => fwReady s .firmware tag) =
        { s with reed := { reedAnswered s tag 0x13 s.reed.fw.arg0 s.reed.fw.arg1 0 with fwWait := false } } := by
      rw [submit_free free, fwReady_firmware, answer_firmware]
      simp only [taken, modMail, reduceCtorEq, decide_false, reedAnswered]
    exact live_next (f := fun s => submit s .firmware tag 0x13 (fun s => fwReady s .firmware tag)) hup effect rfl
  case acknowledged =>
    intro c
    have side : SlotSide s (doneClear s x) := slotSide_doneClear s x
    refine ⟨_, live_mailSide (f := fun s => doneClear s x) hup side.mailSide, side, fun y other => mail_doneClear_other s other,
      fun idle => ?_, fun w rest waits done => ?_⟩
    · rw [doneClear_idle idle]
      exact ⟨mail_modMail_same .., irq_modMail ..⟩
    · rw [doneClear_next waits done]
      refine ⟨by rw [mail_postCompletion, mail_modMail_same]; rfl, fun host => ?_, fun firmware => ?_⟩
      · subst host
        exact postCompletion_host_pends ..
      · subst firmware
        rfl

end Sys2Proof.Proofs.MailboxRequests

/-! What leaves by the link port, and what that touches (chapter 14, R296, R299, R303). -/

namespace Sys2Proof.Proofs.LinkPort

open Sys2Proof Sys2Proof.Machine Sys2Proof.Safety Sys2Proof.Laws

/-- The die's node and its route table (Table 15.3) stay. -/
def RoutesKept (s t : State) : Prop := t.link.node = s.link.node ∧ t.link.routes = s.link.routes

theorem RoutesKept.refl (s : State) : RoutesKept s s := ⟨rfl, rfl⟩

theorem RoutesKept.trans {s t u : State} (a : RoutesKept s t) (b : RoutesKept t u) : RoutesKept s u :=
  ⟨b.1.trans a.1, b.2.trans a.2⟩

/-- t differs from s in the link, but for its routes, in the counters of R296 and in more that was sent. -/
def LinkSide (s t : State) : Prop :=
  (t = { s with sent := t.sent, link := t.link, cle := { s.cle with vctr := t.cle.vctr } } ∧ RoutesKept s t) ∧
    ∃ words, t.sent = s.sent ++ words

theorem LinkSide.refl (s : State) : LinkSide s s := ⟨⟨rfl, .refl s⟩, [], (List.append_nil _).symm⟩

theorem LinkSide.trans {s t u : State} (a : LinkSide s t) (b : LinkSide t u) : LinkSide s u := by
  obtain ⟨⟨ha, ra⟩, wa, sa⟩ := a
  obtain ⟨⟨hb, rb⟩, wb, sb⟩ := b
  refine ⟨⟨?_, ra.trans rb⟩, wa ++ wb, by rw [sb, sa, List.append_assoc]⟩
  rw [hb, ha]

theorem LinkSide.foldl {α : Type} {f : State → α → State} (h : ∀ s a, LinkSide s (f s a)) (l : List α) (s : State) :
    LinkSide s (l.foldl f s) := by
  induction l generalizing s with
  | nil => exact .refl s
  | cons a l ih => exact (h s a).trans (ih _)

theorem LinkSide.keepOuter {s t : State} (h : LinkSide s t) : keepOuter s t = t := by
  obtain ⟨⟨h, -⟩, -⟩ := h
  rw [h]
  rfl

theorem linkSide_send (s : State) (x : Sent) : LinkSide s (send s x) := ⟨⟨rfl, rfl, rfl⟩, [x], rfl⟩

theorem linkSide_modLink (s : State) {f : Link → Link} (routes : ∀ l, (f l).node = l.node ∧ (f l).routes = l.routes) :
    LinkSide s (modLink s f) := ⟨⟨rfl, routes s.link⟩, [], (List.append_nil _).symm⟩

theorem linkSide_takeFlit (s : State) (c : Nat) (x : Nat × Bool × List Byte) : LinkSide s (takeFlit s none c x) :=
  ⟨⟨rfl, rfl, rfl⟩, [], (List.append_nil _).symm⟩

theorem linkSide_takeFlits (n : Nat) (s : State) : LinkSide s (takeFlits none n s).1 := by
  induction n generalizing s with
  | zero => exact .refl s
  | succ n ih =>
    unfold takeFlits
    split
    · exact .refl s
    · split
      · exact .refl s
      · exact (linkSide_takeFlit ..).trans (ih _)

theorem linkSide_sendCodeword (s : State) (w : List Byte × List Nat) : LinkSide s (sendCodeword s w) :=
  ⟨⟨rfl, rfl, rfl⟩, [_], rfl⟩

theorem linkSide_emit (s : State) (fs : List (List Byte)) (least : Nat) : LinkSide s (emit s fs least) :=
  (linkSide_modLink _ (fun _ => ⟨rfl, rfl⟩)).trans (.foldl linkSide_sendCodeword _ _)

/-- Nothing leaves while the link is not up (R303). -/
theorem pump_down {s : State} (h : s.link.st ≠ 2) : pump s = s := if_pos h

theorem linkSide_pump (s : State) : LinkSide s (pump s) := by
  by_cases h : s.link.st = 2
  · unfold pump
    rw [if_neg (not_not.mpr h)]
    refine .trans ?_ (linkSide_emit ..)
    refine .trans ?_ (linkSide_takeFlits ..)
    exact linkSide_modLink _ (fun _ => ⟨rfl, rfl⟩)
  · rw [pump_down h]
    exact .refl s

theorem linkSide_sendControl (s : State) (order : Nat) (f : List Byte) : LinkSide s (sendControl s order f) :=
  (linkSide_modLink _ (fun _ => ⟨rfl, rfl⟩)).trans (linkSide_pump _)

theorem sent_sendControl_down {s : State} (h : s.link.st ≠ 2) (order : Nat) (f : List Byte) : (sendControl s order f).sent = s.sent := by
  rw [sendControl, pump_down (s := queueControl s order f) h]
  rfl

/-! ### The link and the bridge ports together (R302, R312, R314) -/

/-- t differs from s in the link, the bridge ports, the counters of R296 and in more that was sent. -/
def PortSide (s t : State) : Prop :=
  (t = { s with sent := t.sent, link := t.link, casc := { s.casc with ports := t.casc.ports }, cle := { s.cle with vctr := t.cle.vctr } } ∧
    RoutesKept s t) ∧ ∃ words, t.sent = s.sent ++ words

theorem PortSide.refl (s : State) : PortSide s s := ⟨⟨rfl, .refl s⟩, [], (List.append_nil _).symm⟩

theorem PortSide.trans {s t u : State} (a : PortSide s t) (b : PortSide t u) : PortSide s u := by
  obtain ⟨⟨ha, ra⟩, wa, sa⟩ := a
  obtain ⟨⟨hb, rb⟩, wb, sb⟩ := b
  refine ⟨⟨?_, ra.trans rb⟩, wa ++ wb, by rw [sb, sa, List.append_assoc]⟩
  rw [hb, ha]

theorem PortSide.foldl {α : Type} {f : State → α → State} (h : ∀ s a, PortSide s (f s a)) (l : List α) (s : State) :
    PortSide s (l.foldl f s) := by
  induction l generalizing s with
  | nil => exact .refl s
  | cons a l ih => exact (h s a).trans (ih _)

theorem PortSide.items {s t : State} (h : PortSide s t) : t.items = s.items := by rw [h.1.1]

theorem LinkSide.port {s t : State} (h : LinkSide s t) : PortSide s t := by
  obtain ⟨⟨h, routes⟩, words⟩ := h
  exact ⟨⟨by rw [h], routes⟩, words⟩

theorem portSide_send (s : State) (x : Sent) : PortSide s (send s x) := ⟨⟨rfl, rfl, rfl⟩, [x], rfl⟩

theorem portSide_setWait (s : State) (p : Option Nat) (l : List (Nat × Bool × List Byte)) : PortSide s (setWait s p l) := by
  cases p <;> exact ⟨⟨rfl, rfl, rfl⟩, [], (List.append_nil _).symm⟩

theorem portSide_takeFlit (s : State) (p : Option Nat) (c : Nat) (x : Nat × Bool × List Byte) : PortSide s (takeFlit s p c x) := by
  cases p <;> exact ⟨⟨rfl, rfl, rfl⟩, [], (List.append_nil _).symm⟩

theorem portSide_takeFlits (p : Option Nat) (n : Nat) (s : State) : PortSide s (takeFlits p n s).1 := by
  induction n generalizing s with
  | zero => exact .refl s
  | succ n ih =>
    unfold takeFlits
    split
    · exact .refl s
    · split
      · exact .refl s
      · exact (portSide_takeFlit ..).trans (ih _)

theorem portSide_readyChannel (s : State) (p : Option Nat) (c : Nat) : PortSide s (readyChannel s p c) := by
  unfold readyChannel
  split
  · exact .refl s
  · exact ⟨⟨rfl, rfl, rfl⟩, [], (List.append_nil _).symm⟩

theorem portSide_queuePacket (s : State) (p : Option Nat) (vc : Nat) (dl : Bool) (b : List (List Byte)) :
    PortSide s (queuePacket s p vc dl b) := (portSide_readyChannel s p (vc % 8)).trans (portSide_setWait ..)

theorem portSide_outLink (s : State) (vc : Nat) (dl : Bool) (b : List (List Byte)) : PortSide s (outLink s vc dl b) :=
  (portSide_queuePacket ..).trans (linkSide_pump _).port

theorem portSide_pumpBridge (s : State) (d : Nat) : PortSide s (pumpBridge s d) := by
  unfold pumpBridge
  dsimp only
  split
  · exact .refl s
  · exact (portSide_takeFlits ..).trans (.foldl (fun _ _ => portSide_send ..) _ _)

theorem portSide_outBridge (s : State) (d vc : Nat) (dl : Bool) (b : List (List Byte)) : PortSide s (outBridge s d vc dl b) := by
  unfold outBridge
  split
  · exact (portSide_queuePacket ..).trans (portSide_pumpBridge ..)
  · exact .refl s

theorem portSide_routeDie {s t : State} {e : Byte} {d : Nat} (h : routeDie s e = some (d, t)) : PortSide s t := by
  unfold routeDie at h
  dsimp only at h
  split at h
  · cases h
    exact .refl s
  · split at h
    · split at h
      · cases h
        exact (linkSide_modLink s (f := fun l => { l with bondNext := l.bondNext + 1 }) (fun _ => ⟨rfl, rfl⟩)).port
      · cases h
    · cases h

theorem portSide_ship (s : State) (n : W16) (die vc : Nat) (dl : Bool) (b : List (List Byte)) : PortSide s (ship s n die vc dl b) := by
  unfold ship
  split
  · split
    · exact .refl s
    · exact portSide_outBridge ..
  · split
    · next h =>
      split
      · exact (portSide_routeDie h).trans (portSide_outLink ..)
      · exact (portSide_routeDie h).trans (portSide_outBridge ..)
    · exact .refl s

theorem portSide_toRank (s : State) (o : CleOp) (r : Nat) (t : UnitTag) (b : List Byte) : PortSide s (toRank s o r t b) := by
  unfold toRank
  split
  · exact portSide_ship ..
  · exact .refl s

theorem portSide_toOthers (s : State) (o : CleOp) (t : UnitTag) (b : List Byte) : PortSide s (toOthers s o t b) :=
  .foldl (fun _ _ => portSide_toRank ..) _ _

theorem portSide_toNext (s : State) (o : CleOp) (t : UnitTag) (b : List Byte) : PortSide s (toNext s o t b) := by
  unfold toNext
  split
  · exact .refl s
  · exact portSide_toRank ..

end Sys2Proof.Proofs.LinkPort

/-! The tick: breath pulses, boundaries from the die's own timer, and breath markers (chapter 03, R53 to R64). -/

namespace Sys2Proof.Proofs.BreathTick

open Sys2Proof Sys2Proof.Machine Sys2Proof.Safety Sys2Proof.Laws
open Sys2Proof.Proofs.RegisterWrites Sys2Proof.Proofs.BellRecord Sys2Proof.Proofs.LinkPort

/-- A command of a running die that changes the breath alone. -/
theorem live_breath {s : State} (hup : up s) {f : State → State} {b : Breath} (h : f s = { s with breath := b }) :
    live s f = .next { s with breath := b } := live_next hup h rfl

theorem breath_keepOuter (s t : State) : (keepOuter s t).breath = t.breath := rfl

/-! ### Pulses (R57, R58, R60) -/

/-- s once a pulse is accepted: the next ones are ignored until 16 low fc were seen. -/
def locked (s : State) : State := { s with breath := { s.breath with pulseLock := true } }

theorem breathPulse_locked {s : State} {lowFc highFc at_ : Nat} (h : s.breath.pulseLock = true ∧ lowFc < 16) :
    breathPulse s lowFc highFc at_ = s := by
  simp [breathPulse, pulseLocked, h]

section
variable {s : State} {lowFc highFc at_ : Nat} (heard : ¬(s.breath.pulseLock = true ∧ lowFc < 16))
include heard

theorem pulseLocked_heard : pulseLocked s lowFc = false := by
  simpa [pulseLocked] using heard

theorem breathPulse_runt (short : highFc < 16) : breathPulse s lowFc highFc at_ = runtPulse s := by
  simp [breathPulse, pulseLocked_heard heard, short]

theorem breathPulse_free (long : 16 ≤ highFc) (free : s.breath.freeRun = true) :
    breathPulse s lowFc highFc at_ = freeRunPulse (locked s) at_ := by
  simp [breathPulse, pulseLocked_heard heard, Nat.not_lt_of_le long, free, locked]

theorem breathPulse_first (long : 16 ≤ highFc) (sync : s.breath.freeRun = false) (first : s.breath.started = false) :
    breathPulse s lowFc highFc at_ = boundary (locked s) false := by
  simp [breathPulse, pulseLocked_heard heard, Nat.not_lt_of_le long, sync, first, locked]

theorem breathPulse_sync (long : 16 ≤ highFc) (sync : s.breath.freeRun = false) (later : s.breath.started = true) :
    breathPulse s lowFc highFc at_ = syncPulse (locked s) at_ := by
  simp [breathPulse, pulseLocked_heard heard, Nat.not_lt_of_le long, sync, later, locked]
end

/-- s with LAST_ERR of the boundary that comes. -/
def measured (s : State) (e : Byte) : State := { s with breath := { s.breath with lastErr := e } }

theorem measured_lastErr (s : State) (e : Byte) : (measured s e).breath.lastErr = e := rfl

/-- E ± GUARD of R58. -/
theorem inWindow_iff (s : State) (at_ : Nat) :
    ((at_ : Int) - periodPs s).natAbs ≤ guardPs s ↔ at_ ≤ periodPs s + guardPs s ∧ periodPs s ≤ at_ + guardPs s := by omega

theorem syncPulse_in {s : State} {at_ : Nat} (h : at_ ≤ periodPs s + guardPs s ∧ periodPs s ≤ at_ + guardPs s) :
    syncPulse s at_ = boundary (measured s (lastErr ((at_ : Int) - periodPs s))) false :=
  if_pos ((inWindow_iff s at_).mpr h)

theorem syncPulse_out {s : State} {at_ : Nat} (h : periodPs s + guardPs s < at_ ∨ at_ + guardPs s < periodPs s) :
    syncPulse s at_ = countStray s := if_neg (fun inside => by have := (inWindow_iff s at_).mp inside; omega)

theorem freeRunPulse_ends {s : State} {at_ : Nat} (h : s.breath.fromTimer = true ∧ at_ ≤ guardPs s) :
    freeRunPulse s at_ = { s with breath := { s.breath with freeRun := false, fromTimer := false, late := at_ } } := by
  simp [freeRunPulse, h]

theorem freeRunPulse_opens {s : State} {at_ : Nat} (h : ¬(s.breath.fromTimer = true ∧ at_ ≤ guardPs s)) (half : periodPs s ≤ 2 * at_) :
    freeRunPulse s at_ = boundary { s with breath := { s.breath with freeRun := false } } false := by
  simp [freeRunPulse, h, half]

theorem freeRunPulse_stray {s : State} {at_ : Nat} (h : ¬(s.breath.fromTimer = true ∧ at_ ≤ guardPs s)) (half : 2 * at_ < periodPs s) :
    freeRunPulse s at_ = countStray s := by
  simp [freeRunPulse, h, Nat.not_le_of_lt half]

theorem nextNum_congr {a b : Breath} (num : a.num = b.num) (announced : a.announced = b.announced) : nextNum a = nextNum b := by
  unfold nextNum
  rw [num, announced]

/-- A pulse that is a boundary, of a die whose counts and lock stand as given (R53, R60). -/
theorem opens_of_boundary {s u : State} {f : State → State} (hup : up s) (effect : f s = boundary u false)
    (num : nextNum u.breath = nextNum s.breath) (sync : u.breath.freeRun = false) (lock : u.breath.pulseLock = true)
    (strays : u.breath.strayCnt = s.breath.strayCnt) (missed : u.breath.missedCnt = s.breath.missedCnt) :
    ∃ t, live s f = .next t ∧ t.breath.num = nextNum s.breath ∧ t.breath.freeRun = false ∧ t.breath.fromTimer = false ∧
      t.breath.started = true ∧ t.breath.pulseLock = true ∧ t.breath.strayCnt = s.breath.strayCnt ∧
      t.breath.missedCnt = s.breath.missedCnt := by
  refine ⟨_, live_up hup, ?_⟩
  rw [breath_keepOuter, effect, breath_boundary, breath_takeNum]
  exact ⟨num, sync, rfl, rfl, lock, strays, missed⟩

theorem countStray_locked (s : State) : countStray (locked s) = { s with breath :=
    { s.breath with pulseLock := true, stray := true, strayCnt := satAdd s.breath.strayCnt 1 } } := rfl

/-! ### LAST_ERR (R58) -/

theorem toInt_lastErr (d : Int) : (lastErr d).toInt =
    if d < 0 then -((min ((d.natAbs + 5000) / 10000) 127 : Nat) : Int) else ((min ((d.natAbs + 5000) / 10000) 127 : Nat) : Int) := by
  have held : min ((d.natAbs + 5000) / 10000) 127 ≤ 127 := Nat.min_le_right ..
  unfold lastErr
  rw [BitVec.toInt_ofInt]
  apply Int.bmod_eq_of_le_mul_two <;> split <;> omega

/-- Settles O14: the pulse by when it comes, LAST_ERR through its signed value. -/
theorem breathPulsesAreSortedAndRounded : Obligations.BreathPulsesAreSortedAndRounded := by
  refine ⟨fun s lowFc highFc at_ hup => ⟨fun ignored => ?ignored, fun heard => ?heard⟩, ?near, ?high, ?low, ?written⟩
  case ignored =>
    exact live_next (f := fun s => breathPulse s lowFc highFc at_) hup (breathPulse_locked ignored) rfl
  case heard =>
    intro stray opens
    have strays (effect : breathPulse s lowFc highFc at_ = countStray (locked s)) : stray :=
      live_breath (f := fun s => breathPulse s lowFc highFc at_) hup (effect.trans (countStray_locked s))
    have opened {u : State} (effect : breathPulse s lowFc highFc at_ = boundary u false) :=
      opens_of_boundary (f := fun s => breathPulse s lowFc highFc at_) hup effect
    refine ⟨fun short => ?_, fun long sync first => ?_, fun long sync later => ⟨fun inside => ?_, fun outside => ?_⟩,
      fun long free => ⟨fun ends => ?_, fun other late => ?_, fun other early => ?_⟩⟩
    · exact live_breath (f := fun s => breathPulse s lowFc highFc at_) hup (breathPulse_runt heard short)
    · exact opened (breathPulse_first heard long sync first) rfl sync rfl rfl rfl
    · obtain ⟨e, effect⟩ : ∃ e, breathPulse s lowFc highFc at_ = boundary (measured (locked s) e) false :=
        ⟨_, (breathPulse_sync heard long sync later).trans (syncPulse_in (s := locked s) inside)⟩
      exact opened effect (nextNum_congr rfl rfl) sync rfl rfl rfl
    · exact strays ((breathPulse_sync heard long sync later).trans (syncPulse_out (s := locked s) outside))
    · exact live_breath (f := fun s => breathPulse s lowFc highFc at_) hup
        ((breathPulse_free heard long free).trans (freeRunPulse_ends (s := locked s) ends))
    · have effect := (breathPulse_free (at_ := at_) heard long free).trans (freeRunPulse_opens (s := locked s) other late)
      exact opened effect (nextNum_congr rfl rfl) rfl rfl rfl rfl
    · exact strays ((breathPulse_free heard long free).trans (freeRunPulse_stray (s := locked s) other early))
  case near =>
    intro d h
    rw [toInt_lastErr]
    split <;> omega
  case high =>
    intro d h
    rw [toInt_lastErr]
    split <;> omega
  case low =>
    intro d h
    rw [toInt_lastErr]
    split <;> omega
  case written =>
    intro s at_ hup lock sync later before after
    have effect := (breathPulse_sync (s := s) (lowFc := 16) (highFc := 16) (at_ := at_) (fun h => by omega) (le_refl _) sync later).trans
      (syncPulse_in (s := locked s) ⟨before, after⟩)
    refine ⟨_, live_up (f := fun s => breathPulse s 16 16 at_) hup, ?_⟩
    rw [breath_keepOuter, effect, breath_boundary, breath_takeNum]
    exact measured_lastErr (locked s) _

/-! ### Boundaries from the die's own timer (R53, R59, R60, R64) -/

theorem isMaster_true {s : State} (h : s.cascId = 0) : isMaster s = true := decide_eq_true h
theorem isMaster_false {s : State} (h : s.cascId ≠ 0) : isMaster s = false := decide_eq_false h

theorem breathMiss_idle {s : State} (h : s.breath.freeRun = true ∨ s.breath.started = false ∧ s.cascId ≠ 0) : breathMiss s = s := by
  rcases h with h | ⟨first, other⟩
  · simp [breathMiss, h]
  · simp [breathMiss, isMaster_false other, first]

theorem breathMiss_enters {s : State} (sync : s.breath.freeRun = false) (expects : s.breath.started = true ∨ s.cascId = 0) :
    breathMiss s = enterFreeRun (boundary s true) s.breath.late := by
  rcases expects with h | h
  · simp [breathMiss, sync, h]
  · simp [breathMiss, isMaster_true h, sync]

theorem breath_enterFreeRun (s : State) (late : Nat) : (enterFreeRun s late).breath =
    { s.breath with freeRun := true, miss := true, missedCnt := satAdd s.breath.missedCnt 1 } := breath_stageEvent ..

theorem enterFreeRun_pends (s : State) (late : Nat) : (enterFreeRun s late).irq.gstat.getLsbD 0 = true := pendG_getLsbD _ (by decide)

/-- The number that a boundary opens beside an announced marker (R64). -/
theorem toNat_nextNum {b : Breath} {m : Marker} (h : b.announced = some m) (room : b.num.toNat + 1 < 2 ^ 64) :
    (nextNum b).toNat = max (b.num.toNat + 1) m.b.toNat := by
  have next : (b.num + 1).toNat = b.num.toNat + 1 := BitVec.toNat_add_of_lt (by simpa using room)
  simp only [nextNum, h, next]
  split <;> omega

theorem toNat_nextNum_none {b : Breath} (h : b.announced = none) (room : b.num.toNat + 1 < 2 ^ 64) :
    (nextNum b).toNat = b.num.toNat + 1 := by
  simp only [nextNum, h]
  exact BitVec.toNat_add_of_lt (by simpa using room)

theorem renumbers_iff {b : Breath} {m : Marker} (h : b.announced = some m) (room : b.num.toNat + 1 < 2 ^ 64) :
    renumbers b = true ↔ m.b.toNat ≠ b.num.toNat + 1 := by
  have next : (b.num + 1).toNat = b.num.toNat + 1 := BitVec.toNat_add_of_lt (by simpa using room)
  simp only [renumbers, h, ne_eq, decide_not, Bool.not_eq_true', decide_eq_false_iff_not, ← BitVec.toNat_inj, next]

/-! ### Breath markers (R56, R62, R310) -/

theorem foldl_send (l : List Nat) (f : Nat → Sent) (s : State) :
    l.foldl (fun st d => send st (f d)) s = { s with sent := s.sent ++ l.map f } := by
  induction l generalizing s with
  | nil => rw [List.map_nil, List.append_nil]; rfl
  | cons d l ih =>
    rw [List.foldl_cons, ih, send, List.map_cons, List.append_assoc]
    rfl

theorem markerBridge_eq (s : State) (m : Marker) :
    markerBridge s m = { s with sent := s.sent ++ (bridgesUp s).map (fun d => Sent.marker (.bridge d) m) } := foldl_send ..

theorem linkSide_markerOut (s : State) (m : Marker) : LinkSide s (markerOut s m) := by
  unfold markerOut
  dsimp only
  split
  · exact (linkSide_send ..).trans (linkSide_sendControl ..)
  · exact .refl s

theorem bridgesUp_linkSide {s t : State} (h : LinkSide s t) : bridgesUp t = bridgesUp s := by
  obtain ⟨⟨h, -⟩, -⟩ := h
  rw [h]
  rfl

theorem markerOut_unmarked {s : State} (h : s.link.markerOut = false) (m : Marker) : markerOut s m = s := by
  simp [markerOut, h]

/-- Over the marked link goes the marker, and then whatever its control flit takes. -/
theorem sent_markerOut (s : State) (m : Marker) : ∃ words, (markerOut s m).sent = s.sent ++
    (if s.link.markerOut then [Sent.marker .link { m with hops := m.hops + 1 }] else []) ++ words ∧
    (s.link.markerOut = false ∨ s.link.st ≠ 2 → words = []) := by
  cases marked : s.link.markerOut
  case false =>
    rw [markerOut_unmarked marked]
    exact ⟨[], by simp, fun _ => rfl⟩
  case true =>
    have effect : markerOut s m = sendControl (send s (.marker .link { m with hops := m.hops + 1 })) 0
        (markerFlit { m with hops := m.hops + 1 }) := if_pos marked
    rw [effect]
    by_cases up : s.link.st = 2
    · obtain ⟨-, words, sent⟩ := linkSide_sendControl (send s (.marker .link { m with hops := m.hops + 1 })) 0
        (markerFlit { m with hops := m.hops + 1 })
      exact ⟨words, sent, fun h => by simp [up] at h⟩
    · exact ⟨[], by rw [sent_sendControl_down (by exact up), if_pos rfl, List.append_nil]; rfl, fun _ => rfl⟩

theorem markerSend_idle {s : State} (h : s.cascId ≠ 0 ∨ s.breath.src ≠ 0) (r : Nat) : markerSend s r = s := by
  rcases h with h | h
  · simp only [markerSend, isMaster_false h, Bool.not_false, Bool.true_or, if_true]
  · simp only [markerSend, h, ne_eq, not_false_eq_true, decide_true, Bool.or_true, if_true]

theorem markerSend_root {s : State} (master : s.cascId = 0) (timer : s.breath.src = 0) (r : Nat) : markerSend s r =
    markerBridge (markerOut s { b := s.breath.num + 1, remaining := 256000 - (r : Int), hops := 0 })
      { b := s.breath.num + 1, remaining := 256000, hops := 0 } := by
  simp [markerSend, isMaster, master, timer]

theorem markerArrives_bridge_late (s : State) (d : Nat) (b : W64) {rem : Int} (hops : Byte) (r : Nat) (h : rem < 0) :
    markerArrives s (.bridge d) b rem hops r = countStray s := by
  have late : rem - r < 0 := by omega
  simp [markerArrives, late]

theorem markerArrives_bridge {s : State} {d : Nat} (b : W64) {rem : Int} (hops : Byte) {r : Nat} (early : (r : Int) ≤ rem)
    (master : s.cascId = 0) (follows : s.breath.src = 1) (from_ : s.breath.upDie.toNat = d) :
    markerArrives s (.bridge d) b rem hops r =
      markerOut (followMarker s { b := b, remaining := rem - r, hops := hops }) { b := b, remaining := rem - r, hops := hops } := by
  have late : ¬ rem - r < 0 := by omega
  simp [markerArrives, late, takesFrom, isMaster, master, follows, from_]

theorem markerArrives_link_late (s : State) (b : W64) {rem : Int} (hops : Byte) (r : Nat) (h : rem < s.link.lat.toNat) :
    markerArrives s .link b rem hops r = countStray s := by
  have late : rem - s.link.lat.toNat < 0 := by omega
  simp [markerArrives, late]

theorem followMarker_master {s : State} (h : s.cascId = 0) (m : Marker) : followMarker s m =
    { s with breath := { s.breath with marker := some m, hops := BitVec.ofNat 4 m.hops.toNat } } := by
  simp [followMarker, isMaster, h]

/-- s once the held marker announces the next boundary. -/
def announce (s : State) (m : Marker) : State := { s with breath := { s.breath with marker := none, announced := some m } }

theorem markerCountdown_master {s : State} {m : Marker} (held : s.breath.marker = some m) (master : s.cascId = 0)
    (follows : s.breath.src = 1) : markerCountdown s = send (announce s m) .breathOut := by
  simp only [markerCountdown, held, isMaster_true master, follows, announce, Bool.not_true, Bool.false_eq_true, if_false, if_true]

theorem markerCountdown_other {s : State} {m : Marker} (held : s.breath.marker = some m) (other : s.cascId ≠ 0) :
    markerCountdown s = announce s m := by
  simp only [markerCountdown, held, isMaster_false other, Bool.not_false, if_true, announce]

theorem markerCountdown_none {s : State} (h : s.breath.marker = none) : markerCountdown s = s := by
  simp [markerCountdown, h]

/-- Settles O15: a missed breath by `breathMiss_enters`, the markers by the port they come or leave by. -/
theorem missedBreathsAndMarkers : Obligations.MissedBreathsAndMarkers := by
  refine ⟨fun s hup => ⟨fun free => ?missFree, fun sync => ?freeSync, fun sync first other => ?missFirst, fun sync expects => ?miss,
    fun free => ?free, fun m known room => ⟨toNat_nextNum known room, renumbers_iff known room⟩, fun none_ room => toNat_nextNum_none none_ room⟩,
    fun s hup => ⟨?timer, fun r master timer => ?root, fun r idle => ?noRoot, fun d b rem hops r late => ?late,
      fun d b rem hops r early master follows from_ => ?follow, fun b rem hops r late => ?linkLate,
      fun m held master follows => ?countMaster, fun m held other => ?countOther, fun none_ => ?countNone⟩⟩
  case missFree => exact live_next (f := breathMiss) hup (breathMiss_idle (.inl free)) rfl
  case freeSync => exact live_next (f := freeRunBoundary) hup (by simp [freeRunBoundary, sync]) rfl
  case missFirst => exact live_next (f := breathMiss) hup (breathMiss_idle (.inr ⟨first, other⟩)) rfl
  case miss =>
    refine ⟨_, live_up (f := breathMiss) hup, ?_⟩
    rw [breathMiss_enters sync expects]
    have pends : (keepOuter s (enterFreeRun (boundary s true) s.breath.late)).irq.gstat.getLsbD 0 = true := enterFreeRun_pends ..
    rw [breath_keepOuter, breath_enterFreeRun, breath_boundary, breath_takeNum]
    exact ⟨rfl, rfl, rfl, rfl, pends, rfl, rfl, rfl⟩
  case free =>
    refine ⟨_, live_up (f := freeRunBoundary) hup, ?_⟩
    rw [breath_keepOuter, freeRunBoundary, if_pos free, breath_boundary, breath_takeNum]
  case timer =>
    refine live_next (f := pulseTimer) hup ?_ (by split <;> rfl)
    simp only [pulseTimer, isMaster, Bool.and_eq_true, decide_eq_true_eq, send]
  case root =>
    intro m overLink overBridges
    obtain ⟨words, sent, quiet⟩ := sent_markerOut s { m with remaining := 256000 - (r : Int) }
    have side := linkSide_markerOut s { m with remaining := 256000 - (r : Int) }
    have effect : markerSend s r = { markerOut s { m with remaining := 256000 - (r : Int) } with
        sent := s.sent ++ overLink ++ words ++ overBridges } := by
      rw [markerSend_root master timer, markerBridge_eq, bridgesUp_linkSide side, sent]
      rfl
    refine ⟨_, words, live_next (f := fun s => markerSend s r) hup effect ?_, rfl, quiet, ?_, fun unmarked => ?_⟩
    · rw [side.1.1]
      rfl
    · rw [side.1.1]
    · change (markerOut s { m with remaining := 256000 - (r : Int) }).link = s.link
      rw [markerOut_unmarked unmarked]
  case noRoot => exact live_next (f := fun s => markerSend s r) hup (markerSend_idle idle r) rfl
  case late => exact live_breath (f := fun s => markerArrives s (.bridge d) b rem hops r) hup (markerArrives_bridge_late s d b hops r late)
  case follow =>
    refine ⟨_, live_up (f := fun s => markerArrives s (.bridge d) b rem hops r) hup, ?_⟩
    rw [breath_keepOuter, markerArrives_bridge b hops early master follows from_, (linkSide_markerOut ..).1.1, followMarker_master master]
  case linkLate => exact live_breath (f := fun s => markerArrives s .link b rem hops r) hup (markerArrives_link_late s b hops r (by exact_mod_cast late))
  case countMaster => exact live_next (f := markerCountdown) hup (markerCountdown_master held master follows) rfl
  case countOther => exact live_next (f := markerCountdown) hup (markerCountdown_other held other) rfl
  case countNone => exact live_next (f := markerCountdown) hup (markerCountdown_none none_) rfl

end Sys2Proof.Proofs.BreathTick

/-! What the items of the store keep through the shared operations on them, and which parts of the die the memory side's
requests and the issue checks can touch (chapter 02, R45; chapter 12, R255). -/

namespace Sys2Proof.Proofs.ItemLaws

open Sys2Proof Sys2Proof.Machine Sys2Proof.Safety Sys2Proof.Laws Sys2Proof.Proofs.LinkPort

/-! ### What the pins and supplies hide -/

theorem ended_keepOuter {s t : State} {q : Nat} {idx : W32} {st : Byte} {d : W64} (h : ended t q idx st d) :
    ended (keepOuter s t) q idx st d := h

theorem getQ_keepOuter (s t : State) (q : Nat) : getQ (keepOuter s t) q = getQ t q := rfl
theorem findItem_keepOuter (s t : State) (q : Nat) (idx : W32) : findItem (keepOuter s t) q idx = findItem t q idx := rfl
theorem mem_keepOuter (s t : State) : (keepOuter s t).mem = t.mem := rfl
theorem irq_keepOuter (s t : State) : (keepOuter s t).irq = t.irq := rfl
theorem items_keepOuter (s t : State) : (keepOuter s t).items = t.items := rfl
theorem queues_keepOuter (s t : State) : (keepOuter s t).queues = t.queues := rfl

theorem sameMemory_of_mem {s t : State} (h : t.mem = s.mem) : sameMemory s t := fun a => by rw [h]

/-! ### The item under a name, before and after -/

/-- The item under a name in t stands as R says to the one in s; no item appears under the name or leaves it. -/
def FoundAs (R : Item → Item → Prop) (q : Nat) (idx : W32) (s t : State) : Prop := Option.Rel R (findItem s q idx) (findItem t q idx)

theorem FoundAs.some {R : Item → Item → Prop} {q : Nat} {idx : W32} {s t : State} {i : Item} (h : FoundAs R q idx s t)
    (found : findItem s q idx = some i) : ∃ j, findItem t q idx = some j ∧ R i j := by
  unfold FoundAs at h
  rw [found] at h
  cases hj : findItem t q idx with
  | none => rw [hj] at h; cases h
  | some j => rw [hj] at h; cases h with | some r => exact ⟨j, rfl, r⟩

theorem FoundAs.none {R : Item → Item → Prop} {q : Nat} {idx : W32} {s t : State} (h : FoundAs R q idx s t)
    (found : findItem s q idx = none) : findItem t q idx = none := by
  unfold FoundAs at h
  rw [found] at h
  cases hj : findItem t q idx with
  | none => rfl
  | some j => rw [hj] at h; cases h

theorem FoundAs.of_map {R : Item → Item → Prop} {q : Nat} {idx : W32} {s t : State} {f : Item → Item}
    (h : findItem t q idx = (findItem s q idx).map f) (keeps : ∀ i, R i (f i)) : FoundAs R q idx s t := by
  unfold FoundAs
  rw [h]
  cases findItem s q idx with
  | none => exact .none
  | some i => exact .some (keeps i)

/-- What a relation between an item and what becomes of it must allow, to hold through the ending of other items. -/
structure Tracks (R : Item → Item → Prop) : Prop where
  trans : ∀ {i j k}, R i j → R j k → R i k
  marks : ∀ i g, R i (i.rid g)

theorem Tracks.refl {R : Item → Item → Prop} (h : Tracks R) (i : Item) : R i i := h.marks i (i.haloHit, i.groups)

section
variable {R : Item → Item → Prop} (tracks : Tracks R) {q : Nat} {idx : W32}
include tracks

theorem FoundAs.refl (s : State) : FoundAs R q idx s s := .of_map (f := fun i => i) Option.map_id'.symm tracks.refl

theorem FoundAs.of_items {s t : State} (h : t.items = s.items) : FoundAs R q idx s t := by
  have same : findItem t q idx = findItem s q idx := by rw [findItem, h, findItem]
  exact .of_map (f := fun i => i) (by rw [same, Option.map_id']) tracks.refl

theorem FoundAs.trans {s t u : State} (a : FoundAs R q idx s t) (b : FoundAs R q idx t u) : FoundAs R q idx s u := by
  unfold FoundAs at *
  cases hs : findItem s q idx with
  | none =>
    rw [FoundAs.none b (FoundAs.none a hs)]
    exact .none
  | some i =>
    obtain ⟨j, hj, rj⟩ := FoundAs.some a hs
    obtain ⟨k, hk, rk⟩ := FoundAs.some b hj
    rw [hk]
    exact .some (tracks.trans rj rk)

theorem FoundAs.of_sameItems {s t : State} (h : SameItems s t) : FoundAs R q idx s t := by
  obtain ⟨g, found⟩ := h.find q idx
  exact .of_map found (fun i => tracks.marks i _)

omit tracks in
theorem FoundAs.modItem_same (s : State) {f : Item → Item} (named : ∀ i, isItem q idx i = true → isItem q idx (f i) = true)
    (keeps : ∀ i, R i (f i)) : FoundAs R q idx s (modItem s q idx f) := .of_map (findItem_modItem s q idx f named) keeps

theorem FoundAs.modItem_other (s : State) {q' : Nat} {idx' : W32} {f : Item → Item} (named : ∀ i, (f i).q = i.q ∧ (f i).idx = i.idx)
    (other : ¬(q = q' ∧ idx = idx')) : FoundAs R q idx s (modItem s q' idx' f) :=
  .of_map (f := fun i => i) (by rw [findItem_modItem_other s q' q idx' idx f named other, Option.map_id']) tracks.refl

theorem FoundAs.foldl {α : Type} {f : State → α → State} {l : List α} (h : ∀ a ∈ l, ∀ s, FoundAs R q idx s (f s a)) (s : State) :
    FoundAs R q idx s (l.foldl f s) := by
  induction l generalizing s with
  | nil => exact .refl tracks s
  | cons a l ih => exact .trans tracks (h a (List.mem_cons_self ..) s) (ih (fun b hb => h b (List.mem_cons_of_mem _ hb)) _)

/-- Tasks of an item that go, and its operation that closes, leave every item but for marks. -/
theorem FoundAs.before_end (s : State) (q' : Nat) (idx' : W32) (st : Byte) (d : W64) :
    FoundAs R q idx s (closeOp (abortItemTasks s q' idx') q' idx' st d) :=
  .of_sameItems tracks ((sameItems_abortItemTasks s q' idx').trans (sameItems_closeOp ..))

theorem FoundAs.endNow_other (s : State) {q' : Nat} {idx' : W32} (st d : Nat) (other : ¬(q = q' ∧ idx = idx')) :
    FoundAs R q idx s (endNow s q' idx' st d) :=
  .trans tracks (.before_end tracks s q' idx' _ _)
    (.trans tracks (.modItem_other tracks _ (f := fun i => i.endWith st d (lowBreath s)) (fun _ => ⟨rfl, rfl⟩) other) (.of_items tracks rfl))

theorem FoundAs.endNow_same (s : State) (st d : Nat) (ends : ∀ i b, R i (i.endWith st d b)) : FoundAs R q idx s (endNow s q idx st d) :=
  .trans tracks (.before_end tracks s q idx _ _)
    (.trans tracks (.modItem_same _ (f := fun i => i.endWith st d (lowBreath s)) (fun _ h => h) (fun i => ends i _))
      (.of_items tracks rfl))
end

/-- An item and the same one after the ending of others: marks and row blocks apart. -/
def Untouched (i j : Item) : Prop := ∃ g, j = i.rid g

theorem tracks_untouched : Tracks Untouched where
  trans := by
    rintro i j k ⟨g, rfl⟩ ⟨g', rfl⟩
    exact ⟨g', rfl⟩
  marks i g := ⟨g, rfl⟩

/-- An item that ended is found so, and so it stays while other items end. -/
theorem ended_endNow {s : State} {q : Nat} {idx : W32} {i : Item} (found : findItem s q idx = some i) (st d : Nat) :
    ended (endNow s q idx st d) q idx (BitVec.ofNat 8 st) (BitVec.ofNat 64 d) := by
  obtain ⟨g, h⟩ := findItem_endNow s q idx st d i found
  exact ⟨_, h, rfl, rfl, rfl⟩

theorem FoundAs.ended {s t : State} {q : Nat} {idx : W32} {st : Byte} {d : W64} (h : FoundAs Untouched q idx s t) (e : ended s q idx st d) :
    Safety.ended t q idx st d := by
  obtain ⟨j, found, stage, status, detail⟩ := e
  obtain ⟨k, found', g, rfl⟩ := h.some found
  exact ⟨_, found', stage, status, detail⟩

/-! ### Requests and their answers (R255) -/

/-- t differs from s in the requests on their way alone. -/
def ReqSide (s t : State) : Prop := t = { s with mem := { s.mem with reqs := t.mem.reqs } }

theorem ReqSide.refl (s : State) : ReqSide s s := rfl

theorem ReqSide.trans {s t u : State} (a : ReqSide s t) (b : ReqSide t u) : ReqSide s u := by
  unfold ReqSide at *
  rw [b, a]

theorem ReqSide.foldl {α : Type} {f : State → α → State} (h : ∀ s a, ReqSide s (f s a)) (l : List α) (s : State) :
    ReqSide s (l.foldl f s) := by
  induction l generalizing s with
  | nil => exact .refl s
  | cons a l ih => exact (h s a).trans (ih _)

theorem ReqSide.items {s t : State} (h : ReqSide s t) : t.items = s.items := by rw [h]
theorem ReqSide.queues {s t : State} (h : ReqSide s t) : t.queues = s.queues := by rw [h]
theorem ReqSide.cle {s t : State} (h : ReqSide s t) : t.cle = s.cle := by rw [h]
theorem ReqSide.pg {s t : State} (h : ReqSide s t) : t.pg = s.pg := by rw [h]
theorem ReqSide.reed {s t : State} (h : ReqSide s t) : t.reed = s.reed := by rw [h]
theorem ReqSide.irq {s t : State} (h : ReqSide s t) : t.irq = s.irq := by rw [h]
theorem ReqSide.bytes {s t : State} (h : ReqSide s t) : t.mem.bytes = s.mem.bytes := by rw [h]

theorem reqSide_issueReq (s : State) (r : Req) : ReqSide s (issueReq s r) := rfl

theorem reqSide_grantTags (which : Req → Bool) (s : State) : ReqSide s (grantTags which s) :=
  ReqSide.foldl (fun s r => by
    split
    · exact .refl s
    · split
      · exact .refl s
      · rfl) _ _

theorem reqSide_releaseReq (s : State) (tag : Nat) : ReqSide s (releaseReq s tag) :=
  ReqSide.trans (t := { s with mem := { s.mem with reqs := s.mem.reqs.filter (fun r => r.tag ≠ some tag) } }) rfl (reqSide_grantTags ..)

/-- t differs from s in the memory side and the counter of free values alone. -/
def MemoryOnly (s t : State) : Prop := t = { s with mem := t.mem, free := t.free }

theorem MemoryOnly.trans {s t u : State} (a : MemoryOnly s t) (b : MemoryOnly t u) : MemoryOnly s u := by
  unfold MemoryOnly at *
  rw [b, a]

theorem ReqSide.memoryOnly {s t : State} (h : ReqSide s t) : MemoryOnly s t := by
  unfold MemoryOnly
  rw [h]

theorem MemoryOnly.items {s t : State} (h : MemoryOnly s t) : t.items = s.items := by rw [h]
theorem MemoryOnly.queues {s t : State} (h : MemoryOnly s t) : t.queues = s.queues := by rw [h]
theorem MemoryOnly.irq {s t : State} (h : MemoryOnly s t) : t.irq = s.irq := by rw [h]

/-- A write that is no item's output reaches memory alone. -/
theorem memoryOnly_landWrite {s : State} {r : Req} (h : outputItem s r = none) (resp : Resp) : MemoryOnly s (landWrite s r resp) := by
  cases resp with
  | ok =>
    simp only [landWrite, h]
    rfl
  | poison => rfl
  | ctxMismatch => rfl

/-! ### The issue checks (R45) -/

/-- t differs from s in the item side and the counter of free values alone. -/
def CheckSide (s t : State) : Prop := t = { takeItemSide s t with free := t.free }

theorem CheckSide.refl (s : State) : CheckSide s s := rfl

theorem CheckSide.trans {s t u : State} (a : CheckSide s t) (b : CheckSide t u) : CheckSide s u := by
  unfold CheckSide at *
  rw [b, a]
  rfl

theorem CheckSide.of_items {s t : State} (h : ItemSide s t) : CheckSide s t := by
  unfold CheckSide
  rw [h]
  rfl

theorem CheckSide.queues {s t : State} (h : CheckSide s t) : t.queues = s.queues := by rw [h]; rfl
theorem CheckSide.mem {s t : State} (h : CheckSide s t) : t.mem = s.mem := by rw [h]; rfl
theorem CheckSide.irq {s t : State} (h : CheckSide s t) : t.irq = s.irq := by rw [h]; rfl

theorem itemSide_zeroShapeJoins (s : State) (g : Nat) (a : Agreement) (sn : W32) (attempt : Byte) :
    ItemSide s (zeroShapeJoins s g a sn attempt) := by
  unfold zeroShapeJoins
  refine ItemSide.trans ?_ (itemSide_toOthers ..)
  refine ItemSide.trans ?_ (itemSide_toOthers ..)
  rfl

theorem checkSide_checkItem (s : State) (i : Item) : CheckSide s (checkItem s i) := by
  unfold checkItem
  dsimp only
  split
  · refine .of_items (ItemSide.trans ?_ (itemSide_endNow ..))
    split
    · exact (itemSide_modItem ..).trans (itemSide_zeroShapeJoins ..)
    · exact itemSide_modItem ..
  · split
    · refine CheckSide.trans ?_ (.of_items (itemSide_endNow ..))
      rfl
    · exact .of_items (itemSide_modItem ..)

theorem checkSide_runChecks (l : List Item) (first : Bool) (s : State) : CheckSide s (runChecks l first s) := by
  induction l generalizing first s with
  | nil => exact .refl s
  | cons i l ih =>
    unfold runChecks
    split
    · split
      · exact ih ..
      · exact (checkSide_checkItem ..).trans (ih ..)
    · split
      · exact .refl s
      · exact ih ..

theorem checkSide_checkQueue (s : State) (q : Nat) : CheckSide s (checkQueue s q) := checkSide_runChecks ..

theorem items_zeroShapeJoins (s : State) (g : Nat) (a : Agreement) (sn : W32) (attempt : Byte) :
    (zeroShapeJoins s g a sn attempt).items = s.items := by
  unfold zeroShapeJoins
  exact (portSide_toOthers ..).items.trans (portSide_toOthers ..).items

section
variable {R : Item → Item → Prop} (tracks : Tracks R) {q : Nat} {idx : W32}
include tracks

/-- The check of an item, for a relation that its verdict and its end keep. -/
theorem FoundAs.checkItem (s : State) {i : Item}
    (verdict : ∀ s v c, FoundAs R q idx s (modItem s i.q i.idx (fun x => { x with ver := v, checked := c })))
    (ends : ∀ s st d, FoundAs R q idx s (endNow s i.q i.idx st d)) : FoundAs R q idx s (checkItem s i) := by
  unfold Machine.checkItem
  dsimp only
  split
  · refine .trans tracks ?_ (ends ..)
    split
    · exact .trans tracks (verdict ..) (.of_items tracks (items_zeroShapeJoins ..))
    · exact verdict ..
  · split
    · refine .trans tracks (verdict s (getQ s i.q).negVer true) (.trans tracks (.of_items tracks ?_) (ends ..))
      rfl
    · exact verdict ..

/-- The check of another item leaves the one under the name but for marks. -/
theorem FoundAs.checkItem_other (s : State) {i : Item} (other : ¬(q = i.q ∧ idx = i.idx)) : FoundAs R q idx s (Machine.checkItem s i) :=
  .checkItem tracks s (fun s v c => .modItem_other tracks s (f := fun x => { x with ver := v, checked := c }) (fun _ => ⟨rfl, rfl⟩) other)
    (fun s st d => .endNow_other tracks s st d other)

/-- The check of the item under the name, for a relation that every verdict and end keeps. -/
theorem FoundAs.checkItem_same (s : State) {i : Item} (same : q = i.q ∧ idx = i.idx) (verdict : ∀ i v c, R i { i with ver := v, checked := c })
    (ends : ∀ i st d b, R i (i.endWith st d b)) : FoundAs R q idx s (Machine.checkItem s i) := by
  obtain ⟨rfl, rfl⟩ := same
  exact .checkItem tracks s
    (fun s v c => .modItem_same s (f := fun x => { x with ver := v, checked := c }) (fun _ h => h) (fun i => verdict i v c))
    (fun s st d => .endNow_same tracks s st d (fun i b => ends i st d b))

/-- The checks of a list of items, for a relation that each check keeps (R47, R277). -/
theorem FoundAs.runChecks {l : List Item} (h : ∀ i ∈ l, i.stage = .accepted → ∀ s, FoundAs R q idx s (Machine.checkItem s i)) (first : Bool) (s : State) :
    FoundAs R q idx s (Machine.runChecks l first s) := by
  induction l generalizing first s with
  | nil => exact .refl tracks s
  | cons i l ih =>
    have rest := ih (fun j hj => h j (List.mem_cons_of_mem _ hj))
    unfold Machine.runChecks
    split
    · next due =>
      simp only [Bool.and_eq_true, decide_eq_true_eq] at due
      split
      · exact rest ..
      · exact .trans tracks (h i (List.mem_cons_self ..) due.1.1.1 s) (rest ..)
    · split
      · exact .refl tracks s
      · exact rest ..

/-- The checks of a queue, for an item whose namesakes are not accepted ones. -/
theorem FoundAs.checkQueue_other {s : State} {q' : Nat} (h : ∀ i ∈ s.items, i.q = q → i.idx = idx → i.stage ≠ .accepted) :
    FoundAs R q idx s (Machine.checkQueue s q') := by
  refine .runChecks tracks (fun i hi due s' => ?_) true s
  exact .checkItem_other tracks s' (fun same => h i (List.mem_of_mem_filter hi) same.1.symm same.2.symm due)

/-- The checks of a queue, for a relation that verdicts and ends keep. -/
theorem FoundAs.checkQueue (s : State) (q' : Nat) (verdict : ∀ i v c, R i { i with ver := v, checked := c })
    (ends : ∀ i st d b, R i (i.endWith st d b)) : FoundAs R q idx s (Machine.checkQueue s q') := by
  refine .runChecks tracks (fun i hi due s' => ?_) true s
  by_cases same : q = i.q ∧ idx = i.idx
  · exact .checkItem_same tracks s' same verdict ends
  · exact .checkItem_other tracks s' same
end

end Sys2Proof.Proofs.ItemLaws

/-! The life of a queue's items: configuration, copies of commands, the issue checks, NEGOTIATE and NOP, and completion records
(chapter 02). -/

namespace Sys2Proof.Proofs.QueueWork

open Sys2Proof Sys2Proof.Machine Sys2Proof.Safety Sys2Proof.Laws
open Sys2Proof.Proofs.RegisterWrites Sys2Proof.Proofs.Queues Sys2Proof.Proofs.SequenceSelect Sys2Proof.Proofs.BellRecord Sys2Proof.Proofs.ItemLaws

theorem getQ_of_queues {s t : State} (h : t.queues = s.queues) (q : Nat) : getQ t q = getQ s q := by rw [getQ, h, getQ]

/-! ### The first item of a queue -/

theorem find?_of_find? {α : Type} {p r : α → Bool} {l : List α} {a : α} (h : l.find? p = some a) (imp : ∀ x, r x = true → p x = true)
    (ha : r a = true) : l.find? r = some a := by
  induction l with
  | nil => cases h
  | cons b l ih =>
    rw [List.find?_cons] at h ⊢
    cases hb : p b with
    | true =>
      rw [hb] at h
      cases h
      rw [ha]
    | false =>
      rw [hb] at h
      have other : r b = false := by
        cases hr : r b with
        | false => rfl
        | true => rw [imp b hr] at hb; cases hb
      rw [other]
      exact ih h

/-- The first item of a queue with some property is the one found under its name, when no other item has its name without it. -/
theorem queue_of_find {s : State} {q : Nat} {p : Item → Bool} {i : Item} (h : s.items.find? (fun x => decide (x.q = q) && p x) = some i) :
    i.q = q ∧ p i = true := by
  simpa using List.find?_some h

theorem queue_of_oldest {s : State} {q : Nat} {i : Item} (h : s.items.find? (fun x => x.q = q) = some i) : i.q = q := by
  simpa using List.find?_some h

theorem findItem_of_oldest {s : State} {q : Nat} {i : Item} (h : s.items.find? (fun x => x.q = q) = some i) :
    findItem s q i.idx = some i :=
  find?_of_find? h (fun x hx => by simp only [isItem, Bool.and_eq_true] at hx; exact hx.1) (by simp [isItem, queue_of_oldest h])

/-! ### Configuration and closing (R34, R36) -/

theorem qctrl_present {s : State} {q : Nat} (present : queuePresent s q = true) (w : W64) : qctrl s q w = setQ s q { getQ s q with
    admitMax := BitVec.ofNat 16 (fld w 47 32), irqEn := w.getLsbD 19, irqLine := BitVec.ofNat 3 (fld w 18 16)
    log2 := if (getQ s q).st = 0 then BitVec.ofNat 5 (fld w 12 8) else (getQ s q).log2
    en := if (getQ s q).closing then (getQ s q).en else w.getLsbD 0 } := by
  simp only [qctrl, present, Bool.not_true, Bool.false_eq_true, if_false]

theorem qctrl_absent {s : State} {q : Nat} (absent : queuePresent s q = false) (w : W64) : qctrl s q w = s := by
  simp only [qctrl, absent, Bool.not_false, if_true]

theorem inflight_eq_zero_iff (s : State) (q : Nat) : inflight s q = 0 ↔ ∀ i ∈ s.items, i.q ≠ q := by
  simp only [inflight, List.length_eq_zero_iff, List.filter_eq_nil_iff, decide_eq_true_eq]

theorem queueClosed_empty {s : State} {q : Nat} (closing : (getQ s q).closing = true) (empty : ∀ i ∈ s.items, i.q ≠ q) :
    queueClosed s q = setQ s q { getQ s q with st := 0, closing := false, accHead := 0, cplTail := 0, cmdTail := 0, cplHead := 0,
                                               negVer := 0, en := false } := by
  simp only [queueClosed, closing, (inflight_eq_zero_iff s q).mpr empty, decide_true, Bool.and_self, if_true]

theorem queueClosed_stays {s : State} {q : Nat} (h : (getQ s q).closing = false ∨ ∃ i ∈ s.items, i.q = q) : queueClosed s q = s := by
  refine if_neg (fun due => ?_)
  simp only [Bool.and_eq_true, decide_eq_true_eq, inflight_eq_zero_iff] at due
  rcases h with h | ⟨i, hi, hq⟩
  · rw [h] at due
    cases due.1
  · exact due.2 i hi hq

/-! ### Records (R27, R37, R40) -/

theorem recordReady_iff (s : State) (i : Item) : recordReady s i = true ↔
    i.stage = .recordFailed ∨ i.stage = .committed ∨ (i.stage = .ended ∧ outputsLeft s i.q i.idx = 0) := by
  unfold recordReady
  cases i.stage <;> simp

/-- The write of an item's completion record (R27). -/
def recordReq (s : State) (q : Nat) (i : Item) : Req :=
  { tag := none, pool := 67, owner := .record q i.idx, write := true
    pa := (getQ s q).cplBase.toNat + 32 * ((getQ s q).cplTail.toNat % 2 ^ (getQ s q).log2.toNat), len := 32
    data := recordBytes i (phaseOf (getQ s q).cplTail (getQ s q).log2.toNat), ctx := 0, addr := 0 }

theorem writeRecord_due {s : State} {q : Nat} {i : Item} (oldest : s.items.find? (fun x => x.q = q) = some i)
    (ready : recordReady s i = true) (running : (getQ s q).st ≠ 3) :
    writeRecord s q = issueReq (modItem s q i.idx (fun x => { x with stage := .recordSent })) (recordReq s q i) := by
  simp only [writeRecord, oldestItem, oldest, ready, running, Bool.not_true, decide_false, Bool.or_self, Bool.false_eq_true, if_false]
  rfl

theorem writeRecord_held {s : State} {q : Nat}
    (held : ∀ i, s.items.find? (fun x => x.q = q) = some i → (getQ s q).st = 3 ∨ recordReady s i = false) : writeRecord s q = s := by
  unfold writeRecord oldestItem
  dsimp only
  split
  · rfl
  · next i oldest =>
    rcases held i oldest with h | h <;> simp [h]

/-- The record goes out: its item waits for the answer, and its request is the last one. -/
theorem writeRecord_sent {s : State} {q : Nat} {i : Item} (oldest : s.items.find? (fun x => x.q = q) = some i)
    (ready : recordReady s i = true) (running : (getQ s q).st ≠ 3) :
    findItem (writeRecord s q) q i.idx = some { i with stage := .recordSent } ∧
      (∃ tag, (writeRecord s q).mem.reqs = s.mem.reqs ++ [{ recordReq s q i with tag := tag }]) ∧
      writeRecord s q = { s with items := (writeRecord s q).items, mem := { s.mem with reqs := (writeRecord s q).mem.reqs } } := by
  rw [writeRecord_due oldest ready running]
  refine ⟨?_, ⟨_, rfl⟩, rfl⟩
  have found := findItem_modItem s q i.idx (fun x => { x with stage := .recordSent }) (fun _ h => h)
  rw [findItem_of_oldest oldest] at found
  exact found

/-- s once CPL_ERR of a queue is cleared (R37). -/
abbrev unstopped (s : State) (q : Nat) : State := setQ s q { getQ s q with cplErr := false, st := (getQ s q).stBeforeStop }

theorem cplErrClear_stopped {s : State} {q : Nat} (stopped : (getQ s q).cplErr = true) (present : queuePresent s q = true) :
    cplErrClear s q = unstopped s q := by
  simp only [cplErrClear, stopped, present, Bool.not_true, Bool.or_self, Bool.false_eq_true, if_false]

/-- Settles O18: each write on its own queue alone; clearing CPL_ERR goes on with the record of the oldest item. -/
theorem queueConfigurationAndClosing : Obligations.QueueConfigurationAndClosing := by
  intro s q hup
  refine ⟨fun w present => ?config, fun w absent => ?absent, fun edge closing empty => ?closed, fun stays => ?stays,
    fun stopped present => ?clear, fun idle => ?idle⟩
  case config =>
    exact ⟨_, live_next (f := fun s => qctrl s q w) hup (qctrl_present present w) rfl, getQ_setQ_same .., fun p => getQ_setQ_other s _, rfl⟩
  case absent => exact live_next (f := fun s => qctrl s q w) hup (qctrl_absent absent w) rfl
  case closed =>
    refine ⟨_, atEdge_up (f := fun s => queueClosed s q) hup edge, ?_⟩
    rw [queueClosed_empty closing empty, keepOuter_setQ]
    exact ⟨rfl, fun p => getQ_setQ_other s _, getQ_setQ_same ..⟩
  case stays =>
    rcases stays with late | stays
    · exact atEdge_late (f := fun s => queueClosed s q) hup late
    · exact live_next (f := fun s => if s.edge then queueClosed s q else s) hup (by rw [queueClosed_stays stays, ite_self]) rfl
  case clear =>
    intro v due cleared
    have effect : (if (getQ s q).cplErr && queuePresent s q then writeRecord (cplErrClear s q) q else s) = writeRecord (unstopped s q) q := by
      rw [stopped, present, cplErrClear_stopped stopped present]
      rfl
    have unstopped_cleared {t : State} (h : t.queues = (unstopped s q).queues) : cleared t := by
      have same (p : Nat) : getQ t p = getQ (unstopped s q) p := by rw [getQ, h, getQ]
      exact ⟨(same q).trans (getQ_setQ_same ..), fun p other => (same p).trans (getQ_setQ_other s _ other)⟩
    have reg : getQ (unstopped s q) q = { v with cplErr := false, st := v.stBeforeStop } := getQ_setQ_same ..
    refine ⟨fun i oldest isDue => ?_, fun notDue => ?_⟩
    · have own := queue_of_oldest oldest
      have ready : recordReady (unstopped s q) i = true := by
        rw [recordReady_iff, own]
        exact isDue.2
      obtain ⟨found, ⟨tag, reqs⟩, frame⟩ := writeRecord_sent (s := unstopped s q) oldest ready (by rw [reg]; exact isDue.1)
      refine ⟨_, tag, live_next (f := fun s => if (getQ s q).cplErr && queuePresent s q then writeRecord (cplErrClear s q) q else s)
        hup effect ?_, unstopped_cleared ?_, found, ?_, ?_⟩
      · rw [frame]
        rfl
      · rw [frame]
      · rw [reqs, recordReq, reg]
        rfl
      · rw [frame]
        rfl
    · have held : writeRecord (unstopped s q) q = unstopped s q := writeRecord_held (fun i oldest => by
        rw [reg]
        by_contra h
        simp only [not_or, Bool.not_eq_false, recordReady_iff, queue_of_oldest oldest] at h
        exact notDue i oldest h)
      exact ⟨_, live_next (f := fun s => if (getQ s q).cplErr && queuePresent s q then writeRecord (cplErrClear s q) q else s)
        hup (effect.trans held) rfl, unstopped_cleared rfl, rfl⟩
  case idle =>
    refine live_next (f := fun s => if (getQ s q).cplErr && queuePresent s q then writeRecord (cplErrClear s q) q else s) hup ?_ rfl
    rcases idle with h | h <;> simp [h]

/-! ### The answer to a record's write (R37, R50) -/

theorem opcode_eq (i : Item) : i.opcode = cmdAt i.cmd 1 1 := rfl

/-- The bytes of Table 2.19, field by field. -/
theorem recordBytes_eq (i : Item) (k : W32) (n : Nat) : recordBytes i (phaseOf k n) =
    toLE 1 i.ver.toNat ++ toLE 1 (cmdAt i.cmd 1 1) ++ toLE 1 i.status.toNat ++
      toLE 1 ((if k.toNat / 2 ^ n % 2 = 1 then 0 else 1) + 2 * b2n i.maskedRows + 4 * b2n i.rescout + 8 * b2n i.replayed + 16 * b2n i.drops) ++
      toLE 4 (cmdAt i.cmd 4 4) ++ toLE 4 i.idx.toNat ++ toLE 4 i.breath.toNat ++ toLE 8 i.detail.toNat ++ toLE 4 i.count.toNat ++ toLE 4 0 := by
  have phase : b2n (phaseOf k n) = if k.toNat / 2 ^ n % 2 = 1 then 0 else 1 := by
    rw [phaseOf, Nat.shiftRight_eq_div_pow]
    by_cases h : k.toNat / 2 ^ n % 2 = 1 <;> simp [b2n, h]
  rw [recordBytes, rflags, phase]
  rfl

theorem findItem_dropItem (s : State) (q : Nat) (idx : W32) : findItem (dropItem s q idx) q idx = none := by
  simp only [findItem, dropItem, List.find?_eq_none, List.mem_filter]
  rintro i ⟨-, h⟩ h'
  rw [h'] at h
  cases h

/-- An OK answer moves CPL_TAIL, may pend the queue, drops the item, and lets the queue's checks go on. -/
theorem recordAck_ok {s : State} {q : Nat} {idx : W32} {i : Item} (found : findItem s q idx = some i) :
    ∃ u, recordAck s q idx .ok = checkQueue (dropItem u q idx) q ∧
      u.queues = (setQ s q { getQ s q with cplTail := (getQ s q).cplTail + 1 }).queues ∧
      u.irq = if (i.irqFlag || decide (0x10 ≤ i.status.toNat)) = true then (pendQ s q).irq else s.irq := by
  have acks : ∃ u, recordAck s q idx .ok = checkQueue (dropItem u q idx) q ∧
      ∃ v : State, v = (if (i.irqFlag || decide (0x10 ≤ i.status.toNat)) = true then
        pendQ (setQ s q { getQ s q with cplTail := (getQ s q).cplTail + 1 }) q else setQ s q { getQ s q with cplTail := (getQ s q).cplTail + 1 }) ∧
        u.queues = v.queues ∧ u.irq = v.irq := by
    simp only [recordAck, found, isFailure]
    refine ⟨_, rfl, _, rfl, ?_⟩
    by_cases consumes : (decide (engineOf q = 2) && i.checked && decide (0x30 ≤ i.opcode ∧ i.opcode ≤ 0x35)) = true
    · rw [if_pos consumes]
      exact ⟨rfl, rfl⟩
    · rw [if_neg consumes]
      exact ⟨rfl, rfl⟩
  obtain ⟨u, effect, v, hv, queues, irq⟩ := acks
  refine ⟨u, effect, ?_, ?_⟩
  · rw [queues, hv]
    split <;> rfl
  · rw [irq, hv]
    split <;> rfl

/-- A poisoned answer stops the queue, which keeps the item and its record. -/
theorem recordAck_poison {s : State} {q : Nat} {idx : W32} {i : Item} (found : findItem s q idx = some i) (hq : q < 392) :
    findItem (recordAck s q idx .poison) q idx = some { i with stage := .recordFailed } ∧
      (recordAck s q idx .poison).queues = (setQ s q { getQ s q with cplErr := true, st := 3, stBeforeStop := (getQ s q).st }).queues ∧
      (recordAck s q idx .poison).irq.qpend.getLsbD q = true := by
  let u := modItem (setQ s q { getQ s q with cplErr := true, st := 3, stBeforeStop := (getQ s q).st }) q idx
    (fun x => { x with stage := .recordFailed })
  obtain ⟨pa, effect⟩ : ∃ pa, recordAck s q idx .poison = pendQ (bellRaise u 0x0030 0 0 0 pa) q := by
    simp only [recordAck, found, if_true]
    exact ⟨_, rfl⟩
  have failed := findItem_modItem (setQ s q { getQ s q with cplErr := true, st := 3, stBeforeStop := (getQ s q).st }) q idx
    (fun x => { x with stage := .recordFailed }) (fun _ h => h)
  have same : findItem (setQ s q { getQ s q with cplErr := true, st := 3, stBeforeStop := (getQ s q).st }) q idx = some i := found
  rw [same] at failed
  rw [effect, bellSide_bellRaise u 0x0030 0 0 0 pa]
  exact ⟨failed, rfl, pendQ_getLsbD_same _ hq⟩

/-- An item whose record failed to be written stays so. -/
def FailureKept (i j : Item) : Prop := i.stage = .recordFailed → j.stage = .recordFailed

theorem tracks_failureKept : Tracks FailureKept where
  trans a b h := b (a h)
  marks _ _ h := h

theorem itemSide_invalCheck (s : State) (q : Nat) (idx : W32) : ItemSide s (invalCheck s q idx) := by
  unfold invalCheck
  split
  · exact .refl s
  · split
    · split
      · exact itemSide_commitNow ..
      · exact .refl s
    · exact .refl s

/-- A PTC_INVAL that may commit is no item whose record failed. -/
theorem foundAs_invalCheck (s : State) (q q' : Nat) (idx idx' : W32) : FoundAs FailureKept q idx s (invalCheck s q' idx') := by
  unfold invalCheck
  split
  · exact .refl tracks_failureKept s
  · split
    · next i found =>
      split
      · next due =>
        simp only [Bool.and_eq_true, decide_eq_true_eq] at due
        simp only [commitNow, found]
        have closed : FoundAs FailureKept q idx s (closeOp s q' idx' i.status i.detail) :=
          .of_sameItems tracks_failureKept (sameItems_closeOp ..)
        by_cases same : q = q' ∧ idx = idx'
        · obtain ⟨rfl, rfl⟩ := same
          obtain ⟨j, found', running⟩ := FoundAs.some (R := fun i j => i.stage = .executing → j.stage = .executing)
            (.of_sameItems ⟨fun a b h => b (a h), fun _ _ h => h⟩ (sameItems_closeOp s q idx i.status i.detail)) found
          unfold FoundAs
          rw [findItem_modItem _ q idx (fun x => { x with stage := .committed, breath := lowBreath s }) (fun _ h => h), found', found]
          refine .some (fun failed => ?_)
          rw [due.2] at failed
          cases failed
        · exact .trans tracks_failureKept closed
            (.modItem_other tracks_failureKept _ (f := fun x => { x with stage := .committed, breath := lowBreath s }) (fun _ => ⟨rfl, rfl⟩) same)
      · exact .refl tracks_failureKept s
    · exact .refl tracks_failureKept s

/-- The answer to the write of a record: it reaches memory, the record's item and the queue, and what waited on the request. -/
theorem writeResponse_record {s : State} {tag : Nat} {r : Req} {q : Nat} {idx : W32} (req : reqOf s tag = some r) (write : r.write = true)
    (owner : r.owner = .record q idx) (pool : r.pool = 67) (resp : Resp) : writeResponse s tag resp =
      r.waiters.foldl (fun st w => invalCheck st w.1 w.2) (recordAck (releaseReq (landWrite s r resp) tag) q idx resp) := by
  simp only [writeResponse, req, write, owner, pool, feedCore, Bool.not_true, Bool.false_eq_true, if_false, show ¬ (67 : Nat) < 64 from by decide]

/-- Settles O19: the record's request by `writeRecord_sent`, its answer by `recordAck_ok` and `recordAck_poison`. -/
theorem recordsAreWrittenAndAnsweredInOrder : Obligations.RecordsAreWrittenAndAnsweredInOrder := by
  refine ⟨fun s q i hup oldest => ?write, fun s tag r q idx i hup hq req write owner pool found => ?answer⟩
  case write =>
    intro v ready phase flags bytes
    have own := queue_of_oldest oldest
    have ready_iff : recordReady (inBreath s) i = true ↔ ready := by
      rw [recordReady_iff, own]
      exact ⟨fun h => by tauto, fun h => by tauto⟩
    refine ⟨fun held => ?_, fun running due => ⟨?_, ?_⟩⟩
    · refine live_next (f := fun s => writeRecord (inBreath s) q) hup (writeRecord_held (s := inBreath s) (fun j hj => ?_)) rfl
      cases (Option.some.inj (hj.symm.trans oldest) : j = i)
      exact held.imp_right (fun not => by rw [← Bool.not_eq_true, ready_iff]; exact not)
    · simp only [bytes, List.length_append, length_toLE]
    · obtain ⟨sent, ⟨tag, reqs⟩, frame⟩ := writeRecord_sent (s := inBreath s) oldest (ready_iff.mpr due) running
      refine ⟨_, tag, live_next (f := fun s => writeRecord (inBreath s) q) hup rfl ?_, sent, ?_, ?_⟩
      · rw [frame]
        rfl
      · rw [reqs, recordReq, recordBytes_eq]
        rfl
      · rw [frame]
        rfl
  case answer =>
    have answered (resp : Resp) := writeResponse_record (s := inBreath s) req write owner pool resp
    have landed (resp : Resp) : MemoryOnly (inBreath s) (releaseReq (landWrite (inBreath s) r resp) tag.toNat) :=
      (memoryOnly_landWrite (by simp [outputItem, owner]) resp).trans (reqSide_releaseReq ..).memoryOnly
    have waiters (s : State) : ItemSide s (r.waiters.foldl (fun st w => invalCheck st w.1 w.2) s) :=
      ItemSide.foldl (fun s (w : Nat × W32) => itemSide_invalCheck s w.1 w.2) _ _
    have found' (resp : Resp) : findItem (releaseReq (landWrite (inBreath s) r resp) tag.toNat) q idx = some i := by
      rw [findItem, (landed resp).items]
      exact found
    have kept (s : State) : FoundAs FailureKept q idx s (r.waiters.foldl (fun st w => invalCheck st w.1 w.2) s) :=
      .foldl tracks_failureKept (fun w _ s => foundAs_invalCheck s q w.1 idx w.2) s
    refine ⟨?_, ?_⟩
    · have before := landed .ok
      have there := found' .ok
      generalize hu : releaseReq (landWrite (inBreath s) r .ok) tag.toNat = u at before there
      obtain ⟨w, effect, queues, irq⟩ := recordAck_ok there
      have side := (checkSide_checkQueue (dropItem w q idx) q).trans (.of_items (waiters (checkQueue (dropItem w q idx) q)))
      have gone := (kept _).none ((FoundAs.checkQueue (R := fun _ _ => True) ⟨fun _ _ => trivial, fun _ _ => trivial⟩ (dropItem w q idx) q
        (fun _ _ _ => trivial) (fun _ _ _ _ => trivial)).none (findItem_dropItem w q idx))
      refine ⟨_, live_up (f := fun s => writeResponse (inBreath s) tag.toNat .ok) hup, ?_⟩
      rw [answered, hu, effect]
      generalize r.waiters.foldl (fun st w => invalCheck st w.1 w.2) (checkQueue (dropItem w q idx) q) = t at side gone ⊢
      have regs (p : Nat) : getQ (keepOuter s t) p = getQ (setQ u q { getQ u q with cplTail := (getQ u q).cplTail + 1 }) p :=
        getQ_of_queues (side.queues.trans queues) p
      refine ⟨?_, gone, fun p other => ?_, ?_⟩
      · rw [regs, getQ_setQ_same, getQ_of_queues before.queues]
        rfl
      · rw [regs, getQ_setQ_other _ _ other]
        exact getQ_of_queues before.queues p
      · have pends : (keepOuter s t).irq = if (i.irqFlag || decide (0x10 ≤ i.status.toNat)) = true then (pendQ u q).irq else u.irq :=
          side.irq.trans irq
        have qpend : (if (i.irqFlag || decide (0x10 ≤ i.status.toNat)) = true then (pendQ u q).irq else u.irq).qpend.getLsbD q =
            (u.irq.qpend.getLsbD q || (i.irqFlag || decide (0x10 ≤ i.status.toNat))) := by
          cases i.irqFlag || decide (0x10 ≤ i.status.toNat) with
          | true => rw [if_pos rfl, pendQ_getLsbD_same u hq, Bool.or_true]
          | false => rw [if_neg Bool.false_ne_true, Bool.or_false]
        rw [pends, qpend, before.irq, Bool.or_assoc]
        rfl
    · have before := landed .poison
      have there := found' .poison
      generalize hu : releaseReq (landWrite (inBreath s) r .poison) tag.toNat = u at before there
      obtain ⟨failed, queues, pends⟩ := recordAck_poison there hq
      generalize hw : recordAck u q idx .poison = w at failed queues pends
      obtain ⟨j, foundj, stage⟩ := (kept w).some failed
      refine ⟨_, j, live_up (f := fun s => writeResponse (inBreath s) tag.toNat .poison) hup, ?_⟩
      rw [answered, hu, hw]
      have side := waiters w
      generalize r.waiters.foldl (fun st w => invalCheck st w.1 w.2) w = t at side foundj ⊢
      have regs : getQ (keepOuter s t) q = getQ (setQ u q { getQ u q with cplErr := true, st := 3, stBeforeStop := (getQ u q).st }) q :=
        getQ_of_queues (side.queues.trans queues) q
      have irq : (keepOuter s t).irq = w.irq := side.irq
      refine ⟨?_, foundj, stage rfl, irq ▸ pends⟩
      rw [regs, getQ_setQ_same, getQ_of_queues before.queues]
      rfl

/-! ### Copies of commands (R25, R33) -/

/-- The copy of an item's command: its ring read is answered, and ACC_HEAD passes it. -/
def copied (s : State) (q : Nat) (rd : Req) : State := releaseReq (modQ s q (fun v => { v with accHead := v.accHead + 1 })) (rd.tag.getD 0)

theorem reqSide_copied (s : State) (q : Nat) (rd : Req) :
    ReqSide (setQ s q { getQ s q with accHead := (getQ s q).accHead + 1 }) (copied s q rd) := reqSide_releaseReq ..

section
variable {s : State} {q : Nat} {i : Item} (oldest : s.items.find? (fun x => x.q = q && x.stage = .admitted) = some i)
include oldest

theorem copyCommand_unread (unread : copyReq s q i.idx = none) (resp : Resp) (bytes : BitVec 512) : copyCommand s q resp bytes = s := by
  simp only [copyCommand, oldest, unread]

variable {rd : Req} (read : copyReq s q i.idx = some rd)
include read

theorem copyCommand_closing (closing : (getQ s q).closing = true) (bytes : BitVec 512) : copyCommand s q .ok bytes =
    endNow (modItem (modItem (copied s q rd) q i.idx (fun x => { x with stage := .accepted, cmd := bytes })) q i.idx
      (fun x => { x with ver := (getQ s q).negVer })) q i.idx 0x25 0 := by
  simp only [copyCommand, oldest, read, closing, if_true]
  rfl

theorem copyCommand_checks (going : (getQ s q).closing = false) (bytes : BitVec 512) : copyCommand s q .ok bytes =
    checkQueue (modItem (copied s q rd) q i.idx (fun x => { x with stage := .accepted, cmd := bytes })) q := by
  simp only [copyCommand, oldest, read, going, Bool.false_eq_true, if_false]
  rfl

theorem copyCommand_fails {resp : Resp} (bad : resp ≠ .ok) (bytes : BitVec 512) : ∃ code pa, copyCommand s q resp bytes =
    endNow (bellRaise (modItem (copied s q rd) q i.idx (fun x => { x with stage := .accepted, copyFailed := true, cmd := 0 }))
      code 0 0 0 pa) q i.idx 0x20 0 := by
  cases resp with
  | ok => exact absurd rfl bad
  | poison =>
    simp only [copyCommand, oldest, read]
    exact ⟨_, _, rfl⟩
  | ctxMismatch =>
    simp only [copyCommand, oldest, read]
    exact ⟨_, _, rfl⟩
end

/-- An item keeps its command, and does not wait for its copy again. -/
def CommandKept (i j : Item) : Prop := j.cmd = i.cmd ∧ (i.stage ≠ .admitted → j.stage ≠ .admitted)

theorem tracks_commandKept : Tracks CommandKept where
  trans a b := ⟨b.1.trans a.1, fun h => b.2 (a.2 h)⟩
  marks _ _ := ⟨rfl, id⟩

theorem copied_shows {s t : State} {q : Nat} {rd : Req} (queues : t.queues = (copied (inBreath s) q rd).queues)
    (bytes : t.mem.bytes = (copied (inBreath s) q rd).mem.bytes) :
    (getQ t q).accHead = (getQ s q).accHead + 1 ∧ sameMemory s t ∧ ∀ p, p ≠ q → getQ t p = getQ s p := by
  have side := reqSide_copied (inBreath s) q rd
  have regs (p : Nat) : getQ t p = getQ (setQ (inBreath s) q { getQ (inBreath s) q with accHead := (getQ (inBreath s) q).accHead + 1 }) p :=
    getQ_of_queues (queues.trans side.queues) p
  refine ⟨?_, fun a => ?_, fun p other => (regs p).trans (getQ_setQ_other _ _ other)⟩
  · rw [regs, getQ_setQ_same]
    rfl
  · rw [bytes, side.bytes]
    rfl

/-- The entry of an item's name after its command came, or failed to come, and what then ends. -/
theorem findItem_endNow_modItem {s : State} {q : Nat} {idx : W32} {k : Item} (found : findItem s q idx = some k) {f : Item → Item}
    (named : ∀ i, isItem q idx i = true → isItem q idx (f i) = true) (st d : Nat) :
    ∃ g, findItem (endNow (modItem s q idx f) q idx st d) q idx = some (((f k).rid g).endWith st d (lowBreath s)) :=
  findItem_endNow (modItem s q idx f) q idx st d (f k) (by rw [findItem_modItem s q idx f named, found]; rfl)

theorem ne_admitted {i : Item} (h : i.stage = .ended ∨ i.stage = .accepted) : i.stage ≠ .admitted := by
  rcases h with h | h <;> rw [h] <;> decide

theorem copied_found {s : State} {q : Nat} {i : Item} (own : i.q = q) (mem : i ∈ s.items) (rd : Req) :
    ∃ k, findItem (copied s q rd) q i.idx = some k := by
  rw [findItem, (reqSide_copied s q rd).items]
  exact Option.isSome_iff_exists.mp (List.find?_isSome.mpr ⟨i, mem, by simp [isItem, own]⟩)

section
variable {s : State} {q : Nat} {i : Item} (oldest : s.items.find? (fun x => x.q = q && x.stage = .admitted) = some i)
  {rd : Req} (read : copyReq s q i.idx = some rd)
include oldest read

omit read in
theorem copyCommand_found : ∃ k, findItem (copied s q rd) q i.idx = some k := by
  refine copied_found ?_ (List.mem_of_find?_eq_some oldest) rd
  have h := List.find?_some oldest
  simp only [Bool.and_eq_true, decide_eq_true_eq] at h
  exact h.1

/-- A command that was read: its item has its bytes, and ends ABORTED in a closing queue. -/
theorem copyCommand_ok (bytes : BitVec 512) : ∃ j, findItem (copyCommand s q .ok bytes) q i.idx = some j ∧ j.stage ≠ .admitted ∧ j.cmd = bytes ∧
    ((getQ s q).closing = true → j.stage = .ended ∧ j.status = 0x25 ∧ j.detail = 0) ∧
    (copyCommand s q .ok bytes).queues = (copied s q rd).queues ∧ (copyCommand s q .ok bytes).mem.bytes = (copied s q rd).mem.bytes := by
  obtain ⟨k, found⟩ := copyCommand_found oldest
  have came := findItem_modItem (copied s q rd) q i.idx (fun x => { x with stage := .accepted, cmd := bytes }) (fun _ h => h)
  rw [found] at came
  cases closing : (getQ s q).closing with
  | true =>
    rw [copyCommand_closing oldest read closing]
    obtain ⟨g, fails⟩ := findItem_endNow_modItem came (f := fun x => { x with ver := (getQ s q).negVer }) (fun _ h => h) 0x25 0
    have side := itemSide_endNow (modItem (modItem (copied s q rd) q i.idx (fun x => { x with stage := .accepted, cmd := bytes })) q i.idx
      (fun x => { x with ver := (getQ s q).negVer })) q i.idx 0x25 0
    exact ⟨_, fails, ne_admitted (.inl rfl), rfl, fun _ => ⟨rfl, rfl, rfl⟩, side.queues, congrArg MemSide.bytes side.mem⟩
  | false =>
    rw [copyCommand_checks oldest read closing]
    have side := checkSide_checkQueue (modItem (copied s q rd) q i.idx (fun x => { x with stage := .accepted, cmd := bytes })) q
    obtain ⟨j, foundj, cmd, stage⟩ := (FoundAs.checkQueue tracks_commandKept _ q (fun _ _ _ => ⟨rfl, id⟩)
      (fun _ _ _ _ => ⟨rfl, fun _ => ne_admitted (.inl rfl)⟩)).some came
    exact ⟨j, foundj, stage (ne_admitted (.inr rfl)), cmd, nofun, side.queues, congrArg MemSide.bytes side.mem⟩

/-- A command that could not be read: its item ends POISON and holds no byte. -/
theorem copyCommand_bad {resp : Resp} (bad : resp ≠ .ok) (bytes : BitVec 512) : ∃ j, findItem (copyCommand s q resp bytes) q i.idx = some j ∧
    j.cmd = 0 ∧ (j.stage = .ended ∧ j.status = 0x20 ∧ j.detail = 0) ∧
    (copyCommand s q resp bytes).queues = (copied s q rd).queues ∧ (copyCommand s q resp bytes).mem.bytes = (copied s q rd).mem.bytes := by
  obtain ⟨k, found⟩ := copyCommand_found oldest
  obtain ⟨code, pa, effect⟩ := copyCommand_fails oldest read bad bytes
  have came := findItem_modItem (copied s q rd) q i.idx (fun x => { x with stage := .accepted, copyFailed := true, cmd := 0 }) (fun _ h => h)
  rw [found] at came
  rw [effect]
  generalize hu : modItem (copied s q rd) q i.idx (fun x => { x with stage := .accepted, copyFailed := true, cmd := 0 }) = u at came
  have queues : u.queues = (copied s q rd).queues := by rw [← hu]; rfl
  have mem : u.mem = (copied s q rd).mem := by rw [← hu]; rfl
  have logged := bellSide_bellRaise u code 0 0 0 pa
  have there : findItem (bellRaise u code 0 0 0 pa) q i.idx = some { k with stage := .accepted, copyFailed := true, cmd := 0 } := by
    rw [logged]
    exact came
  obtain ⟨g, fails⟩ := findItem_endNow (bellRaise u code 0 0 0 pa) q i.idx 0x20 0 _ there
  have side := itemSide_endNow (bellRaise u code 0 0 0 pa) q i.idx 0x20 0
  refine ⟨_, fails, rfl, ⟨rfl, rfl, rfl⟩, ?_, ?_⟩
  · rw [side.queues, logged]
    exact queues
  · rw [side.mem, logged]
    exact congrArg MemSide.bytes mem
end

/-- Settles O20: by `copyCommand_ok` and `copyCommand_bad`. -/
theorem commandsAreCopiedInRingOrder : Obligations.CommandsAreCopiedInRingOrder := by
  intro s q bytes i hup oldest
  refine ⟨fun unread resp => ?unread, fun read resp => ?read⟩
  case unread => exact live_next (f := fun s => copyCommand (inBreath s) q resp bytes) hup (copyCommand_unread (s := inBreath s) oldest unread resp bytes) rfl
  case read =>
    obtain ⟨rd, read⟩ := Option.isSome_iff_exists.mp read
    have effect := live_up (f := fun s => copyCommand (inBreath s) q resp bytes) hup
    by_cases ok : resp = .ok
    · subst ok
      obtain ⟨j, found, stage, cmd, closing, queues, mem⟩ := copyCommand_ok (s := inBreath s) oldest read bytes
      obtain ⟨head, same, others⟩ := copied_shows (t := keepOuter s (copyCommand (inBreath s) q .ok bytes)) queues mem
      exact ⟨_, j, effect, head, found, stage, same, others, fun _ => ⟨cmd, fun h => ⟨j, found, closing h⟩⟩, fun h => absurd rfl h⟩
    · obtain ⟨j, found, cmd, fails, queues, mem⟩ := copyCommand_bad (s := inBreath s) oldest read ok bytes
      obtain ⟨head, same, others⟩ := copied_shows (t := keepOuter s (copyCommand (inBreath s) q resp bytes)) queues mem
      exact ⟨_, j, effect, head, found, by rw [fails.1]; decide, same, others, fun h => absurd h ok, fun _ => ⟨cmd, j, found, fails⟩⟩

/-! ### The issue checks (Table 2.11) -/

theorem stagesOf_congr {s t : State} (reed : t.reed = s.reed) : stagesOf t = stagesOf s := by rw [stagesOf, reed, stagesOf]

theorem kvFormats_congr {s t : State} (pg : t.pg = s.pg) (a n : Nat) : kvFormats t a n = kvFormats s a n := by
  rw [kvFormats, pg, kvFormats]

theorem attShape_congr {s t : State} (pg : t.pg = s.pg) (reed : t.reed = s.reed) (c : BitVec 512) (bwd : Bool) (eo edo : Nat) :
    attShape t c bwd eo edo = attShape s c bwd eo edo := by
  rw [attShape, stagesOf_congr reed, kvFormats_congr pg, attShape]

theorem rowShape_congr {s t : State} (reed : t.reed = s.reed) : rowShape t = rowShape s := by
  rw [rowShape, stagesOf_congr reed, rowShape]

theorem fieldsLegal_congr {s t : State} (cle : t.cle = s.cle) (q : Nat) (c : BitVec 512) : fieldsLegal t q c = fieldsLegal s q c := by
  have group : cleFields t q c = cleFields s q c := by rw [cleFields, cle, cleFields]
  rw [fieldsLegal, group, fieldsLegal]

/-- What the checks read of the die. -/
theorem issueVerdict_congr {s t : State} {q : Nat} (c : BitVec 512) (st : (getQ t q).st = (getQ s q).st)
    (negVer : (getQ t q).negVer = (getQ s q).negVer) (ctx : (getQ t q).ctx = (getQ s q).ctx) (cle : t.cle = s.cle) (pg : t.pg = s.pg)
    (reed : t.reed = s.reed) : issueVerdict t q c = issueVerdict s q c := by
  rw [issueVerdict, st, negVer, ctx, fieldsLegal_congr cle, attShape_congr pg reed, rowShape_congr reed, issueVerdict]

theorem checkItem_stops {s : State} {i k : Item} {st d : Nat} (verdict : issueVerdict s i.q i.cmd = .stop st d)
    (found : findItem s i.q i.idx = some k) : ended (checkItem s i) i.q i.idx (BitVec.ofNat 8 st) (BitVec.ofNat 64 d) := by
  obtain ⟨v, u, effect, items⟩ : ∃ v u, checkItem s i = endNow u i.q i.idx st d ∧
      u.items = (modItem s i.q i.idx (fun x => { x with ver := v, checked := decide (st = 0x02) })).items := by
    simp only [checkItem, verdict]
    refine ⟨if st = 0x12 || st = 0x10 then 0 else (getQ s i.q).negVer, _, rfl, ?_⟩
    split
    · exact items_zeroShapeJoins ..
    · rfl
  have there : findItem u i.q i.idx = some { k with ver := v, checked := decide (st = 0x02) } := by
    have h := findItem_modItem s i.q i.idx (fun x => { x with ver := v, checked := decide (st = 0x02) }) (fun _ h => h)
    rw [found] at h
    rw [findItem, items]
    exact h
  rw [effect]
  exact ended_endNow there st d

theorem checkItem_passes {s : State} {i k : Item} (verdict : issueVerdict s i.q i.cmd = .pass) (clear : reservedSet i.cmd = false)
    (found : findItem s i.q i.idx = some k) :
    ∃ v, findItem (checkItem s i) i.q i.idx = some { k with ver := v, checked := true } := by
  have h := findItem_modItem s i.q i.idx (fun x => { x with ver := (getQ s i.q).negVer, checked := true }) (fun _ h => h)
  rw [found] at h
  simp only [checkItem, verdict, clear, Bool.false_eq_true, if_false]
  exact ⟨_, h⟩

/-- The checks of a queue whose one item came just now. -/
theorem checkQueue_single {s : State} {q : Nat} {i : Item} (sole : s.items.filter (fun x => x.q = q) = [i]) (stage : i.stage = .accepted)
    (unchecked : i.checked = false) (whole : i.copyFailed = false) (other : i.opcode ≠ 0x01) : checkQueue s q = checkItem s i := by
  simp [checkQueue, sole, runChecks, stage, unchecked, whole, other]

theorem engineOf_ne_five (q : Nat) : engineOf q ≠ 5 := by
  unfold engineOf
  split_ifs <;> decide

/-! The checks of Table 2.11 in their order, for a command other than NEGOTIATE. -/

section
variable {s : State} {q : Nat} {c : BitVec 512} (other : cmdAt c 1 1 ≠ 0x01)
include other

theorem issueVerdict_closed (h : (getQ s q).st ≠ 2) : issueVerdict s q c = .stop 0x12 0 := if_pos (by simpa [other] using h)

variable (negotiated : (getQ s q).st = 2)
include negotiated

theorem issueVerdict_version (h : cmdAt c 0 1 / 16 ≠ (getQ s q).negVer.toNat / 16) : issueVerdict s q c = .stop 0x10 0 :=
  (if_neg (by simp [negotiated])).trans (if_pos (by simp [other, h]))

variable (version : cmdAt c 0 1 / 16 = (getQ s q).negVer.toNat / 16)
include version

omit other in
theorem issueVerdict_opcode (h : opcodeEngine (cmdAt c 1 1) ≠ engineOf q) (h5 : opcodeEngine (cmdAt c 1 1) ≠ 5) :
    issueVerdict s q c = .stop 0x11 0 :=
  (if_neg (by simp [negotiated])).trans ((if_neg (by simp [version])).trans (if_pos (by simp [h, h5])))

variable (engine : opcodeEngine (cmdAt c 1 1) = engineOf q)
include engine

omit other in
theorem issueVerdict_context (h : cmdAt c 8 2 % 4096 ≠ (getQ s q).ctx.toNat) : issueVerdict s q c = .stop 0x13 0 :=
  (if_neg (by simp [negotiated])).trans ((if_neg (by simp [version])).trans ((if_neg (by simp [engine])).trans
    (if_pos (by simp [h, engine, engineOf_ne_five q]))))

variable (context : cmdAt c 8 2 % 4096 = (getQ s q).ctx.toNat)
include context

theorem issueVerdict_fields (h : fieldsLegal s q c = false) : issueVerdict s q c = .stop 0x15 0 :=
  (if_neg (by simp [negotiated])).trans ((if_neg (by simp [version])).trans ((if_neg (by simp [engine])).trans
    ((if_neg (by simp [context])).trans ((if_neg (by simp [other])).trans (if_pos (by simp [h]))))))

theorem issueVerdict_zero (legal : fieldsLegal s q c = true) (h : zeroShape c = true) : issueVerdict s q c = .stop 0x02 0 :=
  (if_neg (by simp [negotiated])).trans ((if_neg (by simp [version])).trans ((if_neg (by simp [engine])).trans
    ((if_neg (by simp [context])).trans ((if_neg (by simp [other])).trans ((if_neg (by simp [legal])).trans (if_pos h))))))
end

/-- The item of a queue that holds one, once its command came. -/
theorem filter_copied {s : State} {q : Nat} {i : Item} (sole : s.items.filter (fun x => x.q = q) = [i]) (rd : Req) (c : BitVec 512) :
    (modItem (copied s q rd) q i.idx (fun x => { x with stage := .accepted, cmd := c })).items.filter (fun x => x.q = q) =
      [{ i with stage := .accepted, cmd := c }] := by
  have own : i.q = q := by
    have h : i ∈ s.items.filter (fun x => x.q = q) := by rw [sole]; exact List.mem_singleton_self i
    simpa using (List.mem_filter.mp h).2
  have same : (fun x => decide (Item.q x = q)) ∘ (fun x => if isItem q i.idx x = true then { x with stage := .accepted, cmd := c } else x) =
      fun x => decide (x.q = q) := by
    funext x
    simp only [Function.comp]
    split <;> rfl
  simp only [modItem, (reqSide_copied s q rd).items]
  rw [List.filter_map, same]
  simp only [setQ, sole, List.map_cons, List.map_nil, isItem, own, decide_true, Bool.and_self, if_true]

theorem oldest_of_sole {s : State} {q : Nat} {i : Item} (sole : s.items.filter (fun x => x.q = q) = [i]) :
    s.items.find? (fun x => x.q = q) = some i := by
  rw [← List.head?_filter, sole]
  rfl

/-- A copied command is checked as the die stood before the copy. -/
theorem issueVerdict_copied (s : State) (q : Nat) (rd : Req) (idx : W32) (f : Item → Item) (c : BitVec 512) :
    issueVerdict (modItem (copied s q rd) q idx f) q c = issueVerdict s q c := by
  have side := reqSide_copied s q rd
  have reg : getQ (modItem (copied s q rd) q idx f) q = { getQ s q with accHead := (getQ s q).accHead + 1 } :=
    (getQ_of_queues side.queues q).trans (getQ_setQ_same ..)
  refine issueVerdict_congr c ?_ ?_ ?_ ?_ ?_ ?_
  · rw [reg]
  · rw [reg]
  · rw [reg]
  · exact side.cle
  · exact side.pg
  · exact side.reed

/-- Settles O21: the one check of the copied item, with the verdict of Table 2.11 on it. -/
theorem issueChecksRunInTheirOrder : Obligations.IssueChecksRunInTheirOrder := by
  intro s q c i hup going sole stage unchecked whole read other v engine
  have oldest : s.items.find? (fun x => x.q = q && x.stage = .admitted) = some i := by
    refine find?_of_find? (oldest_of_sole sole) (fun x hx => ?_) ?_
    · simp only [Bool.and_eq_true] at hx
      exact hx.1
    · simpa [stage] using queue_of_oldest (oldest_of_sole sole)
  obtain rfl : i.q = q := queue_of_oldest (oldest_of_sole sole)
  obtain ⟨rd, read⟩ := Option.isSome_iff_exists.mp read
  let k : Item := { i with stage := .accepted, cmd := c }
  let u := modItem (copied (inBreath s) i.q rd) i.q i.idx (fun x => { x with stage := .accepted, cmd := c })
  have came : u.items.filter (fun x => x.q = i.q) = [k] := filter_copied (s := inBreath s) sole rd c
  have found : findItem u k.q k.idx = some k := findItem_of_oldest (oldest_of_sole came)
  have effect : copyCommand (inBreath s) i.q .ok c = checkItem u k :=
    (copyCommand_checks (s := inBreath s) oldest read going c).trans (checkQueue_single (s := u) came rfl unchecked whole other)
  have verdict : issueVerdict u k.q k.cmd = issueVerdict s i.q c := issueVerdict_copied (inBreath s) i.q rd i.idx _ c
  have stops {st d : Nat} (h : issueVerdict s i.q c = .stop st d) :
      ended (keepOuter s (copyCommand (inBreath s) i.q .ok c)) i.q i.idx (BitVec.ofNat 8 st) (BitVec.ofNat 64 d) := by
    rw [effect]
    exact checkItem_stops (verdict.trans h) found
  refine ⟨_, live_up (f := fun s => copyCommand (inBreath s) i.q .ok c) hup, fun closed => stops (issueVerdict_closed other closed),
    fun open_ ver => stops (issueVerdict_version other open_ ver),
    fun open_ ver => ⟨fun op op5 => stops (issueVerdict_opcode open_ ver op op5),
      fun op ctx => stops (issueVerdict_context open_ ver op ctx),
      fun op ctx => ⟨fun bad => stops (issueVerdict_fields other open_ ver op ctx bad),
        fun legal zero _ => stops (issueVerdict_zero other open_ ver op ctx legal zero)⟩⟩, fun pass clear => ?_⟩
  obtain ⟨ver, passed⟩ := checkItem_passes (verdict.trans pass) clear found
  rw [← effect] at passed
  exact ⟨_, passed, rfl, rfl, rfl⟩

/-! ### NEGOTIATE and NOP (R47, Table 2.12) -/

/-- An item that ends leaves none of its name that waits for its checks. -/
theorem stage_endNow (s : State) (q : Nat) (idx : W32) (st d : Nat) :
    ∀ i ∈ (endNow s q idx st d).items, i.q = q → i.idx = idx → i.stage ≠ .accepted := by
  intro i hi hq hidx
  obtain ⟨k, -, rfl⟩ := List.mem_map.mp (show i ∈ (closeOp (abortItemTasks s q idx) q idx (BitVec.ofNat 8 st) (BitVec.ofNat 64 d)).items.map
    (fun i => if isItem q idx i then i.endWith st d (lowBreath s) else i) from hi)
  split
  · exact nofun
  · next other =>
    rw [if_neg other] at hq hidx
    exact absurd (show isItem q idx k = true by simp [isItem, hq, hidx]) other

/-- A NEGOTIATE that ends lets the checks of its queue go on, and stays ended. -/
theorem ended_checkQueue {s : State} {q : Nat} {idx : W32} {i : Item} (found : findItem s q idx = some i) (st d : Nat) :
    ended (checkQueue (endNow s q idx st d) q) q idx (BitVec.ofNat 8 st) (BitVec.ofNat 64 d) :=
  (FoundAs.checkQueue_other tracks_untouched (stage_endNow s q idx st d)).ended (ended_endNow found st d)

theorem toNat_swMax (i : Item) : (BitVec.ofNat 8 (nfld i.cmd.toNat 135 128)).toNat = cmdAt i.cmd 16 1 := by
  rw [BitVec.toNat_ofNat, nfld, cmdAt]
  omega

/-- A NEGOTIATE ends with a status and a DETAIL. -/
def negotiated (s : State) (q : Nat) (idx : W32) (status detail : Nat) : State :=
  checkQueue (endNow (modItem s q idx (fun x => { x with ver := (getQ s q).negVer, checked := true })) q idx status detail) q

/-- A queue that NEGOTIATE opens at version 0x10; a stopped one stays stopped. -/
def openedAt (v : Queue) : Queue :=
  { v with negVer := 0x10, st := if v.st = 3 then 3 else 2, stBeforeStop := if v.st = 3 then 2 else v.stBeforeStop }

theorem ended_negotiated {s : State} {q : Nat} {idx : W32} {i : Item} (found : findItem s q idx = some i) (st d : Nat) :
    ended (negotiated s q idx st d) q idx (BitVec.ofNat 8 st) (BitVec.ofNat 64 d) := by
  have h := findItem_modItem s q idx (fun x => { x with ver := (getQ s q).negVer, checked := true }) (fun _ h => h)
  rw [found] at h
  exact ended_checkQueue h st d

theorem checkSide_negotiated (s : State) (q : Nat) (idx : W32) (st d : Nat) : CheckSide s (negotiated s q idx st d) :=
  (CheckSide.of_items ((itemSide_modItem ..).trans (itemSide_endNow ..))).trans (checkSide_checkQueue ..)

section
variable {s : State} {q : Nat} {idx : W32} {i : Item} (found : findItem s q idx = some i) (waits : isOpenNegotiate i = true)
  (clear : reservedSet i.cmd = false)
include found waits clear

theorem negotiate_below (h : cmdAt i.cmd 16 1 < 0x10) : negotiate s q idx = negotiated s q idx 0x16 0 := by
  simp only [negotiate, found, waits, clear, toNat_swMax, h, Bool.not_true, Bool.false_eq_true, if_false, if_true]
  rfl

theorem negotiate_behind (h : 0x10 ≤ cmdAt i.cmd 16 1) (behind : i.behind = true) : negotiate s q idx = negotiated s q idx 0x17 0 := by
  simp only [negotiate, found, waits, clear, toNat_swMax, Nat.not_lt_of_le h, behind, Bool.not_true, Bool.false_eq_true, if_false, if_true]
  rfl

theorem negotiate_opens (h : 0x10 ≤ cmdAt i.cmd 16 1) (first : i.behind = false) : negotiate s q idx = negotiated
    (setQ s q (openedAt (getQ s q))) q idx 0x00 0x10 := by
  simp only [negotiate, found, waits, clear, toNat_swMax, Nat.not_lt_of_le h, first, Nat.min_eq_right h, Bool.not_true, Bool.false_eq_true,
    if_false]
  rfl
end

/-- Settles O22: NEGOTIATE by the version asked for and what was ahead of it, NOP by the end of an item that may begin. -/
theorem negotiateAndNop : Obligations.NegotiateAndNop := by
  intro s q idx i hup found
  refine ⟨fun waits clear => ?negotiate, fun op begins => ?nop⟩
  case negotiate =>
    intro swMax
    have effect := live_up (f := fun s => negotiate (inBreath s) q idx) hup
    refine ⟨_, effect, ?_⟩
    rcases Nat.lt_or_ge swMax 0x10 with below | enough
    · rw [negotiate_below (s := inBreath s) found waits clear below]
      have side := checkSide_negotiated (inBreath s) q idx 0x16 0
      have done := ended_negotiated (s := inBreath s) found 0x16 0
      refine ⟨sameMemory_of_mem ((mem_keepOuter ..).trans side.mem), fun _ => ⟨ended_keepOuter done, (queues_keepOuter ..).trans side.queues⟩,
        fun h => absurd below (Nat.not_lt_of_le h), fun h => absurd below (Nat.not_lt_of_le h)⟩
    · cases behind : i.behind with
      | true =>
        rw [negotiate_behind (s := inBreath s) found waits clear enough behind]
        have side := checkSide_negotiated (inBreath s) q idx 0x17 0
        have done := ended_negotiated (s := inBreath s) found 0x17 0
        exact ⟨sameMemory_of_mem ((mem_keepOuter ..).trans side.mem), fun h => absurd h (Nat.not_lt_of_le enough),
          fun _ _ => ⟨ended_keepOuter done, (queues_keepOuter ..).trans side.queues⟩, nofun⟩
      | false =>
        rw [negotiate_opens (s := inBreath s) found waits clear enough behind]
        have side := checkSide_negotiated (setQ (inBreath s) q (openedAt (getQ s q))) q idx 0x00 0x10
        have reg : getQ (keepOuter s (negotiated (setQ (inBreath s) q (openedAt (getQ s q))) q idx 0x00 0x10)) q = openedAt (getQ s q) :=
          (getQ_keepOuter ..).trans ((getQ_of_queues side.queues q).trans (getQ_setQ_same ..))
        have done := ended_negotiated (s := setQ (inBreath s) q (openedAt (getQ s q))) found 0x00 0x10
        refine ⟨sameMemory_of_mem ((mem_keepOuter ..).trans side.mem), fun h => absurd h (Nat.not_lt_of_le enough), nofun,
          fun _ _ => ⟨ended_keepOuter done, ?_, fun h => ?_, fun h => ?_⟩⟩
        · exact congrArg Queue.negVer reg
        · exact (congrArg Queue.st reg).trans (if_neg h)
        · exact ⟨(congrArg Queue.st reg).trans (if_pos h), (congrArg Queue.stBeforeStop reg).trans (if_pos h)⟩
  case nop =>
    have effect : nop (inBreath s) q idx = endNow (inBreath s) q idx 0x00 0 := by
      have begins' : mayBegin (inBreath s) i = true := begins
      have found' : findItem (inBreath s) q idx = some i := found
      simp only [nop, found', begins', op, decide_true, Bool.and_self, if_true]
    have side := itemSide_endNow (inBreath s) q idx 0x00 0
    refine ⟨_, live_up (f := fun s => nop (inBreath s) q idx) hup, ?_⟩
    rw [effect]
    have done := ended_endNow (s := inBreath s) found 0x00 0
    exact ⟨ended_keepOuter done, sameMemory_of_mem ((mem_keepOuter ..).trans side.mem), (queues_keepOuter ..).trans side.queues⟩

end Sys2Proof.Proofs.QueueWork

/-! What the work of one item does to the list of items: it keeps every name and place, and changes no other item but for marks
(chapters 02 and 13). -/

namespace Sys2Proof.Proofs.ItemLists

open Sys2Proof Sys2Proof.Machine Sys2Proof.Safety Sys2Proof.Laws Sys2Proof.Proofs.LinkPort Sys2Proof.Proofs.ItemLaws

/-- The items of t are those of s, one by one, as R says. -/
def ItemsBy (R : Item → Item → Prop) (s t : State) : Prop := List.Forall₂ R s.items t.items

theorem ItemsBy.of_items {R : Item → Item → Prop} (refl : ∀ i, R i i) {s t : State} (h : t.items = s.items) : ItemsBy R s t := by
  unfold ItemsBy
  rw [h]
  exact List.forall₂_same.mpr (fun i _ => refl i)

theorem ItemsBy.of_map {R : Item → Item → Prop} {f : Item → Item} {s t : State} (h : t.items = s.items.map f) (keeps : ∀ i, R i (f i)) :
    ItemsBy R s t := by
  unfold ItemsBy
  rw [h, List.forall₂_map_right_iff]
  exact List.forall₂_same.mpr (fun i _ => keeps i)

theorem ItemsBy.trans {R : Item → Item → Prop} (tr : ∀ i j k, R i j → R j k → R i k) {s t u : State} (a : ItemsBy R s t) (b : ItemsBy R t u) :
    ItemsBy R s u := by
  have key : ∀ l m n, List.Forall₂ R l m → List.Forall₂ R m n → List.Forall₂ R l n := by
    intro l
    induction l with
    | nil =>
      intro m n a b
      cases a
      exact b
    | cons x l ih =>
      intro m n a b
      cases a with
      | cons h a =>
        cases b with
        | cons h' b => exact .cons (tr _ _ _ h h') (ih _ _ a b)
  exact key _ _ _ a b

/-- An item beside the one under the name, and one under it: what the work of the latter may do to each. -/
def Beside (q : Nat) (idx : W32) (i j : Item) : Prop := j.q = i.q ∧ j.idx = i.idx ∧ (isItem q idx i = false → Untouched i j)

/-- t's items are s's but for the one under a name, and marks. -/
def OnlyItem (q : Nat) (idx : W32) (s t : State) : Prop := ItemsBy (Beside q idx) s t

section
variable {q : Nat} {idx : W32}

theorem beside_refl (i : Item) : Beside q idx i i := ⟨rfl, rfl, fun _ => tracks_untouched.refl i⟩

theorem Beside.trans {i j k : Item} (a : Beside q idx i j) (b : Beside q idx j k) : Beside q idx i k := by
  obtain ⟨aq, ai, a⟩ := a
  obtain ⟨bq, bi, b⟩ := b
  refine ⟨bq.trans aq, bi.trans ai, fun other => tracks_untouched.trans (a other) (b ?_)⟩
  rw [isItem, aq, ai]
  exact other

theorem OnlyItem.refl (s : State) : OnlyItem q idx s s := .of_items beside_refl rfl

theorem OnlyItem.of_items {s t : State} (h : t.items = s.items) : OnlyItem q idx s t := ItemsBy.of_items beside_refl h

theorem OnlyItem.trans {s t u : State} (a : OnlyItem q idx s t) (b : OnlyItem q idx t u) : OnlyItem q idx s u :=
  ItemsBy.trans (R := Beside q idx) (fun _ _ _ a b => Beside.trans a b) a b

theorem OnlyItem.of_sameItems {s t : State} (h : SameItems s t) : OnlyItem q idx s t := by
  obtain ⟨g, h⟩ := h
  exact .of_map h (fun i => ⟨rfl, rfl, fun _ => ⟨g i, rfl⟩⟩)

theorem onlyItem_modItem (s : State) {f : Item → Item} (named : ∀ i, (f i).q = i.q ∧ (f i).idx = i.idx) :
    OnlyItem q idx s (modItem s q idx f) := by
  refine .of_map (f := fun i => if isItem q idx i then f i else i) rfl (fun i => ?_)
  by_cases h : isItem q idx i = true
  · rw [if_pos h]
    exact ⟨(named i).1, (named i).2, fun other => by rw [h] at other; cases other⟩
  · rw [if_neg h]
    exact beside_refl i

theorem onlyItem_closeOp (s : State) (st : Byte) (d : W64) : OnlyItem q idx s (closeOp s q idx st d) := .of_sameItems (sameItems_closeOp ..)

theorem onlyItem_abortItemTasks (s : State) : OnlyItem q idx s (abortItemTasks s q idx) := .of_sameItems (sameItems_abortItemTasks ..)

theorem onlyItem_endNow (s : State) (st d : Nat) : OnlyItem q idx s (endNow s q idx st d) :=
  (((onlyItem_abortItemTasks s).trans (onlyItem_closeOp _ (BitVec.ofNat 8 st) (BitVec.ofNat 64 d))).trans
    (onlyItem_modItem _ (f := fun i => i.endWith st d (lowBreath s)) (fun _ => ⟨rfl, rfl⟩))).trans (.of_items rfl)

theorem onlyItem_commitNow (s : State) : OnlyItem q idx s (commitNow s q idx) := by
  unfold commitNow
  split
  · exact .refl s
  · exact (onlyItem_closeOp s _ _).trans (onlyItem_modItem _ (fun _ => ⟨rfl, rfl⟩))

theorem onlyItem_settleOp (s : State) : OnlyItem q idx s (settleOp s q idx) := by
  unfold settleOp
  split
  · exact .refl s
  · dsimp only
    split
    · split
      · exact onlyItem_endNow ..
      · exact onlyItem_commitNow s
    · exact .refl s

theorem items_toOthers (s : State) (o : CleOp) (t : UnitTag) (b : List Byte) : (toOthers s o t b).items = s.items := (portSide_toOthers ..).items
theorem items_toNext (s : State) (o : CleOp) (t : UnitTag) (b : List Byte) : (toNext s o t b).items = s.items := (portSide_toNext ..).items
theorem items_toRank (s : State) (o : CleOp) (r : Nat) (t : UnitTag) (b : List Byte) : (toRank s o r t b).items = s.items :=
  (portSide_toRank ..).items

theorem onlyItem_endItem (s : State) (st d : Nat) : OnlyItem q idx s (endItem s q idx st d) := by
  unfold endItem
  split
  · exact onlyItem_endNow ..
  · dsimp only
    split
    · exact .refl s
    · refine .trans ?_ (onlyItem_settleOp _)
      refine .trans ?_ (onlyItem_modItem _ (fun _ => ⟨rfl, rfl⟩))
      exact (onlyItem_abortItemTasks s).trans (.of_items (items_toOthers ..))

/-! What leaves every item as it is. -/

theorem items_bellRaise (s : State) (code : Nat) (u : W16) (ctx : CtxId) (src arg : Nat) : (bellRaise s code u ctx src arg).items = s.items := by
  unfold bellRaise stageEvent
  split <;> rfl

theorem items_foldl {α : Type} {f : State → α → State} (h : ∀ s a, (f s a).items = s.items) (l : List α) (s : State) :
    (l.foldl f s).items = s.items := by
  induction l generalizing s with
  | nil => rfl
  | cons a l ih => exact (ih _).trans (h s a)

theorem items_spoilOutputs (s : State) (it : Item) : (spoilOutputs s it).items = s.items :=
  items_foldl (f := fun st (r : Nat × Nat) => storeAny st r.1 r.2) (fun _ _ => rfl) _ _

theorem items_openFault (s : State) (e q : Nat) (idx : W32) (ctx : CtxId) (a : W64) (w : Bool) (r l : Nat) (p : W64) :
    (openFault s e q idx ctx a w r l p).1.items = s.items := by
  unfold openFault
  dsimp only
  split
  · rfl
  · split <;> rfl

theorem items_issueOuts {s t : State} {q : Nat} {idx : W32} {pool : Nat} {ctx : CtxId} {outs : List Out}
    (h : issueOuts s q idx pool ctx outs = .ok t) : t.items = s.items := by
  unfold issueOuts at h
  split at h
  · cases h
  · cases h
    exact items_foldl (f := fun st b => issueReq st (writeReq (.output q idx) pool none ctx b)) (fun _ _ => rfl) _ _

theorem items_sendChunk (s : State) (o : CleOp) (t : UnitTag) (k : Nat) (c : W32) (bs : List Byte) : (sendChunk s o t k c bs).items = s.items :=
  items_toNext ..

theorem items_sendMarker (s : State) (o : CleOp) (t : UnitTag) (k : W32) (c : W64) : (sendMarker s o t k c).items = s.items := items_toNext ..

theorem items_sendChunks (s : State) (o : CleOp) (us : List (Nat × Nat × List Byte)) : (sendChunks s o us).items = s.items :=
  (items_foldl (fun _ _ => items_sendChunk ..) _ _).trans rfl

theorem items_endSource (s : State) (o : CleOp) (k : Nat) : (endSource s o k).items = s.items := (items_sendMarker ..).trans rfl

theorem items_send (s : State) (x : Sent) : (send s x).items = s.items := rfl
theorem items_setOp (s : State) (o : CleOp) : (setOp s o).items = s.items := rfl
theorem items_takeEarly (s : State) (o : CleOp) : (takeEarly s o).items = s.items := rfl
theorem items_setGroup (s : State) (g : Nat) (v : Group) : (setGroup s g v).items = s.items := rfl

theorem items_sendAgreement (s : State) (o : CleOp) (r : Agreement) : (sendAgreement s o r).items = s.items := by
  rw [sendAgreement, items_takeEarly, items_toOthers, items_send]

theorem items_beginOp (s : State) (o : CleOp) : (beginOp s o).items = s.items := by
  unfold beginOp
  dsimp only
  split <;> rw [items_sendAgreement, items_setGroup]

/-! The stages of a collective. -/

theorem onlyItem_itemErr (s : State) (e : MErr) : OnlyItem q idx s (itemErr s q idx e) := by
  unfold itemErr
  split
  · exact .refl s
  · split
    · refine .trans ?_ (onlyItem_endItem ..)
      exact .of_items ((items_spoilOutputs ..).trans (items_bellRaise ..))
    · exact onlyItem_endItem ..
    · refine .trans ?_ (onlyItem_modItem _ (fun _ => ⟨rfl, rfl⟩))
      exact .of_items (items_openFault ..)

theorem onlyItem_blockMismatch (s : State) (ctx : CtxId) (b : W64) (n : Nat) : OnlyItem q idx s (blockMismatch s q idx ctx b n) := by
  unfold blockMismatch
  refine .trans ?_ (onlyItem_endItem ..)
  exact .of_items ((items_bellRaise ..).trans rfl)

theorem onlyItem_sendDone (s : State) {o : CleOp} (hq : o.q = q) (hi : o.idx = idx) : OnlyItem q idx s (sendDone s o) := by
  subst hq hi
  unfold sendDone
  refine .trans ?_ (onlyItem_settleOp _)
  exact .of_items ((items_toOthers ..).trans rfl)

/-- The operation of an item bears its name. -/
theorem name_of_opOf {s : State} {o : CleOp} (h : opOf s q idx = some o) : o.q = q ∧ o.idx = idx := by
  have h := List.find?_some h
  simp only [Bool.and_eq_true, decide_eq_true_eq] at h
  exact h

theorem onlyItem_yieldFail (s : State) : OnlyItem q idx s (yieldFail s q idx) := by
  unfold yieldFail
  dsimp only
  split
  · exact .refl s
  · next o open_ =>
    split
    · exact .refl s
    · have h : OnlyItem q idx s (modItem (abortItemTasks s q idx) q idx (fun i => { i with holdKeys := [], retryFull := false, ready := none })) :=
        (onlyItem_abortItemTasks s).trans (onlyItem_modItem _ (fun _ => ⟨rfl, rfl⟩))
      split
      · exact h.trans (onlyItem_sendDone _ (name_of_opOf open_).1 (name_of_opOf open_).2)
      · exact h

theorem onlyItem_sendParts (x : Source) (l : List Nat) (s : State) : OnlyItem q idx s (sendParts x q idx l s) := by
  induction l generalizing s with
  | nil => exact .refl s
  | cons off l ih =>
    unfold sendParts
    dsimp only
    split
    · exact .refl s
    · split
      · exact ih s
      · split
        · exact onlyItem_itemErr ..
        · exact onlyItem_blockMismatch ..
        · split
          · exact onlyItem_itemErr ..
          · refine .trans ?_ (ih _)
            exact .of_items ((items_sendChunks ..).trans rfl)

theorem onlyItem_sendContribution (s : State) {o : CleOp} (hq : o.q = q) (hi : o.idx = idx) : OnlyItem q idx s (sendContribution s o) := by
  subst hq hi
  unfold sendContribution
  dsimp only
  split
  · exact .refl s
  · split
    · exact .of_items rfl
    · split
      · exact onlyItem_sendParts ..
      · split
        · exact (onlyItem_sendParts ..).trans (.of_items (items_endSource ..))
        · exact onlyItem_sendParts ..

theorem onlyItem_setOp_modItem (s : State) (o : CleOp) {f : Item → Item} (named : ∀ i, (f i).q = i.q ∧ (f i).idx = i.idx) :
    OnlyItem q idx s (setOp (modItem s q idx f) o) := (onlyItem_modItem s named).trans (.of_items (items_setOp ..))

theorem onlyItem_writeResult (s : State) {o : CleOp} (hq : o.q = q) (hi : o.idx = idx) : OnlyItem q idx s (writeResult s o) := by
  subst hq hi
  unfold writeResult
  dsimp only
  split
  · exact .refl s
  · split
    · exact onlyItem_itemErr ..
    · next h1 =>
      split
      · exact onlyItem_itemErr ..
      · next h2 =>
        refine .trans (.of_items ((items_issueOuts h2).trans (items_issueOuts h1))) ?_
        exact onlyItem_setOp_modItem _ _ (fun _ => ⟨rfl, rfl⟩)

theorem onlyItem_cleStage (s : State) : OnlyItem q idx s (cleStage s q idx) := by
  unfold cleStage
  dsimp only
  split
  · next o it open_ found =>
    obtain ⟨hq, hi⟩ := name_of_opOf open_
    split
    · exact .refl s
    · split
      · split
        · exact .of_items (items_beginOp ..)
        · exact .refl s
      · split
        · exact onlyItem_yieldFail s
        · split
          · exact .refl s
          · split
            · split
              · exact onlyItem_endItem ..
              · exact onlyItem_sendContribution s hq hi
            · split
              · split
                · exact onlyItem_writeResult s hq hi
                · exact .refl s
              · split
                · exact onlyItem_sendDone s hq hi
                · exact .refl s
  · exact .refl s

theorem onlyItem_cleAdvance (s : State) : OnlyItem q idx s (cleAdvance s q idx) :=
  (((onlyItem_cleStage s).trans (onlyItem_cleStage _)).trans (onlyItem_cleStage _)).trans (onlyItem_cleStage _)

/-- An item that does not execute goes no further. -/
theorem cleStage_waits {s : State} (h : ∀ i, findItem s q idx = some i → i.stage ≠ .executing) : cleStage s q idx = s := by
  unfold cleStage
  split
  · next o it open_ found =>
    have idle : mayRun s it = false := by simp [mayRun, h it found]
    simp [idle]
  · rfl

theorem cleAdvance_waits {s : State} (h : ∀ i, findItem s q idx = some i → i.stage ≠ .executing) : cleAdvance s q idx = s := by
  simp only [cleAdvance, cleStage_waits h]
end

end Sys2Proof.Proofs.ItemLists

/-! A boundary's work on the queues: enables and admission (chapter 02, R31, R34, R35). -/

namespace Sys2Proof.Proofs.QueueBoundary

open Sys2Proof Sys2Proof.Machine Sys2Proof.Safety Sys2Proof.Laws
open Sys2Proof.Proofs.RegisterWrites Sys2Proof.Proofs.Queues Sys2Proof.Proofs.BellRecord Sys2Proof.Proofs.Mailbox Sys2Proof.Proofs.ItemLaws
open Sys2Proof.Proofs.QueueWork Sys2Proof.Proofs.ItemLists

/-! ### The boundary up to its work on the queues -/

/-- s at a boundary, once the number is taken and counters and limits have changed (R53, Table 3.3). -/
def numbered (s : State) (fromTimer : Bool) : State :=
  exchangeBreaths (limitWork (endClusterResets (coreWork (recordReplay (takeNum s fromTimer)))))

/-- s at a boundary's end: its changes of rows of their own may follow. -/
def openEdge (s : State) : State := { s with edge := true }

theorem boundary_eq (s : State) (fromTimer : Bool) : boundary s fromTimer =
    openEdge (promoteWanted (demotionScan (bufferGrants (queueWork (applyBinds (restartHalos (numbered s fromTimer))))))) := rfl

theorem queues_openEdge (s : State) : (openEdge s).queues = s.queues := rfl
theorem irq_openEdge (s : State) : (openEdge s).irq = s.irq := rfl
theorem items_openEdge (s : State) : (openEdge s).items = s.items := rfl

/-- What the first part of a boundary leaves: queues, pending bits, Reed's requests and image, and the capability words. -/
structure KeepsQueues (s t : State) : Prop where
  queues : t.queues = s.queues
  irq : t.irq = s.irq
  binds : t.reed.binds = s.reed.binds
  warm : t.reed.warm = s.reed.warm
  active : t.reed.active = s.reed.active
  caps : t.caps = s.caps

theorem KeepsQueues.trans {s t u : State} (a : KeepsQueues s t) (b : KeepsQueues t u) : KeepsQueues s u where
  queues := b.queues.trans a.queues
  irq := b.irq.trans a.irq
  binds := b.binds.trans a.binds
  warm := b.warm.trans a.warm
  active := b.active.trans a.active
  caps := b.caps.trans a.caps

theorem keepsQueues_bellRaise (s : State) (code : Nat) (u : W16) (ctx : CtxId) (src arg : Nat) :
    KeepsQueues s (bellRaise s code u ctx src arg) := by
  unfold bellRaise stageEvent
  split <;> exact ⟨rfl, rfl, rfl, rfl, rfl, rfl⟩

theorem keepsQueues_takeNum (s : State) (fromTimer : Bool) : KeepsQueues s (takeNum s fromTimer) := by
  unfold takeNum
  dsimp only
  split
  · split
    · refine KeepsQueues.trans ?_ (keepsQueues_bellRaise ..)
      exact ⟨rfl, rfl, rfl, rfl, rfl, rfl⟩
    · exact ⟨rfl, rfl, rfl, rfl, rfl, rfl⟩
  · exact ⟨rfl, rfl, rfl, rfl, rfl, rfl⟩

theorem keepsQueues_recordReplay (s : State) : KeepsQueues s (recordReplay s) := ⟨rfl, rfl, rfl, rfl, rfl, rfl⟩
theorem keepsQueues_coreWork (s : State) : KeepsQueues s (coreWork s) := ⟨rfl, rfl, rfl, rfl, rfl, rfl⟩
theorem keepsQueues_endClusterResets (s : State) : KeepsQueues s (endClusterResets s) := ⟨rfl, rfl, rfl, rfl, rfl, rfl⟩
theorem keepsQueues_limitWork (s : State) : KeepsQueues s (limitWork s) := ⟨rfl, rfl, rfl, rfl, rfl, rfl⟩
theorem keepsQueues_exchangeBreaths (s : State) : KeepsQueues s (exchangeBreaths s) := ⟨rfl, rfl, rfl, rfl, rfl, rfl⟩

theorem keepsQueues_itemSide {s t : State} (h : ItemSide s t) : KeepsQueues s t := by
  rw [h]
  exact ⟨rfl, rfl, rfl, rfl, rfl, rfl⟩

theorem itemSide_reopenHalo (again : Bool) (s : State) (p : Nat × Nat) : ItemSide s (reopenHalo again s p) := by
  unfold reopenHalo
  split
  · exact itemSide_dropHalo ..
  · exact (itemSide_closeWindow ..).trans (itemSide_modCore ..)

theorem itemSide_restartHalo (s : State) (i : Item) : ItemSide s (restartHalo s i) :=
  (ItemSide.foldl (itemSide_reopenHalo _) _ _).trans (itemSide_modItem ..)

theorem itemSide_restartHalos (s : State) : ItemSide s (restartHalos s) := ItemSide.foldl itemSide_restartHalo _ _

/-- The first part of a boundary. -/
theorem keepsQueues_numbered (s : State) (fromTimer : Bool) : KeepsQueues s (restartHalos (numbered s fromTimer)) :=
  (((((keepsQueues_takeNum s fromTimer).trans (keepsQueues_recordReplay _)).trans (keepsQueues_coreWork _)).trans
    (keepsQueues_endClusterResets _)).trans (keepsQueues_limitWork _)).trans ((keepsQueues_exchangeBreaths _).trans
      (keepsQueues_itemSide (itemSide_restartHalos _)))

/-! ### A queue's registers up to the enables -/

/-- Queue w is v but for what a binding, a closing and an admission may change. -/
def QueueLike (v w : Queue) : Prop := w = { v with closing := w.closing, short := w.short, ctx := w.ctx }

theorem QueueLike.trans {u v w : Queue} (a : QueueLike u v) (b : QueueLike v w) : QueueLike u w := by
  unfold QueueLike at *
  rw [b, a]

/-- Every queue of t is like the one of s. -/
def QueuesLike (s t : State) : Prop := ∀ q, QueueLike (getQ s q) (getQ t q)

theorem QueuesLike.of_queues {s t : State} (h : t.queues = s.queues) : QueuesLike s t := fun q => by
  rw [getQ_of_queues h]
  rfl

theorem QueuesLike.trans {s t u : State} (a : QueuesLike s t) (b : QueuesLike t u) : QueuesLike s u := fun q => (a q).trans (b q)

theorem QueuesLike.foldl {α : Type} {f : State → α → State} (h : ∀ s a, QueuesLike s (f s a)) (l : List α) (s : State) :
    QueuesLike s (l.foldl f s) := by
  induction l generalizing s with
  | nil => exact .of_queues rfl
  | cons a l ih => exact (h s a).trans (ih _)

theorem queuesLike_modQ (s : State) (p : Nat) {f : Queue → Queue} (h : ∀ v, QueueLike v (f v)) : QueuesLike s (modQ s p f) := fun q => by
  by_cases same : q = p
  · subst same
    rw [modQ, getQ_setQ_same]
    exact h _
  · rw [modQ, getQ_setQ_other _ _ same]
    rfl

theorem queues_answerBind (s : State) (queue : Bool) (index : Nat) : (answerBind s queue index).queues = s.queues := by
  unfold answerBind
  split
  · rfl
  · exact (mailSide_answer ..).queues

theorem queuesLike_applyBinds (s : State) : QueuesLike s (applyBinds s) := by
  refine .foldl (fun s b => ?_) _ _
  unfold applyBind
  split
  · exact (queuesLike_modQ s b.index (f := fun v => { v with ctx := b.ctx }) (fun _ => rfl)).trans (.of_queues (queues_answerBind ..))
  · split
    · exact .of_queues ((queues_answerBind ..).trans rfl)
    · exact .of_queues rfl

theorem itemSide_abortUnbegun (s : State) (i : Item) : ItemSide s (abortUnbegun s i) := by
  unfold abortUnbegun
  refine ItemSide.trans (ItemSide.trans ?_ (itemSide_modItem ..)) (itemSide_endNow ..)
  unfold dropWaitingOp
  split <;> rfl

theorem queuesLike_closings (s : State) : QueuesLike s (closings s) := by
  refine .foldl (fun s q => ?_) _ _
  unfold beginClosing
  dsimp only
  refine (queuesLike_modQ s q (f := fun v => { v with closing := true }) (fun _ => rfl)).trans (.of_queues ?_)
  exact (ItemSide.foldl (fun _ _ => itemSide_endItem ..) _ _).queues.trans (ItemSide.foldl itemSide_abortUnbegun _ _).queues

theorem queues_foldl_issueReq {α : Type} (r : α → Req) (l : List α) (s : State) :
    (l.foldl (fun st a => issueReq st (r a)) s).queues = s.queues :=
  (ReqSide.foldl (fun s a => reqSide_issueReq s (r a)) l s).queues

theorem queuesLike_admission (s : State) : QueuesLike s (admission s) := by
  unfold admission
  split
  · exact .of_queues rfl
  · refine .foldl (fun s q => ?_) _ _
    unfold admitQueue
    dsimp only
    split
    · refine QueuesLike.trans (.of_queues ?_) (queuesLike_modQ _ q (fun _ => rfl))
      exact (queues_foldl_issueReq (fun i : Item => ringRead (getQ s q) q i.idx) _ _).trans rfl
    · exact .of_queues ((queues_foldl_issueReq (fun i : Item => ringRead (getQ s q) q i.idx) _ _).trans rfl)

theorem mem_of_tget_ne {α : Type} {d : α} {t : Tab α} {k : Nat} (h : tget d t k ≠ d) : (k, tget d t k) ∈ t := by
  induction t with
  | nil => exact absurd rfl h
  | cons p t ih =>
    obtain ⟨i, a⟩ := p
    by_cases same : i = k
    · subst same
      simp only [tget, if_true, List.mem_cons, true_or]
    · simp only [tget, same, if_false] at h ⊢
      exact List.mem_cons_of_mem _ (ih h)

/-! ### Enables (R34, R35) -/

/-- Something that one step of a fold brings about for q, and that the steps for others leave. -/
theorem foldl_reaches {I P : State → Prop} {f : State → Nat → State} {q : Nat} {l : List Nat} (hq : q ∈ l) (kept : ∀ s, P s → I s)
    (own : ∀ s, I s → P (f s q)) (otherI : ∀ s p, p ≠ q → I s → I (f s p)) (otherP : ∀ s p, p ≠ q → P s → P (f s p)) {s : State} (h : I s) :
    P (l.foldl f s) := by
  have stays : ∀ (l : List Nat) (s : State), P s → P (l.foldl f s) := by
    intro l
    induction l with
    | nil => exact fun _ h => h
    | cons p l ih =>
      intro s h
      refine ih _ ?_
      by_cases same : p = q
      · subst same
        exact own s (kept s h)
      · exact otherP s p same h
  induction l generalizing s with
  | nil => cases hq
  | cons p l ih =>
    by_cases same : p = q
    · subst same
      exact stays l _ (own s h)
    · exact ih ((List.mem_cons.mp hq).resolve_left (Ne.symm same)) (otherI s p same h)

theorem enableLegal_iff (v : Queue) : enableLegal v = true ↔ 1 ≤ v.log2.toNat ∧ v.log2.toNat ≤ 16 ∧
    v.cmdBase.toNat % 2 ^ (6 + v.log2.toNat) = 0 ∧ v.cplBase.toNat % 2 ^ (5 + v.log2.toNat) = 0 := by
  simp only [enableLegal, Bool.and_eq_true, decide_eq_true_eq, and_assoc]

theorem enableLegal_congr {v w : Queue} (log2 : w.log2 = v.log2) (cmd : w.cmdBase = v.cmdBase) (cpl : w.cplBase = v.cplBase) :
    enableLegal w = enableLegal v := by
  simp only [enableLegal, log2, cmd, cpl]

/-- A queue with the rings of v. -/
def Rings (v w : Queue) : Prop := w.log2 = v.log2 ∧ w.cmdBase = v.cmdBase ∧ w.cplBase = v.cplBase

theorem enableQueue_legal {s : State} {q : Nat} (h : enableLegal (getQ s q) = true) : enableQueue s q =
    setQ s q { getQ s q with st := 1, accHead := 0, cplTail := 0, cmdTail := 0, cplHead := 0, negVer := 0, closing := false } := if_pos h

theorem enableQueue_refused {s : State} {q : Nat} (h : enableLegal (getQ s q) = false) :
    enableQueue s q = setDbErr (setQ s q { getQ s q with en := false }) q := if_neg (by rw [h]; exact Bool.false_ne_true)

theorem getQ_enableQueue_other (s : State) {p q : Nat} (h : q ≠ p) : getQ (enableQueue s p) q = getQ s q := by
  cases legal : enableLegal (getQ s p) with
  | true => rw [enableQueue_legal legal, getQ_setQ_other _ _ h]
  | false => rw [enableQueue_refused legal, getQ_setDbErr_other _ h, getQ_setQ_other _ _ h]

theorem getLsbD_qpend_pendQ {s : State} {q : Nat} (h : s.irq.qpend.getLsbD q = true) (p : Nat) : (pendQ s p).irq.qpend.getLsbD q = true := by
  simp only [pendQ, BitVec.getLsbD_or, h, Bool.true_or]

theorem getLsbD_qpend_enableQueue {s : State} {q : Nat} (h : s.irq.qpend.getLsbD q = true) (p : Nat) :
    (enableQueue s p).irq.qpend.getLsbD q = true := by
  cases legal : enableLegal (getQ s p) with
  | true =>
    rw [enableQueue_legal legal]
    exact h
  | false =>
    rw [enableQueue_refused legal]
    exact getLsbD_qpend_pendQ (s := modQ (setQ s p { getQ s p with en := false }) p (fun v => { v with dbErr := true })) h p

/-- Queue w was enabled with the rings of v. -/
def Enabled (w : Queue) : Prop :=
  w.st = 1 ∧ w.en = true ∧ w.accHead = 0 ∧ w.cplTail = 0 ∧ w.cmdTail = 0 ∧ w.cplHead = 0 ∧ w.negVer = 0

theorem enables_legal {s : State} {q : Nat} {qs : List Nat} (hq : q ∈ qs) {v : Queue} (legal : enableLegal v = true)
    (rings : Rings v (getQ s q)) (asks : (getQ s q).en = true) : Enabled (getQ (enables s qs) q) := by
  have h := foldl_reaches (I := fun t => Rings v (getQ t q) ∧ (getQ t q).en = true)
    (P := fun t => Rings v (getQ t q) ∧ Enabled (getQ t q)) (f := enableQueue) hq (fun t h => ⟨h.1, h.2.2.1⟩) (fun t h => ?_)
    (fun t p other h => ?_) (fun t p other h => ?_) ⟨rings, asks⟩
  · exact h.2
  · obtain ⟨⟨log2, cmd, cpl⟩, en⟩ := h
    rw [enableQueue_legal ((enableLegal_congr log2 cmd cpl).trans legal), getQ_setQ_same]
    exact ⟨⟨log2, cmd, cpl⟩, rfl, en, rfl, rfl, rfl, rfl, rfl⟩
  · rw [getQ_enableQueue_other t other.symm]
    exact h
  · rw [getQ_enableQueue_other t other.symm]
    exact h

/-- A queue that cannot be enabled loses EN, has DB_ERR, and pends its interrupt (R34). -/
def Refused (t : State) (q : Nat) : Prop :=
  (getQ t q).st = 0 ∧ (getQ t q).en = false ∧ (getQ t q).dbErr = true ∧ t.irq.qpend.getLsbD q = true

theorem enables_refused {s : State} {q : Nat} {qs : List Nat} (hq : q ∈ qs) (present : q < 392) {v : Queue} (illegal : enableLegal v = false)
    (rings : Rings v (getQ s q)) (closed : (getQ s q).st = 0) : Refused (enables s qs) q := by
  have h := foldl_reaches (I := fun t => Rings v (getQ t q) ∧ (getQ t q).st = 0)
    (P := fun t => Rings v (getQ t q) ∧ Refused t q) (f := enableQueue) hq (fun t h => ⟨h.1, h.2.1⟩) (fun t h => ?_)
    (fun t p other h => ?_) (fun t p other h => ?_) ⟨rings, closed⟩
  · exact h.2
  · obtain ⟨⟨log2, cmd, cpl⟩, st⟩ := h
    rw [enableQueue_refused ((enableLegal_congr log2 cmd cpl).trans illegal), Refused, getQ_setDbErr_same, getQ_setQ_same]
    exact ⟨⟨log2, cmd, cpl⟩, st, rfl, rfl, pendQ_getLsbD_same _ present⟩
  · rw [getQ_enableQueue_other t other.symm]
    exact h
  · rw [Refused, getQ_enableQueue_other t other.symm]
    exact ⟨h.1, h.2.1, h.2.2.1, h.2.2.2.1, getLsbD_qpend_enableQueue h.2.2.2.2 p⟩

/-! ### The boundary as a whole -/

theorem queues_boundary (s : State) (fromTimer : Bool) :
    (boundary s fromTimer).queues = (queueWork (applyBinds (restartHalos (numbered s fromTimer)))).queues := by
  rw [boundary_eq, queues_openEdge, (migSide_promoteWanted _).queues, (migSide_demotionScan _).queues, (workSide_bufferGrants _).queues]

theorem irq_boundary (s : State) (fromTimer : Bool) :
    (boundary s fromTimer).irq = (queueWork (applyBinds (restartHalos (numbered s fromTimer)))).irq := by
  rw [boundary_eq, irq_openEdge, (migSide_promoteWanted _).irq, (migSide_demotionScan _).irq, (workSide_bufferGrants _).irq]

theorem items_boundary (s : State) (fromTimer : Bool) :
    (boundary s fromTimer).items = (bufferGrants (queueWork (applyBinds (restartHalos (numbered s fromTimer))))).items := by
  rw [boundary_eq, items_openEdge, (migSide_promoteWanted _).items, (migSide_demotionScan _).items]

theorem warm_answerBind (s : State) (queue : Bool) (index : Nat) : (answerBind s queue index).reed.warm = s.reed.warm := by
  unfold answerBind
  dsimp only
  split
  · rfl
  · rw [mailSide_answer]

theorem warm_applyBind (s : State) (b : BindWait) : (applyBind s b).reed.warm = s.reed.warm := by
  unfold applyBind
  split
  · exact warm_answerBind ..
  · split
    · exact warm_answerBind ..
    · rfl

theorem warm_applyBinds (s : State) : (applyBinds s).reed.warm = s.reed.warm := foldl_keeps (g := fun s => s.reed.warm) warm_applyBind _ _

/-- A boundary's work on the queues of a die that runs (R72). -/
theorem queueWork_eq {s : State} (h : s.reed.warm = false) : queueWork s =
    enables (admission (closings s)) (((closings s).queues.filter (fun p => p.2.st = 0 && p.2.en)).map (fun p => p.1)) := by
  simp only [queueWork, h, Bool.false_eq_true, if_false]

theorem mem_asking {s : State} {q : Nat} (closed : (getQ s q).st = 0) (asks : (getQ s q).en = true) :
    q ∈ (s.queues.filter (fun p => p.2.st = 0 && p.2.en)).map (fun p => p.1) := by
  have there : (q, getQ s q) ∈ s.queues := mem_of_tget_ne (fun default => by
    have off : (getQ s q).en = false := congrArg Queue.en default
    rw [off] at asks
    cases asks)
  exact List.mem_map.mpr ⟨_, List.mem_filter.mpr ⟨there, by simp [closed, asks]⟩, rfl⟩

/-! ### Admission (R31) -/

/-- An item under its name, at its place, in its stage. -/
def Sited (i j : Item) : Prop := j.q = i.q ∧ j.idx = i.idx ∧ j.stage = i.stage

theorem sited_refl (i : Item) : Sited i i := ⟨rfl, rfl, rfl⟩

theorem Sited.trans {i j k : Item} (a : Sited i j) (b : Sited j k) : Sited i k :=
  ⟨b.1.trans a.1, b.2.1.trans a.2.1, b.2.2.trans a.2.2⟩

theorem sited_trans {s t u : State} (a : ItemsBy Sited s t) (b : ItemsBy Sited t u) : ItemsBy Sited s u :=
  ItemsBy.trans (R := Sited) (fun _ _ _ a b => Sited.trans a b) a b

theorem sited_of_sameItems {s t : State} (h : SameItems s t) : ItemsBy Sited s t := by
  obtain ⟨g, h⟩ := h
  exact .of_map h (fun i => ⟨rfl, rfl, rfl⟩)

theorem sited_restartHalo (s : State) (i : Item) : ItemsBy Sited s (restartHalo s i) := by
  have windows : SameItems s ((haloWindows s i.q i.idx).foldl (reopenHalo ((haloWindows s i.q i.idx).all (haloStays s i))) s) := by
    refine SameItems.foldl (fun s p => ?_) _ _
    unfold reopenHalo
    split
    · exact sameItems_dropHalo ..
    · exact (sameItems_closeWindow ..).trans (sameItems_modCore ..)
  refine sited_trans (sited_of_sameItems windows) ?_
  refine .of_map (s := (haloWindows s i.q i.idx).foldl (reopenHalo ((haloWindows s i.q i.idx).all (haloStays s i))) s) rfl (fun x => ?_)
  split
  · exact ⟨rfl, rfl, rfl⟩
  · exact sited_refl x

theorem sited_restartHalos (s : State) : ItemsBy Sited s (restartHalos s) := by
  unfold restartHalos
  generalize s.items.filter (fun i => i.haloHit) = l
  induction l generalizing s with
  | nil => exact .of_items sited_refl rfl
  | cons i l ih => exact sited_trans (sited_restartHalo s i) (ih _)

theorem items_takeNum (s : State) (fromTimer : Bool) : (takeNum s fromTimer).items = s.items := by
  unfold takeNum
  dsimp only
  split
  · split
    · exact items_bellRaise ..
    · rfl
  · rfl

theorem sited_recordReplay (s : State) : ItemsBy Sited s (recordReplay s) := .of_map rfl (fun _ => ⟨rfl, rfl, rfl⟩)

theorem sited_exchangeBreaths (s : State) : ItemsBy Sited s (exchangeBreaths s) := by
  refine .of_map rfl (fun i => ?_)
  split
  · split
    · exact ⟨rfl, rfl, rfl⟩
    · exact sited_refl i
  · exact sited_refl i

theorem items_coreWork (s : State) : (coreWork s).items = s.items := rfl
theorem items_endClusterResets (s : State) : (endClusterResets s).items = s.items := rfl
theorem items_limitWork (s : State) : (limitWork s).items = s.items := rfl

theorem sited_numbered (s : State) (fromTimer : Bool) : ItemsBy Sited s (restartHalos (numbered s fromTimer)) := by
  refine sited_trans ?_ (sited_restartHalos _)
  refine sited_trans ?_ (sited_exchangeBreaths _)
  have replayed : ItemsBy Sited s (recordReplay (takeNum s fromTimer)) :=
    sited_trans (.of_items sited_refl (items_takeNum s fromTimer)) (sited_recordReplay _)
  refine sited_trans replayed (.of_items sited_refl ?_)
  rw [items_limitWork, items_endClusterResets, items_coreWork]

/-! Items that were admitted just now, through the buffer grants that follow. -/

section
variable {q : Nat} {idx : W32}

/-- Every item under a name waits for its copy. -/
def Fresh (q : Nat) (idx : W32) (s : State) : Prop := ∀ i ∈ s.items, isItem q idx i = true → i.stage = .admitted

/-- An item and what becomes of it, when the work is that of others: one under the name stays but for marks. -/
def Aside (q : Nat) (idx : W32) (i j : Item) : Prop := j.q = i.q ∧ j.idx = i.idx ∧ (isItem q idx i = true → Untouched i j)

theorem aside_refl (i : Item) : Aside q idx i i := ⟨rfl, rfl, fun _ => tracks_untouched.refl i⟩

theorem Aside.trans {i j k : Item} (a : Aside q idx i j) (b : Aside q idx j k) : Aside q idx i k := by
  obtain ⟨aq, ai, a⟩ := a
  obtain ⟨bq, bi, b⟩ := b
  refine ⟨bq.trans aq, bi.trans ai, fun own => tracks_untouched.trans (a own) (b ?_)⟩
  rw [isItem, aq, ai]
  exact own

theorem aside_trans {s t u : State} (a : ItemsBy (Aside q idx) s t) (b : ItemsBy (Aside q idx) t u) : ItemsBy (Aside q idx) s u :=
  ItemsBy.trans (R := Aside q idx) (fun _ _ _ a b => Aside.trans a b) a b

theorem exists_of_forall₂ {α β : Type} {R : α → β → Prop} {l : List α} {m : List β} (h : List.Forall₂ R l m) {b : β} (hb : b ∈ m) :
    ∃ a ∈ l, R a b := by
  induction h with
  | nil => cases hb
  | cons r _ ih =>
    rcases List.mem_cons.mp hb with rfl | hb
    · exact ⟨_, List.mem_cons_self .., r⟩
    · obtain ⟨a, ha, r⟩ := ih hb
      exact ⟨a, List.mem_cons_of_mem _ ha, r⟩

theorem getElem?_of_forall₂ {α β : Type} {R : α → β → Prop} {l : List α} {m : List β} (h : List.Forall₂ R l m) {n : Nat} {a : α}
    (ha : l[n]? = some a) : ∃ b, m[n]? = some b ∧ R a b := by
  induction h generalizing n with
  | nil => cases ha
  | cons r _ ih =>
    cases n with
    | zero =>
      cases ha
      exact ⟨_, rfl, r⟩
    | succ n => exact ih ha

theorem Fresh.of_items {s t : State} (h : Fresh q idx s) (same : t.items = s.items) : Fresh q idx t := by
  unfold Fresh
  rw [same]
  exact h

theorem Fresh.aside {s t : State} (h : Fresh q idx s) (a : ItemsBy (Aside q idx) s t) : Fresh q idx t := by
  intro j hj named
  obtain ⟨i, hi, sameQ, sameIdx, kept⟩ := exists_of_forall₂ a hj
  have own : isItem q idx i = true := by
    rw [isItem, ← sameQ, ← sameIdx]
    exact named
  obtain ⟨g, rfl⟩ := kept own
  exact h i hi own

theorem aside_cleAdvance {s : State} (fresh : Fresh q idx s) (q' : Nat) (idx' : W32) : ItemsBy (Aside q idx) s (cleAdvance s q' idx') := by
  by_cases same : q' = q ∧ idx' = idx
  · obtain ⟨rfl, rfl⟩ := same
    have waits : cleAdvance s q' idx' = s := cleAdvance_waits (fun i found => by
      rw [fresh i (List.mem_of_find?_eq_some found) (List.find?_some found)]
      decide)
    rw [waits]
    exact .of_items aside_refl rfl
  · refine List.Forall₂.imp (fun i j h => ?_) (onlyItem_cleAdvance (q := q') (idx := idx') s)
    refine ⟨h.1, h.2.1, fun own => h.2.2 ?_⟩
    simp only [isItem, Bool.and_eq_true, decide_eq_true_eq] at own
    simp only [isItem, own.1, own.2, Bool.and_eq_false_iff, decide_eq_false_iff_not]
    by_contra both
    simp only [not_or, not_not] at both
    exact same ⟨both.1.symm, both.2.symm⟩

/-- A grant changes no item before its operation goes on, if it does. -/
theorem grantOne_cases (s : State) (o : CleOp) :
    ∃ u, u.items = s.items ∧ (grantOne s o = u ∨ grantOne s o = cleAdvance u o.q o.idx) := by
  by_cases free : o.want = 0
  · exact ⟨s, rfl, .inr (if_pos free)⟩
  · obtain ⟨u, short, effect, same⟩ : ∃ (u : State) (short : Bool), grantOne s o = (if short then u else cleAdvance u o.q o.idx) ∧
        u.items = s.items := by
      refine ⟨_, _, if_neg free, ?_⟩
      rw [items_setOp]
      rfl
    cases short with
    | true => exact ⟨u, same, .inl effect⟩
    | false => exact ⟨u, same, .inr effect⟩

theorem aside_grantOne {s : State} (fresh : Fresh q idx s) (o : CleOp) : ItemsBy (Aside q idx) s (grantOne s o) := by
  obtain ⟨u, same, effect | effect⟩ := grantOne_cases s o
  · exact .of_items aside_refl (effect ▸ same)
  · rw [effect]
    exact aside_trans (.of_items aside_refl same) (aside_cleAdvance (fresh.of_items same) ..)

theorem aside_bufferGrants {s : State} (fresh : Fresh q idx s) : ItemsBy (Aside q idx) s (bufferGrants s) := by
  unfold bufferGrants
  dsimp only
  generalize sortBy _ (s.cle.ops.filter (fun o => !o.kind && !o.begun)) = l
  induction l generalizing s with
  | nil => exact .of_items aside_refl rfl
  | cons o l ih =>
    have first := aside_grantOne fresh o
    exact aside_trans first (ih (fresh.aside first))

/-- Whatever the buffer grants do, every item keeps its name and place. -/
theorem names_bufferGrants (s : State) :
    List.Forall₂ (fun i j : Item => j.q = i.q ∧ j.idx = i.idx) s.items (bufferGrants s).items := by
  have key : ∀ (l : List CleOp) (s : State), ItemsBy (fun i j : Item => j.q = i.q ∧ j.idx = i.idx) s (l.foldl grantOne s) := by
    intro l
    induction l with
    | nil => exact fun s => .of_items (fun _ => ⟨rfl, rfl⟩) rfl
    | cons o l ih =>
      intro s
      have advance (s : State) : ItemsBy (fun i j : Item => j.q = i.q ∧ j.idx = i.idx) s (cleAdvance s o.q o.idx) :=
        List.Forall₂.imp (fun _ _ h => ⟨h.1, h.2.1⟩) (onlyItem_cleAdvance (q := o.q) (idx := o.idx) s)
      have first : ItemsBy (fun i j : Item => j.q = i.q ∧ j.idx = i.idx) s (grantOne s o) := by
        obtain ⟨u, same, effect | effect⟩ := grantOne_cases s o
        · exact .of_items (fun _ => ⟨rfl, rfl⟩) (effect ▸ same)
        · rw [effect]
          exact ItemsBy.trans (fun _ _ _ a b => ⟨b.1.trans a.1, b.2.trans a.2⟩) (.of_items (fun _ => ⟨rfl, rfl⟩) same) (advance u)
      exact ItemsBy.trans (fun _ _ _ a b => ⟨b.1.trans a.1, b.2.trans a.2⟩) first (ih _)
  exact key _ s
end

theorem closings_none {s : State} (h : ∀ p ∈ s.queues, p.2.st = 0 ∨ p.2.en = true) : closings s = s := by
  have none_ : s.queues.filter (fun p => p.2.st ≠ 0 && !p.2.en && !p.2.closing) = [] := by
    refine List.filter_eq_nil_iff.mpr (fun p hp => ?_)
    rcases h p hp with h | h <;> simp [h]
  rw [closings, none_]
  rfl

theorem applyBinds_none {s : State} (h : s.reed.binds = []) : applyBinds s = s := by
  simp only [applyBinds, h, List.filter_nil, List.append_nil, ite_self, List.foldl_nil]

/-- A queue that alone admits has as many commands admitted as it may have (R31). -/
theorem admission_sole {s : State} {q : Nat} (run : running s = true)
    (sole : (s.queues.filter (fun p => admits p.2)).map (fun p => p.1) = [q]) :
    (admission s).items = s.items ++ newItems s q (admitCount s q (storeFree s)) ∧ (admission s).queues = s.queues := by
  have order : queueOrder s [q] = [q] := rfl
  have within : min (admitCount s q (storeFree s)) (storeFree s) = admitCount s q (storeFree s) := by
    apply Nat.min_eq_left
    unfold admitCount
    dsimp only
    split <;> omega
  have reads (l : List Item) (u : State) : ReqSide u (l.foldl (fun st i => issueReq st (ringRead (getQ s q) q i.idx)) u) :=
    ReqSide.foldl (fun s i => reqSide_issueReq s _) l u
  simp only [admission, run, Bool.not_true, Bool.false_eq_true, if_false, sole, order, List.foldl_cons, List.foldl_nil, admitQueue, within,
    lt_irrefl]
  exact ⟨(reads _ _).items, (reads _ _).queues⟩

theorem items_enables (s : State) (qs : List Nat) : (enables s qs).items = s.items := by
  refine items_foldl (fun s q => ?_) _ _
  unfold enableQueue
  dsimp only
  split <;> rfl

theorem short_enables (s : State) (qs : List Nat) (q : Nat) : (getQ (enables s qs) q).short = (getQ s q).short := by
  refine foldl_keeps (g := fun s => (getQ s q).short) (fun s p => ?_) _ _
  by_cases same : q = p
  · subst same
    cases legal : enableLegal (getQ s q) with
    | true => rw [enableQueue_legal legal, getQ_setQ_same]
    | false => rw [enableQueue_refused legal, getQ_setDbErr_same, getQ_setQ_same]
  · rw [getQ_enableQueue_other s same]

theorem uncopied_sited {s t : State} (h : ItemsBy Sited s t) (q : Nat) : uncopied t q = uncopied s q := by
  unfold ItemsBy at h
  unfold uncopied
  generalize s.items = l, t.items = m at h
  induction h with
  | nil => rfl
  | cons r _ ih =>
    simp only [List.filter_cons, r.1, r.2.2]
    split
    · simp only [List.length_cons, ih]
    · exact ih

theorem any_queue_sited {s t : State} (h : ItemsBy Sited s t) (q : Nat) :
    t.items.any (fun x => decide (x.q = q)) = s.items.any (fun x => decide (x.q = q)) := by
  unfold ItemsBy at h
  generalize s.items = l, t.items = m at h
  induction h with
  | nil => rfl
  | cons r _ ih => simp only [List.any_cons, r.1, ih]

theorem map_names {l m : List Item} (h : List.Forall₂ (fun i j : Item => j.q = i.q ∧ j.idx = i.idx) l m) :
    m.map (fun i => (i.q, i.idx)) = l.map (fun i => (i.q, i.idx)) := by
  induction h with
  | nil => rfl
  | cons r _ ih => rw [List.map_cons, List.map_cons, ih, r.1, r.2]

/-- Settles O16: enables by `enables_legal` and `enables_refused`, admission by `admission_sole`. -/
theorem aBoundaryEnablesAndAdmits : Obligations.ABoundaryEnablesAndAdmits := by
  refine ⟨fun s q hup free cold present closed asks => ?enable, fun s q hup free run binds settled sole => ?admission⟩
  case enable =>
    intro v n legal
    have keeps := keepsQueues_numbered s true
    generalize hu : restartHalos (numbered s true) = u at keeps
    have warm : (applyBinds u).reed.warm = false := (warm_applyBinds u).trans (keeps.warm.trans cold)
    have closings_like : QueuesLike s (closings (applyBinds u)) :=
      ((QueuesLike.of_queues keeps.queues).trans (queuesLike_applyBinds u)).trans (queuesLike_closings _)
    have like := closings_like.trans (queuesLike_admission _)
    have asking := mem_asking (s := closings (applyBinds u)) (q := q) (by rw [closings_like q]; exact closed) (by rw [closings_like q]; exact asks)
    have effect : queueWork (applyBinds u) = enables (admission (closings (applyBinds u))) _ := queueWork_eq warm
    have rings : Rings v (getQ (admission (closings (applyBinds u))) q) := by
      rw [like q]
      exact ⟨rfl, rfl, rfl⟩
    refine ⟨_, live_up (f := freeRunBoundary) hup, fun isLegal => ?_, fun notLegal => ?_⟩
    · have enabled := enables_legal asking ((enableLegal_iff v).mpr isLegal) rings (by rw [like q]; exact asks)
      rw [getQ_keepOuter, freeRunBoundary, if_pos free, getQ_of_queues (queues_boundary s true), hu, effect]
      exact enabled
    · have refused := enables_refused asking present (Bool.eq_false_iff.mpr (mt (enableLegal_iff v).mp notLegal)) rings (by rw [like q]; exact closed)
      rw [getQ_keepOuter, freeRunBoundary, if_pos free, getQ_of_queues (queues_boundary s true), hu, effect]
      rw [irq_keepOuter, irq_boundary, hu, effect]
      exact refused
  case admission =>
    intro v head room a
    have keeps := keepsQueues_numbered s true
    have sited := sited_numbered s true
    generalize hu : restartHalos (numbered s true) = u at keeps sited
    have run' : running u = true := by
      rw [running, variant, cap, keeps.active, keeps.warm, keeps.caps]
      exact run
    have warm : u.reed.warm = false := by
      simp only [running, Bool.and_eq_true, Bool.not_eq_true'] at run'
      exact run'.1.2
    have bound : applyBinds u = u := applyBinds_none (keeps.binds.trans binds)
    have going : closings u = u := closings_none (by rw [keeps.queues]; exact settled)
    obtain ⟨items, queues⟩ := admission_sole (s := u) (q := q) run' (by rw [keeps.queues]; exact sole)
    have reg : getQ u q = v := getQ_of_queues keeps.queues q
    have count : admitCount u q (storeFree u) = a := by
      have len : u.items.length = s.items.length := sited.length_eq.symm
      simp only [admitCount, reg, uncopied_sited sited, storeFree, len, cdiff]
      rfl
    have effect : (boundary s true).queues = (enables (admission u) ((u.queues.filter (fun p => p.2.st = 0 && p.2.en)).map (fun p => p.1))).queues ∧
        (boundary s true).items = (bufferGrants (enables (admission u) ((u.queues.filter (fun p => p.2.st = 0 && p.2.en)).map
          (fun p => p.1)))).items := by
      rw [queues_boundary, items_boundary, hu, bound, queueWork_eq warm, going]
      exact ⟨rfl, rfl⟩
    generalize hw : enables (admission u) ((u.queues.filter (fun p => p.2.st = 0 && p.2.en)).map (fun p => p.1)) = w at effect
    have new : w.items = u.items ++ newItems u q a := by rw [← hw, items_enables, items, count]
    have head_eq : (getQ u q).accHead + BitVec.ofNat 32 (uncopied u q) = head := by rw [reg, uncopied_sited sited]; rfl
    have newNames : (newItems u q a).map (fun i => (i.q, i.idx)) = (List.range a).map (fun k => (q, head + BitVec.ofNat 32 k)) := by
      simp only [newItems, head_eq, List.map_map]
      rfl
    have oldNames : u.items.map (fun i => (i.q, i.idx)) = s.items.map (fun i => (i.q, i.idx)) :=
      map_names (List.Forall₂.imp (fun _ _ h => ⟨h.1, h.2.1⟩) sited)
    refine ⟨_, live_up (f := freeRunBoundary) hup, ?_⟩
    rw [getQ_keepOuter, items_keepOuter, freeRunBoundary, if_pos free, effect.2, getQ_of_queues effect.1]
    refine ⟨?_, fun distinct k hk => ?_, ?_⟩
    · rw [map_names (names_bufferGrants w), new, List.map_append, newNames, oldNames]
    · have fresh : Fresh q (head + BitVec.ofNat 32 k) w := by
        intro i hi named
        simp only [isItem, Bool.and_eq_true, decide_eq_true_eq] at named
        rw [new, List.mem_append] at hi
        rcases hi with old | new
        · obtain ⟨i', hi', same⟩ := exists_of_forall₂ sited old
          exact absurd (same.2.1.symm.trans named.2) (distinct i' hi' (same.1.symm.trans named.1) k hk)
        · obtain ⟨k', -, rfl⟩ := List.mem_map.mp new
          rfl
      have place : w.items[s.items.length + k]? = some
          { q := q, idx := head + BitVec.ofNat 32 k, behind := decide (0 < k) || s.items.any (fun x => x.q = q) } := by
        rw [new, sited.length_eq, List.getElem?_append_right (Nat.le_add_right ..), Nat.add_sub_cancel_left]
        simp only [newItems, head_eq, any_queue_sited sited, List.getElem?_map, List.getElem?_range hk, Option.map_some]
      obtain ⟨i, there, -, -, kept⟩ := getElem?_of_forall₂ (aside_bufferGrants fresh) place
      obtain ⟨g, rfl⟩ := kept (by simp [isItem])
      exact ⟨_, there, rfl, rfl⟩
    · rw [← hw, short_enables, getQ_of_queues queues, reg]

end Sys2Proof.Proofs.QueueBoundary

/-! Image loads (chapter 15, R323 to R325): how a load begins, is judged, and ends. -/

namespace Sys2Proof.Proofs.ImageLoads

open Sys2Proof Sys2Proof.Machine Sys2Proof.Safety Sys2Proof.Laws
open Sys2Proof.Proofs.RegisterWrites Sys2Proof.Proofs.Mailbox Sys2Proof.Proofs.MailboxRequests

/-! ### The end of a load -/

/-- s with no load under way. -/
def withoutLoad (s : State) : State :=
  { s with reed := { s.reed with verifying := none, pending := none, st := restState s } }

/-- s with another reason in KQ_RD_REJECT. -/
def withReject (s : State) (r : Nat) : State := { s with reed := { s.reed with reject := BitVec.ofNat 8 r } }

theorem loadOf_of_pending {s : State} {l : Load} (h : s.reed.pending = some l) : ∃ l', loadOf s = some l' := by
  unfold loadOf
  split
  · exact ⟨_, rfl⟩
  · exact ⟨l, h⟩

theorem dropLoad_none {s : State} (h : loadOf s = none) (code result : Nat) : dropLoad s code result = s := by
  simp only [dropLoad, h]

theorem dropLoad_some {s : State} {l : Load} (h : loadOf s = some l) (code result : Nat) :
    dropLoad s code result = complete (withoutLoad s) .host l.tag code result := by
  simp only [dropLoad, h, withoutLoad]

/-- How a load ends: no load stays, the active image does, and nothing but the mailbox and the load changes. -/
structure Ended (s t : State) : Prop where
  loadOf : loadOf t = none
  pending : t.reed.pending = none
  verifying : t.reed.verifying = none
  active : t.reed.active = s.reed.active
  reject : t.reed.reject = s.reed.reject
  sent : t.sent = s.sent
  inner : keepOuter s t = t

theorem ended_withoutLoad (s : State) : Ended s (withoutLoad s) := ⟨rfl, rfl, rfl, rfl, rfl, rfl, rfl⟩

theorem Ended.mailSide {s t u : State} (h : Ended s t) (side : MailSide t u) : Ended s u where
  loadOf := side.loadOf.trans h.loadOf
  pending := side.pendingLoad.trans h.pending
  verifying := side.verifying.trans h.verifying
  active := side.active.trans h.active
  reject := side.reject.trans h.reject
  sent := side.sent.trans h.sent
  inner := inner_trans h.inner side.keepOuter

theorem ended_dropLoad {s : State} {l : Load} (h : loadOf s = some l) (code result : Nat) : Ended s (dropLoad s code result) := by
  rw [dropLoad_some h]
  exact (ended_withoutLoad s).mailSide (mailSide_complete ..)

/-- The completion that tells of the end of a load, when DONE is clear. -/
theorem mail_dropLoad {s : State} {l : Load} (h : loadOf s = some l) (clear : (mail s .host).done = false) (code result : Nat) :
    mail (dropLoad s code result) .host = { mail s .host with
      result := BitVec.ofNat 32 result, rspTag := l.tag, code := BitVec.ofNat 8 code, done := true } := by
  rw [dropLoad_some h, mail_complete_same]
  exact completed_done (m := mail s .host) clear _

/-! ### A load begins -/

/-- s with a load that verifies, its request taken from the host's slot. -/
def loading (s : State) (l : Load) : State :=
  { s with reed := { s.reed with host := { s.reed.host with busy := false }, verifying := some l, st := .verifying } }

theorem keepOuter_loading (s : State) (l : Load) : keepOuter s (loading s l) = loading s l := rfl

theorem mail_loading (s : State) (l : Load) : mail (loading s l) .host = { mail s .host with busy := false } := rfl

theorem loading_reed (s : State) (l : Load) : (loading s l).reed.st = .verifying ∧ (loading s l).reed.active = s.reed.active ∧
    (loading s l).reed.verifying = some l := ⟨rfl, rfl, rfl⟩

theorem imageLoad_busy {s : State} (h : (loadOf s).isSome = true) (tag : W16) (a b : W64) :
    imageLoad s .host tag a b = answer s .host tag 1 0 := by
  simp only [imageLoad, ne_eq, not_true_eq_false, if_false, h, Bool.true_or, if_true]

theorem imageLoad_begins {s : State} {tag : W16} {a b : W64} (idle : loadOf s = none) (cold : s.reed.warm = false)
    (aligned : a.toNat % 4096 = 0) (ha : a.toNat < 2 ^ 56) (hb : b.toNat < 2 ^ 32) :
    imageLoad s .host tag a b = loading s { pa := a.toNat, length := b.toNat, tag := tag } := by
  simp only [imageLoad, ne_eq, not_true_eq_false, if_false, idle, reloading, cold, aligned, Nat.not_le_of_lt ha, Nat.not_le_of_lt hb,
    Option.isSome_none, Bool.false_and, decide_false, Bool.or_self, Bool.false_eq_true]
  rfl

/-! ### A load is judged (R324) -/

/-- s with a load that passed every check and waits for its refold. -/
def accepted (s : State) (l : Load) : State :=
  { s with reed := { s.reed with verifying := none, pending := some l, st := .pending } }

theorem imageVerified_accepts {s : State} {l : Load} {agrees : Bool} (cold : s.reed.warm = false) (h : s.reed.verifying = some l)
    (good : loadReason s l agrees = none) :
    imageVerified s agrees = accepted s { l with image := parseImage (readPa s l.pa l.length).2 } := by
  simp only [imageVerified, cold, h, good, accepted]

theorem imageVerified_rejects {s : State} {l : Load} {agrees : Bool} {r : Nat} (cold : s.reed.warm = false)
    (h : s.reed.verifying = some l) (bad : loadReason s l agrees = some r) :
    imageVerified s agrees = send (dropLoad (withReject s r) 4 r) (.rejectReport false) := by
  simp only [imageVerified, cold, h, bad, withReject]

theorem rejectReport_discards {s : State} (h : (loadOf s).isSome = true) : rejectReport s true = dropLoad s 7 0 := by
  simp only [rejectReport, Option.isNone_eq_false_iff.mpr h, Bool.false_eq_true, if_false, if_true]

theorem rejectReport_rejects {s : State} (h : (loadOf s).isSome = true) :
    rejectReport s false = dropLoad (withReject s 0x0C) 4 0x0C := by
  simp only [rejectReport, Option.isNone_eq_false_iff.mpr h, Bool.false_eq_true, if_false, withReject]
  rfl

theorem refoldTimeout_ends {s : State} {l : Load} (h : s.reed.pending = some l) (long : 256 ≤ l.waited) :
    refoldTimeout s false = dropLoad s 6 0 := by
  simp only [refoldTimeout, h, long, decide_true, Bool.or_true, if_true]

theorem refoldTimeout_waits {s : State} {l : Load} (h : s.reed.pending = some l) (short : l.waited < 256) :
    refoldTimeout s false = s := by
  simp only [refoldTimeout, h, Nat.not_le_of_lt short, decide_false, Bool.or_self, Bool.false_eq_true, if_false]

/-- Settles O45: each command ends, keeps or begins the load through its one branch. -/
theorem imageLoadsVerifyOrEnd : Obligations.ImageLoadsVerifyOrEnd := by
  intro s tag a b hup cold
  refine ⟨fun free idle aligned ha hb => ?begins, fun ready loaded => ?busy, fun l agrees load clear => ⟨fun good => ?accepted,
    fun r bad hr => ?rejected⟩, fun l load clear => ⟨?reported, ?discarded⟩, fun l load clear => ⟨fun long => ?late, fun short => ?waits⟩,
    fun ready => ?cancel⟩
  case begins =>
    let u := takenWith s .host a b tag 0x01
    have effect : submit (withArgs s .host a b) .host tag 0x01 (fun s => imageLoad s .host tag a b) = loading u _ :=
      (submit_free_withArgs free ..).trans (imageLoad_begins (s := u) idle cold aligned ha hb)
    have side : MailSide s u := mailSide_takenWith ..
    obtain ⟨st, active, load⟩ := loading_reed u { pa := a.toNat, length := b.toNat, tag := tag }
    refine ⟨_, live_next (f := fun s => submit (withArgs s .host a b) .host tag 0x01 (fun s => imageLoad s .host tag a b)) hup
      effect (inner_trans side.keepOuter (keepOuter_loading ..)), st, active.trans side.active, load, ?_, ?_⟩
    · rw [mail_loading]
    · rw [mail_loading, mail_takenWith]
  case busy =>
    have effect : imageLoad (takenWith s .host a b tag 0x01) .host tag a b = answer (takenWith s .host a b tag 0x01) .host tag 1 0 :=
      imageLoad_busy (s := takenWith s .host a b tag 0x01) loaded tag a b
    obtain ⟨shown, side⟩ := submit_withArgs_answered ready a b tag 0x01 (f := fun s => imageLoad s .host tag a b) effect (by decide)
    exact ⟨_, live_mailSide (f := fun s => submit (withArgs s .host a b) .host tag 0x01 (fun s => imageLoad s .host tag a b)) hup side,
      shown, side.loadOf⟩
  case accepted =>
    exact ⟨_, _, live_next (f := fun s => imageVerified s agrees) hup (imageVerified_accepts cold load good) rfl, rfl, rfl, rfl, rfl, rfl⟩
  case rejected =>
    have under : loadOf (withReject s r) = some l := by simp only [loadOf, withReject, load]
    have ended := ended_dropLoad under 4 r
    have shown := mail_dropLoad under clear 4 r
    refine ⟨_, live_next (f := fun s => imageVerified s agrees) hup (imageVerified_rejects cold load bad)
      (inner_trans (t := dropLoad (withReject s r) 4 r) ended.inner rfl), ended.verifying, ?_, ended.active, ?_, ?_, ?_,
      congrArg (· ++ _) ended.sent⟩
    · exact (congrArg BitVec.toNat ended.reject).trans ((BitVec.toNat_ofNat ..).trans (Nat.mod_eq_of_lt hr))
    · exact congrArg MailSlot.rspTag shown
    · exact congrArg MailSlot.code shown
    · exact (congrArg (fun m => m.result.toNat) shown).trans ((BitVec.toNat_ofNat ..).trans (Nat.mod_eq_of_lt (by omega)))
  case reported =>
    have under : loadOf (withReject s 0x0C) = some l := load
    have ended := ended_dropLoad under 4 0x0C
    exact ⟨_, live_next (f := fun s => rejectReport s false) hup (rejectReport_rejects (Option.isSome_of_eq_some load)) ended.inner,
      ended.loadOf, ended.reject, congrArg MailSlot.code (mail_dropLoad under clear ..), ended.active⟩
  case discarded =>
    have ended := ended_dropLoad load 7 0
    exact ⟨_, live_next (f := fun s => rejectReport s true) hup (rejectReport_discards (Option.isSome_of_eq_some load)) ended.inner,
      ended.loadOf, congrArg MailSlot.code (mail_dropLoad load clear ..), ended.active⟩
  case late =>
    obtain ⟨l', under⟩ := loadOf_of_pending load
    have ended := ended_dropLoad under 6 0
    exact ⟨_, live_next (f := fun s => refoldTimeout s false) hup (refoldTimeout_ends load long) ended.inner, ended.pending,
      congrArg MailSlot.code (mail_dropLoad under clear ..), ended.active⟩
  case waits => exact live_next (f := fun s => refoldTimeout s false) hup (refoldTimeout_waits load short) rfl
  case cancel =>
    let u := taken s .host tag 0x02
    have side : MailSide s u := mailSide_taken ..
    have clear : (mail u .host).done = false := ready.2
    have effect : submit s .host tag 0x02 (fun s => imageCancel s .host tag) = answer (dropLoad u 7 0) .host tag 0 0 :=
      (submit_free ready.1 ..).trans rfl
    have run : ∀ {t}, dropLoad u 7 0 = t → keepOuter s t = t → exec (.imageCancel .host tag) s = .next (answer t .host tag 0 0) :=
      fun dropped inner => live_next (f := fun s => submit s .host tag 0x02 (fun s => imageCancel s .host tag)) hup
        (effect.trans (congrArg (fun t => answer t .host tag 0 0) dropped)) (inner_trans inner (mailSide_answer ..).keepOuter)
    cases load : loadOf s
    case none =>
      have idle : loadOf u = none := side.loadOf.trans load
      have answers : answered (answer u .host tag 0 0) .host tag 0 0 := answered_answer clear tag (by decide) (by decide)
      have after := side.trans (mailSide_answer u .host tag 0 0)
      exact ⟨_, run (dropLoad_none idle ..) side.keepOuter, after.loadOf.trans load, after.active, answers.1, fun _ => answers, nofun⟩
    case some l =>
      have under : loadOf u = some l := side.loadOf.trans load
      have ended := ended_dropLoad under 7 0
      have after := ended.mailSide (mailSide_answer (dropLoad u 7 0) .host tag 0 0)
      have shown := mail_answer_same (dropLoad u 7 0) .host tag 0 0
      rw [mail_dropLoad under clear, completed_waits rfl] at shown
      refine ⟨_, run rfl (inner_trans side.keepOuter ended.inner), after.loadOf, after.active.trans side.active,
        congrArg MailSlot.busy shown, nofun, ?_⟩
      rintro _ ⟨⟩
      exact ⟨congrArg MailSlot.done shown, congrArg MailSlot.rspTag shown, congrArg MailSlot.code shown, congrArg MailSlot.waiting shown⟩

end Sys2Proof.Proofs.ImageLoads

/-! What an access through an address field reads: the memory side, the translation tables and the block checks (chapters 11 and 12).
States that agree on these give it the same answer. -/

namespace Sys2Proof.Proofs.Accesses

open Sys2Proof Sys2Proof.Machine Sys2Proof.Safety Sys2Proof.Laws

/-- s and t hold the same memory, translation state and block check ranges. -/
structure ReadsAlike (s t : State) : Prop where
  mem : t.mem = s.mem
  tr : t.tr = s.tr
  chkDEn : t.str.chkDEn = s.str.chkDEn
  chkHEn : t.str.chkHEn = s.str.chkHEn
  chkD : t.str.chkD = s.str.chkD
  chkH : t.str.chkH = s.str.chkH

theorem ReadsAlike.trans {s t u : State} (a : ReadsAlike s t) (b : ReadsAlike t u) : ReadsAlike s u where
  mem := b.mem.trans a.mem
  tr := b.tr.trans a.tr
  chkDEn := b.chkDEn.trans a.chkDEn
  chkHEn := b.chkHEn.trans a.chkHEn
  chkD := b.chkD.trans a.chkD
  chkH := b.chkH.trans a.chkH

theorem readsAlike_modItem (s : State) (q : Nat) (idx : W32) (f : Item → Item) : ReadsAlike s (modItem s q idx f) :=
  ⟨rfl, rfl, rfl, rfl, rfl, rfl⟩

theorem readsAlike_inBreath (s : State) : ReadsAlike s (inBreath s) := ⟨rfl, rfl, rfl, rfl, rfl, rfl⟩

theorem readsAlike_countVerified (s : State) (n : Nat) : ReadsAlike s (countVerified s n) := ⟨rfl, rfl, rfl, rfl, rfl, rfl⟩

section
variable {s t : State} (h : ReadsAlike s t)
include h

/-! ### Walks and translation -/

theorem ReadsAlike.readPte (ctx : CtxId) (pa : Nat) : readPte t ctx pa = readPte s ctx pa := by rw [Machine.readPte, h.mem, Machine.readPte]

theorem ReadsAlike.walkD (va : Nat) (write : Bool) (lvl : Nat) : ∀ table, walkD t va write lvl table = walkD s va write lvl table := by
  induction lvl with
  | zero =>
    intro table
    unfold Machine.walkD
    simp only [h.readPte]
  | succ l ih =>
    intro table
    unfold Machine.walkD
    simp only [h.readPte, ih]

theorem ReadsAlike.walkH (ctx : CtxId) (va : Nat) (write : Bool) (lvl : Nat) :
    ∀ table, walkH t ctx va write lvl table = walkH s ctx va write lvl table := by
  induction lvl with
  | zero =>
    intro table
    unfold Machine.walkH
    simp only [h.readPte]
  | succ l ih =>
    intro table
    unfold Machine.walkH
    simp only [h.readPte, ih]

theorem ReadsAlike.ctxEntry (ctx : CtxId) : ctxEntry t ctx = ctxEntry s ctx := by
  simp only [Machine.ctxEntry, h.tr, h.readPte]

theorem ReadsAlike.walk (cls : Cls) (ctx : CtxId) (va : Nat) (write : Bool) : walk t cls ctx va write = walk s cls ctx va write := by
  simp only [Machine.walk, h.tr, h.walkD, h.walkH, h.ctxEntry]

theorem ReadsAlike.clsEnabled (cls : Cls) : clsEnabled t cls = clsEnabled s cls := by
  unfold Machine.clsEnabled
  rw [h.tr]

theorem ReadsAlike.translate (ctx : CtxId) (addr : W64) (write : Bool) : translate t ctx addr write = translate s ctx addr write := by
  simp only [Machine.translate, h.clsEnabled, h.tr, h.walk]

theorem ReadsAlike.piecesOf (ctx : CtxId) (write : Bool) (fuel : Nat) :
    ∀ addr n, piecesOf t ctx write fuel addr n = piecesOf s ctx write fuel addr n := by
  induction fuel with
  | zero => intro addr n; rfl
  | succ f ih => intro addr n; simp only [Machine.piecesOf, h.translate, ih]

theorem ReadsAlike.pagesOf (ctx : CtxId) (write : Bool) (addr : W64) (n : Nat) : pagesOf t ctx write addr n = pagesOf s ctx write addr n :=
  h.piecesOf ..

/-! ### Reads -/

theorem ReadsAlike.readPieces (ctx : CtxId) (ps : List (W64 × Nat × Nat)) : readPieces t ctx ps = readPieces s ctx ps := by
  induction ps with
  | nil => rfl
  | cons p ps ih => simp only [Machine.readPieces, h.mem, ih]

theorem ReadsAlike.readVa (ctx : CtxId) (addr : W64) (n : Nat) : readVa t ctx addr n = readVa s ctx addr n := by
  simp only [Machine.readVa, h.pagesOf, h.readPieces]

/-! ### Block checks -/

theorem ReadsAlike.chkOn (c : Cls) : chkOn t c = chkOn s c := by
  cases c
  · exact h.chkDEn
  · exact h.chkHEn

theorem ReadsAlike.chkBase (c : Cls) : chkBase t c = chkBase s c := by
  cases c
  · exact congrArg BitVec.toNat h.chkD
  · exact congrArg BitVec.toNat h.chkH

theorem ReadsAlike.entryAddr (a : W64) : entryAddr t a = entryAddr s a := by
  simp only [Machine.entryAddr, h.chkOn, h.chkBase]

theorem ReadsAlike.verifyGo (ctx : CtxId) (l : List (W64 × List Byte)) : ∀ n, verifyGo t ctx l n = verifyGo s ctx l n := by
  induction l with
  | nil => intro n; rfl
  | cons b l ih => intro n; simp only [Machine.verifyGo, h.entryAddr, h.readVa, ih]

theorem ReadsAlike.verifyRead (ctx : CtxId) (a : W64) (bs : List Byte) : verifyRead t ctx a bs = verifyRead s ctx a bs := by
  simp only [Machine.verifyRead, h.chkOn, h.verifyGo]

end

end Sys2Proof.Proofs.Accesses

/-! What the abort of tasks and the closing of windows change (R185, R262): tasks, items, cores and reissues alone, and of the core
only its windows, counters and stream slots. -/

namespace Sys2Proof.Proofs.Aborts

open Sys2Proof Sys2Proof.Machine Sys2Proof.Safety Sys2Proof.Laws

/-- t differs from s in tasks, items, cores and reissues alone. -/
def TaskSide (s t : State) : Prop := t = { s with tasks := t.tasks, items := t.items, cores := t.cores, reissues := t.reissues }

theorem TaskSide.refl (s : State) : TaskSide s s := rfl

theorem TaskSide.trans {s t u : State} (a : TaskSide s t) (b : TaskSide t u) : TaskSide s u := by
  unfold TaskSide at *
  rw [b, a]

theorem TaskSide.foldl {α : Type} {f : State → α → State} (h : ∀ s a, TaskSide s (f s a)) (l : List α) (s : State) :
    TaskSide s (l.foldl f s) := by
  induction l generalizing s with
  | nil => exact .refl s
  | cons a l ih => exact (h s a).trans (ih _)

section
variable {s t : State} (h : TaskSide s t)
include h

theorem TaskSide.mem : t.mem = s.mem := by rw [h]
theorem TaskSide.phys : t.phys = s.phys := by rw [h]
theorem TaskSide.queues : t.queues = s.queues := by rw [h]
theorem TaskSide.breath : t.breath = s.breath := by rw [h]
theorem TaskSide.bell : t.bell = s.bell := by rw [h]
theorem TaskSide.cle : t.cle = s.cle := by rw [h]
theorem TaskSide.pg : t.pg = s.pg := by rw [h]
theorem TaskSide.tr : t.tr = s.tr := by rw [h]
theorem TaskSide.reed : t.reed = s.reed := by rw [h]
theorem TaskSide.clusters : t.clusters = s.clusters := by rw [h]
theorem TaskSide.irq : t.irq = s.irq := by rw [h]
theorem TaskSide.keepOuter : keepOuter s t = t := by
  rw [h]
  rfl

end

theorem taskSide_modItem (s : State) (q : Nat) (idx : W32) (f : Item → Item) : TaskSide s (modItem s q idx f) := rfl
theorem taskSide_modCore (s : State) (k : Nat) (f : Core → Core) : TaskSide s (modCore s k f) := rfl
theorem taskSide_modTask (s : State) (core thread : Nat) (f : Task → Task) : TaskSide s (modTask s core thread f) := rfl
theorem taskSide_cancelSlots (s : State) (core thread : Nat) (ks : List Nat) : TaskSide s (cancelSlots s core thread ks) := rfl

theorem taskSide_abortThreads (f : Nat) (s : State) (core : Nat) (ts : List Nat) : TaskSide s (abortThreads f s core ts) := by
  induction f generalizing s ts with
  | zero => exact .refl s
  | succ f ih =>
    cases ts with
    | nil => exact .refl s
    | cons a ts =>
      simp only [abortThreads]
      refine .trans ?_ (ih _ _)
      refine .trans ?_ (taskSide_modCore _ _ _)
      refine .trans ?_ (TaskSide.foldl (fun s t => taskSide_cancelSlots s core t _) _ _)
      rfl

theorem taskSide_abortTask (s : State) (core thread : Nat) : TaskSide s (abortTask s core thread) := taskSide_abortThreads ..

theorem taskSide_closeWindow (s : State) (core w : Nat) : TaskSide s (closeWindow s core w) := by
  unfold closeWindow
  split
  · exact .refl s
  · exact (taskSide_modCore ..).trans (taskSide_abortThreads ..)

theorem taskSide_dropHalo (s : State) (core w : Nat) : TaskSide s (dropHalo s core w) := (taskSide_closeWindow ..).trans (taskSide_modCore ..)

theorem taskSide_closeAllWindows (s : State) (core : Nat) : TaskSide s (closeAllWindows s core) :=
  TaskSide.foldl (fun _ _ => taskSide_closeWindow ..) _ _

theorem taskSide_abortItemTasks (s : State) (q : Nat) (idx : W32) : TaskSide s (abortItemTasks s q idx) :=
  ((TaskSide.foldl (fun _ _ => taskSide_abortTask ..) _ _).trans (TaskSide.foldl (fun _ (p : Nat × Nat) => taskSide_dropHalo _ p.1 p.2) _ _)).trans rfl

/-! ### An item that ends or commits -/

theorem opOf_congr {s t : State} (h : t.cle = s.cle) (q : Nat) (idx : W32) : opOf t q idx = opOf s q idx := by rw [opOf, h, opOf]

theorem findItem_congr {s t : State} (h : t.items = s.items) (q : Nat) (idx : W32) : findItem t q idx = findItem s q idx := by
  rw [findItem, h, findItem]

section
variable {s : State} {q : Nat} {idx : W32}

theorem closeOp_alone (alone : opOf s q idx = none) (st : Byte) (d : W64) : closeOp s q idx st d = s := by
  simp only [closeOp, alone]

/-- An item without an operation of the Collective Engine ends at once. -/
theorem endItem_alone (alone : opOf s q idx = none) (st d : Nat) : endItem s q idx st d = endNow s q idx st d := by
  simp only [endItem, alone]

theorem commitNow_alone {i : Item} (found : findItem s q idx = some i) (alone : opOf s q idx = none) :
    commitNow s q idx = modItem s q idx (fun x => { x with stage := .committed, breath := lowBreath s }) := by
  simp only [commitNow, found, closeOp_alone alone]

/-- An item committed so: its place and names kept, its stage and breath changed. -/
theorem findItem_commitNow {i : Item} (found : findItem s q idx = some i) (alone : opOf s q idx = none) :
    findItem (commitNow s q idx) q idx = some { i with stage := .committed, breath := lowBreath s } := by
  rw [commitNow_alone found alone, findItem_modItem s q idx (f := fun x => { x with stage := .committed, breath := lowBreath s })
    (h := fun _ hi => hi), found]
  rfl

theorem taskSide_commitNow (alone : opOf s q idx = none) : TaskSide s (commitNow s q idx) := by
  cases found : findItem s q idx with
  | none => simp only [commitNow, found]; exact .refl s
  | some i => rw [commitNow_alone found alone]; rfl

/-- An item that ends is taken off the fault records that it was attached to; no record goes. -/
theorem recs_endNow (s : State) (q : Nat) (idx : W32) (st d : Nat) : (endNow s q idx st d).tr.recs =
    s.tr.recs.map (fun r => { r with attached := r.attached.filter (fun p => p ≠ (q, idx)) }) := by
  have kept : (closeOp (abortItemTasks s q idx) q idx (BitVec.ofNat 8 st) (BitVec.ofNat 64 d)).tr = s.tr := by
    refine Eq.trans ?_ (taskSide_abortItemTasks s q idx).tr
    unfold closeOp
    split
    · rfl
    · dsimp only
      split <;> rfl
  exact congrArg (fun tr : Trans => tr.recs.map _) kept

end

end Sys2Proof.Proofs.Aborts

/-! Paging Engine items begin (R209), and the commands that stage and swap banks (R224, R237). -/

namespace Sys2Proof.Proofs.PagingBegin

open Sys2Proof Sys2Proof.Machine Sys2Proof.Safety Sys2Proof.Laws
open Sys2Proof.Proofs.RegisterWrites Sys2Proof.Proofs.ItemLaws Sys2Proof.Proofs.Accesses Sys2Proof.Proofs.Aborts

/-! ### The beginning of an item -/

/-- s with an item that has begun. -/
abbrev begun (s : State) (q : Nat) (idx : W32) : State := modItem s q idx (fun x => { x with stage := .executing, begun := true })

theorem findItem_begun {s : State} {q : Nat} {idx : W32} {i : Item} (found : findItem s q idx = some i) :
    findItem (begun s q idx) q idx = some { i with stage := .executing, begun := true } := by
  rw [findItem_modItem s q idx (f := fun x => { x with stage := .executing, begun := true }) (h := fun _ hi => hi), found]
  rfl

theorem begun_cle (s : State) (q : Nat) (idx : W32) : (begun (inBreath s) q idx).cle = s.cle := rfl
theorem begun_mem (s : State) (q : Nat) (idx : W32) : (begun (inBreath s) q idx).mem = s.mem := rfl
theorem begun_pg (s : State) (q : Nat) (idx : W32) : (begun (inBreath s) q idx).pg = s.pg := rfl
theorem begun_tr (s : State) (q : Nat) (idx : W32) : (begun (inBreath s) q idx).tr = s.tr := rfl
theorem begun_breath (s : State) (q : Nat) (idx : W32) : (begun (inBreath s) q idx).breath = s.breath := rfl

theorem readsAlike_begun (s : State) (q : Nat) (idx : W32) : ReadsAlike s (begun (inBreath s) q idx) :=
  (readsAlike_inBreath s).trans (readsAlike_modItem ..)

/-- A signed distance on the circle of 32 bits. -/
theorem sgn32_toNat (x : W32) : sgn32 x.toNat = x.toInt := by
  unfold sgn32
  rw [BitVec.toInt_eq_toNat_cond]
  have := x.isLt
  split <;> split <;> omega

theorem stage_of_mayBegin {s : State} {i : Item} (h : mayBegin s i = true) : i.stage = .accepted := by
  simp only [mayBegin, Bool.and_eq_true, decide_eq_true_eq] at h
  obtain ⟨⟨⟨⟨⟨stage, -⟩, -⟩, -⟩, -⟩, -⟩ := h
  exact stage

section
variable {s : State} {q : Nat} {idx : W32} {i : Item} {op : Nat} (begins : itemBegins s q idx op i)
include begins

/-- A command that names no sequence runs as it begins. -/
theorem pgRun_runs (h : op = 0x26 ∨ op = 0x27 ∨ op = 0x28) (hint : Bool) (f : State → Item → State) :
    pgRun (inBreath s) q idx op hint false f = f (begun (inBreath s) q idx) i := by
  obtain ⟨found, opcode, may, -, -, -⟩ := begins
  have found' : findItem (inBreath s) q idx = some i := found
  have may' : mayBegin (inBreath s) i = true := may
  have turn : orderHeld (inBreath s) i = false := by
    have : ¬(0x20 ≤ i.opcode ∧ i.opcode ≤ 0x25) := by omega
    simp only [orderHeld, this, decide_false, Bool.false_and]
  have named : (op = 0x26 || op = 0x27 || op = 0x28 || decide (i.stage = .executing)) = true := by
    rcases h with rfl | rfl | rfl <;> rfl
  simp only [pgRun, found', opcode, may', turn, Bool.false_and, Bool.not_false, Bool.and_true, Bool.true_or, Bool.not_true,
    ne_eq, not_true_eq_false, decide_false, Bool.or_self, Bool.false_eq_true, if_false, named, if_true]

/-- A command that names a sequence is checked as it begins (R209). -/
theorem pgRun_checks (stages : mayStage s q idx) (h : op < 0x26) (hint : Bool) (f : State → Item → State) :
    (∀ st d, pChecks (inBreath s) i hint = some (st, d) →
      pgRun (inBreath s) q idx op hint true f = endNow (begun (inBreath s) q idx) q idx st d) ∧
    (pChecks (inBreath s) i hint = none → pgRun (inBreath s) q idx op hint true f = f (begun (inBreath s) q idx) i) := by
  obtain ⟨found, opcode, may, -, -, -⟩ := begins
  obtain ⟨-, free, turn⟩ := stages
  rw [found, Option.all_some, Bool.not_eq_true'] at turn
  have found' : findItem (inBreath s) q idx = some i := found
  have may' : mayBegin (inBreath s) i = true := may
  have free' : seqStaging (inBreath s) = false := free
  have turn' : orderHeld (inBreath s) i = false := turn
  have named : (op = 0x26 || op = 0x27 || op = 0x28 || decide (i.stage = .executing)) = false := by
    have e6 : op ≠ 0x26 := by omega
    have e7 : op ≠ 0x27 := by omega
    have e8 : op ≠ 0x28 := by omega
    simp only [e6, e7, e8, stage_of_mayBegin may, reduceCtorEq, decide_false, Bool.or_self]
  constructor
  · intro st d check
    simp only [pgRun, found', opcode, may', free', turn', check, Bool.and_false, Bool.not_false, Bool.and_true, Bool.true_or,
      Bool.not_true, ne_eq, not_true_eq_false, decide_false, Bool.or_self, Bool.false_eq_true, if_false, named]
  · intro check
    simp only [pgRun, found', opcode, may', free', turn', check, Bool.and_false, Bool.not_false, Bool.and_true, Bool.true_or,
      Bool.not_true, ne_eq, not_true_eq_false, decide_false, Bool.or_self, Bool.false_eq_true, if_false, named]

/-- A command that changes a sequence, or ends by the checks of R209 (R210). -/
theorem pgStage_checks (stages : mayStage s q idx) (h : op < 0x26) (f : State → Item → Except PErr Work) :
    (∀ st d, pChecks (inBreath s) i false = some (st, d) →
      pgStage (inBreath s) q idx op f = endNow (begun (inBreath s) q idx) q idx st d) ∧
    (∀ e, pChecks (inBreath s) i false = none → f (begun (inBreath s) q idx) i = .error e →
      pgStage (inBreath s) q idx op f = pErr (begun (inBreath s) q idx) q idx e) ∧
    (∀ w, pChecks (inBreath s) i false = none → f (begun (inBreath s) q idx) i = .ok w →
      pgStage (inBreath s) q idx op f = stageDone (begun (inBreath s) q idx) i w
        (if op = 0x22 then [Change.entry (pSeq i) { getSeq s (pSeq i) with lastSn := pOpSn i }] else [])) := by
  have quiet : stagingBusy (inBreath s) q idx = false := stages.1
  refine ⟨fun st d check => ?_, fun e check bad => ?_, fun w check good => ?_⟩
  all_goals rw [pgStage, quiet, if_neg Bool.false_ne_true]
  · exact (pgRun_checks begins stages h ..).1 st d check
  · rw [(pgRun_checks begins stages h ..).2 check, bad]
  · rw [(pgRun_checks begins stages h ..).2 check, good]
    rfl

theorem pageMigrate_checks (stages : mayStage s q idx) (h : op = 0x24) :
    (∀ st d, pChecks (inBreath s) i false = some (st, d) →
      pageMigrate (inBreath s) q idx = endNow (begun (inBreath s) q idx) q idx st d) ∧
    (pChecks (inBreath s) i false = none → (getSeq s (pSeq i)).live = true → layersInside i (getSeq s (pSeq i)) = true →
      tierLegal s (pTier i) = true → pageMigrate (inBreath s) q idx = migAdvance (begun (inBreath s) q idx) q idx) := by
  have found : findItem (inBreath s) q idx = some i := begins.1
  have stage : i.stage ≠ .executing := by
    rw [stage_of_mayBegin begins.2.2.1]
    nofun
  subst h
  refine ⟨fun st d check => ?_, fun check live inside legal => ?_⟩
  all_goals
    unfold pageMigrate
    rw [found]
    dsimp only
    rw [if_neg stage]
  · exact (pgRun_checks begins stages (by decide) ..).1 st d check
  rw [(pgRun_checks begins stages (by decide) ..).2 check]
  have live' : (getSeq (begun (inBreath s) q idx) (pSeq i)).live = true := live
  have inside' : layersInside i (getSeq (begun (inBreath s) q idx) (pSeq i)) = true := inside
  have legal' : tierLegal (begun (inBreath s) q idx) (pTier i) = true := legal
  simp only [live', inside', legal', Bool.not_true, Bool.or_self, Bool.false_eq_true, if_false]

end

/-! ### The checks of R209 -/

section
variable {s : State} {i : Item}

theorem pChecks_context (h : (getSeq s (pSeq i)).live = true ∧ (getSeq s (pSeq i)).ctx ≠ i.ctx) (hint : Bool) :
    pChecks s i hint = some (0x13, 0) := by
  simp only [pChecks, h.1, ne_eq, h.2, not_false_eq_true, decide_true, Bool.and_self, if_true]

theorem pChecks_stale (own : ¬((getSeq s (pSeq i)).live = true ∧ (getSeq s (pSeq i)).ctx ≠ i.ctx))
    (h : (pOpSn i - (getSeq s (pSeq i)).lastSn).toInt ≤ 0) : pChecks s i false = some (0x04, (getSeq s (pSeq i)).lastSn.toNat) := by
  have own' : ((getSeq s (pSeq i)).live && decide ((getSeq s (pSeq i)).ctx ≠ i.ctx)) = false := by
    simpa only [Bool.eq_false_iff, ne_eq, Bool.and_eq_true, decide_eq_true_eq] using own
  simp only [pChecks, own', Bool.false_eq_true, if_false, sgn32_toNat, h, decide_true, Bool.not_false, Bool.and_self, if_true]

theorem pChecks_passes (own : ¬((getSeq s (pSeq i)).live = true ∧ (getSeq s (pSeq i)).ctx ≠ i.ctx)) {hint : Bool}
    (h : hint = true ∨ 0 < (pOpSn i - (getSeq s (pSeq i)).lastSn).toInt) : pChecks s i hint = none := by
  have own' : ((getSeq s (pSeq i)).live && decide ((getSeq s (pSeq i)).ctx ≠ i.ctx)) = false := by
    simpa only [Bool.eq_false_iff, ne_eq, Bool.and_eq_true, decide_eq_true_eq] using own
  have fresh : (!hint && decide ((pOpSn i - (getSeq s (pSeq i)).lastSn).toInt ≤ 0)) = false := by
    rcases h with rfl | h
    · rfl
    · rw [decide_eq_false (Int.not_le.mpr h), Bool.and_false]
  simp only [pChecks, own', sgn32_toNat, fresh, Bool.false_eq_true, if_false]

end

/-- An item that ends as it begins changes neither the tables, a pool, nor memory. -/
theorem ended_begun {s : State} {q : Nat} {idx : W32} {i : Item} (hup : up s) (found : findItem s q idx = some i) {st d : Nat}
    {f : State → State} (effect : f (inBreath s) = endNow (begun (inBreath s) q idx) q idx st d) :
    ∃ t, live s (fun s => f (inBreath s)) = .next t ∧ ended t q idx (BitVec.ofNat 8 st) (BitVec.ofNat 64 d) ∧ t.pg = s.pg ∧ t.mem = s.mem := by
  have side : ItemSide (inBreath s) (f (inBreath s)) := by
    rw [effect]
    exact (itemSide_modItem ..).trans (itemSide_endNow ..)
  have done : ended (f (inBreath s)) q idx (BitVec.ofNat 8 st) (BitVec.ofNat 64 d) := by
    rw [effect]
    exact ended_endNow (findItem_begun (s := inBreath s) found) st d
  have pg : (f (inBreath s)).pg = s.pg := by
    rw [side]
    rfl
  exact ⟨_, live_up (f := fun s => f (inBreath s)) hup, ended_keepOuter done, pg, side.mem⟩

/-- Settles O25: every one of the six commands begins through `pgRun`, whose checks end it. -/
theorem sequenceCommandsAreChecked : Obligations.SequenceCommandsAreChecked := by
  intro s q idx i hup stages p named begins
  have found : findItem s q idx = some i := begins.1
  have ends : ∀ {st d : Nat}, pChecks (inBreath s) i (p.1 = 0x25) = some (st, d) →
      ∃ t, exec p.2 s = .next t ∧ ended t q idx (BitVec.ofNat 8 st) (BitVec.ofNat 64 d) ∧ t.pg = s.pg ∧ t.mem = s.mem := by
    intro st d check
    simp only [List.mem_cons, List.not_mem_nil, or_false] at named
    obtain rfl | rfl | rfl | rfl | rfl | rfl := named
    · exact ended_begun (f := fun s => pgStage s q idx 0x20 stageAlloc) hup found
        ((pgStage_checks begins stages (show 0x20 < 0x26 by decide) _).1 _ _ check)
    · exact ended_begun (f := fun s => pgStage s q idx 0x21 stageAppend) hup found
        ((pgStage_checks begins stages (show 0x21 < 0x26 by decide) _).1 _ _ check)
    · exact ended_begun (f := fun s => pgStage s q idx 0x22 stageFork) hup found
        ((pgStage_checks begins stages (show 0x22 < 0x26 by decide) _).1 _ _ check)
    · exact ended_begun (f := fun s => pgStage s q idx 0x23 stageFree) hup found
        ((pgStage_checks begins stages (show 0x23 < 0x26 by decide) _).1 _ _ check)
    · exact ended_begun (f := fun s => pageMigrate s q idx) hup found ((pageMigrate_checks begins stages rfl).1 _ _ check)
    · refine ended_begun (f := fun s => tierHint s q idx) hup found ?_
      exact (pgRun_checks begins stages (show 0x25 < 0x26 by decide) ..).1 _ _ check
  refine ⟨fun other => ends (pChecks_context (s := inBreath s) other _), fun own ⟨sn, stale⟩ => ?_⟩
  have check : pChecks (inBreath s) i (p.1 = 0x25) = some (0x04, (getSeq s (pSeq i)).lastSn.toNat) := by
    rw [decide_eq_false sn]
    exact pChecks_stale (s := inBreath s) own stale
  have := ends check
  rwa [BitVec.ofNat_toNat] at this

/-! ### Banks (R224, R237) -/

/-- An item that has begun commits in u, when u differs from the beginning in neither items nor the Collective Engine. -/
theorem commits {s u : State} {q : Nat} {idx : W32} {i : Item} (found : findItem s q idx = some i) (alone : opOf s q idx = none)
    (items : u.items = (begun (inBreath s) q idx).items) (cle : u.cle = s.cle) :
    (∃ j, findItem (commitNow u q idx) q idx = some j ∧ j.stage = .committed) ∧ TaskSide u (commitNow u q idx) := by
  have alone' : opOf u q idx = none := (opOf_congr cle q idx).trans alone
  exact ⟨⟨_, findItem_commitNow ((findItem_congr items q idx).trans (findItem_begun (s := inBreath s) found)) alone', rfl⟩,
    taskSide_commitNow alone'⟩

section
variable {s : State} {q : Nat} {idx : W32} {i : Item} (begins : itemBegins s q idx 0x27 i) (alone : opOf s q idx = none)
include begins alone

theorem bankStage_denied (other : i.ctx ≠ 0) : bankStage (inBreath s) q idx = endNow (begun (inBreath s) q idx) q idx 0x13 0 := by
  unfold bankStage
  rw [pgRun_runs begins (.inr (.inl rfl))]
  dsimp only
  rw [if_pos other, endItem_alone (s := begun (inBreath s) q idx) alone]

theorem bankStage_untargeted (own : i.ctx = 0) (h : 2 ≤ pTarget i) :
    bankStage (inBreath s) q idx = endNow (begun (inBreath s) q idx) q idx 0x15 0 := by
  unfold bankStage
  rw [pgRun_runs begins (.inr (.inl rfl))]
  dsimp only
  rw [if_neg (not_not_intro own), if_pos h, endItem_alone (s := begun (inBreath s) q idx) alone]

end

/-- s with an image staged for the Sequence Table. -/
def stageSeqBank (s : State) (bank : Tab SeqEntry) : State := { s with pg := { s.pg with inactive := bank, staged := some s.breath.num } }

theorem stageSeqBank_pg (s : State) (bank : Tab SeqEntry) :
    (stageSeqBank s bank).pg = { s.pg with inactive := bank, staged := some s.breath.num } := rfl
theorem stageSeqBank_keeps (s : State) (bank : Tab SeqEntry) : (stageSeqBank s bank).items = s.items ∧ (stageSeqBank s bank).cle = s.cle ∧
    (stageSeqBank s bank).tr = s.tr ∧ (stageSeqBank s bank).mem = s.mem := ⟨rfl, rfl, rfl, rfl⟩

/-- s with an image staged for the Page Translation Cache. -/
def stagePtcBank (s : State) (bank : List PtcEntry) : State := { s with tr := { s.tr with inactive := bank, staged := some s.breath.num } }

theorem stagePtcBank_tr (s : State) (bank : List PtcEntry) :
    (stagePtcBank s bank).tr = { s.tr with inactive := bank, staged := some s.breath.num } := rfl
theorem stagePtcBank_keeps (s : State) (bank : List PtcEntry) : (stagePtcBank s bank).items = s.items ∧ (stagePtcBank s bank).cle = s.cle ∧
    (stagePtcBank s bank).pg = s.pg ∧ (stagePtcBank s bank).mem = s.mem := ⟨rfl, rfl, rfl, rfl⟩

section
variable {s : State} {q : Nat} {idx : W32} {i : Item} {bs : List Byte} {k : Nat} (begins : itemBegins s q idx 0x27 i) (own : i.ctx = 0)
  (fine : verifyRead s 0 (cmd64 i.cmd 16) bs = .ok (.fine k))
include begins own fine

theorem bankStage_sequences (target : pTarget i = 0) (read : readVa s 0 (cmd64 i.cmd 16) 4194304 = .ok bs)
    (legal : (pieces 64 bs).any seqRsv = false) :
    bankStage (inBreath s) q idx = commitNow (stageSeqBank (countVerified (begun (inBreath s) q idx) k) (seqImage bs)) q idx := by
  have same := readsAlike_begun s q idx
  unfold bankStage
  rw [pgRun_runs begins (.inr (.inl rfl))]
  simp only [own, target, same.readVa, same.verifyRead, if_true, read, fine, legal, ne_eq, not_true_eq_false, if_false, Nat.reduceMul,
    Nat.reduceLeDiff, Bool.false_eq_true, stageSeqBank]

theorem bankStage_pages (target : pTarget i = 1) (read : readVa s 0 (cmd64 i.cmd 16) 2097152 = .ok bs)
    (legal : (pieces 16 bs).any ptcRsv = false) {vs : List PtcEntry} (image : ptcImage bs = some vs) :
    bankStage (inBreath s) q idx = commitNow (stagePtcBank (countVerified (begun (inBreath s) q idx) k) vs) q idx := by
  have same := readsAlike_begun s q idx
  unfold bankStage
  rw [pgRun_runs begins (.inr (.inl rfl))]
  simp only [own, target, same.readVa, same.verifyRead, read, fine, legal, image, ne_eq, not_true_eq_false, if_false, Nat.reduceMul,
    Nat.reduceLeDiff, one_ne_zero, Bool.false_eq_true, stagePtcBank]

end

/-- s with its Sequence Table banks exchanged. -/
def swapSeqBanks (s : State) : State := { s with pg := { s.pg with active := s.pg.inactive, inactive := s.pg.active, staged := none } }

/-- s with its Page Translation Cache banks exchanged. -/
def swapPtcBanks (s : State) : State := { s with tr := { s.tr with active := s.tr.inactive, inactive := [], staged := none } }

section
variable {s : State} {b c : W64} (first : s.pg.staged = some b) (due : b.toNat < s.breath.num.toNat) (second : s.tr.staged = some c)
include first due second

theorem bankSwap_both (due' : c.toNat < s.breath.num.toNat) : bankSwap s = swapPtcBanks (swapSeqBanks s) := by
  simp only [bankSwap, first, due, second, due', decide_true, if_true, swapSeqBanks, swapPtcBanks]

theorem bankSwap_first (wait : s.breath.num.toNat ≤ c.toNat) : bankSwap s = swapSeqBanks s := by
  simp only [bankSwap, first, due, second, Nat.not_lt_of_le wait, decide_true, decide_false, if_true, Bool.false_eq_true, if_false,
    swapSeqBanks]

end

/-- Settles O29: a staged bank is committed with its image in the inactive bank, and `bankSwap` exchanges it once it is due. -/
theorem banksAreStagedAndSwapped : Obligations.BanksAreStagedAndSwapped := by
  refine ⟨fun s q idx i bs k hup begins alone => ⟨fun other => ?denied, fun own big => ?untargeted, fun own target read fine legal =>
    ?sequences, fun own target read fine legal vs image => ?pages⟩, fun s hup inside => atEdge_late (f := bankSwap) hup inside,
    fun s b c hup edge first due second => ⟨fun due' => ?both, fun wait => ?one⟩⟩
  case denied =>
    obtain ⟨t, run, done, pg, -⟩ := ended_begun (f := fun s => bankStage s q idx) hup begins.1 (bankStage_denied begins alone other)
    exact ⟨t, run, done, pg⟩
  case untargeted =>
    obtain ⟨t, run, done, pg, -⟩ := ended_begun (f := fun s => bankStage s q idx) hup begins.1 (bankStage_untargeted begins alone own big)
    exact ⟨t, run, done, pg⟩
  case sequences =>
    let u := countVerified (begun (inBreath s) q idx) k
    obtain ⟨items, cle, tr, mem⟩ := stageSeqBank_keeps u (seqImage bs)
    obtain ⟨⟨j, found, stage⟩, side⟩ := commits (u := stageSeqBank u (seqImage bs)) begins.1 alone (items.trans (countVerified_items ..))
      (cle.trans ((countVerified_cle ..).trans (begun_cle ..)))
    refine ⟨_, j, live_up (f := fun s => bankStage (inBreath s) q idx) hup, ?_⟩
    rw [bankStage_sequences begins own fine target read legal]
    refine ⟨found, stage, ?_, ?_, ?_⟩
    · rw [keepOuter_pg, side.pg, stageSeqBank_pg, countVerified_pg, countVerified_breath, begun_pg, begun_breath]
    · rw [keepOuter_tr, side.tr, tr, countVerified_tr, begun_tr]
    · rw [keepOuter_mem, side.mem, mem, countVerified_mem, begun_mem]
  case pages =>
    let u := countVerified (begun (inBreath s) q idx) k
    obtain ⟨items, cle, pg, mem⟩ := stagePtcBank_keeps u vs
    obtain ⟨⟨j, found, stage⟩, side⟩ := commits (u := stagePtcBank u vs) begins.1 alone (items.trans (countVerified_items ..))
      (cle.trans ((countVerified_cle ..).trans (begun_cle ..)))
    refine ⟨_, j, live_up (f := fun s => bankStage (inBreath s) q idx) hup, ?_⟩
    rw [bankStage_pages begins own fine target read legal image]
    refine ⟨found, stage, ?_, ?_, ?_⟩
    · rw [keepOuter_tr, side.tr, stagePtcBank_tr, countVerified_tr, countVerified_breath, begun_tr, begun_breath]
    · rw [keepOuter_pg, side.pg, pg, countVerified_pg, begun_pg]
    · rw [keepOuter_mem, side.mem, mem, countVerified_mem, begun_mem]
  case both => exact (atEdge_up hup edge).trans (by rw [bankSwap_both first due second due']; rfl)
  case one => exact (atEdge_up hup edge).trans (by rw [bankSwap_first first due second wait]; rfl)

end Sys2Proof.Proofs.PagingBegin

/-! Faults that close, and what waits for a boundary: what a closed fault held, and units on their way back to a pool (R208, R244, R247). -/

namespace Sys2Proof.Proofs.FaultsClose

open Sys2Proof Sys2Proof.Machine Sys2Proof.Safety Sys2Proof.Laws
open Sys2Proof.Proofs.RegisterWrites Sys2Proof.Proofs.ItemLaws Sys2Proof.Proofs.Aborts Sys2Proof.Proofs.PagingBegin

/-! ### A record closes (R247) -/

/-- The faults that still hold an item once a record has closed. -/
def keptKeys (r : FaultRec) (i : Item) : List PageKey :=
  if r.attached.any (fun p => isItem p.1 p.2 i) then i.holdKeys.filter (fun k => k ≠ r.key) else i.holdKeys

/-- An item once a record has closed. -/
def closedItem (now : W64) (r : FaultRec) (i : Item) : Item :=
  if (keptKeys r i).isEmpty && i.ready.isNone && ((r.attached.any (fun p => isItem p.1 p.2 i) && !i.holdKeys.isEmpty) || i.retryFull) then
    { i with holdKeys := keptKeys r i, ready := some now }
  else { i with holdKeys := keptKeys r i }

theorem closedItem_named (now : W64) (r : FaultRec) (i : Item) (q : Nat) (idx : W32) : isItem q idx (closedItem now r i) = isItem q idx i := by
  unfold closedItem
  split <;> rfl

/-- An item that waited on the record alone may resume. -/
theorem closedItem_alone {now : W64} {r : FaultRec} {i : Item} (mine : r.attached.any (fun p => isItem p.1 p.2 i) = true)
    (held : i.holdKeys = [r.key]) (waits : i.ready = none) :
    (closedItem now r i).holdKeys = [] ∧ (closedItem now r i).ready = some now := by
  have none_ : keptKeys r i = [] := by
    simp only [keptKeys, mine, held, if_true, List.filter_cons, ne_eq, not_true_eq_false, decide_false, Bool.false_eq_true, if_false,
      List.filter_nil]
  simp only [closedItem, none_, mine, held, waits, if_true, List.isEmpty_nil, Option.isNone_none, List.isEmpty_cons, Bool.not_false,
    Bool.and_self, Bool.true_or, and_self]

theorem findItem_closeRec (s : State) (r : FaultRec) (q : Nat) (idx : W32) :
    findItem (closeRec s r) q idx = (findItem s q idx).map (closedItem s.breath.num r) := by
  have items : (closeRec s r).items = s.items.map (closedItem s.breath.num r) := rfl
  rw [findItem, items, List.find?_map, findItem]
  exact congrArg (fun p => (s.items.find? p).map _) (funext fun i => closedItem_named s.breath.num r i q idx)

theorem closeRec_tr (s : State) (r : FaultRec) : (closeRec s r).tr = { s.tr with recs := s.tr.recs.filter (fun x => x.key ≠ r.key) } := rfl
theorem closeRec_mem (s : State) (r : FaultRec) : (closeRec s r).mem = s.mem := rfl
theorem closeRec_cle (s : State) (r : FaultRec) : (closeRec s r).cle = s.cle := rfl

section
variable {s : State} {q : Nat} {idx : W32} {i : Item} (begins : itemBegins s q idx 0x28 i)
include begins

theorem faultDone_denied (alone : opOf s q idx = none) (other : i.ctx ≠ 0) :
    faultDone (inBreath s) q idx = endNow (begun (inBreath s) q idx) q idx 0x13 0 := by
  unfold faultDone
  rw [pgRun_runs begins (.inr (.inr rfl))]
  dsimp only
  rw [if_pos other, endItem_alone ((opOf_congr (begun_cle ..) q idx).trans alone)]

theorem faultDone_closes (own : i.ctx = 0) (disp : fld (cmd64 i.cmd 48) 33 32 = 0) {r : FaultRec}
    (open_ : s.tr.recs.find? (fun r => r.number = some ((cmd64 i.cmd 48).setWidth 32) && s.tr.tail ≠ (cmd64 i.cmd 48).setWidth 32) = some r) :
    faultDone (inBreath s) q idx = commitNow (closeRec (begun (inBreath s) q idx) r) q idx := by
  unfold faultDone
  rw [pgRun_runs begins (.inr (.inr rfl))]
  simp only [own, disp, begun_tr, BitVec.ofNat_toNat, open_, ne_eq, not_true_eq_false, if_false, Nat.reduceLeDiff, zero_ne_one]

theorem faultDone_nothing (own : i.ctx = 0) (disp : fld (cmd64 i.cmd 48) 33 32 = 0)
    (closed : ∀ r ∈ s.tr.recs, r.number = some ((cmd64 i.cmd 48).setWidth 32) → s.tr.tail = (cmd64 i.cmd 48).setWidth 32) :
    faultDone (inBreath s) q idx = commitNow (begun (inBreath s) q idx) q idx := by
  have none_ : s.tr.recs.find? (fun r => r.number = some ((cmd64 i.cmd 48).setWidth 32) && s.tr.tail ≠ (cmd64 i.cmd 48).setWidth 32) = none := by
    simpa using closed
  unfold faultDone
  rw [pgRun_runs begins (.inr (.inr rfl))]
  simp only [own, disp, begun_tr, BitVec.ofNat_toNat, none_, ne_eq, not_true_eq_false, if_false, Nat.reduceLeDiff]

end

/-! ### What a closed fault held resumes (R244) -/

/-- A moment of an earlier breath. -/
def earlier (s : State) (at_ : Option W64) : Bool := match at_ with
  | some b => decide (b.toNat < s.breath.num.toNat)
  | none => false

theorem taskReissue_keepOuter (s : State) (q : Nat) (idx : W32) : keepOuter s (taskReissue s q idx) = taskReissue s q idx := rfl

theorem findItem_taskReissue {s : State} {q : Nat} {idx : W32} {i : Item} (found : findItem s q idx = some i) :
    findItem (taskReissue s q idx) q idx =
      some (if i.holdKeys.isEmpty && earlier s i.ready then { i with retryFull := false, ready := none } else i) := by
  have items : (taskReissue s q idx).items = (modItem s q idx (fun i =>
    if i.holdKeys.isEmpty && earlier s i.ready then { i with retryFull := false, ready := none } else i)).items := rfl
  rw [findItem_congr items, findItem_modItem (h := fun i hi => by split <;> exact hi), found]
  rfl

/-! ### Units return to their pools (R208) -/

theorem freeUnit_keeps (s : State) (u : PoolUnit) :
    (freeUnit s u).mem = s.mem ∧ (freeUnit s u).items = s.items ∧ (freeUnit s u).pg.returning = s.pg.returning := by
  rcases u with ⟨_ | _, f⟩ | n | b <;> exact ⟨rfl, rfl, rfl⟩

theorem freeUnit_frame (s : State) (far : Bool) (f : Nat) : (freeUnit s (.frame far f)).pg =
    if far then { s.pg with used1 := dropOne s.pg.used1 f } else { s.pg with used0 := dropOne s.pg.used0 f } := by cases far <;> rfl

theorem freeUnit_lpn (s : State) (n : Nat) : (freeUnit s (.lpn n)).pg =
    { s.pg with usedLpn := dropOne s.pg.usedLpn n, autoWait := s.pg.autoWait.filter (fun p => p.1 ≠ n) } := rfl

theorem freeUnit_blk (s : State) (b : Nat) : (freeUnit s (.blk b)).pg = { s.pg with usedBlk := dropOne s.pg.usedBlk b } := rfl

theorem mem_dropOne (l : List Nat) (k n : Nat) : n ∈ dropOne l k ↔ n ∈ l ∧ n ≠ k := by simp [dropOne]

/-- A unit leaves the list of its own pool alone. -/
theorem mem_freeUnit (s : State) (u : PoolUnit) :
    (∀ f, f ∈ (freeUnit s u).pg.used0 ↔ f ∈ s.pg.used0 ∧ u ≠ .frame false f) ∧
    (∀ f, f ∈ (freeUnit s u).pg.used1 ↔ f ∈ s.pg.used1 ∧ u ≠ .frame true f) ∧
    (∀ n, n ∈ (freeUnit s u).pg.usedLpn ↔ n ∈ s.pg.usedLpn ∧ u ≠ .lpn n) ∧
    (∀ b, b ∈ (freeUnit s u).pg.usedBlk ↔ b ∈ s.pg.usedBlk ∧ u ≠ .blk b) := by
  rcases u with ⟨_ | _, f⟩ | n | b
  · simp [freeUnit_frame, mem_dropOne, eq_comm]
  · simp [freeUnit_frame, mem_dropOne, eq_comm]
  · simp [freeUnit_lpn, mem_dropOne, eq_comm]
  · simp [freeUnit_blk, mem_dropOne, eq_comm]

/-- Units that return one after the other. -/
theorem mem_freeUnits (l : List Returning) (s : State) : let t := l.foldl (fun st r => freeUnit st r.unit) s
    (t.mem = s.mem ∧ t.items = s.items ∧ t.pg.returning = s.pg.returning) ∧
    (∀ f, f ∈ t.pg.used0 ↔ f ∈ s.pg.used0 ∧ ∀ r ∈ l, r.unit ≠ .frame false f) ∧
    (∀ f, f ∈ t.pg.used1 ↔ f ∈ s.pg.used1 ∧ ∀ r ∈ l, r.unit ≠ .frame true f) ∧
    (∀ n, n ∈ t.pg.usedLpn ↔ n ∈ s.pg.usedLpn ∧ ∀ r ∈ l, r.unit ≠ .lpn n) ∧
    (∀ b, b ∈ t.pg.usedBlk ↔ b ∈ s.pg.usedBlk ∧ ∀ r ∈ l, r.unit ≠ .blk b) := by
  induction l generalizing s with
  | nil => simp
  | cons a l ih =>
    obtain ⟨⟨mem, items, returning⟩, used0, used1, lpn, blk⟩ := ih (freeUnit s a.unit)
    obtain ⟨mem', items', returning'⟩ := freeUnit_keeps s a.unit
    obtain ⟨used0', used1', lpn', blk'⟩ := mem_freeUnit s a.unit
    refine ⟨⟨mem.trans mem', items.trans items', returning.trans returning'⟩, fun f => (used0 f).trans ?_, fun f => (used1 f).trans ?_,
      fun n => (lpn n).trans ?_, fun b => (blk b).trans ?_⟩
    · rw [used0', List.forall_mem_cons, and_assoc]
    · rw [used1', List.forall_mem_cons, and_assoc]
    · rw [lpn', List.forall_mem_cons, and_assoc]
    · rw [blk', List.forall_mem_cons, and_assoc]

/-- The units that return at this boundary. -/
def returns (s : State) (r : Returning) : Bool :=
  decide (r.at_.toNat < s.breath.num.toNat) && !s.tasks.any (fun t => decide (t.serial < r.before)) && !copyPending s r.unit

theorem returns_iff (s : State) (r : Returning) : returns s r = true ↔
    r.at_.toNat < s.breath.num.toNat ∧ (∀ k ∈ s.tasks, r.before ≤ k.serial) ∧ copyPending s r.unit = false := by
  simp [returns, and_assoc]

/-- s once the list of units that wait holds those alone that stay. -/
def stillReturning (s : State) : State := { s with pg := { s.pg with returning := s.pg.returning.filter (fun r => !returns s r) } }

theorem poolReturn_eq (s : State) :
    poolReturn s = (s.pg.returning.filter (returns s)).foldl (fun st r => freeUnit st r.unit) (stillReturning s) := rfl

/-- Settles O28: the record through `faultDone_closes`, what it held through `findItem_taskReissue`, units through `mem_freeUnits`. -/
theorem faultsAreClosedResumedAndReturned : Obligations.FaultsAreClosedResumedAndReturned := by
  refine ⟨fun s q idx i hup begins alone => ⟨fun other => ?denied, fun own disp => ⟨fun r open_ => ?closes, fun closed => ?nothing⟩⟩,
    fun s q idx i b hup found free ready => ⟨fun inside => atEdge_late (f := fun s => taskReissue s q idx) hup inside,
      fun edge due => ?resumes, fun wait => ?waits⟩,
    fun s hup inside => atEdge_late (f := poolReturn) hup inside, fun s hup edge => ?pools⟩
  case denied =>
    refine ⟨_, live_up (f := fun s => faultDone (inBreath s) q idx) hup, ?_⟩
    rw [faultDone_denied begins alone other]
    refine ⟨ended_keepOuter (ended_endNow (findItem_begun (s := inBreath s) begins.1) ..), ?_⟩
    rw [keepOuter_tr, recs_endNow, List.length_map, begun_tr]
  case closes =>
    let u := closeRec (begun (inBreath s) q idx) r
    have alone' : opOf u q idx = none := (opOf_congr ((closeRec_cle ..).trans (begun_cle ..)) ..).trans alone
    obtain ⟨k, here⟩ : ∃ k, findItem u q idx = some k :=
      ⟨_, (findItem_closeRec ..).trans (congrArg (Option.map _) (findItem_begun (s := inBreath s) begins.1))⟩
    refine ⟨_, { k with stage := .committed, breath := lowBreath u }, live_up (f := fun s => faultDone (inBreath s) q idx) hup, ?_⟩
    rw [faultDone_closes begins own disp open_]
    refine ⟨(findItem_keepOuter ..).trans (findItem_commitNow here alone'), rfl, ?_, ?_, fun p attached other x held keys waits => ?_⟩
    · rw [keepOuter_tr, (taskSide_commitNow alone').tr, closeRec_tr, begun_tr]
    · rw [keepOuter_mem, (taskSide_commitNow alone').mem, closeRec_mem, begun_mem]
    · have mine : r.attached.any (fun p => isItem p.1 p.2 x) = true := List.any_eq_true.mpr ⟨p, attached, List.find?_some held⟩
      obtain ⟨holds, ready⟩ := closedItem_alone (now := s.breath.num) mine keys waits
      have apart : ¬(p.1 = q ∧ p.2 = idx) := fun h => other (Prod.ext h.1 h.2)
      refine ⟨_, ?_, holds, ready⟩
      rw [findItem_keepOuter, commitNow_alone here alone',
        findItem_modItem_other (f := fun x => { x with stage := .committed, breath := lowBreath u }) (hf := fun _ => ⟨rfl, rfl⟩) (hne := apart),
        findItem_closeRec, begun_breath,
        findItem_modItem_other (f := fun x => { x with stage := .executing, begun := true }) (hf := fun _ => ⟨rfl, rfl⟩) (hne := apart)]
      exact congrArg (Option.map _) held
  case nothing =>
    obtain ⟨⟨j, found, stage⟩, side⟩ := commits (u := begun (inBreath s) q idx) begins.1 alone rfl (begun_cle ..)
    refine ⟨_, j, live_up (f := fun s => faultDone (inBreath s) q idx) hup, ?_⟩
    rw [faultDone_nothing begins own disp closed]
    refine ⟨(findItem_keepOuter ..).trans found, stage, ?_, ?_⟩
    · rw [keepOuter_tr, side.tr, begun_tr]
    · rw [keepOuter_mem, side.mem, begun_mem]
  case resumes =>
    refine ⟨_, (atEdge_up (f := fun s => taskReissue s q idx) hup edge).trans (congrArg _ (taskReissue_keepOuter ..)), ?_, rfl, rfl⟩
    rw [findItem_taskReissue found, free, ready, earlier, decide_eq_true due]
    rfl
  case waits =>
    cases edge : s.edge with
    | false => exact ⟨s, atEdge_late (f := fun s => taskReissue s q idx) hup edge, found⟩
    | true =>
      refine ⟨_, (atEdge_up (f := fun s => taskReissue s q idx) hup edge).trans (congrArg _ (taskReissue_keepOuter ..)), ?_⟩
      rw [findItem_taskReissue found, free, ready, earlier, decide_eq_false (Nat.not_lt_of_le wait)]
      rfl
  case pools =>
    intro due
    obtain ⟨⟨mem, items, returning⟩, used0, used1, lpn, blk⟩ := mem_freeUnits (s.pg.returning.filter (returns s)) (stillReturning s)
    refine ⟨_, atEdge_up (f := poolReturn) hup edge, ?_⟩
    rw [poolReturn_eq, keepOuter_mem, keepOuter_items, keepOuter_pg]
    have goes : ∀ r ∈ s.pg.returning, due r → r ∈ s.pg.returning.filter (returns s) := fun r waits h =>
      List.mem_filter.mpr ⟨waits, (returns_iff s r).mpr h⟩
    have stays : ∀ {u : PoolUnit}, (∀ r ∈ s.pg.returning, r.unit = u → ¬due r) → ∀ r ∈ s.pg.returning.filter (returns s), r.unit ≠ u :=
      fun h r went same => by
        obtain ⟨waits, goes⟩ := List.mem_filter.mp went
        exact h r waits same ((returns_iff s r).mp goes)
    refine ⟨mem, items, fun r => ?_, fun r waits h => ⟨fun f same kept => ((used0 f).mp kept).2 r (goes r waits h) same,
      fun f same kept => ((used1 f).mp kept).2 r (goes r waits h) same, fun n same kept => ((lpn n).mp kept).2 r (goes r waits h) same,
      fun b same kept => ((blk b).mp kept).2 r (goes r waits h) same⟩, fun f held h => (used0 f).mpr ⟨held, stays h⟩,
      fun n held h => (lpn n).mpr ⟨held, stays h⟩⟩
    rw [returning]
    refine List.mem_filter.trans (and_congr_right fun _ => ?_)
    rw [Bool.not_eq_true', Bool.eq_false_iff]
    exact not_congr (returns_iff s r)

end Sys2Proof.Proofs.FaultsClose

/-! The memory side's requests: what issuing them, tags and answers change (R255, R264). -/

namespace Sys2Proof.Proofs.Requests

open Sys2Proof Sys2Proof.Machine Sys2Proof.Safety Sys2Proof.Laws Sys2Proof.Proofs.ItemLaws

/-- A request apart from its tag. -/
abbrev untag (r : Req) : Req := { r with tag := none }

/-- Requests issued one after the other stand behind those before them. -/
theorem reqs_issued (rs : List Req) (s : State) : ∃ js, (rs.foldl issueReq s).mem.reqs = s.mem.reqs ++ js ∧ js.map untag = rs.map untag := by
  induction rs generalizing s with
  | nil => exact ⟨[], (List.append_nil _).symm, rfl⟩
  | cons r rs ih =>
    obtain ⟨js, reqs, same⟩ := ih (issueReq s r)
    refine ⟨{ r with tag := freeTag s r } :: js, ?_, ?_⟩
    · rw [List.foldl_cons, reqs, issueReq, List.append_assoc, List.singleton_append]
    · rw [List.map_cons, same, List.map_cons]

theorem reqSide_issued (rs : List Req) (s : State) : ReqSide s (rs.foldl issueReq s) := ReqSide.foldl reqSide_issueReq rs s

/-- What is true of a request apart from its tag, of every issued one. -/
theorem forall_issued {p : Req → Prop} {rs js : List Req} (same : js.map untag = rs.map untag) (tagless : ∀ r, p (untag r) ↔ p r)
    (h : ∀ r ∈ rs, p r) : ∀ r ∈ js, p r := by
  intro r mem
  have : untag r ∈ rs.map untag := same ▸ List.mem_map_of_mem mem
  obtain ⟨r', mem', eq⟩ := List.mem_map.mp this
  exact (tagless r).mp (eq ▸ (tagless r').mpr (h r' mem'))

/-- Tags that are given out change the tags alone. -/
theorem untag_grantTags (which : Req → Bool) (s : State) : (grantTags which s).mem.reqs.map untag = s.mem.reqs.map untag := by
  refine foldl_keeps (g := fun s => s.mem.reqs.map untag) (fun s r => ?_) _ _
  dsimp only
  split
  · rfl
  · split
    · rfl
    · dsimp only
      rw [List.map_append, List.map_append, List.map_map]
      calc (s.mem.reqs.takeWhile (fun x => x ≠ r)).map untag ++ ((s.mem.reqs.dropWhile (fun x => x ≠ r)).take 1).map untag ++
            ((s.mem.reqs.dropWhile (fun x => x ≠ r)).drop 1).map untag
          = (s.mem.reqs.takeWhile (fun x => x ≠ r) ++ s.mem.reqs.dropWhile (fun x => x ≠ r)).map untag := by
            rw [List.append_assoc, ← List.map_append, List.take_append_drop, List.map_append]
        _ = s.mem.reqs.map untag := by rw [List.takeWhile_append_dropWhile]

/-- The requests left once one is answered, apart from tags. -/
theorem untag_releaseReq (s : State) (tag : Nat) :
    (releaseReq s tag).mem.reqs.map untag = (s.mem.reqs.filter (fun r => r.tag ≠ some tag)).map untag := untag_grantTags _ _

/-! ### Writes of an item that are outstanding -/

/-- The request is a write of an item. -/
def ownedBy (q : Nat) (idx : W32) (r : Req) : Bool := match r.owner with
  | .output a b => a = q && b = idx
  | .drain _ _ _ a b => a = q && b = idx
  | _ => false

theorem outputsLeft_eq (s : State) (q : Nat) (idx : W32) : outputsLeft s q idx = s.mem.reqs.countP (ownedBy q idx) :=
  List.countP_eq_length_filter.symm

theorem countP_untag (q : Nat) (idx : W32) (l : List Req) : (l.map untag).countP (ownedBy q idx) = l.countP (ownedBy q idx) :=
  List.countP_map

theorem outputsLeft_congr {s t : State} (h : t.mem.reqs.map untag = s.mem.reqs.map untag) (q : Nat) (idx : W32) :
    outputsLeft t q idx = outputsLeft s q idx := by
  rw [outputsLeft_eq, outputsLeft_eq, ← countP_untag, h, countP_untag]

theorem outputsLeft_of_mem {s t : State} (h : t.mem = s.mem) (q : Nat) (idx : W32) : outputsLeft t q idx = outputsLeft s q idx := by
  rw [outputsLeft, h, outputsLeft]

/-- The one write of an item that was outstanding is answered. -/
theorem outputsLeft_releaseReq {s : State} {tag : Nat} {r : Req} {q : Nat} {idx : W32} (req : reqOf s tag = some r)
    (mine : ownedBy q idx r = true) (one : outputsLeft s q idx = 1) : outputsLeft (releaseReq s tag) q idx = 0 := by
  have tagged : r.tag = some tag := of_decide_eq_true (List.find?_some (p := fun r : Req => decide (r.tag = some tag)) req)
  rw [outputsLeft_eq, ← countP_untag, untag_releaseReq, countP_untag]
  rw [outputsLeft_eq, List.countP_eq_length_filter] at one
  obtain ⟨x, only⟩ := List.length_eq_one_iff.mp one
  have isX : ∀ y ∈ s.mem.reqs, ownedBy q idx y = true → y = x := fun y mem owned => by
    have : y ∈ s.mem.reqs.filter (ownedBy q idx) := List.mem_filter.mpr ⟨mem, owned⟩
    rw [only] at this
    exact List.mem_singleton.mp this
  refine List.countP_eq_zero.mpr fun y mem owned => ?_
  obtain ⟨mem, kept⟩ := List.mem_filter.mp mem
  rw [isX y mem owned, ← isX r (List.mem_of_find?_eq_some req) mine] at kept
  exact of_decide_eq_true kept tagged

end Sys2Proof.Proofs.Requests

/-! The application of a Paging Engine item's changes (R206, R210): its journal, its parts, its end. -/

namespace Sys2Proof.Proofs.Applications

open Sys2Proof Sys2Proof.Machine Sys2Proof.Safety Sys2Proof.Laws
open Sys2Proof.Proofs.ItemLaws Sys2Proof.Proofs.Accesses Sys2Proof.Proofs.Aborts Sys2Proof.Proofs.PagingBegin Sys2Proof.Proofs.Requests

theorem name_of_found {s : State} {q : Nat} {idx : W32} {i : Item} (found : findItem s q idx = some i) : i.q = q ∧ i.idx = idx := by
  simpa [isItem] using List.find?_some found

/-! ### The journal's writes -/

/-- A page holds the byte that translates to it, and perhaps more. -/
theorem translate_left {s : State} {ctx : CtxId} {addr : W64} {write : Bool} {pa left : Nat}
    (h : Machine.translate s ctx addr write = .ok (pa, left)) : 0 < left := by
  have inside : ∀ va size : Nat, 0 < 2 ^ size - va % 2 ^ size := fun va size =>
    Nat.sub_pos_of_lt (Nat.mod_lt va (Nat.two_pow_pos size))
  unfold Machine.translate at h
  dsimp only at h
  split at h
  · cases h
  · split at h
    · cases h
    · split at h
      · cases h
        exact inside ..
      · split at h <;> cases h
        exact inside ..

/-- A range that holds a byte has a first piece that does. -/
theorem piecesOf_first {s : State} {ctx : CtxId} {write : Bool} {fuel n : Nat} {addr : W64} (hf : fuel ≠ 0) (hn : n ≠ 0)
    {ps : List (W64 × Nat × Nat)} (h : piecesOf s ctx write fuel addr n = .ok ps) : ∃ p rest, ps = p :: rest ∧ 0 < p.2.2 := by
  obtain ⟨f, rfl⟩ := Nat.exists_eq_succ_of_ne_zero hf
  rw [piecesOf, if_neg hn] at h
  split at h
  · cases h
  · next pa left found =>
    dsimp only at h
    split at h
    · cases h
    · cases h
      exact ⟨_, _, rfl, Nat.lt_min.mpr ⟨Nat.pos_of_ne_zero hn, translate_left found⟩⟩

theorem pagesOf_first {s : State} {ctx : CtxId} {write : Bool} {n : Nat} {addr : W64} (hn : n ≠ 0) {ps : List (W64 × Nat × Nat)}
    (h : pagesOf s ctx write addr n = .ok ps) : ∃ p rest, ps = p :: rest ∧ 0 < p.2.2 := 
  piecesOf_first (Nat.succ_ne_zero _) hn h

/-- The changes that write some bytes over physical pieces. -/
def cutChanges (mk : W64 → Nat → List Byte → Change) : List (W64 × Nat × Nat) → List Byte → List Change
  | [], _ => []
  | p :: ps, bs => mk p.1 p.2.1 (bs.take p.2.2) :: cutChanges mk ps (bs.drop p.2.2)

theorem foldl_cut (mk : W64 → Nat → List Byte → Change) (ps : List (W64 × Nat × Nat)) (cs : List Change) (bs : List Byte) :
    (ps.foldl (fun (acc : List Change × List Byte) p => (acc.1 ++ [mk p.1 p.2.1 (acc.2.take p.2.2)], acc.2.drop p.2.2)) (cs, bs)).1 =
      cs ++ cutChanges mk ps bs := by
  induction ps generalizing cs bs with
  | nil => exact (List.append_nil cs).symm
  | cons p ps ih => rw [List.foldl_cons, ih, cutChanges, List.append_assoc, List.singleton_append]

theorem regionWrite_ok {s : State} {mk : W64 → Nat → List Byte → Change} {a : W64} {bs : List Byte} {ps : List (W64 × Nat × Nat)}
    (h : pagesOf s 0 true a bs.length = .ok ps) : regionWrite s mk a bs = .ok (cutChanges mk ps bs) := by
  simp only [regionWrite, h, foldl_cut, List.nil_append]

theorem mem_cutChanges {mk : W64 → Nat → List Byte → Change} {c : Change} (ps : List (W64 × Nat × Nat)) (bs : List Byte)
    (h : c ∈ cutChanges mk ps bs) : ∃ a pa b, c = mk a pa b := by
  induction ps generalizing bs with
  | nil => cases h
  | cons p ps ih =>
    rcases List.mem_cons.mp h with rfl | h
    · exact ⟨_, _, _, rfl⟩
    · exact ih _ h

theorem partWrites_append (a b : List Change) (part : Nat) : partWrites (a ++ b) part = partWrites a part ++ partWrites b part := by
  unfold partWrites
  exact List.flatMap_append

theorem blocksOf_ne_nil {fuel : Nat} (hf : fuel ≠ 0) (a : W64) (pa : Nat) {bs : List Byte} (h : bs ≠ []) : blocksOf fuel a pa bs ≠ [] := by
  obtain ⟨f, rfl⟩ := Nat.exists_eq_succ_of_ne_zero hf
  rw [blocksOf, if_neg (by rwa [List.isEmpty_iff])]
  exact List.cons_ne_nil _ _

/-- A journal's change that holds a byte has a write. -/
theorem partWrites_cons_journal (a : W64) (pa : Nat) {bs : List Byte} (h : bs ≠ []) (cs : List Change) :
    partWrites (.journal a pa bs :: cs) 1 ≠ [] := by
  unfold partWrites
  rw [List.flatMap_cons]
  exact List.append_ne_nil_of_left_ne_nil (blocksOf_ne_nil (Nat.succ_ne_zero _) a pa h) _

/-- The sixteen bytes of a journal. -/
def journalBytes (free : Nat) : List Byte := (List.range 16).map (fun k => BitVec.ofNat 8 (Config.freeWord (free + k)).toNat)

theorem length_journalBytes (free : Nat) : (journalBytes free).length = 16 := by rw [journalBytes, List.length_map, List.length_range]

theorem journalWrite_eq (s : State) (free : Nat) :
    journalWrite s free = regionWrite s .journal (infoAddr s s.pg.infoSize.toNat) (journalBytes free) := rfl

/-- A journal has a write. -/
theorem partWrites_journal {s : State} {free : Nat} {js : List Change} (h : journalWrite s free = .ok js) (cs : List Change) :
    partWrites (js ++ cs) 1 ≠ [] := by
  rw [journalWrite_eq, regionWrite] at h
  split at h
  · cases h
  · next ps found =>
    rw [foldl_cut, List.nil_append] at h
    obtain ⟨⟨a, pa, k⟩, rest, rfl, some_⟩ := pagesOf_first (by rw [length_journalBytes]; decide) found
    cases h
    refine partWrites_cons_journal a pa (fun none_ => ?_) _
    rw [List.take_eq_nil_iff] at none_
    rcases none_ with zero | empty
    · exact Nat.lt_irrefl 0 (zero ▸ some_)
    · have := length_journalBytes free
      rw [empty] at this
      cases this

theorem journalWrite_ok {s : State} {at_ : List (W64 × Nat × Nat)}
    (h : pagesOf s 0 true (infoAddr s s.pg.infoSize.toNat) 16 = .ok at_) (free : Nat) :
    ∃ js, journalWrite s free = .ok js ∧ ∀ c ∈ js, ∃ a pa b, c = .journal a pa b :=
  ⟨_, regionWrite_ok (bs := journalBytes free) (by rw [length_journalBytes]; exact h), fun _ => mem_cutChanges _ _⟩

/-! ### Parts go out -/

/-- The requests of one part of an application. -/
abbrev partReqs (q : Nat) (idx : W32) (cs : List Change) (part : Nat) : List Req :=
  (partWrites cs part).map (writeReq (.output q idx) 64 none 0)

/-- s with one part of an application issued. -/
def applying (s : State) (q : Nat) (idx : W32) (cs : List Change) (part : Nat) : State :=
  (partReqs q idx cs part).foldl issueReq (modItem s q idx (fun x => { x with applying := part }))

theorem applyPart_issues {s : State} {q : Nat} {idx : W32} {cs : List Change} {part : Nat} {rest : List Nat}
    (some_ : partWrites cs part ≠ []) : applyPart s q idx cs (part :: rest) = applying s q idx cs part := by
  unfold applyPart
  split
  · next none_ => exact absurd none_ some_
  · rfl

theorem applyPart_ends {s : State} {q : Nat} {idx : W32} {cs : List Change} {parts : List Nat}
    (none_ : ∀ k ∈ parts, partWrites cs k = []) : applyPart s q idx cs parts = applyEnd s q idx cs := by
  induction parts with
  | nil => rfl
  | cons k parts ih =>
    unfold applyPart
    rw [none_ k (List.mem_cons_self ..)]
    exact ih fun k h => none_ k (List.mem_cons_of_mem _ h)

theorem reqSide_applying (s : State) (q : Nat) (idx : W32) (cs : List Change) (part : Nat) :
    ReqSide (modItem s q idx (fun x => { x with applying := part })) (applying s q idx cs part) := reqSide_issued ..

theorem findItem_applying {s : State} {q : Nat} {idx : W32} {i : Item} (found : findItem s q idx = some i) (cs : List Change) (part : Nat) :
    findItem (applying s q idx cs part) q idx = some { i with applying := part } := by
  rw [findItem_congr (reqSide_applying ..).items,
    findItem_modItem s q idx (f := fun x => { x with applying := part }) (h := fun _ hi => hi), found]
  rfl

theorem applying_pg (s : State) (q : Nat) (idx : W32) (cs : List Change) (part : Nat) : (applying s q idx cs part).pg = s.pg :=
  (reqSide_applying ..).pg.trans (modItem_pg ..)
theorem applying_queues (s : State) (q : Nat) (idx : W32) (cs : List Change) (part : Nat) : (applying s q idx cs part).queues = s.queues :=
  (reqSide_applying ..).queues.trans (modItem_queues ..)
theorem applying_bytes (s : State) (q : Nat) (idx : W32) (cs : List Change) (part : Nat) : (applying s q idx cs part).mem.bytes = s.mem.bytes :=
  (reqSide_applying ..).bytes.trans (by rw [modItem_mem])

/-- The requests that a part adds, each a write of the item under context 0x000. -/
theorem applying_reqs (s : State) (q : Nat) (idx : W32) {cs : List Change} {part : Nat} (some_ : partWrites cs part ≠ []) :
    ∃ js, (applying s q idx cs part).mem.reqs = s.mem.reqs ++ js ∧ js ≠ [] ∧
      ∀ r ∈ js, r.owner = .output q idx ∧ r.write = true ∧ r.ctx = 0 := by
  obtain ⟨js, reqs, same⟩ := reqs_issued (partReqs q idx cs part) (modItem s q idx (fun x => { x with applying := part }))
  refine ⟨js, reqs, fun none_ => ?_, forall_issued same (fun _ => Iff.rfl) fun r mem => ?_⟩
  · rw [none_, List.map_nil, eq_comm, List.map_eq_nil_iff, List.map_eq_nil_iff] at same
    exact some_ same
  · obtain ⟨b, -, rfl⟩ := List.mem_map.mp mem
    exact ⟨rfl, rfl, rfl⟩

/-! ### The beginning of an application (R210) -/

/-- The migrations that an item's changes discard, before its application. -/
def discarding (s : State) (cs : List Change) : State := (cs.filter isCancel).foldl applyChange s

theorem discarding_none {cs : List Change} (h : ∀ c ∈ cs, isCancel c = false) (s : State) : discarding s cs = s := by
  rw [discarding, List.filter_eq_nil_iff.mpr fun c mem => by rw [h c mem]; exact Bool.false_ne_true]
  rfl

theorem commitPaging_journals {s : State} {q : Nat} {idx : W32} {i : Item} (found : findItem s q idx = some i) (first : i.applying = 0)
    (some_ : partWrites i.staged 1 ≠ []) :
    commitPaging s q idx = applying (discarding s i.staged) q idx i.staged 1 := by
  simp only [commitPaging, found, first, if_true]
  exact applyPart_issues some_

/-! ### Migrations that are discarded -/

/-- One piece of some bytes is stored. -/
def storePiece (acc : State × List Byte) (p : W64 × Nat × Nat) : State × List Byte :=
  (storeMem acc.1 p.2.1 (acc.2.take p.2.2), acc.2.drop p.2.2)

theorem storePiece_keeps (a : State × List Byte) (p : W64 × Nat × Nat) :
    (storePiece a p).1.pg = a.1.pg ∧ (storePiece a p).1.mem.reqs = a.1.mem.reqs ∧ (storePiece a p).1.bell = a.1.bell := ⟨rfl, rfl, rfl⟩

theorem storePieces_keep (ps : List (W64 × Nat × Nat)) (a : State × List Byte) :
    (ps.foldl storePiece a).1.pg = a.1.pg ∧ (ps.foldl storePiece a).1.mem.reqs = a.1.mem.reqs ∧
      (ps.foldl storePiece a).1.bell = a.1.bell := by
  induction ps generalizing a with
  | nil => exact ⟨rfl, rfl, rfl⟩
  | cons p ps ih =>
    obtain ⟨pg, reqs, bell⟩ := ih (storePiece a p)
    obtain ⟨pg', reqs', bell'⟩ := storePiece_keeps a p
    rw [List.foldl_cons]
    exact ⟨pg.trans pg', reqs.trans reqs', bell.trans bell'⟩

theorem pg_putInfo (s : State) (lpn : Nat) (i : InfoEntry) : (putInfo s lpn i).pg = s.pg ∧
    (putInfo s lpn i).mem.reqs = s.mem.reqs ∧ (putInfo s lpn i).bell = s.bell := by
  rw [putInfo]
  cases pagesOf s 0 true (infoAddr s lpn) 16 with
  | error e => exact ⟨rfl, rfl, rfl⟩
  | ok ps => exact storePieces_keep ps (s, infoBytes i)

/-- Discarding a migration leaves the Sequence Table, the writes of items and the Bell record. -/
structure Discards (s t : State) : Prop where
  side : MigSide s t
  active : t.pg.active = s.pg.active
  outputs : ∀ q idx, outputsLeft t q idx = outputsLeft s q idx
  bell : t.bell = s.bell

theorem Discards.refl (s : State) : Discards s s := ⟨.refl s, rfl, fun _ _ => rfl, rfl⟩

theorem Discards.trans {s t u : State} (a : Discards s t) (b : Discards t u) : Discards s u :=
  ⟨a.side.trans b.side, b.active.trans a.active, fun q idx => (b.outputs q idx).trans (a.outputs q idx), b.bell.trans a.bell⟩

theorem Discards.foldl {α : Type} {f : State → α → State} {l : List α} (h : ∀ s, ∀ a ∈ l, Discards s (f s a)) (s : State) :
    Discards s (l.foldl f s) := by
  induction l generalizing s with
  | nil => exact .refl s
  | cons a l ih => exact (h s a (List.mem_cons_self ..)).trans (ih (fun s a mem => h s a (List.mem_cons_of_mem _ mem)) _)

theorem discards_setPg (s : State) {p : Paging} (active : p.active = s.pg.active) : Discards s { s with pg := p } :=
  ⟨rfl, active, fun _ _ => rfl, rfl⟩

theorem discards_putInfo (s : State) (lpn : Nat) (i : InfoEntry) : Discards s (putInfo s lpn i) := by
  obtain ⟨pg, reqs, bell⟩ := pg_putInfo s lpn i
  exact ⟨migSide_putInfo .., by rw [pg], fun q idx => by rw [outputsLeft, reqs, outputsLeft], bell⟩

/-- The requests once the copy of a page has lost those of its writes that no tag carries. -/
def withoutCopy (s : State) (lpn : Nat) : State :=
  { s with mem := { s.mem with reqs := s.mem.reqs.filter (fun r => match r.owner with
    | .copy l _ _ => l ≠ lpn || r.tag.isSome
    | _ => true) } }

theorem discards_withoutCopy (s : State) (lpn : Nat) : Discards s (withoutCopy s lpn) := by
  refine ⟨rfl, rfl, fun q idx => ?_, rfl⟩
  rw [outputsLeft_eq, outputsLeft_eq, withoutCopy, List.countP_filter]
  refine List.countP_congr fun r _ => ?_
  cases owner : r.owner <;> simp [ownedBy, owner]

theorem discards_cancelMig (s : State) (lpn : Nat) (keep : Bool) : Discards s (cancelMig s lpn keep) := by
  have copy := discards_withoutCopy s lpn
  have leaves : ∀ u : PoolUnit, Discards s (leaveUse (countCancelled (dropMig (withoutCopy s lpn) lpn)) u) := fun u =>
    copy.trans ((discards_setPg _ rfl).trans ((discards_setPg _ rfl).trans (discards_setPg _ rfl)))
  rw [cancelMig]
  generalize findMig s lpn = m
  generalize readInfo s lpn = r
  cases m with
  | none => exact .refl s
  | some m =>
    cases r with
    | error e => exact copy.trans ((discards_setPg _ rfl).trans (discards_setPg _ rfl))
    | ok i =>
      dsimp only
      split
      · split
        · exact (leaves _).trans (discards_putInfo ..)
        · exact leaves _
      · split
        · exact (discards_setPg s rfl).trans (discards_setPg _ rfl)
        · exact .refl s

theorem discards_discarding (s : State) (cs : List Change) : Discards s (discarding s cs) := by
  refine Discards.foldl (fun s c mem => ?_) s
  have cancels := (List.mem_filter.mp mem).2
  cases c with
  | cancel lpn => exact discards_cancelMig ..
  | _ => cases cancels

end Sys2Proof.Proofs.Applications

/-! The commands that change a sequence, from their staging to the end of their application (R209 to R216). -/

namespace Sys2Proof.Proofs.SequenceChanges

open Sys2Proof Sys2Proof.Machine Sys2Proof.Safety Sys2Proof.Laws
open Sys2Proof.Proofs.ItemLaws Sys2Proof.Proofs.Accesses Sys2Proof.Proofs.Aborts Sys2Proof.Proofs.PagingBegin Sys2Proof.Proofs.Requests
open Sys2Proof.Proofs.Applications

/-! ### Staging (R210) -/

/-- An item with its changes staged: it holds status OK, and OP_SN in DETAIL. -/
def stagedItem (i : Item) (cs : List Change) (x : Item) : Item :=
  { x with issued := true, staged := cs, status := 0, detail := BitVec.ofNat 64 (pOpSn i).toNat }

/-- s with the changes of an item staged. -/
def staged (s : State) (free : Nat) (i : Item) (n : Nat) (cs : List Change) : State :=
  modItem (countVerified { s with free := free } n) i.q i.idx (stagedItem i cs)

theorem findItem_staged {s : State} {i k : Item} (found : findItem s i.q i.idx = some k) (free n : Nat) (cs : List Change) :
    findItem (staged s free i n cs) i.q i.idx = some (stagedItem i cs k) := by
  have items : (countVerified { s with free := free } n).items = s.items := rfl
  rw [staged, findItem_modItem (f := stagedItem i cs) (h := fun _ hi => hi), findItem_congr items, found]
  rfl

theorem staged_keeps (s : State) (free : Nat) (i : Item) (n : Nat) (cs : List Change) : (staged s free i n cs).queues = s.queues ∧
    (staged s free i n cs).pg = s.pg ∧ (staged s free i n cs).mem = s.mem := ⟨rfl, rfl, rfl⟩

/-- The state once an append has discarded the copies of the pages that it writes. -/
def copiesDropped (s : State) (i : Item) (w : Work) : State :=
  if i.opcode = 0x21 then w.cancels.foldl (fun st l => cancelMig st l true) s else s

/-- The copies that another command discards with its application. -/
def copiesToDrop (i : Item) (w : Work) : List Change := if i.opcode = 0x21 then [] else w.cancels.map Change.cancel

theorem discards_copiesDropped (s : State) (i : Item) (w : Work) : Discards s (copiesDropped s i w) := by
  unfold copiesDropped
  split
  · exact Discards.foldl (fun s l _ => discards_cancelMig s l true) s
  · exact .refl s

theorem copiesDropped_none {w : Work} (h : w.cancels = []) (s : State) (i : Item) : copiesDropped s i w = s := by
  unfold copiesDropped
  rw [h]
  exact ite_self s

/-- The sequence that a command changes. -/
abbrev changedSeq (i : Item) : Nat := if i.opcode = 0x22 then pSeq2 i else pSeq i

section
variable {s s1 : State} {i : Item} {w : Work} {cs : List Change} (changes : w.changes (changedSeq i) = .ok cs)
  (pages : issuePages s i w.pages = .ok s1)
include changes pages

/-- The state of `stageDone` before its application. -/
theorem stageDone_eq (extra : List Change) : ∃ n, stageDone s i w extra =
    let u := staged (copiesDropped s1 i w) (w.free + 16) i n (cs ++ extra ++ copiesToDrop i w)
    if outputsLeft u i.q i.idx = 0 then commitPaging u i.q i.idx else u := by
  refine ⟨w.verified + w.pages.foldl (fun n b => n + bufVerified s b) 0, ?_⟩
  rw [stageDone, changes, pages]
  unfold staged stagedItem copiesDropped copiesToDrop
  by_cases append : i.opcode = 0x21
  · simp only [append, decide_true, if_true]
  · simp only [append, decide_false, Bool.false_eq_true, if_false]

end

theorem issuePages_side {s s1 : State} {i : Item} {ps : List PageBuf} (h : issuePages s i ps = .ok s1) : ReqSide s s1 := by
  unfold issuePages at h
  split at h
  · cases h
  · split at h
    · cases h
      exact reqSide_issued ..
    · cases h
    · cases h

/-- What a working view changes begins with its journal. -/
theorem changes_journal {w : Work} {k : Nat} {cs : List Change} (h : w.changes k = .ok cs) :
    ∃ js, js <+: cs ∧ journalWrite w.s w.free = .ok js := by
  unfold Work.changes at h
  dsimp only at h
  split at h
  · next a b c j _ _ _ journal =>
    cases h
    refine ⟨j, ?_, journal⟩
    simp only [List.append_assoc]
    exact List.prefix_append ..
  all_goals cases h

/-- The changes of a working view end with the entry. -/
theorem changes_entry {w : Work} {k : Nat} {cs : List Change} (h : w.changes k = .ok cs) : Change.entry k w.entry ∈ cs := by
  unfold Work.changes at h
  dsimp only at h
  split at h
  · cases h
    exact List.mem_append_right _ (List.mem_singleton_self _)
  all_goals cases h

/-- How a command that stages changes stands once they are staged. -/
structure Staged (s s1 t : State) (i : Item) (w : Work) (cs extra : List Change) (j : Item) : Prop where
  found : findItem t i.q i.idx = some j
  status : j.status = 0
  detail : j.detail = (pOpSn i).setWidth 64
  stage : j.stage = .executing
  changes : ∀ c ∈ cs, c ∈ j.staged
  queues : t.queues = s.queues
  active : t.pg.active = s.pg.active
  issued : j.issued = true
  waits : outputsLeft s1 i.q i.idx ≠ 0 → w.cancels = [] → t.mem.reqs = s1.mem.reqs
  journals : outputsLeft s1 i.q i.idx = 0 → j.applying = 1
  quiet : outputsLeft s1 i.q i.idx = 0 → w.cancels = [] → (∀ c ∈ cs ++ extra, isCancel c = false) →
    t.pg = s1.pg ∧ t.mem.bytes = s1.mem.bytes ∧ ∃ js, journalOut s1 t i.q i.idx js

theorem staged_stageDone {s s1 : State} {i k : Item} {w : Work} {cs : List Change} (changes : w.changes (changedSeq i) = .ok cs)
    (pages : issuePages s i w.pages = .ok s1) (found : findItem s i.q i.idx = some k) (runs : k.stage = .executing)
    (first : k.applying = 0) (extra : List Change) : ∃ j, Staged s s1 (stageDone s i w extra) i w cs extra j := by
  obtain ⟨n, effect⟩ := stageDone_eq changes pages extra
  have issued := issuePages_side pages
  have drops := discards_copiesDropped s1 i w
  have here : findItem (copiesDropped s1 i w) i.q i.idx = some k :=
    (findItem_congr (drops.side.items.trans issued.items) ..).trans found
  generalize copies : cs ++ extra ++ copiesToDrop i w = all at effect
  have kept : ∀ c ∈ cs, c ∈ all := fun c h => copies ▸ List.mem_append_left _ (List.mem_append_left _ h)
  obtain ⟨queues, pg, mem⟩ := staged_keeps (copiesDropped s1 i w) (w.free + 16) i n all
  have there := findItem_staged here (w.free + 16) n all
  generalize staged (copiesDropped s1 i w) (w.free + 16) i n all = u at *
  have left : outputsLeft u i.q i.idx = outputsLeft s1 i.q i.idx := (outputsLeft_of_mem mem ..).trans (drops.outputs ..)
  dsimp only at effect
  rw [left] at effect
  by_cases none_ : outputsLeft s1 i.q i.idx = 0
  · have journal : partWrites all 1 ≠ [] := by
      obtain ⟨js, ⟨rest, rfl⟩, written⟩ := changes_journal changes
      rw [← copies, List.append_assoc, List.append_assoc]
      exact partWrites_journal written _
    have discards := discards_discarding u all
    have started : findItem (discarding u all) i.q i.idx = some (stagedItem i all k) := (findItem_congr discards.side.items ..).trans there
    rw [if_pos none_, commitPaging_journals there first journal] at effect
    change _ = applying (discarding u all) i.q i.idx all 1 at effect
    refine ⟨{ stagedItem i all k with applying := 1 }, ?_, rfl, BitVec.ofNat_toNat .., runs, kept, ?_, ?_, rfl,
      fun some_ => absurd none_ some_, fun _ => rfl, fun _ noCopies noDrops => ?_⟩
    · rw [effect]
      exact findItem_applying started ..
    · rw [effect, applying_queues]
      exact discards.side.queues.trans (queues.trans (drops.side.queues.trans issued.queues))
    · rw [effect, applying_pg]
      exact discards.active.trans ((congrArg Paging.active pg).trans (drops.active.trans (congrArg Paging.active issued.pg)))
    · have none_ : discarding u all = u := by
        refine discarding_none (fun c mem => ?_) u
        rw [← copies] at mem
        rcases List.mem_append.mp mem with own | drop
        · exact noDrops c own
        · rw [copiesToDrop, noCopies, List.map_nil, ite_self] at drop
          cases drop
      rw [effect, none_]
      rw [copiesDropped_none noCopies] at pg mem
      obtain ⟨js, reqs, some_, written⟩ := applying_reqs u i.q i.idx journal
      exact ⟨(applying_pg ..).trans pg, (applying_bytes ..).trans (by rw [mem]), js, by rw [reqs, mem], some_, written⟩
  · rw [if_neg none_] at effect
    refine ⟨stagedItem i all k, ?_, rfl, BitVec.ofNat_toNat .., runs, kept, ?_, ?_, rfl, fun _ quiet => ?_,
      fun h => absurd h none_, fun h => absurd h none_⟩
    · rw [effect, there]
    · rw [effect, queues, drops.side.queues, issued.queues]
    · rw [effect, pg, drops.active, issued.pg]
    · rw [effect, mem, copiesDropped_none quiet]

/-- A command that begins and stages its changes. -/
theorem staged_pgStage {s s1 : State} {q : Nat} {idx : W32} {i : Item} {op : Nat} {f : State → Item → Except PErr Work} {w : Work}
    {cs : List Change} (begins : itemBegins s q idx op i) (stages : mayStage s q idx) (h : op < 0x26)
    (check : pChecks (inBreath s) i false = none) (first : i.applying = 0) (good : f (begun (inBreath s) q idx) i = .ok w)
    (changes : w.changes (if op = 0x22 then pSeq2 i else pSeq i) = .ok cs) (pages : issuePages (begun (inBreath s) q idx) i w.pages = .ok s1) :
    ∃ j, Staged (begun (inBreath s) q idx) s1 (pgStage (inBreath s) q idx op f) i w cs
      (if op = 0x22 then [Change.entry (pSeq i) { getSeq s (pSeq i) with lastSn := pOpSn i }] else []) j := by
  obtain ⟨rfl, rfl⟩ := name_of_found begins.1
  rw [(pgStage_checks begins stages h f).2.2 w check good]
  have opcode : i.opcode = op := begins.2.1
  rw [← opcode] at changes
  exact staged_stageDone changes pages (findItem_begun (s := inBreath s) begins.1) rfl first _

/-! ### SEQ_ALLOC (R212) -/

/-- The entry that a SEQ_ALLOC opens, without its reservation. -/
abbrev openedSeq (s : State) (i : Item) : SeqEntry :=
  let g := tget {} s.pg.geometry i.ctx.toNat
  { ver := 0x10, state := 1, kvFmt := g.kvFmt, srcFmt := g.srcFmt, headDim := BitVec.ofNat 16 g.headDim.toNat
    kvHeads := g.kvHeads, layerFirst := BitVec.ofNat 16 (pLayer i), layerCount := BitVec.ofNat 16 (pLayers i)
    ctx := i.ctx, nextLayer := BitVec.ofNat 16 (pLayers i), lastSn := pOpSn i, shIdx := g.shIdx, shN := g.shN
    log2Blk := g.log2Blk, mirror := g.mirror, capacity := BitVec.ofNat 32 (pTokens i), picFmt := g.picFmt
    homeTier := decide (pTier i = 1) }

/-- The frames that a SEQ_ALLOC reserves. -/
abbrev wantedFrames (s : State) (i : Item) : Nat := (openedSeq s i).framesFor (heldBelow (openedSeq s i) (pTokens i))

/-- The entry that a SEQ_ALLOC opens, with its reservation. -/
def reservedSeq (s : State) (i : Item) : SeqEntry := { openedSeq s i with resv := BitVec.ofNat 32 (wantedFrames s i) }

/-- What a SEQ_ALLOC stages. -/
def allocWork (s : State) (i : Item) : Work :=
  if wantedFrames s i = 0 then workOf s (reservedSeq s i)
  else { workOf s (reservedSeq s i) with resv := [(decide (pTier i = 1), (wantedFrames s i : Int))] }

section
variable {s : State} {i : Item} (dead : (getSeq s (pSeq i)).live = false) (some_ : 1 ≤ pLayers i) (inside : pLayer i + pLayers i ≤ 65536)
  (tier : tierLegal s (pTier i) = true) (geometry : geomLegal (tget {} s.pg.geometry i.ctx.toNat) = true)
include dead some_ inside tier geometry

theorem stageAlloc_eq : stageAlloc s i =
    if freeUnreserved s [] [] (decide (pTier i = 1)) < (wantedFrames s i : Int) || decide (2 ^ 32 ≤ wantedFrames s i) then .error .shape
    else .ok (allocWork s i) := by
  unfold stageAlloc allocWork
  have layers : pLayers i ≠ 0 := by omega
  simp only [dead, layers, Nat.not_lt_of_le inside, tier, geometry, decide_false, Bool.not_true, Bool.or_self, Bool.false_eq_true, if_false]
  rfl

end

theorem allocWork_some {s : State} {i : Item} (h : wantedFrames s i ≠ 0) :
    allocWork s i = { workOf s (reservedSeq s i) with resv := [(decide (pTier i = 1), (wantedFrames s i : Int))] } := if_neg h

theorem allocWork_keeps (s : State) (i : Item) : (allocWork s i).entry = reservedSeq s i ∧ (allocWork s i).pages = [] ∧
    (allocWork s i).cancels = [] := by
  unfold allocWork
  split <;> exact ⟨rfl, rfl, rfl⟩

/-- The changes of a working view that writes no page information and no list. -/
theorem changes_unlisted {w : Work} {k : Nat} {js : List Change} (h : journalWrite w.s w.free = .ok js)
    (unlisted : w.info = [] ∧ w.fresh = [] ∧ w.slots = []) : w.changes k = .ok (js ++ w.taken.map Change.take ++ w.dropped.map Change.drop
      ++ w.resv.map (fun p => Change.resv p.1 p.2) ++ List.replicate w.cows .cow
      ++ (w.pages.map (fun p => Change.wrote p.far p.frame)) ++ [.entry k w.entry]) := by
  obtain ⟨info, fresh, slots⟩ := unlisted
  rw [Work.changes]
  generalize journalWrite w.s w.free = r at h
  subst h
  simp only [info, fresh, slots, appendAll, List.append_nil]

/-- The changes of a SEQ_ALLOC: its journal, its reservation and its entry. -/
theorem changes_alloc {s : State} {i : Item} {k : Nat} {js : List Change} (h : journalWrite s s.free = .ok js) :
    (allocWork s i).changes k = .ok (js ++ (allocWork s i).resv.map (fun p => Change.resv p.1 p.2) ++ [.entry k (reservedSeq s i)]) := by
  have parts : (allocWork s i).s = s ∧ (allocWork s i).free = s.free ∧ ((allocWork s i).info = [] ∧ (allocWork s i).fresh = [] ∧
      (allocWork s i).slots = []) ∧ (allocWork s i).taken = [] ∧ (allocWork s i).dropped = [] ∧ (allocWork s i).cows = 0 := by
    unfold allocWork
    split <;> exact ⟨rfl, rfl, ⟨rfl, rfl, rfl⟩, rfl, rfl, rfl⟩
  obtain ⟨view, free, unlisted, taken, dropped, cows⟩ := parts
  obtain ⟨entry, pages, -⟩ := allocWork_keeps s i
  rw [changes_unlisted (by rw [view, free]; exact h) unlisted, taken, dropped, cows, pages, entry]
  simp only [List.map_nil, List.append_nil, List.replicate_zero]

theorem issuePages_nil (s : State) (i : Item) : issuePages s i [] = .ok s := rfl

/-- The unit that a change takes. -/
def takeOf (c : Change) : Option PoolUnit := match c with
  | .take u => some u
  | _ => none

/-- The reservation that a change makes. -/
def resvOf (c : Change) : Option (Bool × Int) := match c with
  | .resv far d => some (far, d)
  | _ => none

theorem stagedTakes_eq (s : State) : stagedTakes s = s.items.flatMap (fun i => i.staged.filterMap takeOf) := rfl

theorem resvNow_eq (s : State) (far : Bool) (more : List (Bool × Int)) : resvNow s far more =
    let add := fun (a : Int) (l : List (Bool × Int)) => l.foldl (fun x p => if p.1 = far then x + p.2 else x) a
    add (add (((if far then s.pg.resv1 else s.pg.resv0).toNat : Nat) : Int) (s.items.flatMap (fun i => i.staged.filterMap resvOf))) more :=
  rfl

/-- Reservations and staged units are counted from the paging state and what items have staged. -/
theorem freeUnreserved_congr {s t : State} (pg : t.pg = s.pg) (same : t.items.map Item.staged = s.items.map Item.staged)
    (more : List PoolUnit) (rs : List (Bool × Int)) (far : Bool) : freeUnreserved t more rs far = freeUnreserved s more rs far := by
  have counts : ∀ {α : Type} (g : List Change → List α), t.items.flatMap (fun i => g i.staged) = s.items.flatMap (fun i => g i.staged) := by
    intro α g
    rw [← List.flatMap_map (f := Item.staged), same, List.flatMap_map]
  simp only [freeUnreserved, tierSize, busyFrames, stagedTakes_eq, resvNow_eq, pg, counts (fun l => l.filterMap takeOf),
    counts (fun l => l.filterMap resvOf)]

theorem staged_begun (s : State) (q : Nat) (idx : W32) : (begun s q idx).items.map Item.staged = s.items.map Item.staged := by
  refine (List.map_map ..).trans (List.map_congr_left fun i _ => ?_)
  dsimp only [Function.comp]
  split <;> rfl

/-- SEQ_ALLOC on an item that begins, as the entry is free and OP_SN new. -/
theorem stageAlloc_begun {s : State} {i : Item} (dead : (getSeq s (pSeq i)).live = false) (some_ : 1 ≤ pLayers i)
    (inside : pLayer i + pLayers i ≤ 65536) (tier : tierLegal s (pTier i) = true)
    (geometry : geomLegal (tget {} s.pg.geometry i.ctx.toNat) = true) (q : Nat) (idx : W32) :
    stageAlloc (begun (inBreath s) q idx) i =
      if freeUnreserved s [] [] (decide (pTier i = 1)) < (wantedFrames s i : Int) || decide (2 ^ 32 ≤ wantedFrames s i) then .error .shape
      else .ok (allocWork (begun (inBreath s) q idx) i) := by
  rw [stageAlloc_eq (s := begun (inBreath s) q idx) dead some_ inside tier geometry,
    freeUnreserved_congr (begun_pg s q idx) (staged_begun (inBreath s) q idx)]
  rfl

theorem stageFree_entry {s : State} {i : Item} {w : Work} (h : stageFree s i = .ok w) :
    w.entry = { ver := (getSeq s (pSeq i)).ver, lastSn := pOpSn i } := by
  unfold stageFree at h
  dsimp only at h
  split at h
  · cases h
  · split at h
    · cases h
    · cases h
      rfl

/-! ### The end of an application (R210) -/

/-- A change that is neither an entry nor a discarded copy leaves the Sequence Table and the items. -/
theorem applyChange_keeps (s : State) {c : Change} (other : ∀ m f, c ≠ .entry m f) (kept : isCancel c = false) :
    (applyChange s c).pg.active = s.pg.active ∧ (applyChange s c).items = s.items ∧ (applyChange s c).cle = s.cle := by
  cases c with
  | take u => rcases u with ⟨_ | _, f⟩ | n | b <;> exact ⟨rfl, rfl, rfl⟩
  | resv far d => cases far <;> exact ⟨rfl, rfl, rfl⟩
  | entry m f => exact absurd rfl (other m f)
  | cancel lpn => cases kept
  | _ => exact ⟨rfl, rfl, rfl⟩

theorem applyChanges_keep {cs : List Change} (other : ∀ c ∈ cs, ∀ m f, c ≠ .entry m f) (kept : ∀ c ∈ cs, isCancel c = false) (s : State) :
    (cs.foldl applyChange s).pg.active = s.pg.active ∧ (cs.foldl applyChange s).items = s.items ∧ (cs.foldl applyChange s).cle = s.cle := by
  induction cs generalizing s with
  | nil => exact ⟨rfl, rfl, rfl⟩
  | cons c cs ih =>
    obtain ⟨active, items, cle⟩ := applyChange_keeps s (other c (List.mem_cons_self ..)) (kept c (List.mem_cons_self ..))
    obtain ⟨active', items', cle'⟩ := ih (fun c h => other c (List.mem_cons_of_mem _ h)) (fun c h => kept c (List.mem_cons_of_mem _ h))
      (applyChange s c)
    exact ⟨active'.trans active, items'.trans items, cle'.trans cle⟩

/-- The entry that a change leaves: LAST_USE and HINT of a live one kept. -/
def settledEntry (old e : SeqEntry) : SeqEntry :=
  if e.live && old.live then { e with lastUse := old.lastUse, hint := old.hint } else e

theorem applyChange_entry (s : State) (n : Nat) (e : SeqEntry) : applyChange s (.entry n e) =
    { s with pg := { s.pg with active := tput {} s.pg.active n (settledEntry (getSeq s n) e) } } := rfl

theorem applyChange_entry_keeps (s : State) (n : Nat) (e : SeqEntry) :
    (applyChange s (.entry n e)).items = s.items ∧ (applyChange s (.entry n e)).cle = s.cle := ⟨rfl, rfl⟩

theorem getSeq_entry (s : State) (n : Nat) (e : SeqEntry) (m : Nat) :
    getSeq (applyChange s (.entry n e)) m = if m = n then settledEntry (getSeq s n) e else getSeq s m := by
  rw [applyChange_entry, getSeq]
  split
  · next same => rw [same, tget_tput_same]
  · next other => rw [tget_tput_other _ _ _ _ _ other, getSeq]

theorem getSeq_congr {s t : State} (h : t.pg.active = s.pg.active) (n : Nat) : getSeq t n = getSeq s n := by rw [getSeq, h, getSeq]

/-- An application whose last part has landed: the item commits with its entry in the Sequence Table. -/
theorem applyEnd_entry {s : State} {q : Nat} {idx : W32} {i : Item} (found : findItem s q idx = some i) (alone : opOf s q idx = none)
    {cs : List Change} (other : ∀ c ∈ cs, ∀ m f, c ≠ .entry m f) (n : Nat) (e : SeqEntry) :
    (∃ j, findItem (applyEnd s q idx (cs ++ [.entry n e])) q idx = some j ∧ j.stage = .committed ∧ j.staged = [] ∧
      j.status = i.status ∧ j.detail = i.detail) ∧
    ∀ m, getSeq (applyEnd s q idx (cs ++ [.entry n e])) m = if m = n then settledEntry (getSeq s n) e else getSeq s m := by
  have changes : (cs ++ [Change.entry n e]).filter (fun c => !isCancel c) = cs.filter (fun c => !isCancel c) ++ [.entry n e] := by
    rw [List.filter_append]
    rfl
  rw [applyEnd, changes, List.foldl_append]
  obtain ⟨active, items, cle⟩ := applyChanges_keep (cs := cs.filter (fun c => !isCancel c)) (fun c h => other c (List.mem_filter.mp h).1)
    (fun c h => by simpa using (List.mem_filter.mp h).2) s
  generalize (cs.filter (fun c => !isCancel c)).foldl applyChange s = u at *
  rw [List.foldl_cons, List.foldl_nil]
  obtain ⟨items', cle'⟩ := applyChange_entry_keeps u n e
  have set_ := getSeq_entry u n e
  generalize applyChange u (.entry n e) = v at *
  have here : findItem (modItem v q idx (fun x => { x with staged := [] })) q idx = some { i with staged := [] } := by
    rw [findItem_modItem (f := fun x => { x with staged := [] }) (h := fun _ hi => hi), findItem_congr (items'.trans items), found]
    rfl
  have alone' : opOf (modItem v q idx (fun x => { x with staged := [] })) q idx = none :=
    (opOf_congr (cle'.trans cle) q idx).trans alone
  refine ⟨⟨_, findItem_commitNow here alone', rfl, rfl, rfl, rfl⟩, fun m => ?_⟩
  rw [getSeq_congr (congrArg Paging.active (taskSide_commitNow alone').pg), getSeq_congr (congrArg Paging.active (modItem_pg ..)),
    set_, getSeq_congr active, getSeq_congr active]

/-! ### The last write is acknowledged -/

/-- The state in which the answer to a write meets its owner. -/
def landed (s : State) (r : Req) (tag : Nat) : State := releaseReq (landWrite s r .ok) tag

theorem landWrite_reqs {s : State} {r : Req} (h : outputItem s r = none) : (landWrite s r .ok).mem.reqs = s.mem.reqs := by
  simp only [landWrite, h]
  rfl

/-- The answer to the last write of a Paging Engine item: its application goes on. -/
theorem writeResponse_paging {s : State} {tag : Nat} {r : Req} {q : Nat} {idx : W32} {i : Item} (req : reqOf s tag = some r)
    (write : r.write = true) (owner : r.owner = .output q idx) (waiters : r.waiters = []) (pool : 64 ≤ r.pool) (engine : engineOf q = 1)
    (found : findItem s q idx = some i) (stage : i.stage = .executing) (issued : i.issued = true) (alone : opOf s q idx = none)
    (one : outputsLeft s q idx = 1) :
    writeResponse s tag .ok = commitPaging (landed s r tag) q idx ∧ MemoryOnly s (landed s r tag) := by
  have none_ : outputItem s r = none := by
    rw [outputItem, owner]
    exact if_pos engine
  have land := memoryOnly_landWrite none_ .ok
  have side : MemoryOnly s (landed s r tag) := land.trans (reqSide_releaseReq ..).memoryOnly
  have reqs := landWrite_reqs none_
  have left : outputsLeft (landed s r tag) q idx = 0 := by
    refine outputsLeft_releaseReq (r := r) ?_ ?_ ?_
    · rw [reqOf, reqs]
      exact req
    · simp only [ownedBy, owner, decide_true, Bool.and_self]
    · rw [outputsLeft, reqs]
      exact one
  have here : findItem (landed s r tag) q idx = some i := (findItem_congr side.items ..).trans found
  have alone' : opOf (landed s r tag) q idx = none := (opOf_congr (by rw [side]) ..).trans alone
  refine ⟨?_, side⟩
  rw [writeResponse, req]
  dsimp only
  rw [write, owner, waiters]
  change feedCore (tryCommit (landed s r tag) q idx) r.pool = _
  rw [feedCore, if_neg (Nat.not_lt_of_le pool), tryCommit, here]
  simp only [stage, left, alone', issued, engine, ne_eq, not_true_eq_false, decide_false, Bool.or_self, Bool.false_eq_true, if_false,
    Option.any_none, Bool.not_true, if_true]

/-- Settles O26: a staging command through `staged_pgStage`, the end of an application through `applyEnd_entry`. -/
theorem sequenceChangesWaitForTheirWrites : Obligations.SequenceChangesWaitForTheirWrites := by
  refine ⟨fun s q idx i hup stages begins alone left first => ?alloc, fun s q idx i w cs s2 hup stages alone check first => ?stages,
    fun s tag r q idx i cs n e hup req write owner waiters pool engine found stage issued alone one under parts split other => ?lands⟩
  case alloc =>
    intro old g far dead fresh some_ inside tier geometry e n
    have check : pChecks (inBreath s) i false = none :=
      pChecks_passes (s := inBreath s) (fun h => Bool.false_ne_true (dead.symm.trans h.1)) (.inr fresh)
    have effect := stageAlloc_begun dead some_ inside tier geometry q idx
    refine ⟨fun at_ room small page => ?_, fun full => ?_⟩
    · rw [decide_eq_false (Int.not_lt.mpr room), decide_eq_false (Nat.not_le_of_lt small), Bool.or_self, if_neg Bool.false_ne_true] at effect
      have page' : pagesOf (begun (inBreath s) q idx) 0 true (infoAddr (begun (inBreath s) q idx) (begun (inBreath s) q idx).pg.infoSize.toNat) 16 =
          .ok at_ := by
        rw [(readsAlike_modItem (inBreath s) q idx _).pagesOf, begun_pg, infoAddr, begun_pg]
        exact page
      obtain ⟨js, journal, only⟩ := journalWrite_ok page' (begun (inBreath s) q idx).free
      obtain ⟨entry, pages, cancels⟩ := allocWork_keeps (begun (inBreath s) q idx) i
      have changes := changes_alloc (k := pSeq i) journal (i := i)
      obtain ⟨j, done⟩ := staged_pgStage (s1 := begun (inBreath s) q idx) begins stages (show 0x20 < 0x26 by decide) check first effect
        changes (by rw [pages]; exact issuePages_nil ..)
      obtain ⟨rfl, rfl⟩ := name_of_found begins.1
      have left' : outputsLeft (begun (inBreath s) i.q i.idx) i.q i.idx = 0 := (outputsLeft_of_mem (begun_mem ..) ..).trans left
      have noDrops : ∀ c ∈ js ++ (allocWork (begun (inBreath s) i.q i.idx) i).resv.map (fun p => Change.resv p.1 p.2) ++
          [.entry (pSeq i) (reservedSeq (begun (inBreath s) i.q i.idx) i)] ++ [], isCancel c = false := by
        intro c mem
        rw [List.append_nil, List.mem_append, List.mem_append, List.mem_singleton] at mem
        rcases mem with (mem | mem) | rfl
        · obtain ⟨a, pa, b, rfl⟩ := only c mem
          rfl
        · obtain ⟨p, -, rfl⟩ := List.mem_map.mp mem
          rfl
        · rfl
      obtain ⟨pg, bytes, rs, out⟩ := done.quiet left' cancels noDrops
      refine ⟨_, j, rs, live_up (f := fun s => pgStage (inBreath s) i.q i.idx 0x20 stageAlloc) hup, done.found, done.stage, done.journals left',
        done.issued, done.status, done.detail, done.changes _ (List.mem_append_right _ (List.mem_singleton_self _)), fun some_ => ?_,
        (keepOuter_pg ..).trans (pg.trans (begun_pg ..)), ?_, ?_⟩
      · refine done.changes _ (List.mem_append_left _ (List.mem_append_right _ ?_))
        rw [allocWork_some (s := begun (inBreath s) i.q i.idx) some_]
        exact List.mem_singleton_self _
      · rw [mem_keepOuter, bytes, begun_mem]
      · rw [journalOut, mem_keepOuter]
        rw [journalOut, begun_mem] at out
        exact out
    · rw [decide_eq_true full, Bool.true_or, if_pos rfl] at effect
      have ends := (pgStage_checks begins stages (show 0x20 < 0x26 by decide) stageAlloc).2.1 _ check effect
      rw [pErr, endItem_alone ((opOf_congr (begun_cle ..) ..).trans alone)] at ends
      exact ended_begun (f := fun s => pgStage s q idx 0x20 stageAlloc) hup begins.1 ends
  case stages =>
    intro s1 p named begins good changes pages
    obtain ⟨rfl, rfl⟩ := name_of_found begins.1
    suffices h : ∃ f : State → Item → Except PErr Work, p.1 < 0x26 ∧
        exec p.2.1 s = live s (fun s => pgStage (inBreath s) i.q i.idx p.1 f) ∧ f s1 i = .ok w ∧
        (p.1 = 0x23 → Change.entry (pSeq i) { ver := (getSeq s (pSeq i)).ver, lastSn := pOpSn i } ∈ cs) by
      obtain ⟨f, small, effect, good, entry⟩ := h
      obtain ⟨j, done⟩ := staged_pgStage begins stages small check first good changes pages
      exact ⟨_, j, effect.trans (live_up (f := fun s => pgStage (inBreath s) i.q i.idx p.1 f) hup), done.found, done.status, done.detail,
        (queues_keepOuter ..).trans done.queues, fun some_ => ⟨done.stage, done.issued, done.changes, done.active, done.waits some_⟩,
        fun none_ _ => ⟨done.stage, done.journals none_, done.changes, done.active⟩, entry⟩
    simp only [List.mem_cons, List.not_mem_nil, or_false] at named
    obtain rfl | rfl | rfl | rfl := named
    · exact ⟨stageAlloc, show 0x20 < 0x26 by decide, rfl, good, nofun⟩
    · exact ⟨stageAppend, show 0x21 < 0x26 by decide, rfl, good, nofun⟩
    · exact ⟨stageFork, show 0x22 < 0x26 by decide, rfl, good, nofun⟩
    · exact ⟨stageFree, show 0x23 < 0x26 by decide, rfl, good, fun _ => stageFree_entry good ▸ changes_entry changes⟩
  case lands =>
    obtain ⟨effect, side⟩ := writeResponse_paging (s := inBreath s) req write owner waiters pool engine found stage issued alone one
    have here : findItem (landed (inBreath s) r tag.toNat) q idx = some i := (findItem_congr side.items ..).trans found
    have alone' : opOf (landed (inBreath s) r tag.toNat) q idx = none := (opOf_congr (by rw [side]; rfl) ..).trans alone
    obtain ⟨⟨j, found', committed, empty, status, detail⟩, set_⟩ := applyEnd_entry here alone' other n e
    have same : ∀ m, getSeq (landed (inBreath s) r tag.toNat) m = getSeq s m := fun m => getSeq_congr (by rw [side]; rfl) m
    have ends : commitPaging (landed (inBreath s) r tag.toNat) q idx = applyEnd (landed (inBreath s) r tag.toNat) q idx (cs ++ [.entry n e]) := by
      rw [commitPaging, here]
      dsimp only
      rw [if_neg under, applyPart_ends parts, split]
    refine ⟨_, j, live_up (f := fun s => writeResponse (inBreath s) tag.toNat .ok) hup, ?_⟩
    rw [effect, ends]
    refine ⟨found', committed, empty, status, detail, ?_, fun m ne => ?_⟩
    · exact (set_ n).trans ((if_pos rfl).trans (by rw [same]; rfl))
    · exact (set_ m).trans ((if_neg ne).trans (same m))

end Sys2Proof.Proofs.SequenceChanges

/-! PAGE_MIGRATE, TIER_HINT and PTC_INVAL (R219, R221, R238). -/

namespace Sys2Proof.Proofs.PagingMoves

open Sys2Proof Sys2Proof.Machine Sys2Proof.Safety Sys2Proof.Laws
open Sys2Proof.Proofs.BellRecord Sys2Proof.Proofs.ItemLaws Sys2Proof.Proofs.Accesses Sys2Proof.Proofs.Aborts Sys2Proof.Proofs.PagingBegin Sys2Proof.Proofs.Requests
open Sys2Proof.Proofs.Applications Sys2Proof.Proofs.SequenceChanges

/-! ### Copies of pages (R218) -/

theorem takeUnit_keeps (s : State) (u : PoolUnit) :
    (takeUnit s u).pg.migrations = s.pg.migrations ∧ (takeUnit s u).pg.active = s.pg.active := by
  rcases u with ⟨_ | _, f⟩ | n | b <;> exact ⟨rfl, rfl⟩

/-- A copy that starts is one more migration, and leaves the Sequence Table. -/
structure CopyStarts (s u : State) (m : Migration) : Prop where
  side : MigSide s u
  migrations : u.pg.migrations = s.pg.migrations ++ [m]
  active : u.pg.active = s.pg.active

/-- s with the frame of a copy taken and its migration entered. -/
def copyEntered (s : State) (lpn : Nat) (i : InfoEntry) (far : Bool) (item : Option (Nat × W32)) (f n : Nat) : State :=
  let s1 := countVerified (takeUnit { s with free := s.free + 1 } (.frame far f)) n
  putInfo (dropLines { s1 with pg := { s1.pg with migrations := s1.pg.migrations ++ [{ lpn := lpn, far := far, item := item }] } } far f)
    lpn { i with st := 2, altFar := far, alt := f }

theorem copyEntered_pg (s : State) (lpn : Nat) (i : InfoEntry) (far : Bool) (item : Option (Nat × W32)) (f n : Nat) :
    (copyEntered s lpn i far item f n).pg.migrations = s.pg.migrations ++ [{ lpn := lpn, far := far, item := item }] ∧
    (copyEntered s lpn i far item f n).pg.active = s.pg.active := by
  obtain ⟨migrations, active⟩ := takeUnit_keeps { s with free := s.free + 1 } (.frame far f)
  rw [copyEntered, (pg_putInfo ..).1]
  exact ⟨congrArg (· ++ _) migrations, active⟩

theorem startCopy_started {s u : State} {lpn : Nat} {i : InfoEntry} {far : Bool} {item : Option (Nat × W32)}
    (h : startCopy s lpn i far item = .started u) : ∃ f n, ∃ rs : List Req, u = rs.foldl issueReq (copyEntered s lpn i far item f n) := by
  rw [startCopy] at h
  generalize readPage s i.far i.frame = page at h
  generalize pagesOf s 0 true (infoAddr s lpn) 16 = info at h
  split at h
  · cases h
  · next f _ =>
    split at h
    case h_5 =>
      split at h
      case h_3 rs _ =>
        cases h
        exact ⟨f, _, rs, rfl⟩
      all_goals cases h
    all_goals cases h

theorem startMig_starts {s u : State} {lpn : Nat} {far : Bool} {item : Option (Nat × W32)} (h : startMig s lpn far item = .started u) :
    CopyStarts s u { lpn := lpn, far := far, item := item } := by
  have side := migSide_startMig h
  suffices pg : u.pg.migrations = s.pg.migrations ++ [{ lpn := lpn, far := far, item := item }] ∧ u.pg.active = s.pg.active from
    ⟨side, pg.1, pg.2⟩
  rw [startMig] at h
  generalize readInfo s lpn = info at h
  split at h
  · cases h
  · next i =>
    obtain ⟨f, n, rs, rfl⟩ : ∃ f n, ∃ rs : List Req, u = rs.foldl issueReq (copyEntered s lpn i far item f n) := by
      split at h
      · cases h
      · split at h
        · split at h
          · cases h
          · split at h
            · cases h
            · exact startCopy_started h
        · split at h
          · cases h
          · split at h
            · cases h
            · split at h <;> cases h
    rw [(reqSide_issued ..).pg]
    exact copyEntered_pg ..

/-- What an automatic migration may touch: never the Sequence Table, an item, or the Collective Engine. -/
structure Moves (s t : State) : Prop where
  side : MigSide s t
  active : t.pg.active = s.pg.active

theorem Moves.refl (s : State) : Moves s s := ⟨.refl s, rfl⟩

theorem Moves.trans {s t u : State} (a : Moves s t) (b : Moves t u) : Moves s u := ⟨a.side.trans b.side, b.active.trans a.active⟩

theorem Moves.foldl {α : Type} {f : State → α → State} (h : ∀ s a, Moves s (f s a)) (l : List α) (s : State) : Moves s (l.foldl f s) := by
  induction l generalizing s with
  | nil => exact .refl s
  | cons a l ih => exact (h s a).trans (ih _)

theorem moves_bellRaise (s : State) (code : Nat) (u : W16) (ctx : CtxId) (src arg : Nat) : Moves s (bellRaise s code u ctx src arg) :=
  ⟨migSide_bellRaise .., by rw [bellSide_bellRaise]⟩

theorem moves_badAccess (s : State) (e : MErr) : Moves s (badAccess s e) := by
  unfold badAccess
  split
  · exact moves_bellRaise ..
  · exact .refl s

theorem moves_autoMig (s : State) (far : Bool) (lpn : Nat) : Moves s (autoMig s far lpn) := by
  refine ⟨migSide_autoMig .., ?_⟩
  rw [autoMig]
  split
  · rfl
  · generalize start : startMig s lpn far none = m
    cases m with
    | started u => exact (startMig_starts start).active
    | switched => dsimp only; split <;> rfl
    | mismatch b n => exact (moves_bellRaise (countVerified s n) ..).active
    | err e => exact (moves_badAccess s e).active
    | _ => rfl

theorem moves_promotePages (s : State) (e : SeqEntry) (first n : Nat) : Moves s (promotePages s e first n) := by
  unfold promotePages
  split
  · exact moves_badAccess ..
  · exact Moves.foldl (fun s lpn => moves_autoMig s false lpn) _ _

theorem moves_demotePages (s : State) (e : SeqEntry) (first n : Nat) : Moves s (demotePages s e first n) := by
  unfold demotePages
  split
  · exact moves_badAccess ..
  · refine Moves.foldl (fun s lpn => ?_) _ _
    generalize readInfo s lpn = r
    cases r with
    | error e => exact moves_badAccess ..
    | ok i =>
      dsimp only
      split
      · exact moves_autoMig ..
      · exact .refl s

/-! ### PAGE_MIGRATE (R219) -/

theorem mayRun_begun {s : State} {q : Nat} {idx : W32} {i : Item} {op : Nat} (begins : itemBegins s q idx op i) :
    mayRun (begun (inBreath s) q idx) { i with stage := .executing, begun := true } = true := by
  obtain ⟨-, -, may, holds, full, ready⟩ := begins
  simp only [mayBegin, Bool.and_eq_true] at may
  have running_ : running (begun (inBreath s) q idx) = true := may.2
  simp only [mayRun, holds, full, ready, running_, decide_true, List.isEmpty_nil, Bool.not_false, Option.isNone_none, Bool.and_self]

theorem migGo_placed {q : Nat} {idx : W32} {far : Bool} {s : State} {ps : List Nat}
    (placed : ∀ l ∈ ps, startMig s l far (some (q, idx)) = .placed) (all : Bool) : migGo q idx far ps s all = .ok (s, all) := by
  induction ps with
  | nil => rfl
  | cons l ps ih =>
    rw [migGo, placed l (List.mem_cons_self ..)]
    exact ih fun l h => placed l (List.mem_cons_of_mem _ h)

theorem stagingBusy_begun (s : State) (q : Nat) (idx : W32) : stagingBusy (begun s q idx) q idx = stagingBusy s q idx := by
  unfold stagingBusy
  refine List.any_map.trans (congrArg _ (funext fun i => ?_))
  dsimp only [Function.comp]
  split <;> rfl

/-- What a migration with every page placed changes: the later OP_SN, after its journal. -/
def migratedChanges (e : SeqEntry) (i : Item) (js : List Change) : List Change :=
  js ++ [.entry (pSeq i) { e with lastSn := laterSn e.lastSn (pOpSn i) }]

/-- An item that has placed every page. -/
def migrated (e : SeqEntry) (i : Item) (js : List Change) (x : Item) : Item := { x with
  issued := true, staged := migratedChanges e i js, detail := BitVec.ofNat 64 (laterSn e.lastSn (pOpSn i)).toNat }

theorem migratedChanges_kept {e : SeqEntry} {i : Item} {js : List Change} (only : ∀ c ∈ js, ∃ a pa b, c = Change.journal a pa b) :
    ∀ c ∈ migratedChanges e i js, isCancel c = false := by
  intro c mem
  rcases List.mem_append.mp mem with mem | mem
  · obtain ⟨a, pa, b, rfl⟩ := only c mem
    rfl
  · cases List.mem_singleton.mp mem
    rfl

/-- The state before the application of a migration. -/
def migrationStaged (s : State) (q : Nat) (idx : W32) (e : SeqEntry) (k : Item) (js : List Change) : State :=
  modItem { s with free := s.free + 16 } q idx (migrated e k js)

theorem migrationStaged_keeps (s : State) (q : Nat) (idx : W32) (e : SeqEntry) (k : Item) (js : List Change) :
    (migrationStaged s q idx e k js).pg = s.pg ∧ (migrationStaged s q idx e k js).mem = s.mem := ⟨rfl, rfl⟩

theorem findItem_migrationStaged {s : State} {q : Nat} {idx : W32} {i : Item} (found : findItem s q idx = some i) (e : SeqEntry) (k : Item)
    (js : List Change) : findItem (migrationStaged s q idx e k js) q idx = some (migrated e k js i) := by
  rw [migrationStaged, findItem_modItem (f := migrated e k js) (h := fun _ hi => hi),
    findItem_congr (t := { s with free := s.free + 16 }) (s := s) rfl, found]
  rfl

section
variable {t : State} {q : Nat} {idx : W32} {k : Item} (found : findItem t q idx = some k) (opcode : k.opcode = 0x24) (fresh : k.issued = false)
  (runs : mayRun t k = true) (quiet : stagingBusy t q idx = false) {ps : List Nat}
  (pages : entryPages t (getSeq t (pSeq k)) (pLayer k - (getSeq t (pSeq k)).layerFirst.toNat) (pLayers k) = .ok ps)
include found opcode fresh runs quiet pages

/-- A migration with pages on their way waits. -/
theorem migAdvance_waits {u : State} (goes : migGo q idx (decide (pTier k = 1)) ps t true = .ok (u, false)) : migAdvance t q idx = u := by
  simp only [migAdvance, found, opcode, fresh, runs, quiet, pages, goes, ne_eq, not_true_eq_false, decide_false, Bool.not_true,
    Bool.or_self, Bool.false_eq_true, if_false, Bool.not_false, if_true]

/-- A migration with every page placed goes on with its journal. -/
theorem migAdvance_placed {u : State} {js : List Change} (goes : migGo q idx (decide (pTier k = 1)) ps t true = .ok (u, true))
    (journal : journalWrite u u.free = .ok js) :
    migAdvance t q idx = commitPaging (migrationStaged u q idx (getSeq u (pSeq k)) k js) q idx := by
  simp only [migAdvance, found, opcode, fresh, runs, quiet, pages, goes, journal, ne_eq, not_true_eq_false, decide_false, Bool.not_true,
    Bool.or_self, Bool.false_eq_true, if_false]
  rfl

end

theorem laterSn_newer {a b : W32} (h : 0 < (b - a).toInt) : laterSn a b = b := by
  rw [laterSn, sgn32_toNat, if_pos h]

/-- A migration with every page placed: its journal goes out, and its item stays. -/
theorem migrating {s : State} {q : Nat} {idx : W32} {k : Item} {e : SeqEntry} {js : List Change} {free : Nat} (hup : up s)
    (effect : pageMigrate (inBreath s) q idx = commitPaging (migrationStaged (begun (inBreath s) q idx) q idx e k js) q idx)
    (found : findItem (begun (inBreath s) q idx) q idx = some k) (newer : laterSn e.lastSn (pOpSn k) = pOpSn k)
    (first : k.applying = 0) (journal : journalWrite (begun (inBreath s) q idx) free = .ok js)
    (only : ∀ c ∈ js, ∃ a pa b, c = .journal a pa b) (runs : k.stage = .executing) :
    ∃ t j rs, exec (.pageMigrate q idx) s = .next t ∧ findItem t q idx = some j ∧ j.stage = .executing ∧ j.applying = 1 ∧
      j.detail = (pOpSn k).setWidth 64 ∧ Change.entry (pSeq k) { e with lastSn := pOpSn k } ∈ j.staged ∧ t.pg = s.pg ∧
      t.mem.bytes = s.mem.bytes ∧ journalOut s t q idx rs := by
  obtain ⟨pg, mem⟩ := migrationStaged_keeps (begun (inBreath s) q idx) q idx e k js
  have there := findItem_migrationStaged found e k js
  generalize migrationStaged (begun (inBreath s) q idx) q idx e k js = u at *
  have write : partWrites (migratedChanges e k js) 1 ≠ [] := partWrites_journal journal _
  have ends := commitPaging_journals there first write
  have kept : discarding u (migrated e k js k).staged = u := discarding_none (migratedChanges_kept only) u
  rw [kept] at ends
  obtain ⟨rs, reqs, some_, written⟩ := applying_reqs u q idx write
  refine ⟨_, { migrated e k js k with applying := 1 }, rs, live_up (f := fun s => pageMigrate (inBreath s) q idx) hup, ?_⟩
  rw [effect, ends]
  refine ⟨findItem_applying there .., runs, rfl, ?_, ?_, ?_, ?_, ?_, some_, written⟩
  · exact (congrArg (fun n : W32 => BitVec.ofNat 64 n.toNat) newer).trans (BitVec.ofNat_toNat ..)
  · refine List.mem_append_right _ ?_
    rw [newer]
    exact List.mem_singleton_self _
  · rw [keepOuter_pg, applying_pg, pg, begun_pg]
  · rw [mem_keepOuter, applying_bytes, mem, begun_mem]
  · rw [mem_keepOuter]
    exact reqs.trans (by rw [mem, begun_mem])

/-! ### TIER_HINT (R221) -/

/-- s with the hint of an entry set. -/
def hinted (s : State) (i : Item) : State := { s with pg := { s.pg with
  active := tput {} s.pg.active (pSeq i) { getSeq s (pSeq i) with hint := BitVec.ofNat 8 (pHint i) } } }

theorem hinted_keeps (s : State) (i : Item) : (hinted s i).items = s.items ∧ (hinted s i).cle = s.cle ∧ (hinted s i).mem = s.mem ∧
    getSeq (hinted s i) (pSeq i) = { getSeq s (pSeq i) with hint := BitVec.ofNat 8 (pHint i) } :=
  ⟨rfl, rfl, rfl, tget_tput_same ..⟩

theorem cle_of_migSide {s t : State} (h : MigSide s t) : t.cle = s.cle := by rw [h]

section
variable {s : State} {q : Nat} {idx : W32} {i : Item} (begins : itemBegins s q idx 0x25 i) (stages : mayStage s q idx)
  (live_ : (getSeq s (pSeq i)).live = true) (own : (getSeq s (pSeq i)).ctx = i.ctx)
include begins stages live_ own

/-- A hint that is legal is carried out, and the item commits with LAST_SN in DETAIL. -/
theorem tierHint_begins :
    (pHint i ≤ 2 → tierHint (inBreath s) q idx = commitNow (modItem (hinted (begun (inBreath s) q idx) i) q idx
      (fun x => { x with detail := BitVec.ofNat 64 (getSeq s (pSeq i)).lastSn.toNat })) q idx) ∧
    (pHint i = 3 ∨ pHint i = 4 → layersInside i (getSeq s (pSeq i)) = true → ∃ u, Moves (begun (inBreath s) q idx) u ∧
      tierHint (inBreath s) q idx = commitNow (modItem u q idx
        (fun x => { x with detail := BitVec.ofNat 64 (getSeq s (pSeq i)).lastSn.toNat })) q idx) ∧
    (4 < pHint i → tierHint (inBreath s) q idx = endItem (begun (inBreath s) q idx) q idx 0x15 0) := by
  have check : pChecks (inBreath s) i true = none := pChecks_passes (s := inBreath s) (fun h => h.2 own) (.inl rfl)
  have same : getSeq (begun (inBreath s) q idx) (pSeq i) = getSeq s (pSeq i) := rfl
  rw [tierHint, (pgRun_checks begins stages (show 0x25 < 0x26 by decide) ..).2 check]
  dsimp only
  rw [same, live_]
  refine ⟨fun small => ?_, fun which inside => ?_, fun big => ?_⟩
  · have e4 : ¬4 < pHint i := by omega
    have e3 : ¬3 ≤ pHint i := by omega
    have ne3 : pHint i ≠ 3 := by omega
    have ne4 : pHint i ≠ 4 := by omega
    simp only [e4, e3, ne3, ne4, decide_false, Bool.not_true, Bool.false_and, Bool.or_self, Bool.false_eq_true, if_false]
    rfl
  · have e4 : ¬4 < pHint i := by omega
    simp only [e4, inside, decide_false, Bool.not_true, Bool.and_false, Bool.or_self, Bool.false_eq_true, if_false]
    rcases which with three | four
    · rw [if_pos three]
      exact ⟨_, moves_promotePages .., rfl⟩
    · rw [if_neg (by omega), if_pos four]
      exact ⟨_, moves_demotePages .., rfl⟩
  · rw [decide_eq_true big, Bool.or_true, Bool.true_or, if_pos rfl]

end

/-- An item without an operation commits with LAST_SN in DETAIL. -/
theorem commits_detail {s u : State} {q : Nat} {idx : W32} {i : Item} (found : findItem s q idx = some i) (alone : opOf s q idx = none)
    (items : u.items = (begun (inBreath s) q idx).items) (cle : u.cle = s.cle) (d : W64) :
    (∃ j, findItem (commitNow (modItem u q idx (fun x => { x with detail := d })) q idx) q idx = some j ∧ j.stage = .committed ∧ j.detail = d) ∧
    TaskSide u (commitNow (modItem u q idx (fun x => { x with detail := d })) q idx) := by
  have here : findItem (modItem u q idx (fun x => { x with detail := d })) q idx =
      some { i with stage := .executing, begun := true, detail := d } := by
    rw [findItem_modItem (f := fun x => { x with detail := d }) (h := fun _ hi => hi), findItem_congr items,
      findItem_begun (s := inBreath s) found]
    rfl
  have alone' : opOf (modItem u q idx (fun x => { x with detail := d })) q idx = none := (opOf_congr cle q idx).trans alone
  exact ⟨⟨_, findItem_commitNow here alone', rfl, rfl⟩, (taskSide_modItem ..).trans (taskSide_commitNow alone')⟩

/-! ### PTC_INVAL (R238) -/

/-- A request that waits for an invalidation, when it was translated through what the invalidation covers. -/
def markedReq (v : Inval) (gone : List PtcEntry) (q : Nat) (idx : W32) (r : Req) : Req :=
  if v.carries gone r then { r with waiters := r.waiters ++ [(q, idx)] } else r

/-- The caches once an invalidation has removed what it covers. -/
def invalidated (s : State) (v : Inval) : Trans := { s.tr with
  active := s.tr.active.filter (fun e => !v.hits e)
  inactive := s.tr.inactive.filter (fun e => !v.hits e)
  ctxCache := if v.cls = .h && v.range.isNone then
      s.tr.ctxCache.filter (fun p => match v.ctx with
        | some x => p.1 ≠ x
        | none => false)
    else s.tr.ctxCache }

/-- s with an invalidation carried out, and its item waiting on the requests that it marked. -/
def invalidating (s : State) (q : Nat) (idx : W32) (v : Inval) : State :=
  modItem { s with
    tr := invalidated s v
    mem := { s.mem with reqs := s.mem.reqs.map (markedReq v ((s.tr.active ++ s.tr.inactive).filter v.hits) q idx) } } q idx
    (fun x => { x with issued := true })

theorem ptcInval_begins {s : State} {q : Nat} {idx : W32} {i : Item} (begins : itemBegins s q idx 0x26 i) (fresh : i.issued = false) :
    ptcInval (inBreath s) q idx = invalCheck (invalidating (begun (inBreath s) q idx) q idx (invalOf i)) q idx := by
  rw [ptcInval, pgRun_runs begins (.inl rfl)]
  dsimp only
  rw [if_neg (by rw [fresh]; exact Bool.false_ne_true)]
  rfl

theorem invalidating_keeps (s : State) (q : Nat) (idx : W32) (v : Inval) :
    (invalidating s q idx v).queues = s.queues ∧ (invalidating s q idx v).tr = invalidated s v ∧
    (invalidating s q idx v).mem.bytes = s.mem.bytes ∧
    (invalidating s q idx v).mem.reqs = s.mem.reqs.map (markedReq v ((s.tr.active ++ s.tr.inactive).filter v.hits) q idx) :=
  ⟨rfl, rfl, rfl, rfl⟩

theorem findItem_invalidating {s : State} {q : Nat} {idx : W32} {i : Item} (found : findItem s q idx = some i) (v : Inval) :
    findItem (invalidating s q idx v) q idx = some { i with issued := true } := by
  rw [invalidating, findItem_modItem (f := fun x => { x with issued := true }) (h := fun _ hi => hi)]
  exact congrArg _ found

theorem markedReq_kept {v : Inval} {gone : List PtcEntry} {r : Req} (h : v.carries gone r = false) (q : Nat) (idx : W32) :
    markedReq v gone q idx r = r := if_neg (by rw [h]; exact Bool.false_ne_true)

theorem markedReq_waits {v : Inval} {gone : List PtcEntry} {r : Req} (h : v.carries gone r = true) (q : Nat) (idx : W32) :
    (q, idx) ∈ (markedReq v gone q idx r).waiters := by
  rw [markedReq, if_pos h]
  exact List.mem_append_right _ (List.mem_singleton_self _)

theorem carries_markedReq (v : Inval) (gone : List PtcEntry) (q : Nat) (idx : W32) (r : Req) :
    v.carries gone (markedReq v gone q idx r) = v.carries gone r := by
  unfold markedReq
  split <;> rfl

/-- A PTC_INVAL that no request waits for commits. -/
theorem invalCheck_commits {s : State} {q : Nat} {idx : W32} {i : Item} (found : findItem s q idx = some i) (opcode : i.opcode = 0x26)
    (issued : i.issued = true) (stage : i.stage = .executing) (free : ∀ r ∈ s.mem.reqs, (q, idx) ∉ r.waiters) :
    invalCheck s q idx = commitNow s q idx := by
  have none_ : s.mem.reqs.any (fun r => r.waiters.contains (q, idx)) = false := by simpa using free
  simp only [invalCheck, none_, Bool.false_eq_true, if_false, found, opcode, issued, stage, decide_true, Bool.and_self, if_true]

theorem invalCheck_waits {s : State} {q : Nat} {idx : W32} {r : Req} (mem : r ∈ s.mem.reqs) (waits : (q, idx) ∈ r.waiters) :
    invalCheck s q idx = s := by
  have some_ : s.mem.reqs.any (fun r => r.waiters.contains (q, idx)) = true :=
    List.any_eq_true.mpr ⟨r, mem, List.contains_iff_mem.mpr waits⟩
  rw [invalCheck, if_pos some_]

/-- An item commits, whatever operation it closes. -/
theorem committed_commitNow {s : State} {q : Nat} {idx : W32} {i : Item} (found : findItem s q idx = some i) :
    ∃ j, findItem (commitNow s q idx) q idx = some j ∧ j.stage = .committed := by
  obtain ⟨g, closed⟩ := (sameItems_closeOp s q idx i.status i.detail).find q idx
  rw [found] at closed
  refine ⟨{ i.rid (g i) with stage := .committed, breath := lowBreath s }, ?_, rfl⟩
  simp only [commitNow, found]
  rw [findItem_modItem (f := fun x => { x with stage := .committed, breath := lowBreath s }) (h := fun _ hi => hi), closed]
  rfl

theorem ptc_of_itemSide {s t : State} (h : ItemSide s t) : t.tr.active = s.tr.active ∧ t.tr.inactive = s.tr.inactive := by
  rw [h]
  exact ⟨rfl, rfl⟩

theorem mem_kept {l : List PtcEntry} {v : Inval} (e : PtcEntry) : e ∈ l.filter (fun e => !v.hits e) ↔ e ∈ l ∧ v.hits e = false := by
  rw [List.mem_filter, Bool.not_eq_true']

/-- Settles O27: a migration through `migAdvance_placed` and `migAdvance_waits`, a hint through `tierHint_begins`, an invalidation
through `ptcInval_begins`. -/
theorem pagingCommandsMoveAndInvalidate : Obligations.PagingCommandsMoveAndInvalidate := by
  refine ⟨fun s q idx i hup stages alone => ?moves, fun s q idx i hup begins fresh free => ?invalidates⟩
  case moves =>
    intro e far live_ own
    refine ⟨fun begins fresh inside legal once first => ?migrate, fun begins => ?hint⟩
    case migrate =>
      intro s1 ps pages
      have busy : stagingBusy s1 q idx = false := (stagingBusy_begun ..).trans stages.1
      have found := findItem_begun (s := inBreath s) begins.1
      have check : pChecks (inBreath s) i false = none := pChecks_passes (s := inBreath s) (fun h => h.2 own) (.inr fresh)
      have effect := (pageMigrate_checks begins stages rfl).2 check live_ inside legal
      have runs : mayRun s1 { i with stage := .executing, begun := true } = true := mayRun_begun begins
      refine ⟨fun at_ placed page => ?placed, fun l u one starts => ?starts⟩
      case placed =>
        have page' : pagesOf s1 0 true (infoAddr s1 s1.pg.infoSize.toNat) 16 = .ok at_ := page
        obtain ⟨js, journal, only⟩ := journalWrite_ok page' s1.free
        rw [migAdvance_placed found begins.2.1 once runs busy pages (migGo_placed placed true) journal] at effect
        exact migrating (k := { i with stage := .executing, begun := true }) hup effect found (laterSn_newer fresh) first journal only rfl
      case starts =>
        have goes : migGo q idx far ps s1 true = .ok (u, false) := by
          rw [one, migGo, starts]
          rfl
        rw [migAdvance_waits found begins.2.1 once runs busy pages goes] at effect
        have copy := startMig_starts starts
        refine ⟨_, { i with stage := .executing, begun := true }, live_up (f := fun s => pageMigrate (inBreath s) q idx) hup, ?_⟩
        rw [effect]
        exact ⟨(findItem_congr copy.side.items ..).trans found, rfl, copy.migrations, copy.active⟩
    case hint =>
      have effect := tierHint_begins begins stages live_ own
      refine ⟨fun small => ?sets, fun which inside => ?shifts, fun big => ?illegal⟩
      case sets =>
        obtain ⟨items, cle, mem, entry⟩ := hinted_keeps (begun (inBreath s) q idx) i
        have effect := effect.1 small
        generalize hinted (begun (inBreath s) q idx) i = u at *
        obtain ⟨⟨j, found, stage, detail⟩, side⟩ := commits_detail begins.1 alone items cle (BitVec.ofNat 64 e.lastSn.toNat)
        refine ⟨_, j, live_up (f := fun s => tierHint (inBreath s) q idx) hup, ?_⟩
        rw [effect]
        exact ⟨found, stage, detail.trans (BitVec.ofNat_toNat ..), (getSeq_congr (congrArg Paging.active side.pg) ..).trans entry,
          (mem_keepOuter ..).trans (side.mem.trans mem)⟩
      case shifts =>
        obtain ⟨u, shift, effect⟩ := effect.2.1 which inside
        obtain ⟨⟨j, found, stage, detail⟩, side⟩ := commits_detail begins.1 alone shift.side.items
          ((cle_of_migSide shift.side).trans (begun_cle ..))
          (BitVec.ofNat 64 e.lastSn.toNat)
        refine ⟨_, j, live_up (f := fun s => tierHint (inBreath s) q idx) hup, ?_⟩
        rw [effect]
        exact ⟨found, stage, detail.trans (BitVec.ofNat_toNat ..), (congrArg Paging.active side.pg).trans shift.active⟩
      case illegal =>
        have effect := effect.2.2 big
        rw [endItem_alone ((opOf_congr (begun_cle ..) ..).trans alone)] at effect
        exact ended_begun (f := fun s => tierHint s q idx) hup begins.1 effect
  case invalidates =>
    intro v gone
    have items := findItem_begun (s := inBreath s) begins.1
    have found : findItem (invalidating (begun (inBreath s) q idx) q idx v) q idx =
        some { i with stage := .executing, begun := true, issued := true } := findItem_invalidating items v
    obtain ⟨queues, tr, bytes, reqs⟩ := invalidating_keeps (begun (inBreath s) q idx) q idx v
    have reqs' : (invalidating (begun (inBreath s) q idx) q idx v).mem.reqs = s.mem.reqs.map (markedReq v gone q idx) := reqs
    have side : ItemSide (invalidating (begun (inBreath s) q idx) q idx v) (ptcInval (inBreath s) q idx) := by
      rw [ptcInval_begins begins fresh]
      exact QueueWork.itemSide_invalCheck ..
    have effect := ptcInval_begins begins fresh
    suffices h : ∃ j, findItem (ptcInval (inBreath s) q idx) q idx = some j ∧
        ((∀ r ∈ s.mem.reqs, v.carries gone r = false) → j.stage = .committed) ∧
        ((∃ r ∈ s.mem.reqs, v.carries gone r = true) → j.stage = .executing) by
      obtain ⟨j, found, commits, waits⟩ := h
      refine ⟨_, j, live_up (f := fun s => ptcInval (inBreath s) q idx) hup, found, ?_, ?_, fun e => ?_, fun e => ?_, fun none_ =>
        ⟨commits none_, ?_⟩, fun some_ => ⟨waits some_, ?_⟩⟩
      · rw [mem_keepOuter, side.mem, bytes, begun_mem]
      · rw [queues_keepOuter, side.queues, queues]
        rfl
      · rw [keepOuter_tr, (ptc_of_itemSide side).1, tr]
        exact mem_kept e
      · rw [keepOuter_tr, (ptc_of_itemSide side).2, tr]
        exact mem_kept e
      · rw [mem_keepOuter, side.mem, reqs', List.map_congr_left fun r mem => markedReq_kept (none_ r mem) q idx, List.map_id']
      · rw [mem_keepOuter, side.mem, reqs']
        intro r mem carried
        obtain ⟨r, -, rfl⟩ := List.mem_map.mp mem
        exact markedReq_waits ((carries_markedReq ..).symm.trans carried) q idx
    by_cases some_ : ∃ r ∈ s.mem.reqs, v.carries gone r = true
    · obtain ⟨r, mem, carried⟩ := some_
      rw [effect, invalCheck_waits (reqs' ▸ List.mem_map_of_mem mem) (markedReq_waits carried q idx)]
      exact ⟨_, found, fun none_ => absurd carried (by rw [none_ r mem]; exact Bool.false_ne_true), fun _ => rfl⟩
    · have none_ : ∀ r ∈ s.mem.reqs, v.carries gone r = false := by simpa using some_
      have free' : ∀ r ∈ (invalidating (begun (inBreath s) q idx) q idx v).mem.reqs, (q, idx) ∉ r.waiters := by
        rw [reqs', List.map_congr_left fun r mem => markedReq_kept (none_ r mem) q idx, List.map_id']
        exact free
      rw [effect, invalCheck_commits found begins.2.1 rfl rfl free']
      obtain ⟨j, found', stage⟩ := committed_commitNow found
      exact ⟨j, found', fun _ => stage, fun h => absurd h some_⟩

end Sys2Proof.Proofs.PagingMoves

/-! Windows and arrival counters: what a write to a window does (chapter 9, R187). -/

namespace Sys2Proof.Proofs.WindowWrites

open Sys2Proof Sys2Proof.Machine Sys2Proof.Safety Sys2Proof.Laws Sys2Proof.Proofs.RegisterWrites
  Sys2Proof.Proofs.BellRecord

/-! ### Numbered collections, cores and bytes -/

theorem tget_tmod_same {α : Type} [DecidableEq α] (d : α) (t : Tab α) (k : Nat) (f : α → α) :
    tget d (tmod d t k f) k = f (tget d t k) := tget_tput_same ..

theorem tget_tmod_other {α : Type} [DecidableEq α] (d : α) (t : Tab α) {k j : Nat} (f : α → α) (h : j ≠ k) :
    tget d (tmod d t k f) j = tget d t j := tget_tput_other _ _ _ _ _ h

theorem getCore_modCore_same (s : State) (core : Nat) (f : Core → Core) : getCore (modCore s core f) core = f (getCore s core) :=
  tget_tput_same ..

theorem getCore_modCore_other (s : State) {core x : Nat} (f : Core → Core) (h : x ≠ core) :
    getCore (modCore s core f) x = getCore s x := tget_tput_other _ _ _ _ _ h

theorem getCore_congr {s t : State} (h : t.cores = s.cores) (x : Nat) : getCore t x = getCore s x := by rw [getCore, h, getCore]

/-- The bytes of a number are its digits to base 256 (R76). -/
theorem getD_toLE (n v : Nat) {k : Nat} (h : k < n) : ((toLE n v).getD k 0).toNat = v / 2 ^ (8 * k) % 256 := by
  induction n generalizing v k with
  | zero => omega
  | succ n ih =>
    cases k with
    | zero => simp [toLE, BitVec.toNat_ofNat]
    | succ k =>
      rw [toLE, List.getD_cons_succ, ih (v / 256) (by omega), Nat.div_div_eq_div_mul]
      congr 2
      rw [Nat.mul_succ, Nat.add_comm, Nat.pow_add]

/-! ### A write that is accepted -/

/-- The counter that a unit of a window counts on (R186). -/
def counterOfUnit (v : Window) (u : Nat) : Nat := v.acFirst.toNat + u / (v.lenU.toNat / v.acNum.toNat)

theorem getCtr_countUnit_same (c : Core) (v : Window) (u : Nat) : getCtr (countUnit c v u) (counterOfUnit v u) =
    { getCtr c (counterOfUnit v u) with count := (getCtr c (counterOfUnit v u)).count + 1 } :=
  tget_tmod_same ({} : Counter) c.counters (counterOfUnit v u) (fun k => { k with count := k.count + 1 })

theorem getCtr_countUnit_other (c : Core) (v : Window) (u : Nat) {x : Nat} (h : x ≠ counterOfUnit v u) :
    getCtr (countUnit c v u) x = getCtr c x :=
  tget_tmod_other ({} : Counter) c.counters (fun k => { k with count := k.count + 1 }) h

theorem getWin_countUnit (c : Core) (v : Window) (u w : Nat) : getWin (countUnit c v u) w = getWin c w := rfl

theorem writeAccepted_iff (c : Core) (v : Window) (gen : Byte) (u : Nat) (ctx : CtxId) : writeAccepted c v gen u ctx = true ↔
    v.st = 1 ∧ v.gen = gen ∧ ctx = v.ctx ∧ u < v.lenU.toNat ∧ c.bind ≠ 2 := by
  simp [writeAccepted, and_assoc]

/-- s with the bytes of a unit in a core's scratchpad, one more counted, and the waits that are met woken. -/
def unitLanded (s : State) (core : Nat) (v : Window) (u : Nat) (bs : List Byte) : State :=
  wakeCore (modCore (scratchWrite s core (256 * (v.baseU.toNat + u)) bs) core (fun c => countUnit c v u)) core

theorem unitLanded_frame (s : State) (core : Nat) (v : Window) (u : Nat) (bs : List Byte) : unitLanded s core v u bs =
    { s with phys := (unitLanded s core v u bs).phys, cores := (unitLanded s core v u bs).cores
             tasks := (unitLanded s core v u bs).tasks } := by
  rw [unitLanded, scratchWrite]
  cases physOf s core <;> rfl

theorem getCore_unitLanded (s : State) (core : Nat) (v : Window) (u : Nat) (bs : List Byte) :
    getCore (unitLanded s core v u bs) core = countUnit (getCore s core) v u := by
  have kept : (scratchWrite s core (256 * (v.baseU.toNat + u)) bs).cores = s.cores := by
    rw [scratchWrite]
    cases physOf s core <;> rfl
  exact (getCore_modCore_same _ core (fun c => countUnit c v u)).trans (congrArg (countUnit · v u) (getCore_congr kept core))

theorem scratch_unitLanded {s : State} {core p : Nat} (served : physOf s core = some p) (v : Window) (u : Nat) (bs : List Byte) :
    (tget {} (unitLanded s core v u bs).phys p).scratch = writeBytes (tget {} s.phys p).scratch (256 * (v.baseU.toNat + u)) bs := by
  have landed : (unitLanded s core v u bs).phys =
      tmod {} s.phys p (fun m => { m with scratch := writeBytes m.scratch (256 * (v.baseU.toNat + u)) bs }) := by
    simp only [unitLanded, scratchWrite, served]
    rfl
  rw [landed, tget_tmod_same]

theorem windowSend_lands {s : State} {core w u writer : Nat} {gen : Byte} {ctx : CtxId} {bs : List Byte} (here : coreLive s core = true)
    (win : w < 64) (accepted : writeAccepted (getCore s core) (getWin (getCore s core) w) gen u ctx = true)
    (lets : haloMay s core w u writer bs = true) :
    windowSend s core w gen u ctx writer bs = unitLanded s core (getWin (getCore s core) w) u bs := by
  simp [windowSend, windowWrite, here, win, accepted, lets, unitLanded]

theorem windowSend_waits {s : State} {core w u writer : Nat} {gen : Byte} {ctx : CtxId} {bs : List Byte}
    (accepted : writeAccepted (getCore s core) (getWin (getCore s core) w) gen u ctx = true)
    (lets : haloMay s core w u writer bs = false) : windowSend s core w gen u ctx writer bs = s := by
  simp [windowSend, accepted, lets]

/-! ### A write that is late -/

theorem windowSend_late {s : State} {core w u writer : Nat} {gen : Byte} {ctx : CtxId} {bs : List Byte} (here : coreLive s core = true)
    (win : w < 64) (refused : writeAccepted (getCore s core) (getWin (getCore s core) w) gen u ctx = false) :
    windowSend s core w gen u ctx writer bs = lateWrite s core w gen writer := by
  simp [windowSend, windowWrite, here, win, refused]

/-- The window with a late write counted. -/
def lateCounted (v : Window) (gen : Byte) : Window :=
  { v with late := satAdd v.late 1, lateLogged := insUp v.lateLogged gen.toNat }

/-- s with a late write counted on its window. -/
def lateAt (s : State) (core w : Nat) (gen : Byte) : State := modCore s core (fun c =>
  { c with windows := tput {} c.windows w (lateCounted (getWin (getCore s core) w) gen) })

theorem lateWrite_logged {s : State} {core w : Nat} {gen : Byte}
    (old : (getWin (getCore s core) w).lateLogged.contains gen.toNat = true) (writer : Nat) :
    lateWrite s core w gen writer = lateAt s core w gen := by
  rw [lateWrite]
  rw [old]
  rfl

theorem lateWrite_first {s : State} {core w : Nat} {gen : Byte}
    (new : (getWin (getCore s core) w).lateLogged.contains gen.toNat = false) (writer : Nat) :
    lateWrite s core w gen writer = bellRaise (lateAt s core w gen) 0x0020 0 (getWin (getCore s core) w).ctx 0
      (w % 64 + gen.toNat * 2 ^ 8 + writer % 64 * 2 ^ 16) := by
  rw [lateWrite]
  rw [new]
  rfl

/-- A late write changes the window's count and the Bell record alone. -/
theorem lateWrite_side (s : State) (core w : Nat) (gen : Byte) (writer : Nat) :
    BellSide (lateAt s core w gen) (lateWrite s core w gen writer) := by
  cases old : (getWin (getCore s core) w).lateLogged.contains gen.toNat with
  | true => rw [lateWrite_logged old]; exact .refl _
  | false => rw [lateWrite_first old]; exact bellSide_bellRaise ..

theorem getCore_lateAt (s : State) (core w : Nat) (gen : Byte) : getCore (lateAt s core w gen) core =
    { getCore s core with windows := tput {} (getCore s core).windows w (lateCounted (getWin (getCore s core) w) gen) } :=
  getCore_modCore_same ..

theorem lateAt_keeps (s : State) (core w : Nat) (gen : Byte) : (lateAt s core w gen).phys = s.phys ∧
    (lateAt s core w gen).tasks = s.tasks ∧ (lateAt s core w gen).bell = s.bell := ⟨rfl, rfl, rfl⟩

theorem kept_of_bellSide {s t : State} (h : BellSide s t) : t.phys = s.phys ∧ t.tasks = s.tasks ∧ t.cores = s.cores := by
  rw [h]
  exact ⟨rfl, rfl, rfl⟩

theorem keepOuter_unitLanded (s : State) (core : Nat) (v : Window) (u : Nat) (bs : List Byte) :
    keepOuter s (unitLanded (inBreath s) core v u bs) = unitLanded (inBreath s) core v u bs := by
  rw [unitLanded_frame]
  rfl

/-- Settles O36: a write that is accepted and let through lands (`unitLanded`), one that is not accepted is late (`lateWrite`). -/
theorem windowWritesLandOrAreLate : Obligations.WindowWritesLandOrAreLate := by
  intro s core w u p writer gen ctx data hup here win served c v j accepted lets
  have acceptedIff : writeAccepted c v gen u ctx = true ↔ accepted := writeAccepted_iff ..
  refine ⟨fun free => ?free, fun ok wait => ?waits, fun ok may => ?lands, fun refused => ?late⟩
  case free =>
    have none_ : (getWin (getCore (inBreath s) core) w).halo = none := free
    simp only [lets, haloMay, none_]
  case waits =>
    exact live_next (f := fun s => windowSend (inBreath s) core w gen u ctx writer (toLE 256 data.toNat)) hup
      (windowSend_waits (s := inBreath s) (acceptedIff.mpr ok) wait) rfl
  case lands =>
    have effect := windowSend_lands (s := inBreath s) here win (acceptedIff.mpr ok) may
    refine ⟨unitLanded (inBreath s) core v u (toLE 256 data.toNat),
      live_next (f := fun s => windowSend (inBreath s) core w gen u ctx writer (toLE 256 data.toNat)) hup effect
        (keepOuter_unitLanded ..), ?_⟩
    have counted : getCore (unitLanded (inBreath s) core v u (toLE 256 data.toNat)) core = countUnit c v u := getCore_unitLanded ..
    have bytes := scratch_unitLanded (s := inBreath s) (core := core) served v u (toLE 256 data.toNat)
    rw [counted, bytes]
    refine ⟨getCtr_countUnit_same .., fun x other => getCtr_countUnit_other c v u other, getWin_countUnit .., fun k inside => ?_,
      fun a outside => tget_writeBytes_outside _ _ _ _ ?_, unitLanded_frame ..⟩
    · rw [tget_writeBytes_inside _ _ _ _ (by rw [SequenceSelect.length_toLE]; exact inside), getD_toLE _ _ inside]
    · rw [SequenceSelect.length_toLE]
      exact outside
  case late =>
    have effect := windowSend_late (s := inBreath s) (writer := writer) (bs := toLE 256 data.toNat) here win
      (Bool.eq_false_iff.mpr fun h => refused (acceptedIff.mp h))
    have side := lateWrite_side (inBreath s) core w gen writer
    obtain ⟨phys, tasks, cores⟩ := kept_of_bellSide side
    have core_ : getCore (lateWrite (inBreath s) core w gen writer) core =
        { c with windows := tput {} c.windows w (lateCounted v gen) } := (getCore_congr cores core).trans (getCore_lateAt ..)
    refine ⟨lateWrite (inBreath s) core w gen writer,
      live_next (f := fun s => windowSend (inBreath s) core w gen u ctx writer (toLE 256 data.toNat)) hup effect ?_,
      phys, tasks, ?_, ?_, fun new room => ?_, fun old => ?_⟩
    · exact side.keepOuter.symm ▸ rfl
    · rw [core_]
      exact congrArg Window.late (tget_tput_same ..)
    · rw [core_]
    · rw [lateWrite_first (s := inBreath s) new, bellRaise_staging (s := lateAt (inBreath s) core w gen) room]
      refine ⟨_, rfl, rfl, ?_⟩
      have byte := gen.isLt
      show (BitVec.ofNat 64 (w % 64 + gen.toNat * 2 ^ 8 + writer % 64 * 2 ^ 16)).toNat = _
      rw [BitVec.toNat_ofNat, Nat.mod_eq_of_lt (by omega), Nat.mod_eq_of_lt win]
    · rw [lateWrite_logged (s := inBreath s) old]
      rfl

end Sys2Proof.Proofs.WindowWrites

/-! The opening and closing of windows, and the wait of a task on a counter (chapter 9, R184, R185, R190). -/

namespace Sys2Proof.Proofs.WindowsOpen

open Sys2Proof Sys2Proof.Machine Sys2Proof.Safety Sys2Proof.Laws Sys2Proof.Proofs.RegisterWrites
  Sys2Proof.Proofs.ItemLaws Sys2Proof.Proofs.Aborts Sys2Proof.Proofs.WindowWrites

/-! ### What the abort of tasks on a core leaves there -/

/-- What shutting windows leaves of a core: its context and binding; each window, or the open one closed; a freed counter. -/
structure Shutting (c d : Core) : Prop where
  ctx : d.ctx = c.ctx
  bind : d.bind = c.bind
  rebind : d.rebind = c.rebind
  win : ∀ w, getWin d w = getWin c w ∨ ((getWin c w).st = 1 ∧ getWin d w = { getWin c w with st := 2 })
  ctr : ∀ j, (getCtr c j).st = 2 → (getCtr d j).st = 2

theorem Shutting.of_same {c d : Core} (ctx : d.ctx = c.ctx) (bind : d.bind = c.bind) (rebind : d.rebind = c.rebind) (windows : d.windows = c.windows)
    (counters : d.counters = c.counters) : Shutting c d where
  ctx := ctx
  bind := bind
  rebind := rebind
  win w := .inl (by rw [getWin, windows, getWin])
  ctr j freed := by rwa [getCtr, counters]

theorem Shutting.refl (c : Core) : Shutting c c := .of_same rfl rfl rfl rfl rfl

theorem Shutting.trans {c d e : Core} (a : Shutting c d) (b : Shutting d e) : Shutting c e where
  ctx := b.ctx.trans a.ctx
  bind := b.bind.trans a.bind
  rebind := b.rebind.trans a.rebind
  win w := by
    rcases a.win w with ha | ⟨opened, ha⟩ <;> rcases b.win w with hb | ⟨opened', hb⟩
    · exact .inl (hb.trans ha)
    · rw [ha] at opened' hb
      exact .inr ⟨opened', hb⟩
    · exact .inr ⟨opened, hb.trans ha⟩
    · rw [ha] at opened'
      exact absurd opened' (by decide : (2 : BitVec 2) ≠ 1)
  ctr j freed := b.ctr j (a.ctr j freed)

/-- A closed window stays as it is. -/
theorem Shutting.closed {c d : Core} (h : Shutting c d) {w : Nat} (closed : (getWin c w).st ≠ 1) : getWin d w = getWin c w :=
  (h.win w).resolve_right (fun opened => closed opened.1)

/-- A window keeps all but its state. -/
theorem Shutting.gen {c d : Core} (h : Shutting c d) (w : Nat) : (getWin d w).gen = (getWin c w).gen := by
  rcases h.win w with same | ⟨-, shut⟩
  · rw [same]
  · rw [shut]

/-! ### One window shut -/

/-- Freeing a counter leaves a freed one freed. -/
theorem st_tmod_freed {t : Tab Counter} {j : Nat} (freed : (tget {} t j).st = 2) (k : Nat) :
    (tget {} (tmod {} t k (fun c => { c with st := 2 })) j).st = 2 := by
  by_cases same : j = k
  · subst same
    rw [tget_tmod_same]
  · rw [tget_tmod_other _ _ _ same]
    exact freed

theorem st_free_kept {first j : Nat} (l : List Nat) {t : Tab Counter} (freed : (tget {} t j).st = 2) :
    (tget {} (l.foldl (fun t i => tmod {} t (first + i) (fun k => { k with st := 2 })) t) j).st = 2 := by
  induction l generalizing t with
  | nil => exact freed
  | cons i l ih => exact ih (st_tmod_freed freed _)

/-- The freed counters of a window, at any place of the list of them. -/
theorem st_free_listed {first j : Nat} {l : List Nat} (t : Tab Counter) (listed : j ∈ l) :
    (tget {} (l.foldl (fun t i => tmod {} t (first + i) (fun k => { k with st := 2 })) t) (first + j)).st = 2 := by
  induction l generalizing t with
  | nil => cases listed
  | cons i l ih =>
    rcases List.mem_cons.mp listed with rfl | listed
    · exact st_free_kept l (by rw [tget_tmod_same])
    · exact ih _ listed

theorem shutWindow_closed {c : Core} {w : Nat} (closed : (getWin c w).st ≠ 1) : shutWindow c w = c := if_neg closed

theorem shutWindow_open {c : Core} {w : Nat} (opened : (getWin c w).st = 1) : shutWindow c w =
    { c with windows := tput {} c.windows w { getWin c w with st := 2 }
             counters := freeCounters c (getWin c w).acFirst.toNat (getWin c w).acNum.toNat } := if_pos opened

theorem getWin_shutWindow {c : Core} {w : Nat} (opened : (getWin c w).st = 1) :
    getWin (shutWindow c w) w = { getWin c w with st := 2 } := by
  rw [shutWindow_open opened]
  exact tget_tput_same ..

/-- The counters of a window that is shut are freed (R185). -/
theorem getCtr_shutWindow {c : Core} {w j : Nat} (opened : (getWin c w).st = 1) (low : (getWin c w).acFirst.toNat ≤ j)
    (high : j < (getWin c w).acFirst.toNat + (getWin c w).acNum.toNat) : (getCtr (shutWindow c w) j).st = 2 := by
  rw [shutWindow_open opened]
  obtain ⟨i, rfl⟩ := Nat.exists_eq_add_of_le low
  exact st_free_listed c.counters (List.mem_range.mpr (by omega))

theorem shutting_shutWindow (c : Core) (w : Nat) : Shutting c (shutWindow c w) := by
  by_cases opened : (getWin c w).st = 1
  · refine ⟨?_, ?_, ?_, fun x => ?_, fun j freed => ?_⟩
    · rw [shutWindow_open opened]
    · rw [shutWindow_open opened]
    · rw [shutWindow_open opened]
    · by_cases same : x = w
      · subst same
        exact .inr ⟨opened, getWin_shutWindow opened⟩
      · refine .inl ?_
        rw [shutWindow_open opened]
        exact tget_tput_other _ _ _ _ _ same
    · rw [shutWindow_open opened]
      exact st_free_kept _ freed
  · rw [shutWindow_closed opened]
    exact .refl c

theorem shutting_shutAll (ws : List Nat) (c : Core) : Shutting c (ws.foldl shutWindow c) := by
  induction ws generalizing c with
  | nil => exact .refl c
  | cons w ws ih => exact (shutting_shutWindow c w).trans (ih _)

/-! ### The abort of threads -/

/-- A table holds nothing after a write but what it held and what was written. -/
theorem mem_tput {α : Type} [DecidableEq α] {d : α} {t : Tab α} {k : Nat} {v : α} {p : Nat × α} (h : p ∈ tput d t k v) :
    p = (k, v) ∨ p ∈ t := by
  have dropped : ∀ u : Tab α, p ∈ tdrop u k → p ∈ u := fun _ => List.mem_of_mem_filter
  induction t with
  | nil =>
    rw [tput] at h
    split at h
    · exact .inr h
    · exact .inl (List.mem_singleton.mp h)
  | cons a t ih =>
    obtain ⟨i, x⟩ := a
    rw [tput] at h
    split at h
    · exact (List.mem_cons.mp h).elim (fun same => .inr (same ▸ List.mem_cons_self ..)) (fun h => (ih h).imp_right (List.mem_cons_of_mem _))
    · split at h
      · split at h
        · exact .inr (List.mem_cons_of_mem _ (dropped t h))
        · exact (List.mem_cons.mp h).imp_right (List.mem_cons_of_mem _)
      · split at h
        · exact .inr ((List.mem_cons.mp h).elim (fun same => same ▸ List.mem_cons_self ..) (fun h => List.mem_cons_of_mem _ (dropped t h)))
        · exact List.mem_cons.mp h

/-- t is s with threads of a core aborted: only this core changes, as shutting allows, and tasks only go. -/
structure Aborting (core : Nat) (s t : State) : Prop where
  side : TaskSide s t
  tasks : t.tasks.Sublist s.tasks
  other : ∀ x, x ≠ core → getCore t x = getCore s x
  here : Shutting (getCore s core) (getCore t core)
  listed : ∀ p ∈ t.cores, p ∈ s.cores ∨ (p.1 = core ∧ Shutting (getCore s core) p.2)

theorem Aborting.refl (core : Nat) (s : State) : Aborting core s s := ⟨.refl s, .refl _, fun _ _ => rfl, .refl _, fun _ mem => .inl mem⟩

theorem Aborting.trans {core : Nat} {s t u : State} (a : Aborting core s t) (b : Aborting core t u) : Aborting core s u where
  side := a.side.trans b.side
  tasks := b.tasks.trans a.tasks
  other x far := (b.other x far).trans (a.other x far)
  here := a.here.trans b.here
  listed p mem := by
    rcases b.listed p mem with mem | ⟨key, shut⟩
    · exact a.listed p mem
    · exact .inr ⟨key, a.here.trans shut⟩

theorem Aborting.foldl {core : Nat} {α : Type} {f : State → α → State} (h : ∀ s a, Aborting core s (f s a)) (l : List α) (s : State) :
    Aborting core s (l.foldl f s) := by
  induction l generalizing s with
  | nil => exact .refl core s
  | cons a l ih => exact (h s a).trans (ih _)

theorem aborting_modCore (s : State) {core : Nat} {f : Core → Core} (h : ∀ c, Shutting c (f c)) : Aborting core s (modCore s core f) where
  side := taskSide_modCore ..
  tasks := .refl _
  other _ far := getCore_modCore_other s f far
  here := by
    rw [getCore_modCore_same]
    exact h _
  listed p mem := by
    rcases mem_tput mem with rfl | mem
    · exact .inr ⟨rfl, h _⟩
    · exact .inl mem

theorem aborting_cancelSlots (s : State) (core thread : Nat) (ks : List Nat) : Aborting core s (cancelSlots s core thread ks) := by
  rw [cancelSlots]
  exact aborting_modCore s (fun _ => .of_same rfl rfl rfl rfl rfl)

/-- The threads of a list that have a task. -/
def liveThreads (s : State) (core : Nat) (ts : List Nat) : List Nat := ts.filter (fun t => (findTask s core t).isSome)

/-- s without the tasks of a core's threads. -/
def withoutThreads (s : State) (core : Nat) (live : List Nat) : State :=
  { s with tasks := s.tasks.filter (fun t => !(t.core = core && live.contains t.thread))
           items := s.items.map (fun i => lostTasks i (s.tasks.filter (fun t => t.core = core && live.contains t.thread))) }

theorem taskSide_of_tasks (s : State) (ts : List Task) (is : List Item) : TaskSide s { s with tasks := ts, items := is } := rfl

theorem aborting_withoutThreads (s : State) (core : Nat) (live : List Nat) : Aborting core s (withoutThreads s core live) where
  side := taskSide_of_tasks ..
  tasks := List.filter_sublist
  other x _ := getCore_congr rfl x
  here := getCore_congr (t := withoutThreads s core live) rfl core ▸ .refl _
  listed _ mem := .inl mem

theorem aborting_abortThreads (f : Nat) (s : State) (core : Nat) (ts : List Nat) : Aborting core s (abortThreads f s core ts) := by
  induction f generalizing s ts with
  | zero => exact .refl core s
  | succ f ih =>
    cases ts with
    | nil => exact .refl core s
    | cons a ts =>
      simp only [abortThreads]
      refine .trans ?_ (ih _ _)
      refine .trans ?_ (aborting_modCore _ (fun c => shutting_shutAll _ c))
      refine .trans ?_ (Aborting.foldl (fun s t => aborting_cancelSlots s core t _) _ _)
      exact aborting_withoutThreads s core _

/-- The tasks that are left once a list of threads is aborted are among the others. -/
theorem tasks_abortThreads {f : Nat} (fuel : f ≠ 0) (s : State) (core : Nat) (ts : List Nat) : ∀ k ∈ (abortThreads f s core ts).tasks,
    k ∈ s.tasks ∧ (k.core = core → k.thread ∉ ts) := by
  intro k kept
  obtain ⟨f, rfl⟩ := Nat.exists_eq_succ_of_ne_zero fuel
  cases ts with
  | nil => exact ⟨kept, fun _ => List.not_mem_nil⟩
  | cons a ts =>
    have left : k ∈ (withoutThreads s core (liveThreads s core (a :: ts))).tasks := by
      simp only [abortThreads] at kept
      have kept := (aborting_abortThreads ..).tasks.subset kept
      have kept := (aborting_modCore _ (fun c => shutting_shutAll _ c)).tasks.subset kept
      exact (Aborting.foldl (fun s t => aborting_cancelSlots s core t _) _ _).tasks.subset kept
    obtain ⟨mem, out⟩ := List.mem_filter.mp left
    refine ⟨mem, fun here listed => ?_⟩
    have found : (findTask s core k.thread).isSome = true := List.find?_isSome.mpr ⟨k, mem, by simp [here]⟩
    have live : k.thread ∈ liveThreads s core (a :: ts) := List.mem_filter.mpr ⟨listed, found⟩
    simp [here, live] at out

theorem findTask_abortThreads {f : Nat} (fuel : f ≠ 0) (s : State) (core : Nat) {ts : List Nat} {th : Nat} (listed : th ∈ ts) :
    findTask (abortThreads f s core ts) core th = none := by
  rw [findTask, List.find?_eq_none]
  intro k kept named
  simp only [Bool.and_eq_true, decide_eq_true_eq] at named
  exact (tasks_abortThreads fuel s core ts k kept).2 named.1 (named.2 ▸ listed)

/-! ### The closing of a window -/

theorem closeWindow_closed {s : State} {core w : Nat} (closed : (getWin (getCore s core) w).st ≠ 1) : closeWindow s core w = s :=
  if_pos closed

theorem closeWindow_open {s : State} {core w : Nat} (opened : (getWin (getCore s core) w).st = 1) : closeWindow s core w =
    abortThreads 33 (modCore s core (fun c => shutWindow c w)) core (waitersOfWin s core w) := if_neg (by rw [opened]; decide)

theorem aborting_closeWindow (s : State) (core w : Nat) : Aborting core s (closeWindow s core w) := by
  by_cases opened : (getWin (getCore s core) w).st = 1
  · rw [closeWindow_open opened]
    exact (aborting_modCore s (fun c => shutting_shutWindow c w)).trans (aborting_abortThreads ..)
  · rw [closeWindow_closed opened]
    exact .refl core s

/-- An open window that closes: its descriptor kept, its counters freed, its waiters aborted (R185). -/
theorem closeWindow_shuts {s : State} {core w : Nat} (opened : (getWin (getCore s core) w).st = 1) :
    getWin (getCore (closeWindow s core w) core) w = { getWin (getCore s core) w with st := 2 } ∧
    (∀ j, (getWin (getCore s core) w).acFirst.toNat ≤ j →
      j < (getWin (getCore s core) w).acFirst.toNat + (getWin (getCore s core) w).acNum.toNat →
      (getCtr (getCore (closeWindow s core w) core) j).st = 2) ∧
    ∀ th ∈ waitersOfWin s core w, findTask (closeWindow s core w) core th = none := by
  rw [closeWindow_open opened]
  have shut : getCore (modCore s core (fun c => shutWindow c w)) core = shutWindow (getCore s core) w := getCore_modCore_same ..
  have later := (aborting_abortThreads 33 (modCore s core (fun c => shutWindow c w)) core (waitersOfWin s core w)).here
  rw [shut] at later
  have window := getWin_shutWindow opened
  refine ⟨?_, fun j low high => later.ctr j (getCtr_shutWindow opened low high), fun th listed =>
    findTask_abortThreads (by decide) _ core listed⟩
  rw [later.closed (by rw [window]; exact (by decide : (2 : BitVec 2) ≠ 1)), window]

/-- Taking a closed window off its halo exchange (R171). -/
theorem dropHalo_eq (s : State) (core w : Nat) : dropHalo s core w = modCore (closeWindow s core w) core (fun c =>
    { c with windows := tmod {} c.windows w (fun v => { v with halo := none }) }) := rfl

theorem getWin_dropHalo (s : State) (core w : Nat) : getWin (getCore (dropHalo s core w) core) w =
    { getWin (getCore (closeWindow s core w) core) w with halo := none } := by
  rw [dropHalo_eq, getCore_modCore_same]
  exact tget_tmod_same ({} : Window) (getCore (closeWindow s core w) core).windows w (fun v => { v with halo := none })

theorem getWin_dropHalo_other (s : State) (core : Nat) {w x : Nat} (other : x ≠ w) : getWin (getCore (dropHalo s core w) core) x =
    getWin (getCore (closeWindow s core w) core) x := by
  rw [dropHalo_eq, getCore_modCore_same]
  exact tget_tmod_other ({} : Window) (getCore (closeWindow s core w) core).windows (fun v => { v with halo := none }) other

theorem getCtr_dropHalo (s : State) (core w j : Nat) : getCtr (getCore (dropHalo s core w) core) j =
    getCtr (getCore (closeWindow s core w) core) j := by
  rw [dropHalo_eq, getCore_modCore_same]
  rfl

theorem getCore_dropHalo_other (s : State) (w : Nat) {core x : Nat} (other : x ≠ core) : getCore (dropHalo s core w) x = getCore s x :=
  (getCore_modCore_other _ _ other).trans ((aborting_closeWindow s core w).other x other)

/-! ### The opening of a window -/

/-- The bounds of R184 that the descriptor's fields have to hold. -/
theorem mayOpen_bounds {s : State} {core w base len first n : Nat} (h : mayOpen s core w base len first n = true) :
    len ≤ 12288 ∧ 1 ≤ n ∧ n ≤ 1024 ∧ first + n ≤ 1024 := by
  rw [mayOpen, ctrsFree] at h
  simp only [Bool.and_eq_true, decide_eq_true_eq] at h
  obtain ⟨⟨⟨⟨⟨⟨-, length⟩, number⟩, -⟩, -⟩, -⟩, counters, -⟩ := h
  omega

/-- Fixing x₀ changes an item at most (R171). -/
theorem markHalo_frame (s : State) (halo : Option (Nat × W32)) :
    ∃ is : List Item, markHalo s halo = { s with items := is } := by
  cases halo with
  | none => exact ⟨s.items, rfl⟩
  | some p =>
    obtain ⟨q, idx⟩ := p
    rw [markHalo]
    cases findItem s q idx with
    | none => exact ⟨s.items, rfl⟩
    | some it =>
      cases h : (halosOf s q idx).isEmpty with
      | true => exact ⟨_, rfl⟩
      | false => exact ⟨s.items, rfl⟩

/-- The core with a window opened on it. -/
def windowOpened (c : Core) (thread w base len first n : Nat) (halo : Option (Nat × W32)) : Core := { c with
  counters := openCounters c w first n
  windows := tput {} c.windows w (openedWindow c thread w base len first n halo) }

theorem getWin_windowOpened (c : Core) (thread w base len first n : Nat) (halo : Option (Nat × W32)) :
    getWin (windowOpened c thread w base len first n halo) w = openedWindow c thread w base len first n halo := tget_tput_same ..

theorem getWin_windowOpened_other (c : Core) (thread : Nat) {w x : Nat} (base len first n : Nat) (halo : Option (Nat × W32)) (other : x ≠ w) :
    getWin (windowOpened c thread w base len first n halo) x = getWin c x := tget_tput_other _ _ _ _ _ other

/-- The counters of an opened window start at zero, owned by it. -/
theorem getCtr_windowOpened (c : Core) (thread w base len first n : Nat) (halo : Option (Nat × W32)) {j : Nat} (low : first ≤ j)
    (high : j < first + n) : getCtr (windowOpened c thread w base len first n halo) j =
      { count := 0, ctx := c.ctx, st := 1, win := BitVec.ofNat 6 w } := by
  obtain ⟨i, rfl⟩ := Nat.exists_eq_add_of_le low
  exact BellRecord.tget_foldl_tput ({} : Counter) (fun i => first + i)
    (fun _ => { count := 0, ctx := c.ctx, st := 1, win := BitVec.ofNat 6 w }) (fun _ _ _ => rfl) c.counters
    (.inl (List.mem_range.mpr (by omega : i < n)))

section
variable {s : State} {core thread w base len first n : Nat} {k : Task} (found : findTask s core thread = some k)
include found

theorem windowOpen_asleep (asleep : k.wait.isSome = true) : windowOpen s core thread w base len first n = s := by
  simp only [windowOpen, found, asleep, if_true]

theorem windowOpen_illegal (awake : k.wait = none) (may : mayOpen s core w base len first n = false) :
    windowOpen s core thread w base len first n = abortTask s core thread := by
  simp [windowOpen, found, awake, may]

theorem windowOpen_opens (awake : k.wait = none) (may : mayOpen s core w base len first n = true) :
    windowOpen s core thread w base len first n =
      modCore (closeWindow (markHalo s (haloOf s core base len n k)) core w) core
        (fun c => windowOpened c thread w base len first n (haloOf s core base len n k)) := by
  simp only [windowOpen, found, awake, may, Option.isSome_none, Bool.false_eq_true, if_false, Bool.not_true]
  rfl

end

/-- Without part and merge tasks nothing exchanges bounds (R160). -/
theorem boundExchange_noParts {s : State} (h : noParts s) (f : Nat) : boundExchange f s = s := by
  cases f with
  | zero => rfl
  | succ f =>
    have none_ : s.tasks.filter (fun t => t.shape.kind = .part || t.shape.kind = .merge) = [] := by
      simpa [List.filter_eq_nil_iff] using h
    rw [boundExchange, none_]
    rfl

theorem noParts_of_sublist {s t : State} (h : noParts s) (fewer : t.tasks.Sublist s.tasks) : noParts t :=
  fun k mem => h k (fewer.subset mem)

/-! ### The wait on a counter -/

theorem waitMet_iff (c : Core) (x : Wait) : waitMet c x = true ↔ 0 ≤ ((getCtr c x.counter).count - x.threshold).toInt := by
  rw [waitMet, decide_eq_true_eq, PagingBegin.sgn32_toNat]

/-- The wait that COUNTER_WAIT asks for. -/
def waitFor (j : Nat) (n : W32) : Wait := { counter := j, threshold := n, boundaries := 0 }

/-- s with a thread asleep on a counter. -/
def asleepOn (s : State) (core th j : Nat) (n : W32) : State :=
  modTask (modCore s core (fun c => { c with counters := tmod {} c.counters j (fun k => { k with waited := true }) })) core th
    (fun x => { x with wait := some (waitFor j n) })

section
variable {s : State} {core th j : Nat} {n : W32} {k : Task} (found : findTask s core th = some k) (awake : k.wait = none)
  (owned : (getCtr (getCore s core) j).st = 1)
include found awake owned

theorem counterWait_met (met : waitMet (getCore s core) (waitFor j n) = true) : counterWait s core th j n = s := by
  rw [waitFor] at met
  simp [counterWait, found, awake, owned, met]

theorem counterWait_sleeps (unmet : waitMet (getCore s core) (waitFor j n) = false) :
    counterWait s core th j n = asleepOn s core th j n := by
  have unmet' := unmet
  rw [waitFor] at unmet'
  simp [counterWait, found, awake, owned, unmet', asleepOn, waitFor]

end

theorem asleepOn_frame (s : State) (core th j : Nat) (n : W32) : asleepOn s core th j n =
    { s with tasks := (asleepOn s core th j n).tasks, cores := (asleepOn s core th j n).cores } := rfl

theorem getCtr_asleepOn (s : State) (core th j : Nat) (n : W32) : getCtr (getCore (asleepOn s core th j n) core) j =
    { getCtr (getCore s core) j with waited := true } := by
  have core_ : getCore (asleepOn s core th j n) core =
      { getCore s core with counters := tmod {} (getCore s core).counters j (fun k => { k with waited := true }) } :=
    getCore_modCore_same s core (fun c => { c with counters := tmod {} c.counters j (fun k => { k with waited := true }) })
  rw [core_]
  exact tget_tmod_same ({} : Counter) (getCore s core).counters j (fun k => { k with waited := true })

/-- A task changed in place is found changed. -/
theorem findTask_modTask {s : State} {core th : Nat} {k : Task} (found : findTask s core th = some k) {f : Task → Task}
    (named : ∀ x, (f x).core = x.core ∧ (f x).thread = x.thread) : findTask (modTask s core th f) core th = some (f k) := by
  have mine := List.find?_some found
  rw [findTask, modTask, List.find?_map]
  have same : (fun t : Task => decide (t.core = core) && decide (t.thread = th)) ∘
      (fun t => if (decide (t.core = core) && decide (t.thread = th)) = true then f t else t) =
      (fun t : Task => decide (t.core = core) && decide (t.thread = th)) := by
    funext t
    simp only [Function.comp]
    split
    · rw [(named t).1, (named t).2]
    · rfl
  rw [same, show s.tasks.find? _ = some k from found, Option.map_some, if_pos mine]

theorem cores_markHalo (s : State) (halo : Option (Nat × W32)) : (markHalo s halo).cores = s.cores ∧
    (markHalo s halo).tasks = s.tasks ∧ (markHalo s halo).mem = s.mem ∧ (markHalo s halo).phys = s.phys ∧
    keepOuter s (markHalo s halo) = markHalo s halo := by
  obtain ⟨is, frame⟩ := markHalo_frame s halo
  rw [frame]
  exact ⟨rfl, rfl, rfl, rfl, rfl⟩

theorem taskSide_markHalo (s : State) (halo : Option (Nat × W32)) : TaskSide s (markHalo s halo) := by
  obtain ⟨is, frame⟩ := markHalo_frame s halo
  rw [frame]
  rfl

theorem taskSide_inBreath (s : State) {t : State} (h : TaskSide (inBreath s) t) : t.mem = s.mem ∧ t.phys = s.phys ∧
    t.queues = s.queues ∧ keepOuter s t = t := ⟨h.mem, h.phys, h.queues, h.keepOuter⟩

/-- The effect of WINDOW_OPEN with no part or merge task on the die. -/
theorem exec_windowOpen {s t : State} (hup : up s) (parts : noParts t) (core thread w base len first n : Nat)
    (effect : windowOpen (inBreath s) core thread w base len first n = t) (side : TaskSide (inBreath s) t) :
    exec (.windowOpen core thread w base len first n) s = .next t := by
  refine live_next (f := fun s => boundExchange 20 (windowOpen (inBreath s) core thread w base len first n)) hup ?_ side.keepOuter
  show boundExchange 20 (windowOpen (inBreath s) core thread w base len first n) = t
  rw [effect]
  exact boundExchange_noParts parts 20

/-- Settles O35: an opening through `windowOpen_opens`, a closing through `closeWindow_shuts`, a wait through `asleepOn`. -/
theorem windowsOpenWholeAndClose : Obligations.WindowsOpenWholeAndClose := by
  refine ⟨fun s core thread w base len first n k hup parts found => ⟨fun asleep => ?asleep, fun awake may => ?opens,
    fun awake may => ?illegal⟩, fun s core hup => ⟨fun w opened => ?closes, fun w closed => ?stays, fun th j n k found awake owned =>
    ⟨fun met => ?met, fun unmet => ?sleeps⟩⟩⟩
  case asleep =>
    exact exec_windowOpen (t := inBreath s) hup parts _ _ _ _ _ _ _ (windowOpen_asleep (s := inBreath s) found asleep) (.refl (inBreath s))
  case opens =>
    have effect := windowOpen_opens (s := inBreath s) found awake may
    generalize haloOf (inBreath s) core base len n k = halo at effect
    obtain ⟨cores, tasks, -, -, -⟩ := cores_markHalo (inBreath s) halo
    have cores : ∀ x, getCore (markHalo (inBreath s) halo) x = getCore s x := getCore_congr cores
    have closing := aborting_closeWindow (markHalo (inBreath s) halo) core w
    have here := closing.here
    rw [cores] at here
    have core_ := getCore_modCore_same (closeWindow (markHalo (inBreath s) halo) core w) core
      (fun c => windowOpened c thread w base len first n halo)
    have others := fun x (far : x ≠ core) => getCore_modCore_other (closeWindow (markHalo (inBreath s) halo) core w)
      (fun c => windowOpened c thread w base len first n halo) far
    have side : TaskSide (inBreath s) (modCore (closeWindow (markHalo (inBreath s) halo) core w) core
        (fun c => windowOpened c thread w base len first n halo)) :=
      ((taskSide_markHalo ..).trans closing.side).trans (taskSide_modCore ..)
    obtain ⟨mem, phys, -, -⟩ := taskSide_inBreath s side
    have fewer : noParts (modCore (closeWindow (markHalo (inBreath s) halo) core w) core
        (fun c => windowOpened c thread w base len first n halo)) :=
      noParts_of_sublist parts (closing.tasks.trans (tasks ▸ .refl _))
    refine ⟨_, exec_windowOpen hup fewer _ _ _ _ _ _ _ effect side, sameMemory_of_mem mem, phys, ?_, fun j low high => ?_,
      fun x far => ?_, fun closed => ?_⟩
    · obtain ⟨length, some_, most, fits⟩ := mayOpen_bounds may
      rw [core_, getWin_windowOpened]
      refine ⟨rfl, ?_, ?_, ?_, here.ctx, rfl, ?_, rfl⟩
      · exact (BitVec.toNat_ofNat ..).trans (Nat.mod_eq_of_lt (by omega))
      · exact (BitVec.toNat_ofNat ..).trans (Nat.mod_eq_of_lt (by omega))
      · exact (BitVec.toNat_ofNat ..).trans (Nat.mod_eq_of_lt (by omega))
      · exact congrArg (· + 1) (here.gen w)
    · rw [core_, getCtr_windowOpened _ _ _ _ _ _ _ _ low high, here.ctx]
    · rw [others x far, closing.other x far, cores]
    · have still_ : closeWindow (markHalo (inBreath s) halo) core w = markHalo (inBreath s) halo :=
        closeWindow_closed (by rw [cores]; exact closed)
      refine ⟨?_, fun x other => ?_⟩
      · obtain ⟨is, frame⟩ := markHalo_frame (inBreath s) halo
        rw [still_, frame]
        rfl
      · rw [core_, getWin_windowOpened_other _ _ _ _ _ _ _ other, still_, cores]
  case illegal =>
    have effect := windowOpen_illegal (s := inBreath s) found awake may
    have aborting := aborting_abortThreads 33 (inBreath s) core [thread]
    obtain ⟨mem, phys, -, -⟩ := taskSide_inBreath s aborting.side
    exact ⟨_, exec_windowOpen hup (noParts_of_sublist parts aborting.tasks) _ _ _ _ _ _ _ effect aborting.side,
      findTask_abortThreads (by decide) _ core (List.mem_singleton_self _), sameMemory_of_mem mem, phys⟩
  case closes =>
    obtain ⟨window, counters, waiters⟩ := closeWindow_shuts (s := inBreath s) (core := core) (w := w) opened
    have side := taskSide_dropHalo (inBreath s) core w
    obtain ⟨mem, -, queues, inner⟩ := taskSide_inBreath s side
    refine ⟨_, live_next (f := fun s => dropHalo (inBreath s) core w) hup rfl inner, ?_, fun j low high => ?_, waiters,
      sameMemory_of_mem mem, queues, fun x far => getCore_dropHalo_other (inBreath s) w far⟩
    · rw [getWin_dropHalo, window]
      rfl
    · rw [getCtr_dropHalo]
      exact counters j low high
  case stays =>
    have same : closeWindow (inBreath s) core w = inBreath s := closeWindow_closed closed
    have inner := (taskSide_inBreath s (taskSide_dropHalo (inBreath s) core w)).2.2.2
    refine ⟨_, live_next (f := fun s => dropHalo (inBreath s) core w) hup rfl inner, ?_, ?_, fun x other => ?_⟩
    · rw [dropHalo_eq, same]
      rfl
    · rw [getWin_dropHalo, same]
      rfl
    · rw [getWin_dropHalo_other _ _ other, same]
      rfl
  case met =>
    exact live_next (f := fun s => counterWait (inBreath s) core th j n) hup
      (counterWait_met (s := inBreath s) found awake owned ((waitMet_iff ..).mpr met)) rfl
  case sleeps =>
    have effect := counterWait_sleeps (s := inBreath s) found awake owned (n := n)
      (Bool.eq_false_iff.mpr fun met => absurd ((waitMet_iff ..).mp met) (by exact not_le.mpr unmet))
    refine ⟨asleepOn (inBreath s) core th j n, live_next (f := fun s => counterWait (inBreath s) core th j n) hup effect
      (by rw [asleepOn_frame]; rfl), asleepOn_frame .., getCtr_asleepOn .., ?_⟩
    exact findTask_modTask (f := fun x => { x with wait := some (waitFor j n) }) found (fun _ => ⟨rfl, rfl⟩)

end Sys2Proof.Proofs.WindowsOpen

/-! The steps of a release and of a rebinding: fence, scrub and freeing (chapter 9, R194 to R196, Table 9.9). -/

namespace Sys2Proof.Proofs.Releases

open Sys2Proof Sys2Proof.Machine Sys2Proof.Safety Sys2Proof.Laws Sys2Proof.Proofs.RegisterWrites
  Sys2Proof.Proofs.BellRecord Sys2Proof.Proofs.Mailbox Sys2Proof.Proofs.ItemLaws Sys2Proof.Proofs.Aborts
  Sys2Proof.Proofs.WindowWrites Sys2Proof.Proofs.WindowsOpen

/-! ### Cores without a rebinding -/

/-- No core is to be rebound. -/
def NoRebind (s : State) : Prop := ∀ p ∈ s.cores, p.2.rebind = none

theorem tget_mem_or_default {α : Type} (d : α) (t : Tab α) (k : Nat) : (k, tget d t k) ∈ t ∨ tget d t k = d := by
  by_cases default : tget d t k = d
  · exact .inr default
  · exact .inl (QueueBoundary.mem_of_tget_ne default)

theorem NoRebind.core {s : State} (h : NoRebind s) (k : Nat) : (getCore s k).rebind = none := by
  rcases tget_mem_or_default ({} : Core) s.cores k with listed | default
  · exact h _ listed
  · rw [getCore, default]

theorem noRebind_modCore {s : State} (h : NoRebind s) (k : Nat) {f : Core → Core} (keeps : ∀ c, (f c).rebind = c.rebind) :
    NoRebind (modCore s k f) := by
  intro p mem
  rcases mem_tput mem with rfl | mem
  · exact (keeps _).trans (h.core k)
  · exact h p mem

theorem noRebind_aborting {core : Nat} {s t : State} (h : NoRebind s) (aborting : Aborting core s t) : NoRebind t := by
  intro p mem
  rcases aborting.listed p mem with mem | ⟨-, shut⟩
  · exact h p mem
  · exact shut.rebind.trans (h.core core)

/-! ### The fence -/

theorem aborting_closeAllWindows (s : State) (core : Nat) : Aborting core s (closeAllWindows s core) :=
  Aborting.foldl (fun _ _ => aborting_closeWindow ..) _ _

theorem taskSide_fenceCore (s : State) (k : Nat) : TaskSide s (fenceCore s k) :=
  (taskSide_closeAllWindows s k).trans (taskSide_modCore ..)

theorem noRebind_fenceCore {s : State} (h : NoRebind s) (k : Nat) : NoRebind (fenceCore s k) :=
  noRebind_modCore (noRebind_aborting h (aborting_closeAllWindows s k)) k (fun _ => rfl)

theorem bind_fenceCore (s : State) (k : Nat) : (getCore (fenceCore s k) k).bind = 2 := by
  rw [fenceCore, getCore_modCore_same]

theorem bind_fenceCore_kept {s : State} {x : Nat} (fenced : (getCore s x).bind = 2) (k : Nat) : (getCore (fenceCore s k) x).bind = 2 := by
  by_cases same : x = k
  · subst same
    exact bind_fenceCore s x
  · rw [fenceCore, getCore_modCore_other _ _ same, (aborting_closeAllWindows s k).other x same]
    exact fenced

/-- What the fence of a list of cores does. -/
theorem fence_cores (ks : List Nat) (s : State) : TaskSide s (ks.foldl fenceCore s) ∧
    (NoRebind s → NoRebind (ks.foldl fenceCore s)) ∧
    ∀ x, (x ∈ ks ∨ (getCore s x).bind = 2) → (getCore (ks.foldl fenceCore s) x).bind = 2 := by
  induction ks generalizing s with
  | nil => exact ⟨.refl s, fun h => h, fun x h => h.resolve_left List.not_mem_nil⟩
  | cons k ks ih =>
    obtain ⟨side, settled, fenced⟩ := ih (fenceCore s k)
    refine ⟨(taskSide_fenceCore s k).trans side, fun h => settled (noRebind_fenceCore h k), fun x h => fenced x ?_⟩
    rcases h with h | h
    · rcases List.mem_cons.mp h with rfl | h
      · exact .inr (bind_fenceCore s x)
      · exact .inl h
    · exact .inr (bind_fenceCore_kept h k)

/-- s with other releases under way. -/
def withReleases (s : State) (l : List Release) : State := { s with reed := { s.reed with releases := l } }

theorem withReleases_keeps (s : State) (l : List Release) : (withReleases s l).cores = s.cores ∧ (withReleases s l).phys = s.phys ∧
    (withReleases s l).clusters = s.clusters ∧ (withReleases s l).reed.releases = l := ⟨rfl, rfl, rfl, rfl⟩

/-- Nothing is done for the entries of a table when none is due. -/
theorem foldl_none_due {α β γ : Type} {l : List α} {due : α → Bool} (none_ : ∀ a ∈ l, due a = false) (g : α → β) (f : γ → β → γ)
    (s : γ) : ((l.filter due).map g).foldl f s = s := by
  rw [List.filter_eq_nil_iff.mpr (fun a mem => by rw [none_ a mem]; exact Bool.false_ne_true)]
  rfl

theorem ctxFence_one {s : State} {r : Release} (one : s.reed.releases = [r]) (begun_ : r.step = 0) (due : r.at_ ≠ s.breath.num)
    (settled : NoRebind s) : ctxFence s =
      withReleases ((coresOfCtx s r.ctx 1).foldl fenceCore s) [{ r with step := 2, at_ := s.breath.num }] := by
  obtain ⟨side, settled', -⟩ := fence_cores (coresOfCtx s r.ctx 1) s
  have dueList : [r].filter (fun r => r.step = 0 && r.at_ ≠ s.breath.num) = [r] := by simp [begun_, due]
  have after : ((coresOfCtx s r.ctx 1).foldl fenceCore s).reed.releases = [r] := side.reed ▸ one
  rw [ctxFence, one, dueList, List.foldl_cons, List.foldl_nil, after]
  refine (foldl_none_due (fun p mem => ?_) ..).trans ?_
  · rw [settled' settled p mem]
    exact Bool.and_false _
  · rw [withReleases, List.map_singleton, if_pos (by simp [begun_, due])]

/-! ### The scrub -/

theorem getCore_scrubPhys (s : State) (p x : Nat) : getCore (scrubPhys s p) x = getCore s x := rfl

/-- t differs from s in cores, scratchpads and accumulators alone. -/
def ScrubSide (s t : State) : Prop := t = { s with cores := t.cores, phys := t.phys }

theorem ScrubSide.trans {s t u : State} (a : ScrubSide s t) (b : ScrubSide t u) : ScrubSide s u := by
  unfold ScrubSide at *
  rw [b, a]

theorem scrubCore_none {s : State} {k : Nat} (h : physOf s k = none) : scrubCore s k = modCore s k scrubRegs := by
  have h' : physOf (modCore s k scrubRegs) k = none := h
  rw [scrubCore]
  rw [h']

theorem scrubCore_some {s : State} {k p : Nat} (h : physOf s k = some p) : scrubCore s k = scrubPhys (modCore s k scrubRegs) p := by
  have h' : physOf (modCore s k scrubRegs) k = some p := h
  rw [scrubCore]
  rw [h']

theorem scrubSide_scrubCore (s : State) (k : Nat) : ScrubSide s (scrubCore s k) := by
  cases h : physOf s k with
  | none => rw [scrubCore_none h]; rfl
  | some p => rw [scrubCore_some h]; rfl

theorem noRebind_scrubCore {s : State} (h : NoRebind s) (k : Nat) : NoRebind (scrubCore s k) := by
  have scrubbed := noRebind_modCore h k (f := scrubRegs) (fun _ => rfl)
  cases at_ : physOf s k with
  | none => rw [scrubCore_none at_]; exact scrubbed
  | some p => rw [scrubCore_some at_]; exact scrubbed

theorem phys_scrubCore {s : State} {k p : Nat} (h : physOf s k = some p) : tget {} (scrubCore s k).phys p = {} := by
  rw [scrubCore_some h]
  exact tget_tput_same ..

/-- A scrubbed memory stays so while other cores are scrubbed. -/
theorem phys_scrubCore_kept {s : State} {p : Nat} (clear : tget {} s.phys p = {}) (k : Nat) : tget {} (scrubCore s k).phys p = {} := by
  cases h : physOf s k with
  | none => rw [scrubCore_none h]; exact clear
  | some x =>
    by_cases same : p = x
    · subst same
      exact phys_scrubCore h
    · rw [scrubCore_some h]
      exact (tget_tput_other _ _ _ _ _ same).trans clear

theorem physOf_scrubSide {s t : State} (h : ScrubSide s t) (k : Nat) : physOf t k = physOf s k := by
  rw [h]
  rfl

/-- What the scrub of a list of cores does. -/
theorem scrub_cores (ks : List Nat) (s : State) : ScrubSide s (ks.foldl scrubCore s) ∧
    (NoRebind s → NoRebind (ks.foldl scrubCore s)) ∧
    ∀ p, ((∃ k ∈ ks, physOf s k = some p) ∨ tget {} s.phys p = {}) → tget {} (ks.foldl scrubCore s).phys p = {} := by
  induction ks generalizing s with
  | nil => exact ⟨rfl, fun h => h, fun p h => h.resolve_left (by rintro ⟨k, mem, -⟩; exact List.not_mem_nil mem)⟩
  | cons k ks ih =>
    obtain ⟨side, settled, scrubbed⟩ := ih (scrubCore s k)
    have one := scrubSide_scrubCore s k
    refine ⟨one.trans side, fun h => settled (noRebind_scrubCore h k), fun p h => scrubbed p ?_⟩
    rcases h with ⟨x, mem, served⟩ | h
    · rcases List.mem_cons.mp mem with rfl | mem
      · exact .inr (phys_scrubCore served)
      · exact .inl ⟨x, mem, (physOf_scrubSide one x).trans served⟩
    · exact .inr (phys_scrubCore_kept h k)

theorem dropCtxLines_keeps (s : State) (x : CtxId) : (dropCtxLines s x).cores = s.cores ∧ (dropCtxLines s x).phys = s.phys ∧
    (dropCtxLines s x).reed = s.reed ∧ keepOuter s (dropCtxLines s x) = dropCtxLines s x := ⟨rfl, rfl, rfl, rfl⟩

theorem lines_dropCtxLines (s : State) (x : CtxId) : ∀ c ∈ (dropCtxLines s x).clusters, ∀ l ∈ c.2.lines, l.2 ≠ x := by
  intro c mem l line
  obtain ⟨c, -, rfl⟩ := List.mem_map.mp mem
  exact of_decide_eq_true (List.mem_filter.mp line).2

theorem ctxScrubDone_one {s : State} {r : Release} (one : s.reed.releases = [r]) (fenced : r.step = 2) (settled : NoRebind s) :
    ctxScrubDone s = withReleases (dropCtxLines ((coresOfCtx s r.ctx 2).foldl scrubCore s) r.ctx)
      [{ r with step := 6, at_ := s.breath.num }] := by
  obtain ⟨side, settled', -⟩ := scrub_cores (coresOfCtx s r.ctx 2) s
  obtain ⟨cores, -, reed, -⟩ := dropCtxLines_keeps ((coresOfCtx s r.ctx 2).foldl scrubCore s) r.ctx
  have dueList : [r].filter (fun r => decide (r.step = 2)) = [r] := by simp [fenced]
  have after : (dropCtxLines ((coresOfCtx s r.ctx 2).foldl scrubCore s) r.ctx).reed.releases = [r] := by
    rw [reed, side]
    exact one
  rw [ctxScrubDone, one, dueList, List.foldl_cons, List.foldl_nil, after]
  refine (foldl_none_due (fun p mem => ?_) ..).trans ?_
  · rw [settled' settled p (cores ▸ mem)]
    exact Bool.and_false _
  · rw [withReleases, List.map_singleton, if_pos fenced]

/-! ### The freeing of a context's entries (R217) -/

theorem migSide_leaveUse (s : State) (u : PoolUnit) : MigSide s (leaveUse s u) := rfl

theorem migSide_cancelMig (s : State) (lpn : Nat) (keep : Bool) : MigSide s (cancelMig s lpn keep) :=
  (Applications.discards_cancelMig s lpn keep).side

theorem migSide_applyEntry (s : State) (k : Nat) (e : SeqEntry) : MigSide s (applyChange s (.entry k e)) := rfl

theorem migSide_applyResv (s : State) (far : Bool) (d : Int) : MigSide s (applyChange s (.resv far d)) := by
  cases far <;> rfl

/-- Reading a tree of pages changes nothing but what was left. -/
theorem freeTree_state (lv : Nat) (f : Freeing) (root : Nat) : (freeTree f lv root).1.s = f.s := by
  induction lv generalizing f root with
  | zero => rfl
  | succ lv ih =>
    rw [freeTree]
    cases blockVals f.s root with
    | error e => rfl
    | ok vs =>
      have key : ∀ (l : List Nat) (a : Freeing × List Nat × List Nat), (l.foldl (fun acc v =>
          ((freeTree acc.1 lv v).1, acc.2.1 ++ (freeTree acc.1 lv v).2.1, acc.2.2 ++ (freeTree acc.1 lv v).2.2)) a).1.s = a.1.s := by
        intro l
        induction l with
        | nil => exact fun _ => rfl
        | cons v l step => exact fun a => (step _).trans (ih _ _)
      exact key ..

theorem migSide_freePage (f : Freeing) (lpn : Nat) : MigSide f.s (freePage f lpn).s := by
  rw [freePage]
  generalize readInfo f.s lpn = r
  generalize pagesOf f.s 0 true (infoAddr f.s lpn) 16 = ps
  cases r with
  | error e => exact .refl _
  | ok inf =>
    cases ps with
    | error e => exact .refl _
    | ok ps =>
      dsimp only
      split
      · exact migSide_putInfo ..
      · refine .trans ?_ (migSide_leaveUse ..)
        refine .trans ?_ (migSide_leaveUse ..)
        refine .trans ?_ (migSide_putInfo ..)
        split
        · exact migSide_cancelMig ..
        · exact .refl _

theorem migSide_freePages (l : List Nat) (f : Freeing) : MigSide f.s (l.foldl freePage f).s := by
  induction l generalizing f with
  | nil => exact .refl _
  | cons lpn l ih => exact (migSide_freePage f lpn).trans (ih _)

/-- A list's tree, when the entry has one. -/
theorem freeTree_state_ite (c : Prop) [Decidable c] (f : Freeing) (lv root : Nat) :
    (if c then (f, [], []) else freeTree f lv root).1.s = f.s := by
  split
  · rfl
  · exact freeTree_state ..

theorem migSide_freeEntry (s : State) (k : Nat) : MigSide s (freeEntry s k).1 := by
  rw [freeEntry]
  refine .trans ?_ (MigSide.foldl (fun _ _ => migSide_badAccess ..) _ _)
  have kept := fun (t : State) (h : MigSide s t) => h.trans (migSide_applyEntry t k { ver := (getSeq s k).ver, lastSn := (getSeq s k).lastSn })
  split
  · refine kept _ (.trans ?_ (MigSide.foldl (fun _ _ => migSide_leaveUse ..) _ _))
    refine .trans ?_ (migSide_freePages _ _)
    rw [freeTree_state_ite, freeTree_state_ite]
    exact .refl s
  · refine .trans (kept _ (.trans ?_ (MigSide.foldl (fun _ _ => migSide_leaveUse ..) _ _))) (migSide_applyResv ..)
    refine .trans ?_ (migSide_freePages _ _)
    rw [freeTree_state_ite, freeTree_state_ite]
    exact .refl s

theorem migSide_freeCtxEntries (s : State) (x : CtxId) : MigSide s (freeCtxEntries s x).1 := by
  have key : ∀ (l : List Nat) (a : State × Nat), MigSide a.1 (l.foldl (fun acc k =>
      ((freeEntry acc.1 k).1, acc.2 + b2n (freeEntry acc.1 k).2)) a).1 := by
    intro l
    induction l with
    | nil => exact fun _ => .refl _
    | cons k l ih => exact fun a => (migSide_freeEntry a.1 k).trans (ih _)
  exact key ..

/-! ### A release's last step -/

/-- s with the fenced cores of a context unbound. -/
def coresFreed (s : State) (x : CtxId) : State :=
  (coresOfCtx s x 2).foldl (fun st k => modCore st k (fun c => { c with bind := 0, ctx := 0 })) s

/-- s with the queues of a context unbound. -/
def queuesFreed (s : State) (x : CtxId) : State :=
  ((s.queues.filter (fun p => p.2.ctx = x)).map (fun p => p.1)).foldl (fun st q => modQ st q (fun v => { v with ctx := 0 })) s

/-- s with a context's identifier and release gone. -/
def contextFreed (s : State) (x : CtxId) : State :=
  { s with reed := { s.reed with ctxs := dropOne s.reed.ctxs x.toNat, releases := s.reed.releases.filter (fun r => r.ctx ≠ x) } }

theorem finishRelease_eq (s : State) (r : Release) : finishRelease s r =
    answer (bellRaise (contextFreed (queuesFreed (coresFreed (freeCtxEntries s r.ctx).1 r.ctx) r.ctx) r.ctx) 0x0021 0 r.ctx 1 0)
      .host r.tag 0 (freeCtxEntries s r.ctx).2 := rfl

/-- t differs from s in queues and cores alone. -/
def BindSide (s t : State) : Prop := t = { s with queues := t.queues, cores := t.cores }

theorem BindSide.trans {s t u : State} (a : BindSide s t) (b : BindSide t u) : BindSide s u := by
  unfold BindSide at *
  rw [b, a]

theorem unbind_cores (ks : List Nat) (s : State) :
    BindSide s (ks.foldl (fun st k => modCore st k (fun c => { c with bind := 0, ctx := 0 })) s) ∧
    (ks.foldl (fun st k => modCore st k (fun c => { c with bind := 0, ctx := 0 })) s).queues = s.queues ∧
    ∀ x, (x ∈ ks ∨ ((getCore s x).bind = 0 ∧ (getCore s x).ctx = 0)) →
      (getCore (ks.foldl (fun st k => modCore st k (fun c => { c with bind := 0, ctx := 0 })) s) x).bind = 0 ∧
      (getCore (ks.foldl (fun st k => modCore st k (fun c => { c with bind := 0, ctx := 0 })) s) x).ctx = 0 := by
  induction ks generalizing s with
  | nil => exact ⟨rfl, rfl, fun x h => h.resolve_left List.not_mem_nil⟩
  | cons k ks ih =>
    obtain ⟨side, queues, free⟩ := ih (modCore s k (fun c => { c with bind := 0, ctx := 0 }))
    refine ⟨BindSide.trans (t := modCore s k (fun c => { c with bind := 0, ctx := 0 })) rfl side, queues, fun x h => free x ?_⟩
    by_cases same : x = k
    · subst same
      rw [getCore_modCore_same]
      exact .inr ⟨rfl, rfl⟩
    · rw [getCore_modCore_other _ _ same]
      exact h.imp_left (fun mem => (List.mem_cons.mp mem).resolve_left same)

theorem getQ_modQ_same (s : State) (q : Nat) (f : Queue → Queue) : getQ (modQ s q f) q = f (getQ s q) := tget_tput_same ..

theorem getQ_modQ_other (s : State) {q x : Nat} (f : Queue → Queue) (h : x ≠ q) : getQ (modQ s q f) x = getQ s x :=
  tget_tput_other _ _ _ _ _ h

theorem unbind_queues (qs : List Nat) (s : State) :
    BindSide s (qs.foldl (fun st q => modQ st q (fun v => { v with ctx := 0 })) s) ∧
    (qs.foldl (fun st q => modQ st q (fun v => { v with ctx := 0 })) s).cores = s.cores ∧
    ∀ x, (x ∈ qs ∨ (getQ s x).ctx = 0) → (getQ (qs.foldl (fun st q => modQ st q (fun v => { v with ctx := 0 })) s) x).ctx = 0 := by
  induction qs generalizing s with
  | nil => exact ⟨rfl, rfl, fun x h => h.resolve_left List.not_mem_nil⟩
  | cons q qs ih =>
    obtain ⟨side, cores, free⟩ := ih (modQ s q (fun v => { v with ctx := 0 }))
    refine ⟨BindSide.trans (t := modQ s q (fun v => { v with ctx := 0 })) rfl side, cores, fun x h => free x ?_⟩
    by_cases same : x = q
    · subst same
      rw [getQ_modQ_same]
      exact .inr rfl
    · rw [getQ_modQ_other _ _ same]
      exact h.imp_left (fun mem => (List.mem_cons.mp mem).resolve_left same)

/-- What a release's last step leaves (R193, R196): the die but for its answer. -/
theorem released (s : State) (x : CtxId) : keepOuter s (contextFreed (queuesFreed (coresFreed (freeCtxEntries s x).1 x) x) x) =
      contextFreed (queuesFreed (coresFreed (freeCtxEntries s x).1 x) x) x ∧
    (contextFreed (queuesFreed (coresFreed (freeCtxEntries s x).1 x) x) x).reed =
      { s.reed with ctxs := dropOne s.reed.ctxs x.toNat, releases := s.reed.releases.filter (fun r => r.ctx ≠ x) } ∧
    (∀ q, (getQ s q).ctx = x → (getQ (contextFreed (queuesFreed (coresFreed (freeCtxEntries s x).1 x) x) x) q).ctx = 0) ∧
    ∀ k ∈ coresOfCtx s x 2, (getCore (contextFreed (queuesFreed (coresFreed (freeCtxEntries s x).1 x) x) x) k).bind = 0 ∧
      (getCore (contextFreed (queuesFreed (coresFreed (freeCtxEntries s x).1 x) x) x) k).ctx = 0 := by
  have entries := migSide_freeCtxEntries s x
  generalize (freeCtxEntries s x).1 = u at entries
  have cores : u.cores = s.cores := by rw [entries]
  have reed : u.reed = s.reed := by rw [entries]
  obtain ⟨coreSide, queues, free⟩ := unbind_cores (coresOfCtx u x 2) u
  have coreSide : BindSide u (coresFreed u x) := coreSide
  have queues : (coresFreed u x).queues = u.queues := queues
  have free : ∀ k ∈ coresOfCtx u x 2, (getCore (coresFreed u x) k).bind = 0 ∧ (getCore (coresFreed u x) k).ctx = 0 :=
    fun k mem => free k (.inl mem)
  generalize coresFreed u x = v at *
  obtain ⟨queueSide, cores', closed⟩ := unbind_queues ((v.queues.filter (fun p => p.2.ctx = x)).map (fun p => p.1)) v
  have queueSide : BindSide v (queuesFreed v x) := queueSide
  have cores' : (queuesFreed v x).cores = v.cores := cores'
  have closed : ∀ q, (q ∈ (v.queues.filter (fun p => p.2.ctx = x)).map (fun p => p.1) ∨ (getQ v q).ctx = 0) →
    (getQ (queuesFreed v x) q).ctx = 0 := closed
  generalize queuesFreed v x = w at *
  have side : BindSide u w := coreSide.trans queueSide
  refine ⟨?_, ?_, fun q bound => ?_, fun k mem => ?_⟩
  · have inner : keepOuter s w = w := by
      rw [side, entries]
      rfl
    rw [contextFreed, ← inner]
    rfl
  · have reed' : w.reed = s.reed := by rw [side, reed]
    rw [contextFreed, reed']
  · have same : getQ v q = getQ s q := by rw [getQ, queues, entries.queues, getQ]
    refine closed q ?_
    rcases tget_mem_or_default ({} : Queue) v.queues q with listed | default
    · exact .inl (List.mem_map.mpr ⟨_, List.mem_filter.mpr ⟨listed, decide_eq_true ((congrArg Queue.ctx same).trans bound)⟩, rfl⟩)
    · exact .inr (by rw [getQ, default])
  · have listed : k ∈ coresOfCtx u x 2 := by rwa [coresOfCtx, cores, ← coresOfCtx]
    exact getCore_congr (t := contextFreed w x) cores' k ▸ free k listed

/-! ### A rebound core takes its context -/

/-- An answer to a waiting binding reaches Reed and the interrupts alone. -/
theorem answerBind_side (s : State) (queue : Bool) (index : Nat) : answerBind s queue index =
    { s with reed := (answerBind s queue index).reed, irq := (answerBind s queue index).irq } := by
  rw [answerBind]
  cases s.reed.binds.find? (fun b => b.queue = queue && b.index = index) with
  | none => rfl
  | some b =>
    have side := mailSide_answer { s with reed := { s.reed with
      binds := s.reed.binds.filter (fun x => !(x.queue = queue && x.index = index)) } } b.slot b.tag 0 0
    dsimp only
    rw [side]

theorem coreRebind_takes {s : State} {k : Nat} {x : CtxId} {b : W64} (waits : (getCore s k).rebind = some (x, true, b))
    (later : b ≠ s.breath.num) : coreRebind s k = answerBind (bellRaise (setCore s k
      { getCore s k with bind := 1, ctx := x, rebind := none }) 0x0021 0 (getCore s k).ctx 1 0) false k := by
  simp only [coreRebind, waits, later, if_false]

/-- Settles O43: the fence, the scrub and the freeing of one release (`fence_cores`, `scrub_cores`, `released`), and a rebinding. -/
theorem releasesFenceScrubAndFree : Obligations.ReleasesFenceScrubAndFree := by
  intro s hup
  refine ⟨fun inside => ⟨atEdge_late hup inside, atEdge_late hup inside, fun k => atEdge_late (f := fun s => coreRebind s k) hup inside⟩,
    fun r edge one first due settled => ?fence, fun r one fenced settled => ?scrub, fun r edge one scrubbed due => ?free,
    fun k x b edge waits later => ?rebind⟩
  case fence =>
    have effect := ctxFence_one one first due settled
    obtain ⟨side, -, fenced⟩ := fence_cores (coresOfCtx s r.ctx 1) s
    generalize (coresOfCtx s r.ctx 1).foldl fenceCore s = u at effect side fenced
    refine ⟨withReleases u [{ r with step := 2, at_ := s.breath.num }], ?_, rfl, fun k mem => ?_⟩
    · rw [show exec .ctxFence s = atEdge s ctxFence from rfl, atEdge_up hup edge, effect, withReleases, ← side.keepOuter]
      rfl
    · exact getCore_congr (withReleases_keeps ..).1 k ▸ fenced k (.inl mem)
  case scrub =>
    have effect := ctxScrubDone_one one fenced settled
    obtain ⟨side, -, scrubbed⟩ := scrub_cores (coresOfCtx s r.ctx 2) s
    generalize (coresOfCtx s r.ctx 2).foldl scrubCore s = u at effect side scrubbed
    obtain ⟨-, phys, -, -⟩ := dropCtxLines_keeps u r.ctx
    refine ⟨withReleases (dropCtxLines u r.ctx) [{ r with step := 6, at_ := s.breath.num }],
      live_next (f := ctxScrubDone) hup effect ?_, rfl, fun k p mem served => ?_, lines_dropCtxLines u r.ctx⟩
    · rw [side]
      rfl
    · rw [(withReleases_keeps ..).2.1, phys]
      exact scrubbed p (.inl ⟨k, mem, served⟩)
  case free =>
    have effect : ctxScrubbed s = finishRelease s r := by
      have dueList : [r].filter (fun r => r.step = 6 && r.at_ ≠ s.breath.num) = [r] := by simp [scrubbed, due]
      rw [ctxScrubbed, one, dueList]
      rfl
    rw [finishRelease_eq] at effect
    obtain ⟨inner, reed, queues, cores⟩ := released s r.ctx
    generalize contextFreed (queuesFreed (coresFreed (freeCtxEntries s r.ctx).1 r.ctx) r.ctx) r.ctx = u at *
    have bell := bellSide_bellRaise u 0x0021 0 r.ctx 1 0
    generalize bellRaise u 0x0021 0 r.ctx 1 0 = v at *
    have side := mailSide_answer v .host r.tag 0 (freeCtxEntries s r.ctx).2
    have reed' : v.reed = u.reed := by rw [bell]
    have queues' : v.queues = u.queues := by rw [bell]
    have shown := mail_answer_same v .host r.tag 0 (freeCtxEntries s r.ctx).2
    have before : mail v .host = mail s .host := by
      show v.reed.host = s.reed.host
      rw [reed', reed]
    refine ⟨answer v .host r.tag 0 (freeCtxEntries s r.ctx).2, ?_, ?_, ?_, fun q bound => ?_, fun k mem => ?_, fun ready => ?_⟩
    · rw [show exec .ctxScrubbed s = atEdge s ctxScrubbed from rfl, atEdge_up hup edge, effect]
      refine congrArg _ (inner_trans inner (inner_trans bell.keepOuter side.keepOuter))
    · rw [side.releases, reed', reed, one]
      simp
    · rw [side.ctxs, reed', reed]
      simp [dropOne]
    · rw [getQ, side.queues, queues']
      exact queues q bound
    · rw [getCore_congr (side.cores.trans (kept_of_bellSide bell).2.2)]
      exact cores k mem
    · rw [shown, before, completed_done (m := { mail s .host with busy := false }) ready]
      exact ⟨rfl, rfl, rfl⟩
  case rebind =>
    have effect := coreRebind_takes waits later
    have core_ : ∀ n, getCore (setCore s k { getCore s k with bind := 1, ctx := x, rebind := none }) n =
        if n = k then { getCore s k with bind := 1, ctx := x, rebind := none } else getCore s n := fun n => by
      split
      · next same => rw [same]; exact tget_tput_same ..
      · next other => exact tget_tput_other _ _ _ _ _ other
    have inner : keepOuter s (setCore s k { getCore s k with bind := 1, ctx := x, rebind := none }) =
        setCore s k { getCore s k with bind := 1, ctx := x, rebind := none } := rfl
    have bell : (setCore s k { getCore s k with bind := 1, ctx := x, rebind := none }).bell = s.bell := rfl
    generalize setCore s k { getCore s k with bind := 1, ctx := x, rebind := none } = u at *
    have logged := bellSide_bellRaise u 0x0021 0 (getCore s k).ctx 1 0
    have side := answerBind_side (bellRaise u 0x0021 0 (getCore s k).ctx 1 0) false k
    have cores : ∀ n, getCore (answerBind (bellRaise u 0x0021 0 (getCore s k).ctx 1 0) false k) n = getCore u n :=
      getCore_congr ((congrArg State.cores side).trans (kept_of_bellSide logged).2.2)
    refine ⟨answerBind (bellRaise u 0x0021 0 (getCore s k).ctx 1 0) false k,
      (atEdge_up (f := fun s => coreRebind s k) hup edge).trans (congrArg _ ?_), ?_, fun n other => ?_, fun room => ?_⟩
    · show keepOuter s (coreRebind s k) = _
      rw [effect]
      refine inner_trans inner (inner_trans logged.keepOuter ?_)
      rw [side]
      rfl
    · rw [cores, core_, if_pos rfl]
    · rw [cores, core_, if_neg other]
    · rw [congrArg State.bell side, bellRaise_staging (by rw [bell]; exact room), bell]
      exact ⟨_, rfl, rfl, rfl⟩

end Sys2Proof.Proofs.Releases

/-! The answers of memory writes (chapters 11 and 18, R242, R396): memory holds what was written, and no other byte changes. -/

namespace Sys2Proof.Proofs.WriteAnswers

open Sys2Proof Sys2Proof.Machine Sys2Proof.Safety Sys2Proof.Laws Sys2Proof.Proofs.RegisterWrites
  Sys2Proof.Proofs.BellRecord Sys2Proof.Proofs.ItemLaws Sys2Proof.Proofs.LinkPort Sys2Proof.Proofs.Aborts
  Sys2Proof.Proofs.WindowWrites Sys2Proof.Proofs.WindowsOpen

/-! ### Slots whose streams wait for no tag -/

/-- No stream of a core's slots waits to be issued. -/
def SlotsIdle (t : Tab StreamSlot) : Prop := ∀ p ∈ t, p.2.todo = []

theorem SlotsIdle.tget {t : Tab StreamSlot} (h : SlotsIdle t) (i : Nat) : (Machine.tget {} t i).todo = [] := by
  by_cases default : Machine.tget {} t i = ({} : StreamSlot)
  · rw [default]
  · exact h _ (QueueBoundary.mem_of_tget_ne default)

theorem SlotsIdle.tput {t : Tab StreamSlot} (h : SlotsIdle t) {i : Nat} {v : StreamSlot} (idle : v.todo = []) :
    SlotsIdle (Machine.tput {} t i v) := by
  intro p mem
  rcases mem_tput mem with rfl | mem
  · exact idle
  · exact h p mem

/-- A core keeps its binding, its context and whether it took a test task in this breath. -/
structure SameBinding (c d : Core) : Prop where
  bind : d.bind = c.bind
  ctx : d.ctx = c.ctx
  tse : d.tse = c.tse

theorem SameBinding.refl (c : Core) : SameBinding c c := ⟨rfl, rfl, rfl⟩

theorem SameBinding.trans {c d e : Core} (a : SameBinding c d) (b : SameBinding d e) : SameBinding c e :=
  ⟨b.bind.trans a.bind, b.ctx.trans a.ctx, b.tse.trans a.tse⟩

/-- On every core whose slots were idle they are so afterwards, and every core keeps its context. -/
structure IdleKept (s t : State) : Prop where
  on : ∀ core, SlotsIdle (getCore s core).slots → SlotsIdle (getCore t core).slots
  bound : ∀ core, SameBinding (getCore s core) (getCore t core)

theorem IdleKept.refl (s : State) : IdleKept s s := ⟨fun _ h => h, fun _ => .refl _⟩

theorem IdleKept.trans {s t u : State} (a : IdleKept s t) (b : IdleKept t u) : IdleKept s u :=
  ⟨fun core h => b.on core (a.on core h), fun core => (a.bound core).trans (b.bound core)⟩

theorem IdleKept.of_cores {s t : State} (h : t.cores = s.cores) : IdleKept s t :=
  ⟨fun core idle => getCore_congr h core ▸ idle, fun core => getCore_congr h core ▸ .refl _⟩

theorem IdleKept.foldl {α : Type} {f : State → α → State} (h : ∀ s a, IdleKept s (f s a)) (l : List α) (s : State) :
    IdleKept s (l.foldl f s) := by
  induction l generalizing s with
  | nil => exact .refl s
  | cons a l ih => exact (h s a).trans (ih _)

theorem idleKept_modCore (s : State) (k : Nat) {f : Core → Core} (h : ∀ c, SlotsIdle c.slots → SlotsIdle (f c).slots)
    (bound : ∀ c, SameBinding c (f c)) : IdleKept s (modCore s k f) := by
  have one : ∀ core, (getCore (modCore s k f) core = f (getCore s core) ∨ getCore (modCore s k f) core = getCore s core) := by
    intro core
    by_cases same : core = k
    · subst same
      exact .inl (getCore_modCore_same ..)
    · exact .inr (getCore_modCore_other _ _ same)
  refine ⟨fun core idle => ?_, fun core => ?_⟩ <;> rcases one core with changed | kept
  · rw [changed]; exact h _ idle
  · rw [kept]; exact idle
  · rw [changed]; exact bound _
  · rw [kept]; exact .refl _

/-- A slot whose stream is cancelled when it is of one of some kinds (R262). -/
def slotCancelled (thread : Nat) (ks : List Nat) (t : Tab StreamSlot) (i : Nat) : Tab StreamSlot :=
  if (tget {} t (4 * thread + i)).st = 1 && ks.contains (tget {} t (4 * thread + i)).kind
  then tput {} t (4 * thread + i) { tget {} t (4 * thread + i) with st := 3, todo := [] } else t

theorem cancelSlots_eq (s : State) (core thread : Nat) (ks : List Nat) : cancelSlots s core thread ks =
    modCore s core (fun c => { c with slots := (List.range 4).foldl (slotCancelled thread ks) c.slots }) := rfl

theorem SlotsIdle.cancelled {t : Tab StreamSlot} (h : SlotsIdle t) (thread : Nat) (ks l : List Nat) :
    SlotsIdle (l.foldl (slotCancelled thread ks) t) := by
  induction l generalizing t with
  | nil => exact h
  | cons i l ih =>
    refine ih ?_
    unfold slotCancelled
    split
    · exact h.tput rfl
    · exact h

theorem idleKept_cancelSlots (s : State) (core thread : Nat) (ks : List Nat) : IdleKept s (cancelSlots s core thread ks) := by
  rw [cancelSlots_eq]
  generalize List.range 4 = l
  refine idleKept_modCore s core ?_ (fun _ => ⟨rfl, rfl, rfl⟩)
  exact fun c idle => idle.cancelled thread ks l

theorem shutAll_keeps (ws : List Nat) (c : Core) : (ws.foldl shutWindow c).slots = c.slots ∧
    SameBinding c (ws.foldl shutWindow c) := by
  induction ws generalizing c with
  | nil => exact ⟨rfl, .refl c⟩
  | cons w ws ih =>
    have one : (shutWindow c w).slots = c.slots ∧ SameBinding c (shutWindow c w) := by
      rw [shutWindow]
      split <;> exact ⟨rfl, rfl, rfl, rfl⟩
    obtain ⟨slots, bound⟩ := ih (shutWindow c w)
    exact ⟨slots.trans one.1, one.2.trans bound⟩

theorem idleKept_abortThreads (f : Nat) (s : State) (core : Nat) (ts : List Nat) : IdleKept s (abortThreads f s core ts) := by
  induction f generalizing s ts with
  | zero => exact .refl s
  | succ f ih =>
    cases ts with
    | nil => exact .refl s
    | cons a ts =>
      simp only [abortThreads]
      refine .trans ?_ (ih _ _)
      refine .trans ?_ (idleKept_modCore _ core (fun c h => (shutAll_keeps _ c).1 ▸ h) (fun c => (shutAll_keeps _ c).2))
      refine .trans ?_ (IdleKept.foldl (fun s t => idleKept_cancelSlots s core t _) _ _)
      exact .of_cores rfl

theorem idleKept_closeWindow (s : State) (core w : Nat) : IdleKept s (closeWindow s core w) := by
  rw [closeWindow]
  split
  · exact .refl s
  · exact (idleKept_modCore s core (fun c h => (shutAll_keeps [w] c).1.symm ▸ h) (fun c => (shutAll_keeps [w] c).2)).trans (idleKept_abortThreads ..)

theorem idleKept_dropHalo (s : State) (core w : Nat) : IdleKept s (dropHalo s core w) :=
  (idleKept_closeWindow s core w).trans (idleKept_modCore _ core (fun _ h => h) (fun _ => ⟨rfl, rfl, rfl⟩))

theorem idleKept_abortItemTasks (s : State) (q : Nat) (idx : W32) : IdleKept s (abortItemTasks s q idx) :=
  ((IdleKept.foldl (fun _ _ => idleKept_abortThreads ..) _ _).trans
    (IdleKept.foldl (fun _ (p : Nat × Nat) => idleKept_dropHalo _ p.1 p.2) _ _)).trans (.of_cores rfl)

/-! ### The ends of items -/

theorem cores_closeOp (s : State) (q : Nat) (idx : W32) (st : Byte) (d : W64) : (closeOp s q idx st d).cores = s.cores := by
  rw [closeOp]
  cases opOf s q idx with
  | none => rfl
  | some o =>
    dsimp only
    split <;> rfl

theorem idleKept_endNow (s : State) (q : Nat) (idx : W32) (st d : Nat) : IdleKept s (endNow s q idx st d) :=
  (idleKept_abortItemTasks s q idx).trans (.of_cores (cores_closeOp ..))

theorem cores_commitNow (s : State) (q : Nat) (idx : W32) : (commitNow s q idx).cores = s.cores := by
  rw [commitNow]
  cases findItem s q idx with
  | none => rfl
  | some i => exact cores_closeOp ..

theorem idleKept_settleOp (s : State) (q : Nat) (idx : W32) : IdleKept s (settleOp s q idx) := by
  unfold settleOp
  split
  · exact .refl s
  · dsimp only
    split
    · split
      · exact idleKept_endNow ..
      · exact .of_cores (cores_commitNow ..)
    · exact .refl s

theorem cores_of_portSide {s t : State} (h : PortSide s t) : t.cores = s.cores := by rw [h.1.1]

theorem cores_toOthers (s : State) (o : CleOp) (t : UnitTag) (b : List Byte) : (toOthers s o t b).cores = s.cores :=
  cores_of_portSide (portSide_toOthers ..)

theorem idleKept_endItem (s : State) (q : Nat) (idx : W32) (st d : Nat) : IdleKept s (endItem s q idx st d) := by
  unfold endItem
  split
  · exact idleKept_endNow ..
  · dsimp only
    split
    · exact .refl s
    · refine .trans ?_ (idleKept_settleOp ..)
      refine (idleKept_abortItemTasks s q idx).trans (.of_cores ?_)
      exact (cores_toOthers ..).trans rfl

theorem idleKept_sendDone (s : State) (o : CleOp) : IdleKept s (sendDone s o) := by
  unfold sendDone
  refine .trans ?_ (idleKept_settleOp ..)
  exact .of_cores ((cores_toOthers ..).trans rfl)

theorem idleKept_yieldFail (s : State) (q : Nat) (idx : W32) : IdleKept s (yieldFail s q idx) := by
  unfold yieldFail
  dsimp only
  split
  · exact .refl s
  · split
    · exact .refl s
    · have h : IdleKept s (modItem (abortItemTasks s q idx) q idx (fun i => { i with holdKeys := [], retryFull := false, ready := none })) :=
        (idleKept_abortItemTasks s q idx).trans (.of_cores rfl)
      split
      · exact h.trans (idleKept_sendDone ..)
      · exact h

/-! ### What an answer can change besides memory -/

/-- t has the bytes of s in memory, and cores that waited for no tag still do not. -/
structure Answering (s t : State) : Prop where
  bytes : t.mem.bytes = s.mem.bytes
  idle : IdleKept s t

theorem Answering.refl (s : State) : Answering s s := ⟨rfl, .refl s⟩

theorem Answering.trans {s t u : State} (a : Answering s t) (b : Answering t u) : Answering s u :=
  ⟨b.bytes.trans a.bytes, a.idle.trans b.idle⟩

theorem Answering.foldl {α : Type} {f : State → α → State} (h : ∀ s a, Answering s (f s a)) (l : List α) (s : State) :
    Answering s (l.foldl f s) := by
  induction l generalizing s with
  | nil => exact .refl s
  | cons a l ih => exact (h s a).trans (ih _)

theorem answering_of_reqSide {s t : State} (h : ReqSide s t) : Answering s t := ⟨h.bytes, .of_cores (by rw [h])⟩

theorem bytes_of_itemSide {s t : State} (h : ItemSide s t) : t.mem.bytes = s.mem.bytes := by
  rw [h.mem]

theorem answering_of_itemSide {s t : State} (h : ItemSide s t) (idle : IdleKept s t) : Answering s t := ⟨bytes_of_itemSide h, idle⟩

theorem answering_endNow (s : State) (q : Nat) (idx : W32) (st d : Nat) : Answering s (endNow s q idx st d) :=
  answering_of_itemSide (itemSide_endNow ..) (idleKept_endNow ..)

theorem answering_commitNow (s : State) (q : Nat) (idx : W32) : Answering s (commitNow s q idx) :=
  answering_of_itemSide (itemSide_commitNow ..) (.of_cores (cores_commitNow ..))

/-- An item of another engine than the Paging Engine goes on, when its last output is acknowledged, with the end of its operation. -/
theorem answering_tryCommit (s : State) {q : Nat} (engine : engineOf q ≠ 1) (idx : W32) : Answering s (tryCommit s q idx) := by
  simp only [tryCommit, engine, if_false]
  split
  · exact .refl s
  · split
    · exact .refl s
    · split
      · exact answering_of_itemSide (itemSide_yieldFail ..) (idleKept_yieldFail ..)
      · split
        · exact .refl s
        · split
          · split
            · exact .refl s
            · exact answering_of_itemSide (itemSide_sendDone ..) (idleKept_sendDone ..)
          · exact answering_commitNow ..

theorem answering_bellRaise (s : State) (code : Nat) (u : W16) (ctx : CtxId) (src arg : Nat) :
    Answering s (bellRaise s code u ctx src arg) := by
  have side := bellSide_bellRaise s code u ctx src arg
  exact ⟨by rw [side], .of_cores (kept_of_bellSide side).2.2⟩

/-- A bad answer fails an item; nothing of its outputs had landed. -/
theorem answering_itemErr {s : State} {q : Nat} {idx : W32} (fresh : ∀ it, findItem s q idx = some it → it.landed = []) (addr : W64)
    (resp : Resp) : Answering s (itemErr s q idx (.bad addr resp)) := by
  rw [itemErr]
  cases found : findItem s q idx with
  | none => exact .refl s
  | some it =>
    dsimp only
    rw [spoilOutputs, fresh it found, List.foldl_nil]
    exact (answering_bellRaise ..).trans (answering_of_itemSide (itemSide_endItem ..) (idleKept_endItem ..))

theorem answering_outputAck {s : State} {q : Nat} {idx : W32} (engine : engineOf q ≠ 1) {resp : Resp}
    (fresh : resp ≠ .ok → ∀ it, findItem s q idx = some it → it.landed = []) (addr : W64) : Answering s (outputAck s q idx addr resp) := by
  cases resp with
  | ok => exact answering_tryCommit s engine idx
  | poison => exact answering_itemErr (fresh (by decide)) addr .poison
  | ctxMismatch => exact answering_itemErr (fresh (by decide)) addr .ctxMismatch

theorem idleKept_modSlot (s : State) (core i : Nat) {f : StreamSlot → StreamSlot} (h : ∀ v, v.todo = [] → (f v).todo = []) :
    IdleKept s (modSlot s core i f) := idleKept_modCore s core (fun _ idle => idle.tput (h _ (idle.tget i))) (fun _ => ⟨rfl, rfl, rfl⟩)

theorem answering_settleSlot (s : State) (core i : Nat) : Answering s (settleSlot s core i) :=
  ⟨rfl, idleKept_modSlot s core i (fun v h => by split <;> exact h)⟩

theorem findItem_settled (s : State) (core i : Nat) (f : StreamSlot → StreamSlot) (q : Nat) (idx : W32) :
    findItem (settleSlot (modSlot s core i f) core i) q idx = findItem s q idx := rfl

theorem answering_drainAck {s : State} {q : Nat} {idx : W32} (engine : engineOf q ≠ 1) {resp : Resp}
    (fresh : resp ≠ .ok → ∀ it, findItem s q idx = some it → it.landed = []) (core i : Nat) (gen : Byte) (addr : W64) :
    Answering s (drainAck s core i gen q idx addr resp) := by
  rw [drainAck]
  split
  · exact answering_outputAck engine fresh addr
  · refine .trans ?_ (answering_outputAck engine (fun bad it found => fresh bad it ((findItem_settled ..).symm.trans found)) addr)
    refine .trans ?_ (answering_settleSlot ..)
    exact ⟨rfl, idleKept_modSlot s core i (fun _ h => h)⟩

theorem answering_faultAck (s : State) (resp : Resp) : Answering s (faultAck s resp) := by
  cases resp with
  | ok => exact ⟨rfl, .of_cores rfl⟩
  | poison | ctxMismatch =>
    simp only [faultAck]
    refine .trans ?_ (answering_bellRaise ..)
    exact ⟨rfl, .of_cores rfl⟩

theorem idleKept_checkItem (s : State) (i : Item) : IdleKept s (checkItem s i) := by
  unfold checkItem
  dsimp only
  split
  · refine .trans (.of_cores ?_) (idleKept_endNow ..)
    split
    · exact (cores_toOthers ..).trans ((cores_toOthers ..).trans rfl)
    · rfl
  · split
    · refine .trans ?_ (idleKept_endNow ..)
      exact .of_cores rfl
    · exact .of_cores rfl

theorem idleKept_runChecks (l : List Item) (first : Bool) (s : State) : IdleKept s (runChecks l first s) := by
  induction l generalizing first s with
  | nil => exact .refl s
  | cons i l ih =>
    unfold runChecks
    split
    · split
      · exact ih ..
      · exact (idleKept_checkItem ..).trans (ih ..)
    · split
      · exact .refl s
      · exact ih ..

theorem answering_checkQueue (s : State) (q : Nat) : Answering s (checkQueue s q) :=
  ⟨by rw [(checkSide_checkQueue s q).mem], idleKept_runChecks ..⟩

theorem answering_recordAck (s : State) (q : Nat) (idx : W32) (resp : Resp) : Answering s (recordAck s q idx resp) := by
  have same : ∀ t : State, t.mem = s.mem → t.cores = s.cores → Answering s t := fun t mem cores => ⟨by rw [mem], .of_cores cores⟩
  unfold recordAck
  split
  · exact .refl s
  · split
    · refine .trans (same _ ?_ ?_) (answering_checkQueue ..)
      · dsimp only
        split <;> split <;> rfl
      · dsimp only
        split <;> split <;> rfl
    · refine .trans (same _ ?_ ?_) (.trans (answering_bellRaise ..) ⟨rfl, .of_cores rfl⟩)
      · rfl
      · rfl

theorem answering_invalCheck (s : State) (q : Nat) (idx : W32) : Answering s (invalCheck s q idx) := by
  unfold invalCheck
  split
  · exact .refl s
  · split
    · split
      · exact answering_commitNow ..
      · exact .refl s
    · exact .refl s

/-! ### Freed tags go to nobody -/

theorem feedSlot_idle {s : State} {core i : Nat} (idle : (getSlot (getCore s core) i).todo = []) :
    feedSlot s core i = settleSlot s core i := by
  rw [feedSlot, idle, feedParts]

theorem feedSlots_idle (l : List Nat) (th : Nat) {s : State} {core : Nat} (idle : SlotsIdle (getCore s core).slots) :
    Answering s (l.foldl (fun st k => feedSlot st core (4 * th + k)) s) := by
  induction l generalizing s with
  | nil => exact .refl s
  | cons k l ih =>
    have one := answering_settleSlot s core (4 * th + k)
    rw [List.foldl_cons, feedSlot_idle (idle.tget _)]
    exact one.trans (ih (one.idle.on core idle))

theorem feedThread_idle (th : Nat) {s : State} {core : Nat} (idle : SlotsIdle (getCore s core).slots) :
    Answering s (feedThread core s th) := by
  have tags := answering_of_reqSide (reqSide_grantTags (fun r => r.pool = core && r.thread = some th) s)
  rw [feedThread]
  generalize grantTags (fun r => r.pool = core && r.thread = some th) s = u at tags ⊢
  exact tags.trans (feedSlots_idle (List.range 4) th (tags.idle.on core idle))

theorem feedThreads_idle (l : List Nat) {s : State} {core : Nat} (idle : SlotsIdle (getCore s core).slots) :
    Answering s (l.foldl (feedThread core) s) := by
  induction l generalizing s with
  | nil => exact .refl s
  | cons th l ih =>
    have one := feedThread_idle th idle
    rw [List.foldl_cons]
    generalize feedThread core s th = u at one ⊢
    exact one.trans (ih (one.idle.on core idle))

/-- On a core whose slots are idle, freed tags change no byte of memory. -/
theorem feedCore_idle {s : State} {core : Nat} (idle : SlotsIdle (getCore s core).slots) :
    (feedCore s core).mem.bytes = s.mem.bytes := by
  rw [feedCore]
  split
  · exact (feedThreads_idle (threadOrder s) idle).bytes
  · rfl

/-! ### The answer of one write -/

theorem landWrite_keeps (s : State) (r : Req) (resp : Resp) : (landWrite s r resp).cores = s.cores ∧
    (resp ≠ .ok → (landWrite s r resp).items = s.items) := by
  cases resp with
  | ok =>
    refine ⟨?_, fun bad => absurd rfl bad⟩
    rw [landWrite]
    cases outputItem s r with
    | none => rfl
    | some it =>
      dsimp only
      split <;> rfl
  | poison => exact ⟨rfl, fun _ => rfl⟩
  | ctxMismatch => exact ⟨rfl, fun _ => rfl⟩

/-- The bytes that an OK answer puts into memory. -/
theorem bytes_landWrite_ok {s : State} {r : Req} (fine : ∀ it, outputItem s r = some it → it.status ≠ 0x20) :
    (landWrite s r .ok).mem.bytes = writeBytes s.mem.bytes r.pa r.data := by
  rw [landWrite]
  cases out : outputItem s r with
  | none => rfl
  | some it =>
    dsimp only
    rw [if_neg (fine it out)]
    rfl

/-- What acts on an answer, by the owner of its request. -/
def ownerAck (s : State) (r : Req) (resp : Resp) : State :=
  match r.owner with
  | .output q idx => outputAck s q idx r.addr resp
  | .record q idx => recordAck s q idx resp
  | .faultRecord => faultAck s resp
  | .command _ _ => s
  | .stream _ _ _ _ _ _ => s
  | .copy lpn _ _ => copyAck s lpn r.addr resp
  | .drain core i gen q idx => drainAck s core i gen q idx r.addr resp

theorem writeResponse_eq {s : State} {tag : Nat} {r : Req} (req : reqOf s tag = some r) (write : r.write = true) (resp : Resp) :
    writeResponse s tag resp = feedCore (r.waiters.foldl (fun st w => invalCheck st w.1 w.2)
      (ownerAck (releaseReq (landWrite s r resp) tag) r resp)) r.pool := by
  rw [writeResponse, req]
  dsimp only
  rw [if_neg (by rw [write]; decide)]
  rfl

theorem answering_ownerAck {s u : State} {r : Req} {resp : Resp} (alone : answersAlone s r) (items : resp ≠ .ok → u.items = s.items) :
    Answering u (ownerAck u r resp) := by
  obtain ⟨-, noCopy, outputs⟩ := alone
  have fresh : ∀ q idx, (r.owner = .output q idx ∨ ∃ c i g, r.owner = .drain c i g q idx) → resp ≠ .ok →
      ∀ it, findItem u q idx = some it → it.landed = [] := fun q idx owns bad it found =>
    ((outputs q idx owns).2 it ((findItem_congr (items bad) q idx).symm.trans found)).2
  rw [ownerAck]
  cases owner : r.owner with
  | output q idx => exact answering_outputAck (outputs q idx (.inl owner)).1 (fresh q idx (.inl owner)) r.addr
  | record q idx => exact answering_recordAck ..
  | faultRecord => exact answering_faultAck ..
  | command q idx => exact .refl u
  | stream core i gen sp pf ctx => exact .refl u
  | copy lpn f x => exact absurd owner (noCopy lpn f x)
  | drain core i gen q idx =>
    exact answering_drainAck (outputs q idx (.inr ⟨core, i, gen, owner⟩)).1 (fresh q idx (.inr ⟨core, i, gen, owner⟩)) ..

/-- An answer leaves the bytes that its landing left. -/
theorem bytes_writeResponse {s : State} {tag : Nat} {r : Req} (req : reqOf s tag = some r) (write : r.write = true)
    (alone : answersAlone s r) (resp : Resp) : (writeResponse s tag resp).mem.bytes = (landWrite s r resp).mem.bytes := by
  obtain ⟨cores, items⟩ := landWrite_keeps s r resp
  have released := reqSide_releaseReq (landWrite s r resp) tag
  have acked : Answering _ (ownerAck (releaseReq (landWrite s r resp) tag) r resp) :=
    answering_ownerAck alone (fun bad => released.items.trans (items bad))
  have waited := Answering.foldl (fun s (w : Nat × W32) => answering_invalCheck s w.1 w.2) r.waiters
    (ownerAck (releaseReq (landWrite s r resp) tag) r resp)
  have before : SlotsIdle (getCore (landWrite s r resp) r.pool).slots := getCore_congr cores r.pool ▸ alone.1
  have all := ((answering_of_reqSide released).trans acked).trans waited
  rw [writeResponse_eq req write, feedCore_idle (all.idle.on r.pool before), all.bytes]

/-- Settles O32: the bytes of a landing (`landWrite`), which the rest of an answer leaves (`bytes_writeResponse`). -/
theorem answeredWritesReachMemory : Obligations.AnsweredWritesReachMemory := by
  intro s tag hup
  refine ⟨fun none_ resp => ?none, fun r req write alone => ?answers⟩
  case none =>
    refine live_next (f := fun s => writeResponse (inBreath s) tag.toNat resp) (t := inBreath s) hup ?_ rfl
    have none' : reqOf (inBreath s) tag.toNat = none := none_
    simp only [writeResponse, none']
  case answers =>
    have bytes := bytes_writeResponse (s := inBreath s) req write alone
    have inner := fun resp => live_up (f := fun s => writeResponse (inBreath s) tag.toNat resp) hup
    have fine : ∀ it, outputItem (inBreath s) r = some it → it.status ≠ 0x20 := by
      intro it out
      rw [outputItem] at out
      cases owner : r.owner with
      | output q idx =>
        obtain ⟨engine, items⟩ := alone.2.2 q idx (.inl owner)
        simp only [owner, engine, if_false] at out
        exact (items it out).1
      | drain core i gen q idx =>
        simp only [owner] at out
        exact ((alone.2.2 q idx (.inr ⟨core, i, gen, owner⟩)).2 it out).1
      | _ => simp only [owner, reduceCtorEq] at out
    refine ⟨⟨_, inner .ok, fun a => ?_⟩, ⟨_, inner .ctxMismatch, fun a => ?_⟩, ⟨_, inner .poison, fun a outside => ?_⟩⟩
    · rw [keepOuter_mem, bytes, bytes_landWrite_ok fine]
      split
      · next within =>
        obtain ⟨k, rfl⟩ := Nat.exists_eq_add_of_le within.1
        rw [tget_writeBytes_inside _ _ _ _ (by omega), Nat.add_sub_cancel_left]
      · next outside => exact tget_writeBytes_outside _ _ _ _ (by omega)
    · rw [keepOuter_mem, bytes]
      rfl
    · rw [keepOuter_mem, bytes]
      exact tget_writeBytes_outside _ _ _ _ (by rw [List.length_map, List.length_range]; exact outside)

end Sys2Proof.Proofs.WriteAnswers

/-! The fault ring: posting, answers, and its control register (chapter 11, R245, Table 11.12). -/

namespace Sys2Proof.Proofs.FaultRing

open Sys2Proof Sys2Proof.Machine Sys2Proof.Safety Sys2Proof.Laws Sys2Proof.Proofs.RegisterWrites
  Sys2Proof.Proofs.BellRecord Sys2Proof.Proofs.ItemLaws Sys2Proof.Proofs.WriteAnswers

/-! ### A record is written (R245) -/

theorem length_faultBytes (r : FaultRec) (n : Nat) : (faultBytes r n).length = 32 := by
  simp only [faultBytes, List.length_append, SequenceSelect.length_toLE]

/-- The request that writes a record into its slot of the ring. -/
def faultReq (s : State) (r : FaultRec) : Req :=
  { tag := freeTag s { tag := none, pool := 67, owner := .faultRecord, write := true
                       pa := s.tr.fring.toNat + 32 * ((r.number.getD 0).toNat % 2 ^ s.tr.fLog2.toNat), len := 32
                       data := faultBytes r s.tr.fLog2.toNat, ctx := 0, addr := 0 }
    pool := 67, owner := .faultRecord, write := true
    pa := s.tr.fring.toNat + 32 * ((r.number.getD 0).toNat % 2 ^ s.tr.fLog2.toNat), len := 32
    data := faultBytes r s.tr.fLog2.toNat, ctx := 0, addr := 0 }

theorem writeFault_eq (s : State) (r : FaultRec) :
    writeFault s r = { s with mem := { s.mem with reqs := s.mem.reqs ++ [faultReq s r] } } := rfl

/-- What the write of a record leaves of the rest of the die. -/
theorem writeFault_keeps (s : State) (r : FaultRec) : (writeFault s r).mem.reqs = s.mem.reqs ++ [faultReq s r] ∧
    (writeFault s r).mem.bytes = s.mem.bytes ∧ (writeFault s r).tr = s.tr ∧ keepOuter s (writeFault s r) = writeFault s r :=
  ⟨rfl, rfl, rfl, rfl⟩

/-- s with other fault records. -/
def withRecs (s : State) (l : List FaultRec) : State := { s with tr := { s.tr with recs := l } }

theorem withRecs_keeps (s : State) (l : List FaultRec) : (withRecs s l).mem = s.mem ∧ (withRecs s l).tr = { s.tr with recs := l } ∧
    keepOuter s (withRecs s l) = withRecs s l := ⟨rfl, rfl, rfl⟩

/-! ### Posting -/

theorem faultPost_held {s : State} (h : s.tr.fEn = false ∨ s.tr.ringErr = true ∨ ringRoom s = false ∨ faultInFlight s = true) :
    faultPost s = s := by
  have held : (!s.tr.fEn || s.tr.ringErr || faultInFlight s || !ringRoom s) = true := by
    rcases h with h | h | h | h <;> simp [h]
  rw [faultPost, if_pos held]

section
variable {s : State} (enabled : s.tr.fEn = true) (fine : s.tr.ringErr = false) (room : ringRoom s = true)
  (idle : faultInFlight s = false)
include enabled fine room idle

theorem faultPost_again {r : FaultRec} (failed : s.tr.failedRec = some r) : faultPost s = writeFault s r := by
  simp [faultPost, enabled, fine, room, idle, failed]

theorem faultPost_none (failed : s.tr.failedRec = none) (none_ : s.tr.recs.find? (fun r => r.number.isNone) = none) : faultPost s = s := by
  simp only [faultPost, enabled, fine, room, idle, failed, none_, Bool.not_true, Bool.or_self, Bool.false_eq_true, if_false]

/-- The oldest waiting record takes TAIL as its number (R245). -/
theorem faultPost_oldest {r : FaultRec} (failed : s.tr.failedRec = none) (oldest : s.tr.recs.find? (fun r => r.number.isNone) = some r) :
    faultPost s = writeFault (withRecs s (s.tr.recs.map (fun x => if x.key = r.key then { r with number := some s.tr.tail } else x)))
      { r with number := some s.tr.tail } := by
  have open_ : ¬ (!s.tr.fEn || s.tr.ringErr || faultInFlight s || !ringRoom s) = true := by simp [enabled, fine, room, idle]
  rw [faultPost, if_neg open_, failed, oldest]
  rfl

end

/-! ### Answers -/

/-- The answer to a record's write. -/
theorem writeResponse_faultRecord {s : State} {tag : Nat} {r : Req} (req : reqOf s tag = some r) (write : r.write = true)
    (owner : r.owner = .faultRecord) (waiters : r.waiters = []) (pool : 64 ≤ r.pool) (resp : Resp) :
    writeResponse s tag resp = faultAck (releaseReq (landWrite s r resp) tag) resp := by
  rw [writeResponse_eq req write, waiters, feedCore, if_neg (Nat.not_lt.mpr pool), ownerAck, owner]
  rfl

theorem faultAck_ok (s : State) : (faultAck s .ok).tr = { s.tr with tail := s.tr.tail + 1, failedRec := none } ∧
    (faultAck s .ok).irq.gstat.getLsbD 5 = true := ⟨rfl, pendG_getLsbD _ (by decide)⟩

theorem faultAck_poison (s : State) : (faultAck s .poison).tr.tail = s.tr.tail ∧ (faultAck s .poison).tr.ringErr = true := by
  have kept : ∀ (s : State) (code : Nat) (u : W16) (ctx : CtxId) (src arg : Nat), (bellRaise s code u ctx src arg).tr = s.tr :=
    fun s code u ctx src arg => by rw [bellSide_bellRaise s code u ctx src arg]
  simp only [faultAck]
  rw [kept]
  exact ⟨rfl, rfl⟩

/-! ### The ring's error is cleared -/

theorem ringErrClear_fine {s : State} (fine : s.tr.ringErr = false) : ringErrClear s = s := by
  simp [ringErrClear, fine]

/-- s with RING_ERR cleared. -/
def errCleared (s : State) : State := { s with tr := { s.tr with ringErr := false } }

theorem errCleared_keeps (s : State) : (errCleared s).mem = s.mem ∧ (errCleared s).tr = { s.tr with ringErr := false } ∧
    keepOuter s (errCleared s) = errCleared s := ⟨rfl, rfl, rfl⟩

theorem ringErrClear_nothing {s : State} (err : s.tr.ringErr = true) (h : s.tr.fEn = false ∨ s.tr.failedRec = none) :
    ringErrClear s = errCleared s := by
  rw [ringErrClear, if_neg (by rw [err]; decide)]
  cases failed : s.tr.failedRec with
  | none => simp only [failed, errCleared]
  | some r =>
    have off := h.resolve_right (by rw [failed]; exact Option.some_ne_none r)
    simp only [failed, off, Bool.false_eq_true, if_false, errCleared]

theorem ringErrClear_again {s : State} {r : FaultRec} (err : s.tr.ringErr = true) (enabled : s.tr.fEn = true)
    (failed : s.tr.failedRec = some r) : ringErrClear s = writeFault (errCleared s) r := by
  rw [ringErrClear, if_neg (by rw [err]; decide)]
  simp only [failed, enabled, if_true, errCleared]

/-- s with the fields that a write to KQ_TR_FCTRL sets. -/
def fctrlSet (s : State) (v : W64) (log2 : BitVec 5) (en : Bool) : State := { s with tr := { s.tr with
  fIrqEn := v.getLsbD 19, fIrqLine := BitVec.ofNat 3 (fld v 18 16), fLog2 := log2, fEn := en } }

theorem up_fctrlSet {s : State} (h : up s) (v : W64) (log2 : BitVec 5) (en : Bool) : up (fctrlSet s v log2 en) := h

theorem fctrlWrite_eq (s : State) (v : W64) (log2 : BitVec 5) (h : (if s.tr.fEn then s.tr.fLog2 else BitVec.ofNat 5 (fld v 12 8)) = log2) :
    fctrlWrite s v = if v.getLsbD 1 then ringErrClear (fctrlSet s v log2 (v.getLsbD 0 && (s.tr.fEn ||
        decide (1 ≤ log2.toNat ∧ log2.toNat ≤ 16 ∧ s.tr.fring.toNat % 2 ^ (5 + log2.toNat) = 0))))
      else fctrlSet s v log2 (v.getLsbD 0 && (s.tr.fEn ||
        decide (1 ≤ log2.toNat ∧ log2.toNat ≤ 16 ∧ s.tr.fring.toNat % 2 ^ (5 + log2.toNat) = 0))) := by
  have legal : (decide (1 ≤ log2.toNat ∧ log2.toNat ≤ 16) && decide (s.tr.fring.toNat % 2 ^ (5 + log2.toNat) = 0)) =
      decide (1 ≤ log2.toNat ∧ log2.toNat ≤ 16 ∧ s.tr.fring.toNat % 2 ^ (5 + log2.toNat) = 0) := by
    simp only [Bool.decide_and, Bool.and_assoc]
  rw [fctrlWrite, h, legal]
  rfl

theorem tr_of_memoryOnly {s t : State} (h : MemoryOnly s t) : t.tr = s.tr := by rw [h]

theorem keepOuter_outer (s t u : State) (h : keepOuter s t = t) : keepOuter s u = keepOuter t u := by
  rw [← h]
  rfl

/-- Settles O39: posting by the cases of `faultPost`, the answers by `faultAck`, and the control register by `fctrlWrite_eq`. -/
theorem faultRingTakesRecordsAndWrites : Obligations.FaultRingTakesRecordsAndWrites := by
  unfold Obligations.FaultRingTakesRecordsAndWrites
  intro sent
  have sends : ∀ (s u : State) (r : FaultRec), u.mem = s.mem → u.tr.fring = s.tr.fring → u.tr.fLog2 = s.tr.fLog2 → u.tr.tail = s.tr.tail →
      sent s (writeFault u r) r := by
    intro s u r mem ring log2 tail
    obtain ⟨reqs, bytes, tr, -⟩ := writeFault_keeps u r
    refine ⟨faultReq u r, by rw [reqs, mem], rfl, rfl, ?_, rfl, length_faultBytes .., ?_, by rw [bytes, mem], by rw [tr, tail]⟩
    · rw [faultReq, ring, log2]
    · rw [faultReq, log2]
  refine ⟨fun s hup => ⟨fun held => ?held, fun enabled fine room idle => ⟨fun r failed => ?again, fun r failed oldest => ?posts⟩,
    fun tag r req write owner waiters pool => ⟨?ok, ?poison⟩, fun fine => ?fine, fun err off => ?cleared, fun r err enabled failed => ?rewrites⟩,
    fun s v hup => ?control⟩
  case held =>
    refine live_next (f := faultPost) hup ?_ rfl
    by_cases blocked : s.tr.fEn = false ∨ s.tr.ringErr = true ∨ ringRoom s = false ∨ faultInFlight s = true
    · exact faultPost_held blocked
    · simp only [not_or, Bool.not_eq_false, Bool.not_eq_true] at blocked
      obtain ⟨enabled, fine, room, idle⟩ := blocked
      obtain ⟨failed, numbered⟩ := (((held.resolve_left (by rw [enabled]; decide)).resolve_left (by rw [fine]; decide)).resolve_left
        (by rw [room]; decide)).resolve_left (by rw [idle]; decide)
      refine faultPost_none enabled fine room idle failed (List.find?_eq_none.mpr fun x mem => ?_)
      rw [Option.isNone_iff_eq_none]
      exact Option.isSome_iff_ne_none.mp (numbered x mem)
  case again =>
    exact ⟨_, live_next (f := faultPost) hup (faultPost_again enabled fine room idle failed) (writeFault_keeps s r).2.2.2,
      sends s s r rfl rfl rfl rfl, (writeFault_keeps s r).2.2.1⟩
  case posts =>
    have effect := faultPost_oldest enabled fine room idle failed oldest
    have mem : { r with number := some s.tr.tail } ∈
        s.tr.recs.map (fun x => if x.key = r.key then { r with number := some s.tr.tail } else x) :=
      List.mem_map.mpr ⟨r, List.mem_of_find?_eq_some oldest, if_pos rfl⟩
    have length : (s.tr.recs.map (fun x => if x.key = r.key then { r with number := some s.tr.tail } else x)).length = s.tr.recs.length :=
      List.length_map _
    generalize s.tr.recs.map (fun x => if x.key = r.key then { r with number := some s.tr.tail } else x) = l at effect mem length
    obtain ⟨mem', tr, inner⟩ := withRecs_keeps s l
    obtain ⟨-, -, tr', inner'⟩ := writeFault_keeps (withRecs s l) { r with number := some s.tr.tail }
    refine ⟨_, live_next (f := faultPost) hup effect (inner_trans inner inner'), sends s _ _ mem' ?_ ?_ ?_, ?_, ?_⟩
    · rw [tr]
    · rw [tr]
    · rw [tr]
    · rw [tr', tr]
      exact mem
    · rw [tr', tr]
      exact length
  case ok =>
    have before := (memoryOnly_landWrite (s := inBreath s) (by simp [outputItem, owner]) .ok).trans
      (reqSide_releaseReq (landWrite (inBreath s) r .ok) tag.toNat).memoryOnly
    obtain ⟨tr, irq⟩ := faultAck_ok (releaseReq (landWrite (inBreath s) r .ok) tag.toNat)
    refine ⟨_, live_up (f := fun s => writeResponse (inBreath s) tag.toNat .ok) hup, ?_⟩
    rw [keepOuter_tr, keepOuter_irq, writeResponse_faultRecord (s := inBreath s) req write owner waiters pool, tr, tr_of_memoryOnly before]
    exact ⟨rfl, rfl, irq⟩
  case poison =>
    have before := (memoryOnly_landWrite (s := inBreath s) (by simp [outputItem, owner]) .poison).trans
      (reqSide_releaseReq (landWrite (inBreath s) r .poison) tag.toNat).memoryOnly
    obtain ⟨tail, err⟩ := faultAck_poison (releaseReq (landWrite (inBreath s) r .poison) tag.toNat)
    refine ⟨_, live_up (f := fun s => writeResponse (inBreath s) tag.toNat .poison) hup, ?_⟩
    rw [keepOuter_tr, writeResponse_faultRecord (s := inBreath s) req write owner waiters pool, tail, tr_of_memoryOnly before]
    exact ⟨rfl, err⟩
  case fine => exact live_next (f := ringErrClear) hup (ringErrClear_fine fine) rfl
  case cleared => exact live_next (f := ringErrClear) hup (ringErrClear_nothing err off) rfl
  case rewrites =>
    obtain ⟨mem, tr, inner⟩ := errCleared_keeps s
    obtain ⟨-, -, tr', inner'⟩ := writeFault_keeps (errCleared s) r
    refine ⟨_, live_next (f := ringErrClear) hup (ringErrClear_again err enabled failed) (inner_trans inner inner'), tr'.trans tr,
      sends s _ r mem ?_ ?_ ?_⟩ <;> rw [tr]
  case control =>
    intro log2 legal t
    have effect := fctrlWrite_eq s v log2 rfl
    have exec_ : exec (.fctrlWrite v) s = .next (keepOuter s (fctrlWrite s v)) := live_up (f := fun s => fctrlWrite s v) hup
    rw [exec_, effect]
    cases v.getLsbD 1 with
    | false => rfl
    | true =>
      have upT : up t := up_fctrlSet hup ..
      rw [if_pos rfl, if_pos rfl, show exec .ringErrClear t = .next (keepOuter t (ringErrClear t)) from live_up (f := ringErrClear) upT]
      rfl

end Sys2Proof.Proofs.FaultRing

/-! The walk of the page tables for one access: a leaf fills the cache, a fault opens a record or drops a prefetch (chapters 11 and
12, R235, R243, R244, R246, R259). -/

namespace Sys2Proof.Proofs.PageWalks

open Sys2Proof Sys2Proof.Machine Sys2Proof.Safety Sys2Proof.Laws Sys2Proof.Proofs.RegisterWrites
  Sys2Proof.Proofs.ItemLaws Sys2Proof.Proofs.Aborts

/-! ### What a walk leaves beside its outcome -/

/-- s with one more walk counted, and of Class H the requester's context cached (R235). -/
def walked (s : State) (cls : Cls) (ctx : CtxId) : State :=
  match cls with
  | .h => cacheCtx (countWalk s) ctx
  | .d => countWalk s

theorem cacheCtx_frame (s : State) (ctx : CtxId) : cacheCtx s ctx = { s with tr := { s.tr with ctxCache := (cacheCtx s ctx).tr.ctxCache } } := by
  unfold cacheCtx
  split
  · rfl
  · split <;> rfl

theorem walked_frame (s : State) (cls : Cls) (ctx : CtxId) : walked s cls ctx =
    { s with tr := { s.tr with walks := satAdd s.tr.walks 1, ctxCache := (walked s cls ctx).tr.ctxCache } } := by
  cases cls with
  | d => rfl
  | h =>
    rw [walked, cacheCtx_frame]
    rfl

theorem walked_keeps (s : State) (cls : Cls) (ctx : CtxId) : (walked s cls ctx).tr.walks = satAdd s.tr.walks 1 ∧
    (walked s cls ctx).tr.recs = s.tr.recs ∧ (walked s cls ctx).tr.active = s.tr.active ∧ (walked s cls ctx).mem = s.mem ∧
    (walked s cls ctx).items = s.items ∧ (walked s cls ctx).str = s.str := by
  rw [walked_frame]
  exact ⟨rfl, rfl, rfl, rfl, rfl, rfl⟩

section
variable {s : State} {cls : Cls} {ctx : CtxId} {va : Nat} {wr : Bool} (legal : ¬(cls = .h ∧ ctx = 0))
include legal

theorem pageWalk_leaf {size base : Nat} {r w : Bool} {who : Requester} (demand : who ≠ .prefetch)
    (out : walk s cls ctx va wr = .leaf size base r w) :
    pageWalk s cls ctx va wr who = fillPtc (walked s cls ctx) cls ctx va size base r w := by
  have legal' : ¬((decide (cls = .h) && decide (ctx = 0)) = true) := by simpa using legal
  rw [pageWalk, if_neg legal', out]
  simp only [demand, decide_false, Bool.false_and, Bool.false_eq_true, if_false]
  cases cls <;> rfl

theorem pageWalk_fault {reason level : Nat} {pte : W64} (rooted : reason ≠ 5) (out : walk s cls ctx va wr = .fault reason level pte)
    (who : Requester) : pageWalk s cls ctx va wr who = if who = .prefetch then countPfDrop (walked s cls ctx)
      else requesterErr (walked s cls ctx) who (.fault (fieldOf cls va) wr reason level pte) := by
  have legal' : ¬((decide (cls = .h) && decide (ctx = 0)) = true) := by simpa using legal
  rw [pageWalk, if_neg legal', out]
  have walks : ∀ level' pte', Walk.fault reason level pte = Walk.fault 5 level' pte' → False :=
    fun level' pte' same => rooted (Walk.fault.inj same).1
  simp only [walks, decide_eq_true_eq, Bool.false_eq_true, if_false]
  cases cls <;> rfl

end

/-! ### A leaf fills the bank -/

/-- An entry enters a bank in which nothing is pinned (R233). -/
theorem mem_ptcFill {bank : List PtcEntry} (free : ∀ e ∈ bank, e.pinned = false) (e : PtcEntry) (pick : Nat) : e ∈ ptcFill bank e pick := by
  have free_ : ∀ (f : PtcEntry → Bool) (l : List PtcEntry), (∀ x ∈ l, x ∈ bank) → l.any (fun x => f x && x.pinned) = false := by
    intro f l sub
    rw [List.any_eq_false]
    exact fun x mem => by rw [free x (sub x mem), Bool.and_false]; exact Bool.false_ne_true
  rw [ptcFill, free_ _ bank (fun _ mem => mem), if_neg Bool.false_ne_true]
  dsimp only
  split
  · exact List.mem_append_right _ (List.mem_singleton_self e)
  · next full =>
    have unpinned : ∀ l : List PtcEntry, (∀ x ∈ l, x ∈ bank) → l.filter (fun x => !x.pinned) = l := fun l sub =>
      List.filter_eq_self.mpr fun x mem => by rw [free x (sub x mem)]; rfl
    rw [unpinned _ (fun x mem => List.mem_of_mem_filter (List.mem_of_mem_filter mem)),
      List.getElem?_eq_getElem (Nat.mod_lt _ (by omega))]
    exact List.mem_append_right _ (List.mem_singleton_self e)

/-- The entry that a leaf gives (R233). -/
def leafEntry (cls : Cls) (ctx : CtxId) (va size base : Nat) (r w : Bool) : PtcEntry :=
  { cls := cls
    ctx := match cls with
      | .h => ctx
      | .d => 0
    size := size, page := va >>> size, frame := base / 4096, r := r, w := w, pinned := false }

theorem fillPtc_eq (s : State) (cls : Cls) (ctx : CtxId) (va size base : Nat) (r w : Bool) : fillPtc s cls ctx va size base r w =
    { s with tr := { s.tr with active := ptcFill s.tr.active (leafEntry cls ctx va size base r w) (Config.freeWord s.free).toNat }
             free := s.free + 1 } := by
  cases cls <;> rfl

theorem fillPtc_keeps (s : State) (cls : Cls) (ctx : CtxId) (va size base : Nat) (r w : Bool) :
    (fillPtc s cls ctx va size base r w).tr.walks = s.tr.walks ∧ (fillPtc s cls ctx va size base r w).tr.recs = s.tr.recs ∧
    (fillPtc s cls ctx va size base r w).mem = s.mem ∧ (fillPtc s cls ctx va size base r w).items = s.items := ⟨rfl, rfl, rfl, rfl⟩

/-! ### A fault opens a record -/

/-- The record of a new fault (R243). -/
def newRec (s : State) (engine q : Nat) (idx : W32) (ctx : CtxId) (addr : W64) (write : Bool) (reason level : Nat) (pte : W64) : FaultRec :=
  { key := keyOf ctx addr, ctx := ctx, write := write, reason := BitVec.ofNat 8 reason, level := BitVec.ofNat 8 level
    engine := BitVec.ofNat 8 engine, breath := lowBreath s, va := BitVec.ofNat 64 (addrKey addr), pte := pte, attached := [(q, idx)] }

/-- s with a fault record more. -/
def withRec (s : State) (r : FaultRec) : State := { s with tr := { s.tr with recs := s.tr.recs ++ [r] } }

theorem withRec_keeps (s : State) (r : FaultRec) : (withRec s r).tr.walks = s.tr.walks ∧ (withRec s r).tr.recs = s.tr.recs ++ [r] ∧
    (withRec s r).mem = s.mem ∧ (withRec s r).items = s.items := ⟨rfl, rfl, rfl, rfl⟩

theorem openFault_new {s : State} {ctx : CtxId} {addr : W64} (new : s.tr.recs.any (fun r => r.key = keyOf ctx addr) = false)
    (room : s.tr.recs.length < 512) (engine q : Nat) (idx : W32) (write : Bool) (reason level : Nat) (pte : W64) :
    openFault s engine q idx ctx addr write reason level pte =
      (withRec s (newRec s engine q idx ctx addr write reason level pte), true) := by
  simp only [openFault, new, room, Bool.false_eq_true, if_false, if_true, withRec, newRec]

theorem itemErr_newFault {s : State} {q : Nat} {idx : W32} {i : Item} (found : findItem s q idx = some i) {addr : W64}
    (new : s.tr.recs.any (fun r => r.key = keyOf i.ctx addr) = false) (room : s.tr.recs.length < 512) (write : Bool) (reason level : Nat)
    (pte : W64) : itemErr s q idx (.fault addr write reason level pte) =
      modItem (withRec s (newRec s (engineOf q) q idx i.ctx addr write reason level pte)) q idx
        (fun x => x.holdOn (keyOf i.ctx addr) true addr) := by
  simp only [itemErr, found, openFault_new new room]

theorem mem_holdKeys_holdOn (i : Item) (key : PageKey) (addr : W64) : key ∈ (i.holdOn key true addr).holdKeys := by
  rw [Item.holdOn]
  dsimp only
  split
  · exact List.mem_append_right _ (List.mem_singleton_self key)
  · next held => simpa using held

/-- Settles O38: a leaf by `pageWalk_leaf` and `mem_ptcFill`, a fault by `pageWalk_fault` and `itemErr_newFault`. -/
theorem walksFillOrFault : Obligations.WalksFillOrFault := by
  intro s cls ctx va wr hup legal
  obtain ⟨walks, recs, active, mem, items, str⟩ := walked_keeps (inBreath s) cls ctx
  have same := (Accesses.readsAlike_inBreath s).walk cls ctx va.toNat wr
  refine ⟨fun who size base r w demand out => ?leaf, fun q idx i reason level pte found out rooted room new => ?item,
    fun reason level pte out rooted => ?prefetch⟩
  case leaf =>
    have effect := pageWalk_leaf (s := inBreath s) legal demand (same.trans out)
    have entry := fillPtc_eq (walked (inBreath s) cls ctx) cls ctx va.toNat size base r w
    obtain ⟨walks', recs', mem', items'⟩ := fillPtc_keeps (walked (inBreath s) cls ctx) cls ctx va.toNat size base r w
    refine ⟨_, live_up (f := fun s => pageWalk (inBreath s) cls ctx va.toNat wr who) hup, ?_⟩
    rw [keepOuter_tr, keepOuter_mem, keepOuter_items, effect]
    refine ⟨walks'.trans walks, recs'.trans recs, mem'.trans mem, items'.trans items, fun free =>
      ⟨leafEntry cls ctx va.toNat size base r w, ?_, rfl, rfl, rfl, rfl, rfl, rfl, rfl⟩⟩
    rw [entry]
    exact mem_ptcFill (active ▸ free) ..
  case item =>
    have effect := pageWalk_fault (s := inBreath s) legal rooted (same.trans out) (.item q idx)
    rw [if_neg (by exact Requester.noConfusion), requesterErr, itemErr_newFault ((findItem_congr items q idx).trans found)
      (recs ▸ new) (recs ▸ room)] at effect
    refine ⟨_, i.holdOn (keyOf i.ctx (fieldOf cls va.toNat)) true (fieldOf cls va.toNat),
      newRec (walked (inBreath s) cls ctx) (engineOf q) q idx i.ctx (fieldOf cls va.toNat) wr reason level pte,
      live_up (f := fun s => pageWalk (inBreath s) cls ctx va.toNat wr (.item q idx)) hup, ?_⟩
    rw [keepOuter_tr, keepOuter_mem, findItem_keepOuter, effect]
    obtain ⟨walks', recs', mem', items'⟩ := withRec_keeps (walked (inBreath s) cls ctx) (newRec (walked (inBreath s) cls ctx)
      (engineOf q) q idx i.ctx (fieldOf cls va.toNat) wr reason level pte)
    refine ⟨walks'.trans walks, mem'.trans mem, recs'.trans (congrArg (· ++ _) recs), rfl, rfl, rfl, rfl, rfl, rfl, ?_,
      mem_holdKeys_holdOn .., rfl⟩
    rw [findItem_modItem (f := fun x => x.holdOn (keyOf i.ctx (fieldOf cls va.toNat)) true (fieldOf cls va.toNat))
      (h := fun _ hi => hi), findItem_congr (items'.trans items)]
    exact congrArg (Option.map _) found
  case prefetch =>
    have effect := pageWalk_fault (s := inBreath s) legal rooted (same.trans out) .prefetch
    rw [if_pos rfl] at effect
    have counted : ∀ u : State, (countPfDrop u).tr = u.tr ∧ (countPfDrop u).str = { u.str with pfDrop := satAdd u.str.pfDrop 1 } ∧
      (countPfDrop u).items = u.items ∧ (countPfDrop u).mem = u.mem := fun _ => ⟨rfl, rfl, rfl, rfl⟩
    obtain ⟨tr, str', items', mem'⟩ := counted (walked (inBreath s) cls ctx)
    refine ⟨_, live_up (f := fun s => pageWalk (inBreath s) cls ctx va.toNat wr .prefetch) hup, ?_⟩
    rw [keepOuter_tr, keepOuter_mem, keepOuter_items, keepOuter_str, effect, tr, str', items', mem', str]
    exact ⟨recs, active, walks, rfl, items, mem⟩

end Sys2Proof.Proofs.PageWalks

/-! A page's automatic migration: its copy done, its switch and the return of the frame it left (chapter 10, R218, Table 10.11). -/

namespace Sys2Proof.Proofs.Migrations

open Sys2Proof Sys2Proof.Machine Sys2Proof.Safety Sys2Proof.Laws Sys2Proof.Proofs.RegisterWrites
  Sys2Proof.Proofs.Accesses Sys2Proof.Proofs.Applications

/-! ### Page information -/

theorem infoAddr_congr {s t : State} (h : t.pg.info = s.pg.info) (lpn : Nat) : infoAddr t lpn = infoAddr s lpn := by
  rw [infoAddr, h, infoAddr]

theorem readInfo_alike {s t : State} (h : ReadsAlike s t) (info : t.pg.info = s.pg.info) (lpn : Nat) : readInfo t lpn = readInfo s lpn := by
  rw [readInfo, readInfo, infoAddr_congr info, h.readVa]

theorem bytes_storePieces (ps : List (W64 × Nat × Nat)) {a b : State × List Byte} (bytes : b.1.mem.bytes = a.1.mem.bytes)
    (left : b.2 = a.2) : (ps.foldl storePiece b).1.mem.bytes = (ps.foldl storePiece a).1.mem.bytes := by
  induction ps generalizing a b with
  | nil => exact bytes
  | cons p ps ih =>
    refine ih ?_ ?_
    · show writeBytes b.1.mem.bytes p.2.1 (b.2.take p.2.2) = writeBytes a.1.mem.bytes p.2.1 (a.2.take p.2.2)
      rw [bytes, left]
    · show b.2.drop p.2.2 = a.2.drop p.2.2
      rw [left]

/-- What the write of an entry puts into memory is the same in states that read alike. -/
theorem bytes_putInfo {s t : State} (h : ReadsAlike s t) (info : t.pg.info = s.pg.info) (lpn : Nat) (i : InfoEntry) :
    (putInfo t lpn i).mem.bytes = (putInfo s lpn i).mem.bytes := by
  rw [putInfo, putInfo, infoAddr_congr info, h.pagesOf]
  cases pagesOf s 0 true (infoAddr s lpn) 16 with
  | error e => exact congrArg MemSide.bytes h.mem
  | ok ps => exact bytes_storePieces ps (a := (s, infoBytes i)) (b := (t, infoBytes i)) (congrArg _ h.mem) rfl

/-! ### Other places of the Paging Engine's state -/

/-- s with other migrations. -/
def withMigrations (s : State) (f : Migration → Migration) : State := { s with pg := { s.pg with migrations := s.pg.migrations.map f } }

/-- A migration of a page that has come to a new place of Table 10.11 in this breath. -/
def movedAt (lpn : Nat) (now : W64) (x : Migration) : Migration := if x.lpn = lpn then { x with at_ := now } else x

/-- The entry of a page whose frames are exchanged (R218). -/
def exchanged (s : State) (i : InfoEntry) : InfoEntry :=
  { i with far := i.altFar, frame := i.alt, altFar := i.far, alt := i.frame, st := 4, switchBr := (lowBreath s).toNat }

theorem exchanged_eq (s : State) (i : InfoEntry) :
    { i with far := i.altFar, frame := i.alt, altFar := i.far, alt := i.frame, st := 4
             switchBr := (lowBreath s).toNat } = exchanged s i := rfl

/-- s with a move counted. -/
def moveCounted (s : State) (far : Bool) : State := { s with pg := { s.pg with
  demoted := if far then satInc32 s.pg.demoted else s.pg.demoted
  promoted := if far then s.pg.promoted else satInc32 s.pg.promoted } }

theorem orphan_alone (s : State) {m : Migration} (h : m.item = none) : orphan s m = false := by
  simp only [orphan, h]

section
variable {s : State} {lpn : Nat} {m : Migration} {i : InfoEntry} (found : findMig s lpn = some m) (info : readInfo s lpn = .ok i)
  (alone : m.item = none)
include found info

theorem pageCopyDone_waits (h : i.st ≠ 2 ∨ copyWriting s lpn = true) : pageCopyDone s lpn = s := by
  have waits : (decide (i.st ≠ 2) || copyWriting s lpn) = true := by rcases h with h | h <;> simp [h]
  rw [pageCopyDone, found, info]
  exact if_pos waits

theorem pageSwitch_waits (h : i.st ≠ 3 ∨ s.breath.num.toNat ≤ m.at_.toNat) : pageSwitch s lpn = s := by
  have waits : (decide (i.st ≠ 3) || decide (s.breath.num.toNat ≤ m.at_.toNat)) = true := by rcases h with h | h <;> simp [h]
  rw [pageSwitch, found, info]
  exact if_pos waits

theorem altFrameReturn_waits (h : i.st ≠ 4 ∨ ∃ k ∈ s.tasks, k.dispatched.toNat < m.at_.toNat) : altFrameReturn s lpn = s := by
  have waits : (decide (i.st ≠ 4) || s.tasks.any (fun t => decide (t.dispatched.toNat < m.at_.toNat))) = true := by
    simpa using h
  rw [altFrameReturn, found, info]
  exact if_pos waits

include alone

theorem pageCopyDone_done (copying : i.st = 2) (written : copyWriting s lpn = false) :
    pageCopyDone s lpn = withMigrations (putInfo s lpn { i with st := 3 }) (movedAt lpn s.breath.num) := by
  have done : ¬ (decide (i.st ≠ 2) || copyWriting s lpn) = true := by simp [copying, written]
  rw [pageCopyDone, found, info]
  dsimp only
  rw [if_neg done, orphan_alone s alone, if_neg Bool.false_ne_true]
  generalize putInfo s lpn { i with st := 3 } = u
  rfl

theorem pageSwitch_switches (copied : i.st = 3) (later : m.at_.toNat < s.breath.num.toNat) : pageSwitch s lpn =
    moveCounted (withMigrations (putInfo s lpn (exchanged s i)) (movedAt lpn s.breath.num)) m.far := by
  have due : ¬ (decide (i.st ≠ 3) || decide (s.breath.num.toNat ≤ m.at_.toNat)) = true := by simp [copied, later]
  rw [pageSwitch, found, info]
  dsimp only
  rw [if_neg due, orphan_alone s alone, if_neg Bool.false_ne_true, alone, exchanged_eq]
  generalize putInfo s lpn (exchanged s i) = u
  rfl

omit alone in
theorem altFrameReturn_returns (switched : i.st = 4) (past : ∀ k ∈ s.tasks, m.at_.toNat ≤ k.dispatched.toNat)
    (none_ : ∀ x ∈ s.items, ¬(x.opcode = 0x24 ∧ x.stage = .executing)) : altFrameReturn s lpn =
    autoResume (freeUnit (putInfo (dropMig s lpn) lpn { i with st := 1, alt := 0, altFar := false }) (.frame i.altFar i.alt)) lpn := by
  have due : ¬ (decide (i.st ≠ 4) || s.tasks.any (fun t => decide (t.dispatched.toNat < m.at_.toNat))) = true := by
    simpa [switched] using past
  have items : (freeUnit (putInfo (dropMig s lpn) lpn { i with st := 1, alt := 0, altFar := false }) (.frame i.altFar i.alt)).items =
      s.items := by
    have entry := (migSide_putInfo (dropMig s lpn) lpn { i with st := 1, alt := 0, altFar := false }).items
    generalize putInfo (dropMig s lpn) lpn { i with st := 1, alt := 0, altFar := false } = u at entry ⊢
    refine Eq.trans ?_ entry
    rw [freeUnit]
    cases i.altFar <;> rfl
  rw [altFrameReturn, found, info]
  dsimp only
  rw [if_neg due, items, List.filter_eq_nil_iff.mpr (fun x mem => by simpa using none_ x mem)]
  generalize freeUnit _ _ = u
  rfl

end

theorem autoResume_none {s : State} {lpn : Nat} (h : ∀ p ∈ s.pg.autoWait, p.1 ≠ lpn) : autoResume s lpn =
    { s with pg := { s.pg with autoWait := s.pg.autoWait.filter (fun p => p.1 ≠ lpn) } } := by
  have none_ : s.pg.autoWait.filter (fun p => p.1 = lpn) = [] := List.filter_eq_nil_iff.mpr (fun p mem => by simpa using h p mem)
  rw [autoResume, none_]
  rfl

theorem freeUnit_frame (s : State) (far : Bool) (f : Nat) : (freeUnit s (.frame far f)).mem = s.mem ∧
    (freeUnit s (.frame far f)).pg.migrations = s.pg.migrations ∧ (freeUnit s (.frame far f)).pg.autoWait = s.pg.autoWait ∧
    (far = false → f ∉ (freeUnit s (.frame far f)).pg.used0) ∧ (far = true → f ∉ (freeUnit s (.frame far f)).pg.used1) := by
  have gone : ∀ l : List Nat, f ∉ dropOne l f := fun l mem => absurd rfl (of_decide_eq_true (List.mem_filter.mp mem).2)
  rw [freeUnit]
  cases far with
  | false => exact ⟨rfl, rfl, rfl, fun _ => gone _, fun h => absurd h Bool.false_ne_true⟩
  | true => exact ⟨rfl, rfl, rfl, fun h => absurd h.symm Bool.false_ne_true, fun _ => gone _⟩

theorem withMigrations_keeps (s : State) (f : Migration → Migration) : (withMigrations s f).mem = s.mem ∧
    (withMigrations s f).pg.migrations = s.pg.migrations.map f ∧ (withMigrations s f).pg.active = s.pg.active ∧
    (withMigrations s f).items = s.items ∧ (withMigrations s f).pg.demoted = s.pg.demoted ∧
    (withMigrations s f).pg.promoted = s.pg.promoted := ⟨rfl, rfl, rfl, rfl, rfl, rfl⟩

theorem moveCounted_keeps (s : State) (far : Bool) : (moveCounted s far).mem = s.mem ∧ (moveCounted s far).items = s.items ∧
    (moveCounted s far).pg.demoted = (if far then satAdd s.pg.demoted 1 else s.pg.demoted) ∧
    (moveCounted s far).pg.promoted = (if far then s.pg.promoted else satAdd s.pg.promoted 1) := ⟨rfl, rfl, rfl, rfl⟩

theorem readsAlike_dropMig (s : State) (lpn : Nat) : ReadsAlike s (dropMig s lpn) := ⟨rfl, rfl, rfl, rfl, rfl, rfl⟩

/-- Settles O40: the three changes of a migration through `pageCopyDone_done`, `pageSwitch_switches` and `altFrameReturn_returns`. -/
theorem migrationsCopySwitchAndReturn : Obligations.MigrationsCopySwitchAndReturn := by
  intro s lpn m i hup found info alone
  have found' : findMig (inBreath s) lpn = some m := found
  have info' : readInfo (inBreath s) lpn = .ok i := (readInfo_alike (readsAlike_inBreath s) rfl lpn).trans info
  refine ⟨fun copying written => ?done, fun h => ?copies, fun edge copied later => ?switches, fun h => ?notYet,
    fun edge switched past none_ calm => ?returns, fun h => ?stays⟩
  case done =>
    have effect := pageCopyDone_done found' info' alone copying written
    have bytes := bytes_putInfo (readsAlike_inBreath s) rfl lpn { i with st := 3 }
    obtain ⟨pg, reqs, -⟩ := pg_putInfo (inBreath s) lpn { i with st := 3 }
    have items := (migSide_putInfo (inBreath s) lpn { i with st := 3 }).items
    generalize putInfo (inBreath s) lpn { i with st := 3 } = u at *
    obtain ⟨mem, migrations, active, items', -, -⟩ := withMigrations_keeps u (movedAt lpn (inBreath s).breath.num)
    refine ⟨_, live_up (f := fun s => pageCopyDone (inBreath s) lpn) hup, ?_⟩
    rw [keepOuter_mem, keepOuter_pg, keepOuter_items, effect, mem, migrations, active, items', pg]
    exact ⟨bytes, reqs, rfl, rfl, items⟩
  case copies =>
    exact live_next (f := fun s => pageCopyDone (inBreath s) lpn) (t := inBreath s) hup (pageCopyDone_waits found' info' h) rfl
  case switches =>
    have effect := pageSwitch_switches found info alone copied later
    obtain ⟨pg, -⟩ := pg_putInfo s lpn (exchanged s i)
    have items := (migSide_putInfo s lpn (exchanged s i)).items
    rw [exchanged_eq]
    refine ⟨_, atEdge_up (f := fun s => pageSwitch s lpn) hup edge, ?_⟩
    rw [keepOuter_mem, keepOuter_pg, keepOuter_items, effect]
    generalize putInfo s lpn (exchanged s i) = u at *
    obtain ⟨mem, -, -, items', demoted, promoted⟩ := withMigrations_keeps u (movedAt lpn s.breath.num)
    obtain ⟨mem', items'', demoted', promoted'⟩ := moveCounted_keeps (withMigrations u (movedAt lpn s.breath.num)) m.far
    rw [mem', mem, items'', items', demoted', promoted', demoted, promoted, pg]
    exact ⟨rfl, rfl, rfl, items⟩
  case notYet =>
    by_cases edge : s.edge = true
    · refine (atEdge_up (f := fun s => pageSwitch s lpn) hup edge).trans ?_
      show Host.Outcome.next (keepOuter s (pageSwitch s lpn)) = _
      rw [pageSwitch_waits found info (h.resolve_left (by rw [edge]; decide))]
      rfl
    · exact atEdge_late (f := fun s => pageSwitch s lpn) hup (Bool.not_eq_true _ ▸ edge)
  case returns =>
    have effect := altFrameReturn_returns found info switched past none_
    have bytes := bytes_putInfo (readsAlike_dropMig s lpn) rfl lpn { i with st := 1, alt := 0, altFar := false }
    obtain ⟨pg, -⟩ := pg_putInfo (dropMig s lpn) lpn { i with st := 1, alt := 0, altFar := false }
    generalize putInfo (dropMig s lpn) lpn { i with st := 1, alt := 0, altFar := false } = u at *
    obtain ⟨mem, migrations, wait, near, far⟩ := freeUnit_frame u i.altFar i.alt
    generalize freeUnit u (.frame i.altFar i.alt) = v at *
    rw [autoResume_none (by rw [wait, pg]; exact calm)] at effect
    refine ⟨_, atEdge_up (f := fun s => altFrameReturn s lpn) hup edge, ?_⟩
    rw [keepOuter_mem, keepOuter_pg, effect]
    exact ⟨(congrArg MemSide.bytes mem).trans bytes, migrations.trans (congrArg Paging.migrations pg), near, far⟩
  case stays =>
    by_cases edge : s.edge = true
    · refine (atEdge_up (f := fun s => altFrameReturn s lpn) hup edge).trans ?_
      show Host.Outcome.next (keepOuter s (altFrameReturn s lpn)) = _
      rw [altFrameReturn_waits found info (h.resolve_left (by rw [edge]; decide))]
      rfl
    · exact atEdge_late (f := fun s => altFrameReturn s lpn) hup (Bool.not_eq_true _ ▸ edge)

end Sys2Proof.Proofs.Migrations

/-! A refold puts the pending image into force (chapter 15, R325 to R328). -/

namespace Sys2Proof.Proofs.Refolds

open Sys2Proof Sys2Proof.Machine Sys2Proof.Safety Sys2Proof.Laws Sys2Proof.Proofs.RegisterWrites
  Sys2Proof.Proofs.Mailbox Sys2Proof.Proofs.LinkPort Sys2Proof.Proofs.ItemLists Sys2Proof.Proofs.Aborts

/-! ### What the work that spans a refold leaves -/

/-- The names of the items, in their places. -/
def itemNames (s : State) : List (Nat × W32) := s.items.map (fun i => (i.q, i.idx))

/-- What an image gives of the link, the cascade and the channels (Table 15.3). -/
structure ParamsKept (s t : State) : Prop where
  routes : RoutesKept s t
  mode : t.casc.mode = s.casc.mode
  vcw : t.cle.vcw = s.cle.vcw

theorem ParamsKept.refl (s : State) : ParamsKept s s := ⟨.refl s, rfl, rfl⟩

theorem ParamsKept.trans {s t u : State} (a : ParamsKept s t) (b : ParamsKept t u) : ParamsKept s u :=
  ⟨a.routes.trans b.routes, b.mode.trans a.mode, b.vcw.trans a.vcw⟩

theorem paramsKept_of_taskSide {s t : State} (h : TaskSide s t) : ParamsKept s t := by
  rw [h]
  exact ⟨⟨rfl, rfl⟩, rfl, rfl⟩

theorem paramsKept_of_portSide {s t : State} (h : PortSide s t) : ParamsKept s t :=
  ⟨h.1.2, by rw [h.1.1], by rw [h.1.1]⟩

theorem paramsKept_closeOp (s : State) (q : Nat) (idx : W32) (st : Byte) (d : W64) : ParamsKept s (closeOp s q idx st d) := by
  rw [closeOp]
  cases opOf s q idx with
  | none => exact .refl s
  | some o =>
    dsimp only
    split <;> exact ⟨⟨rfl, rfl⟩, rfl, rfl⟩

theorem paramsKept_endNow (s : State) (q : Nat) (idx : W32) (st d : Nat) : ParamsKept s (endNow s q idx st d) := by
  have closed := (paramsKept_of_taskSide (taskSide_abortItemTasks s q idx)).trans
    (paramsKept_closeOp (abortItemTasks s q idx) q idx (BitVec.ofNat 8 st) (BitVec.ofNat 64 d))
  rw [endNow]
  generalize closeOp (abortItemTasks s q idx) q idx (BitVec.ofNat 8 st) (BitVec.ofNat 64 d) = u at closed ⊢
  exact closed.trans ⟨⟨rfl, rfl⟩, rfl, rfl⟩

theorem paramsKept_commitNow (s : State) (q : Nat) (idx : W32) : ParamsKept s (commitNow s q idx) := by
  rw [commitNow]
  cases findItem s q idx with
  | none => exact .refl s
  | some i => exact (paramsKept_closeOp ..).trans ⟨⟨rfl, rfl⟩, rfl, rfl⟩

theorem paramsKept_settleOp (s : State) (q : Nat) (idx : W32) : ParamsKept s (settleOp s q idx) := by
  unfold settleOp
  split
  · exact .refl s
  · dsimp only
    split
    · split
      · exact paramsKept_endNow ..
      · exact paramsKept_commitNow ..
    · exact .refl s

theorem paramsKept_endItem (s : State) (q : Nat) (idx : W32) (st d : Nat) : ParamsKept s (endItem s q idx st d) := by
  unfold endItem
  split
  · exact paramsKept_endNow ..
  · dsimp only
    split
    · exact .refl s
    · refine .trans ?_ (paramsKept_settleOp ..)
      refine .trans ?_ (paramsKept_of_taskSide (taskSide_modItem ..))
      refine .trans ?_ (paramsKept_of_portSide (portSide_toOthers ..))
      exact (paramsKept_of_taskSide (taskSide_abortItemTasks s q idx)).trans ⟨⟨rfl, rfl⟩, rfl, rfl⟩

/-- t keeps the breath, Reed, CAP_EPOCH, the image's parameters and every item of s. -/
structure Refit (s t : State) : Prop where
  breath : t.breath = s.breath
  reed : t.reed = s.reed
  epoch : t.epoch = s.epoch
  params : ParamsKept s t
  names : itemNames t = itemNames s

theorem Refit.refl (s : State) : Refit s s := ⟨rfl, rfl, rfl, .refl s, rfl⟩

theorem Refit.trans {s t u : State} (a : Refit s t) (b : Refit t u) : Refit s u :=
  ⟨b.breath.trans a.breath, b.reed.trans a.reed, b.epoch.trans a.epoch, a.params.trans b.params, b.names.trans a.names⟩

theorem Refit.foldl {α : Type} {f : State → α → State} (h : ∀ s a, Refit s (f s a)) (l : List α) (s : State) :
    Refit s (l.foldl f s) := by
  induction l generalizing s with
  | nil => exact .refl s
  | cons a l ih => exact (h s a).trans (ih _)

theorem itemNames_of_sameItems {s t : State} (h : SameItems s t) : itemNames t = itemNames s := by
  obtain ⟨g, h⟩ := h
  rw [itemNames, h, List.map_map]
  rfl

theorem itemNames_of_onlyItem {q : Nat} {idx : W32} {s t : State} (h : OnlyItem q idx s t) : itemNames t = itemNames s :=
  QueueBoundary.map_names (List.Forall₂.imp (fun _ _ (b : Beside q idx _ _) => ⟨b.1, b.2.1⟩) h)

theorem refit_of_taskSide {s t : State} (h : TaskSide s t) (names : itemNames t = itemNames s) : Refit s t where
  breath := h.breath
  reed := h.reed
  epoch := by rw [h]
  params := paramsKept_of_taskSide h
  names := names

/-- Items changed in place, their names kept. -/
theorem refit_mapItems (s : State) {f : Item → Item} (named : ∀ i, (f i).q = i.q ∧ (f i).idx = i.idx) :
    Refit s { s with items := s.items.map f } where
  breath := rfl
  reed := rfl
  epoch := rfl
  params := ⟨⟨rfl, rfl⟩, rfl, rfl⟩
  names := by
    rw [itemNames, itemNames, List.map_map]
    exact List.map_congr_left fun i _ => Prod.ext (named i).1 (named i).2

theorem refit_modCore (s : State) (k : Nat) (f : Core → Core) : Refit s (modCore s k f) := ⟨rfl, rfl, rfl, ⟨⟨rfl, rfl⟩, rfl, rfl⟩, rfl⟩

theorem refit_endItem (s : State) (q : Nat) (idx : W32) (st d : Nat) : Refit s (endItem s q idx st d) where
  breath := (itemSide_endItem ..).breath
  reed := by rw [itemSide_endItem s q idx st d]; rfl
  epoch := by rw [itemSide_endItem s q idx st d]; rfl
  params := paramsKept_endItem ..
  names := itemNames_of_onlyItem (onlyItem_endItem ..)

theorem refit_closeWindow (s : State) (core w : Nat) : Refit s (closeWindow s core w) :=
  refit_of_taskSide (taskSide_closeWindow ..) (itemNames_of_sameItems (sameItems_closeWindow ..))

theorem refit_dropHalo (s : State) (core w : Nat) : Refit s (dropHalo s core w) :=
  refit_of_taskSide (taskSide_dropHalo ..) (itemNames_of_sameItems (sameItems_dropHalo ..))

theorem refit_hitHalo (s : State) (core : Nat) : Refit s (hitHalo s core) :=
  refit_mapItems s (fun i => by split <;> exact ⟨rfl, rfl⟩)

theorem refit_markReplayed (s : State) (l : List (Nat × W32)) : Refit s (markReplayed s l) :=
  refit_mapItems s (fun i => by split <;> exact ⟨rfl, rfl⟩)

theorem refit_abortCore (s : State) (core : Nat) : Refit s (abortCore s core) := by
  rw [abortCore]
  refine .trans ?_ (Refit.foldl (fun _ _ => refit_closeWindow ..) _ _)
  refine .trans ?_ (refit_of_taskSide (taskSide_abortThreads ..) (itemNames_of_sameItems (sameItems_abortThreads ..)))
  exact (refit_hitHalo ..).trans (refit_markReplayed ..)

theorem refit_takeOver (s : State) (k : Nat) (c : Core) : Refit s (takeOver s k c) := by
  unfold takeOver
  dsimp only
  split
  · exact .refl s
  · split
    · exact refit_modCore ..
    · split
      · exact ⟨rfl, rfl, rfl, ⟨⟨rfl, rfl⟩, rfl, rfl⟩, rfl⟩
      · exact .refl s

theorem refit_setClusters (s : State) (v : Nat) : Refit s (setClusters s v) := by
  rw [setClusters]
  refine .trans ?_ (Refit.foldl (fun s k => ?_) _ _)
  · exact (Refit.foldl (fun _ _ => refit_abortCore ..) _ s).trans ⟨rfl, rfl, rfl, ⟨⟨rfl, rfl⟩, rfl, rfl⟩, rfl⟩
  · split
    · exact refit_takeOver ..
    · exact .refl s

theorem refit_setGroup (s : State) (g : Nat) (v : Group) : Refit s (setGroup s g v) := ⟨rfl, rfl, rfl, ⟨⟨rfl, rfl⟩, rfl, rfl⟩, rfl⟩

theorem refit_withOps (s : State) (os : List CleOp) : Refit s { s with cle := { s.cle with ops := os } } :=
  ⟨rfl, rfl, rfl, ⟨⟨rfl, rfl⟩, rfl, rfl⟩, rfl⟩

theorem refit_setGroups (s : State) : Refit s (setGroups s) := by
  have groups := Refit.foldl (fun st g => refit_setGroup st g (imageGroup st g (getGroup st g))) (List.range 256) s
  rw [setGroups]
  generalize (List.range 256).foldl (fun st g => setGroup st g (imageGroup st g (getGroup st g))) s = u at groups ⊢
  exact groups.trans (refit_withOps ..)

theorem refit_reopenHalo (again : Bool) (s : State) (p : Nat × Nat) : Refit s (reopenHalo again s p) := by
  unfold reopenHalo
  split
  · exact refit_dropHalo ..
  · exact (refit_closeWindow ..).trans (refit_modCore ..)

theorem refit_modItem (s : State) (q : Nat) (idx : W32) {f : Item → Item} (named : ∀ i, (f i).q = i.q ∧ (f i).idx = i.idx) :
    Refit s (modItem s q idx f) := refit_mapItems s (fun i => by split; exacts [named i, ⟨rfl, rfl⟩])

theorem refit_restartHalo (s : State) (i : Item) : Refit s (restartHalo s i) :=
  (Refit.foldl (refit_reopenHalo _) _ s).trans
    (refit_modItem _ i.q i.idx (f := fun x => { x with haloHit := false, x0 := if (haloWindows s i.q i.idx).isEmpty then x.x0 else lowestSegment s i })
      (fun _ => ⟨rfl, rfl⟩))

theorem refit_restartHalos (s : State) : Refit s (restartHalos s) := Refit.foldl refit_restartHalo _ _

theorem refit_recheckItems (s : State) : Refit s (recheckItems s) := by
  rw [recheckItems]
  refine Refit.foldl (fun s i => ?_) _ _
  dsimp only
  split
  · exact refit_endItem ..
  · exact .refl s

/-! ### The image comes into force -/

/-- The image as the die's clusters hold it (R329). -/
def fittedLoad (s : State) (l : Load) : Load := { l with image := { l.image with stages := fitStages s l.image.stages } }

/-- s with an image in force: its parameters, and firmware asked to report (Table 15.5). -/
def imageActive (s : State) (l : Load) (caps : List W64) (e : Byte) (now : W64) : State :=
  { setParams s l.image with
    caps := caps, epoch := e
    reed := { s.reed with active := some l, pending := none, st := .running, warm := false, fwWait := true, refolded := some now } }

/-- s with the new image in force, before the work that spans the refold is looked at. -/
def imageSet (s : State) (l : Load) : State :=
  setGroups (imageActive (setClusters s l.image.variant.toNat) l
    (capWords (setParams (setClusters s l.image.variant.toNat) l.image) l.image.variant.toNat
      (clustersFor s l.image.variant.toNat).length (nextEpoch s).toNat) (nextEpoch s) s.breath.num)

/-- The work that spans a refold (R162, R327). -/
def workKept (before s : State) : State :=
  let held := (heldCores before s).foldl (fun st p => hitHalo (modCore st p.1 (fun c => { c with old := some p.2 })) p.1) s
  restartHalos (recheckItems { held with items := held.items.map (fun i => { i with placed := [] }) })

theorem refit_workKept (before s : State) : Refit s (workKept before s) := by
  rw [workKept]
  refine .trans ?_ (refit_restartHalos _)
  refine .trans ?_ (refit_recheckItems _)
  refine .trans ?_ (refit_mapItems _ (fun _ => ⟨rfl, rfl⟩))
  exact Refit.foldl (fun s (p : Nat × StageEntry) => (refit_modCore s p.1 _).trans (refit_hitHalo ..)) _ s

theorem fitImage_active {s : State} {l : Load} (h : s.reed.active = some l) :
    fitImage s = { s with reed := { s.reed with active := some (fittedLoad s l) } } := by
  rw [fitImage, h]
  rfl

theorem applyImage_eq (s : State) (l : Load) : applyImage s l = complete (workKept s (fitImage (imageSet s l))) .host l.tag 0
    (workKept s (fitImage (imageSet s l))).epoch.toNat := by
  rfl

theorem imageActive_keeps (s : State) (l : Load) (caps : List W64) (e : Byte) (now : W64) :
    (imageActive s l caps e now).reed.active = some l ∧ (imageActive s l caps e now).reed.pending = none ∧
    (imageActive s l caps e now).reed.st = .running ∧ (imageActive s l caps e now).reed.fwWait = true ∧
    (imageActive s l caps e now).reed.refolded = some now ∧ (imageActive s l caps e now).reed.host = s.reed.host ∧
    (imageActive s l caps e now).epoch = e ∧
    (imageActive s l caps e now).breath = { s.breath with guard := l.image.guard, refPerUs := l.image.refPerUs, upDie := l.image.upDie
                                                          src := l.image.src, period := BitVec.ofNat 11 l.image.period.toNat, long := 0
                                                          hops := if l.image.src = 1 then s.breath.hops else 0 } ∧
    (imageActive s l caps e now).casc.mode = l.image.cascMode ∧ (imageActive s l caps e now).link.node = l.image.node ∧
    (imageActive s l caps e now).link.routes = l.image.routes ∧ (imageActive s l caps e now).cle.vcw = l.image.vcw ∧
    itemNames (imageActive s l caps e now) = itemNames s := ⟨rfl, rfl, rfl, rfl, rfl, rfl, rfl, rfl, rfl, rfl, rfl, rfl, rfl⟩

theorem fitImage_keeps (s : State) (l : Load) (active : s.reed.active = some l) : (fitImage s).breath = s.breath ∧
    (fitImage s).reed = { s.reed with active := some (fittedLoad s l) } ∧ (fitImage s).epoch = s.epoch ∧ ParamsKept s (fitImage s) ∧
    itemNames (fitImage s) = itemNames s := by
  rw [fitImage_active active]
  exact ⟨rfl, rfl, rfl, ⟨⟨rfl, rfl⟩, rfl, rfl⟩, rfl⟩

theorem refold_applies {s : State} {l : Load} (hold : Bool) (pending : s.reed.pending = some l) (verified : s.reed.verifying = none)
    (short : longRunning s = false) (inReach : s.casc.lost.contains 0 = false) : refold s true hold = applyImage s l := by
  have runs : ¬(!true || s.reed.verifying.isSome || longRunning s) = true := by simp [verified, short]
  rw [refold, if_neg runs, pending]
  exact if_neg (by rw [inReach]; exact Bool.false_ne_true)

theorem refold_notReady (s : State) (hold : Bool) : refold s false hold = s := rfl

theorem refold_long {s : State} (long : longRunning s = true) (hold : Bool) : refold s true hold = s := by
  simp [refold, long]

theorem kept_of_mailSide {s t : State} (h : MailSide s t) : t.breath = s.breath ∧ t.epoch = s.epoch ∧ t.link = s.link ∧
    t.casc = s.casc ∧ t.cle = s.cle ∧ t.items = s.items ∧ t.reed.active = s.reed.active ∧ t.reed.pending = s.reed.pending ∧
    t.reed.st = s.reed.st ∧ t.reed.fwWait = s.reed.fwWait ∧ t.reed.refolded = s.reed.refolded := by
  rw [h]
  exact ⟨rfl, rfl, rfl, rfl, rfl, rfl, rfl, rfl, rfl, rfl, rfl⟩

/-- Settles O46: the effect by `applyImage_eq`, through the image's parameters (`imageActive_keeps`) and the work that stays (`Refit`). -/
theorem refoldPutsTheImageIntoForce : Obligations.RefoldPutsTheImageIntoForce := by
  intro s l hold hup pending
  have unchanged : ∀ b, refold s b hold = s → exec (.refold b hold) s = .next s := by
    intro b same
    by_cases edge : s.edge = true
    · refine (atEdge_up (f := fun s => refold s b hold) hup edge).trans ?_
      show Host.Outcome.next (keepOuter s (refold s b hold)) = _
      rw [same]
      rfl
    · exact atEdge_late (f := fun s => refold s b hold) hup (Bool.not_eq_true _ ▸ edge)
  refine ⟨unchanged false (refold_notReady s hold), fun waits => ?waits, fun edge verified short inReach => ?applies⟩
  case waits =>
    rcases waits with inside | long
    · exact atEdge_late (f := fun s => refold s true hold) hup inside
    · exact unchanged true (refold_long long hold)
  case applies =>
    intro e
    have effect := (refold_applies hold pending verified short inReach).trans (applyImage_eq s l)
    have epoch : nextEpoch s = e := rfl
    have clusters := refit_setClusters s l.image.variant.toNat
    rw [imageSet, epoch] at effect
    generalize setClusters s l.image.variant.toNat = a at effect clusters
    obtain ⟨active, noPending, st, fw, refolded, host, epoch', breath, mode, node, routes, vcw, names⟩ := imageActive_keeps a l
      (capWords (setParams a l.image) l.image.variant.toNat (clustersFor s l.image.variant.toNat).length e.toNat) e s.breath.num
    generalize imageActive a l (capWords (setParams a l.image) l.image.variant.toNat (clustersFor s l.image.variant.toNat).length e.toNat)
      e s.breath.num = b at *
    have groups := refit_setGroups b
    generalize setGroups b = c at *
    obtain ⟨fitBreath, fitReed, fitEpoch, fitParams, fitNames⟩ := fitImage_keeps c l ((congrArg Reed.active groups.reed).trans active)
    generalize fitImage c = d at *
    have kept := refit_workKept s d
    generalize workKept s d = w at *
    have side := mailSide_complete w .host l.tag 0 w.epoch.toNat
    have shown := mail_complete_same w .host l.tag 0 w.epoch.toNat
    generalize complete w .host l.tag 0 w.epoch.toNat = t at *
    have reed : w.reed = { b.reed with active := some (fittedLoad c l) } := by rw [kept.reed, fitReed, groups.reed]
    have params := (groups.params.trans fitParams).trans kept.params
    have ended : w.epoch = e := by rw [kept.epoch, fitEpoch, groups.epoch, epoch']
    obtain ⟨tBreath, tEpoch, tLink, tCasc, tCle, tItems, tActive, tPending, tSt, tFw, tRefolded⟩ := kept_of_mailSide side
    refine ⟨keepOuter s t, fittedLoad c l, effect ▸ atEdge_up (f := fun s => refold s true hold) hup edge, ?_⟩
    have hostKept : mail w .host = mail s .host := by
      show w.reed.host = s.reed.host
      rw [reed, host, clusters.reed]
    refine ⟨?_, rfl, rfl, ?_, ?_, ?_, ?_, ?_, ?_, ?_, ?_, ?_, ?_, ?_, fun ready => ?_⟩
    · exact tActive.trans (by rw [reed])
    · exact tPending.trans (by rw [reed]; exact noPending)
    · exact tSt.trans (by rw [reed]; exact st)
    · exact tFw.trans (by rw [reed]; exact fw)
    · exact tEpoch.trans ended
    · exact tRefolded.trans (by rw [reed]; exact refolded)
    · exact tBreath.trans (kept.breath.trans (fitBreath.trans (groups.breath.trans (breath.trans (by rw [clusters.breath])))))
    · exact (congrArg Casc.mode tCasc).trans (params.mode.trans mode)
    · exact (congrArg Link.node tLink).trans (params.routes.1.trans node)
    · exact (congrArg Link.routes tLink).trans (params.routes.2.trans routes)
    · exact (congrArg Cle.vcw tCle).trans (params.vcw.trans vcw)
    · have kept' : itemNames t = itemNames s :=
        (congrArg _ tItems).trans (kept.names.trans (fitNames.trans (groups.names.trans (names.trans clusters.names))))
      exact kept'
    · have code : mail (keepOuter s t) .host = { mail s .host with result := BitVec.ofNat 32 w.epoch.toNat, rspTag := l.tag, code := 0, done := true } := by
        refine Eq.trans shown ?_
        rw [hostKept, completed_done ready]
        rfl
      rw [code, ended]
      exact ⟨rfl, rfl, (BitVec.toNat_ofNat ..).trans (Nat.mod_eq_of_lt (by have := e.isLt; omega))⟩

end Sys2Proof.Proofs.Refolds

/-! Resets, the loss of power and boot: what they clear and what they keep (chapters 15, 16 and 18). -/

namespace Sys2Proof.Proofs.Resets

open Sys2Proof Sys2Proof.Machine Sys2Proof.Safety Sys2Proof.Laws Sys2Proof.Proofs.RegisterWrites
  Sys2Proof.Proofs.BellRecord Sys2Proof.Proofs.Mailbox Sys2Proof.Proofs.ImageLoads Sys2Proof.Proofs.LinkPort Sys2Proof.Proofs.Aborts
  Sys2Proof.Proofs.WindowWrites Sys2Proof.Proofs.Applications Sys2Proof.Proofs.Releases Sys2Proof.Proofs.WriteAnswers

/-! ### What the replay of items keeps -/

/-- t keeps the breath, CAP_EPOCH, Reed, Mute, the unit history, the Bell record's HEAD and the cores' contexts of s. -/
structure WarmKept (s t : State) : Prop where
  breath : t.breath = s.breath
  epoch : t.epoch = s.epoch
  reed : t.reed = s.reed
  mute : t.mute = s.mute
  history : t.history = s.history
  head : t.bell.head = s.bell.head
  cores : IdleKept s t

theorem WarmKept.refl (s : State) : WarmKept s s := ⟨rfl, rfl, rfl, rfl, rfl, rfl, .refl s⟩

theorem WarmKept.trans {s t u : State} (a : WarmKept s t) (b : WarmKept t u) : WarmKept s u :=
  ⟨b.breath.trans a.breath, b.epoch.trans a.epoch, b.reed.trans a.reed, b.mute.trans a.mute,
    b.history.trans a.history, b.head.trans a.head, a.cores.trans b.cores⟩

theorem WarmKept.foldl {α : Type} {f : State → α → State} (h : ∀ s a, WarmKept s (f s a)) (l : List α) (s : State) :
    WarmKept s (l.foldl f s) := by
  induction l generalizing s with
  | nil => exact .refl s
  | cons a l ih => exact (h s a).trans (ih _)

theorem warmKept_of_itemSide {s t : State} (h : ItemSide s t) (cores : IdleKept s t) : WarmKept s t where
  breath := h.breath
  epoch := by rw [h]; rfl
  reed := by rw [h]; rfl
  mute := by rw [h]; rfl
  history := by rw [h]; rfl
  head := by rw [h]; rfl
  cores := cores

theorem warmKept_of_bellSide {s t : State} (h : BellSide s t) (head : t.bell.head = s.bell.head) : WarmKept s t :=
  ⟨by rw [h], by rw [h], by rw [h], by rw [h], by rw [h], head, .of_cores (by rw [h])⟩

theorem warmKept_bellRaise (s : State) (code : Nat) (u : W16) (ctx : CtxId) (src arg : Nat) :
    WarmKept s (bellRaise s code u ctx src arg) := warmKept_of_bellSide (bellSide_bellRaise ..) (by rw [bellRaise_bell])

theorem warmKept_of_migSide {s t : State} (h : MigSide s t) (bell : t.bell = s.bell) : WarmKept s t :=
  ⟨h.breath, by rw [h], by rw [h], by rw [h], by rw [h], by rw [bell], .of_cores (by rw [h])⟩

theorem warmKept_of_portSide {s t : State} (h : PortSide s t) : WarmKept s t :=
  ⟨by rw [h.1.1], by rw [h.1.1], by rw [h.1.1], by rw [h.1.1], by rw [h.1.1], by rw [h.1.1],
    .of_cores (by rw [h.1.1])⟩

theorem warmKept_modItem (s : State) (q : Nat) (idx : W32) (f : Item → Item) : WarmKept s (modItem s q idx f) :=
  ⟨rfl, rfl, rfl, rfl, rfl, rfl, .of_cores rfl⟩

theorem warmKept_abortItemTasks (s : State) (q : Nat) (idx : W32) : WarmKept s (abortItemTasks s q idx) :=
  warmKept_of_itemSide (itemSide_abortItemTasks ..) (idleKept_abortItemTasks ..)

theorem warmKept_endItem (s : State) (q : Nat) (idx : W32) (st d : Nat) : WarmKept s (endItem s q idx st d) :=
  warmKept_of_itemSide (itemSide_endItem ..) (idleKept_endItem ..)

theorem warmKept_commitNow (s : State) (q : Nat) (idx : W32) : WarmKept s (commitNow s q idx) :=
  warmKept_of_itemSide (itemSide_commitNow ..) (.of_cores (cores_commitNow ..))

theorem warmKept_openFault (s : State) (e q : Nat) (idx : W32) (ctx : CtxId) (a : W64) (w : Bool) (r l : Nat) (p : W64) :
    WarmKept s (openFault s e q idx ctx a w r l p).1 := by
  unfold openFault
  dsimp only
  split
  · exact ⟨rfl, rfl, rfl, rfl, rfl, rfl, .of_cores rfl⟩
  · split <;> exact ⟨rfl, rfl, rfl, rfl, rfl, rfl, .of_cores rfl⟩

theorem warmKept_storeMem (s : State) (a : Nat) (bs : List Byte) : WarmKept s (storeMem s a bs) :=
  ⟨rfl, rfl, rfl, rfl, rfl, rfl, .of_cores rfl⟩

theorem warmKept_spoilOutputs (s : State) (it : Item) : WarmKept s (spoilOutputs s it) :=
  WarmKept.foldl (f := fun st (r : Nat × Nat) => storeAny st r.1 r.2) (fun _ _ => ⟨rfl, rfl, rfl, rfl, rfl, rfl, .of_cores rfl⟩) _ _

theorem warmKept_itemErr (s : State) (q : Nat) (idx : W32) (e : MErr) : WarmKept s (itemErr s q idx e) := by
  unfold itemErr
  split
  · exact .refl s
  · split
    · exact ((warmKept_bellRaise ..).trans (warmKept_spoilOutputs ..)).trans (warmKept_endItem ..)
    · exact warmKept_endItem ..
    · exact (warmKept_openFault ..).trans (warmKept_modItem ..)

theorem warmKept_countVerified (s : State) (n : Nat) : WarmKept s (countVerified s n) := ⟨rfl, rfl, rfl, rfl, rfl, rfl, .of_cores rfl⟩

theorem warmKept_blockMismatch (s : State) (q : Nat) (idx : W32) (ctx : CtxId) (b : W64) (n : Nat) :
    WarmKept s (blockMismatch s q idx ctx b n) := by
  unfold blockMismatch
  refine .trans (.trans ?_ (warmKept_bellRaise ..)) (warmKept_endItem ..)
  exact ⟨rfl, rfl, rfl, rfl, rfl, rfl, .of_cores rfl⟩

theorem warmKept_issueReq (s : State) (r : Req) : WarmKept s (issueReq s r) := ⟨rfl, rfl, rfl, rfl, rfl, rfl, .of_cores rfl⟩

theorem warmKept_withReqs (s : State) (rs : List Req) : WarmKept s { s with mem := { s.mem with reqs := rs } } :=
  ⟨rfl, rfl, rfl, rfl, rfl, rfl, .of_cores rfl⟩

theorem warmKept_issueOuts {s t : State} {q : Nat} {idx : W32} {pool : Nat} {ctx : CtxId} {outs : List Out}
    (h : issueOuts s q idx pool ctx outs = .ok t) : WarmKept s t := by
  unfold issueOuts at h
  split at h
  · cases h
  · cases h
    exact WarmKept.foldl (fun _ _ => warmKept_issueReq ..) _ _

/-! ### The Collective Engine's progress -/

theorem warmKept_setOp (s : State) (o : CleOp) : WarmKept s (setOp s o) := ⟨rfl, rfl, rfl, rfl, rfl, rfl, .of_cores rfl⟩

theorem warmKept_setGroup (s : State) (g : Nat) (v : Group) : WarmKept s (setGroup s g v) := ⟨rfl, rfl, rfl, rfl, rfl, rfl, .of_cores rfl⟩

theorem warmKept_send (s : State) (x : Sent) : WarmKept s (send s x) := ⟨rfl, rfl, rfl, rfl, rfl, rfl, .of_cores rfl⟩

theorem warmKept_toOthers (s : State) (o : CleOp) (t : UnitTag) (b : List Byte) : WarmKept s (toOthers s o t b) :=
  warmKept_of_portSide (portSide_toOthers ..)

theorem warmKept_toNext (s : State) (o : CleOp) (t : UnitTag) (b : List Byte) : WarmKept s (toNext s o t b) :=
  warmKept_of_portSide (portSide_toNext ..)

theorem warmKept_takeEarly (s : State) (o : CleOp) : WarmKept s (takeEarly s o) :=
  warmKept_of_itemSide (itemSide_takeEarly ..) (.of_cores rfl)

theorem warmKept_sendAgreement (s : State) (o : CleOp) (r : Agreement) : WarmKept s (sendAgreement s o r) :=
  ((warmKept_send ..).trans (warmKept_toOthers ..)).trans (warmKept_takeEarly ..)

theorem warmKept_beginOp (s : State) (o : CleOp) : WarmKept s (beginOp s o) := by
  unfold beginOp
  dsimp only
  split <;> exact (warmKept_setGroup ..).trans (warmKept_sendAgreement ..)

theorem warmKept_sendChunks (s : State) (o : CleOp) (us : List (Nat × Nat × List Byte)) : WarmKept s (sendChunks s o us) :=
  WarmKept.trans (warmKept_setOp s _) (WarmKept.foldl (fun _ _ => (warmKept_send ..).trans (warmKept_toNext ..)) _ _)

theorem warmKept_sendParts (x : Source) (q : Nat) (idx : W32) (l : List Nat) (s : State) : WarmKept s (sendParts x q idx l s) := by
  induction l generalizing s with
  | nil => exact .refl s
  | cons off l ih =>
    unfold sendParts
    dsimp only
    split
    · exact .refl s
    · split
      · exact ih s
      · split
        · exact warmKept_itemErr ..
        · exact warmKept_blockMismatch ..
        · split
          · exact warmKept_itemErr ..
          · exact ((warmKept_countVerified ..).trans (warmKept_sendChunks ..)).trans (ih _)

theorem warmKept_endSource (s : State) (o : CleOp) (k : Nat) : WarmKept s (endSource s o k) :=
  (warmKept_setOp ..).trans ((warmKept_send ..).trans (warmKept_toNext ..))

theorem warmKept_sendContribution (s : State) (o : CleOp) : WarmKept s (sendContribution s o) := by
  unfold sendContribution
  dsimp only
  split
  · exact .refl s
  · split
    · exact warmKept_setOp ..
    · split
      · exact warmKept_sendParts ..
      · split
        · exact (warmKept_sendParts ..).trans (warmKept_endSource ..)
        · exact warmKept_sendParts ..

theorem warmKept_writeResult (s : State) (o : CleOp) : WarmKept s (writeResult s o) := by
  unfold writeResult
  dsimp only
  split
  · exact .refl s
  · split
    · exact warmKept_itemErr ..
    · next h1 =>
      split
      · exact warmKept_itemErr ..
      · next h2 =>
        exact ((warmKept_issueOuts h1).trans (warmKept_issueOuts h2)).trans ((warmKept_modItem ..).trans (warmKept_setOp ..))

theorem warmKept_sendDone (s : State) (o : CleOp) : WarmKept s (sendDone s o) :=
  warmKept_of_itemSide (itemSide_sendDone ..) (idleKept_sendDone ..)

theorem warmKept_yieldFail (s : State) (q : Nat) (idx : W32) : WarmKept s (yieldFail s q idx) :=
  warmKept_of_itemSide (itemSide_yieldFail ..) (idleKept_yieldFail ..)

theorem warmKept_cleStage (s : State) (q : Nat) (idx : W32) : WarmKept s (cleStage s q idx) := by
  unfold cleStage
  dsimp only
  split
  · split
    · exact .refl s
    · split
      · split
        · exact warmKept_beginOp ..
        · exact .refl s
      · split
        · exact warmKept_yieldFail ..
        · split
          · exact .refl s
          · split
            · split
              · exact warmKept_endItem ..
              · exact warmKept_sendContribution ..
            · split
              · split
                · exact warmKept_writeResult ..
                · exact .refl s
              · split
                · exact warmKept_sendDone ..
                · exact .refl s
  · exact .refl s

theorem warmKept_cleAdvance (s : State) (q : Nat) (idx : W32) : WarmKept s (cleAdvance s q idx) :=
  (((warmKept_cleStage ..).trans (warmKept_cleStage ..)).trans (warmKept_cleStage ..)).trans (warmKept_cleStage ..)

/-! ### Replay (R347 to R349) -/

theorem warmKept_restartOp (s : State) (o : CleOp) : WarmKept s (restartOp s o) := by
  have aborted := warmKept_abortItemTasks s o.q o.idx
  rw [restartOp]
  generalize abortItemTasks s o.q o.idx = u at aborted
  dsimp only
  have opened : WarmKept u (if o.kind = true then u
      else setGroup u o.group { getGroup u o.group with attempt := o.attempt + 1 }) := by
    split
    · exact .refl u
    · exact warmKept_setGroup ..
  generalize (if o.kind = true then u else setGroup u o.group { getGroup u o.group with attempt := o.attempt + 1 }) = v at opened ⊢
  have before : WarmKept s (modItem (setOp v o.again) o.q o.idx dropResults) :=
    (aborted.trans opened).trans ((warmKept_setOp ..).trans (warmKept_modItem ..))
  generalize modItem (setOp v o.again) o.q o.idx dropResults = w at before ⊢
  refine before.trans ?_
  split
  · exact (warmKept_withReqs w _).trans (warmKept_sendAgreement ..)
  · exact (warmKept_withReqs w _).trans (warmKept_cleAdvance ..)

theorem warmKept_rejoin (s : State) (o : CleOp) : WarmKept s (rejoin s o) := by
  unfold rejoin
  dsimp only
  split
  · exact warmKept_restartOp ..
  · exact ((warmKept_setOp ..).trans (warmKept_send ..)).trans (warmKept_toOthers ..)

theorem warmKept_rejoinItem (s : State) (i : Item) : WarmKept s (rejoinItem s i) := by
  unfold rejoinItem
  split
  · exact .refl s
  · split
    · exact (warmKept_modItem ..).trans (warmKept_rejoin ..)
    · exact .refl s

theorem warmKept_cancelMig (s : State) (lpn : Nat) (keep : Bool) : WarmKept s (cancelMig s lpn keep) :=
  warmKept_of_migSide (discards_cancelMig ..).side (discards_cancelMig ..).bell

theorem warmKept_applyChange (s : State) (c : Change) : WarmKept s (applyChange s c) := by
  cases c with
  | cancel lpn => exact warmKept_cancelMig s lpn false
  | take u => cases u <;> rw [applyChange, takeUnit] <;> try split
              all_goals exact ⟨rfl, rfl, rfl, rfl, rfl, rfl, .of_cores rfl⟩
  | resv far d =>
    rw [applyChange]
    dsimp only
    split <;> exact ⟨rfl, rfl, rfl, rfl, rfl, rfl, .of_cores rfl⟩
  | journal | info | list | drop | cow | wrote | entry => exact ⟨rfl, rfl, rfl, rfl, rfl, rfl, .of_cores rfl⟩

theorem warmKept_recoverApply (s : State) (q : Nat) (idx : W32) : WarmKept s (recoverApply s q idx) := by
  unfold recoverApply
  split
  · exact .refl s
  · rw [applyEnd]
    refine .trans ?_ (warmKept_commitNow ..)
    refine .trans ?_ (warmKept_modItem ..)
    refine .trans ?_ (WarmKept.foldl warmKept_applyChange _ _)
    exact WarmKept.foldl (fun _ _ => warmKept_storeMem ..) _ _

theorem warmKept_restartPaging (s : State) (i : Item) : WarmKept s (restartPaging s i) := by
  unfold restartPaging
  split
  · exact warmKept_recoverApply ..
  · exact (WarmKept.foldl (fun _ _ => warmKept_cancelMig ..) _ _).trans (warmKept_modItem ..)

theorem warmKept_replayItem (s : State) (i : Item) : WarmKept s (replayItem s i) := by
  unfold replayItem
  split
  · exact .refl s
  · split
    · exact warmKept_restartPaging ..
    · exact warmKept_rejoinItem ..
    · exact warmKept_modItem ..
    · exact (warmKept_modItem ..).trans (warmKept_rejoinItem ..)

/-! ### Warm reset (R341) -/

theorem warmKept_closeWindow (s : State) (core w : Nat) : WarmKept s (closeWindow s core w) :=
  warmKept_of_itemSide (itemSide_closeWindow ..) (idleKept_closeWindow ..)

theorem warmKept_abortCore (s : State) (core : Nat) : WarmKept s (abortCore s core) := by
  rw [abortCore]
  refine .trans ?_ (WarmKept.foldl (fun _ _ => warmKept_closeWindow ..) _ _)
  refine .trans ?_ (warmKept_of_itemSide (itemSide_abortThreads ..) (idleKept_abortThreads ..))
  exact ⟨rfl, rfl, rfl, rfl, rfl, rfl, .of_cores rfl⟩

/-- A core's registers are scrubbed and its slots emptied; its context stays. -/
theorem warmKept_scrubSlots (s : State) (k : Nat) : WarmKept s (modCore s k (fun c => { scrubRegs c with slots := [] })) :=
  ⟨rfl, rfl, rfl, rfl, rfl, rfl, idleKept_modCore s k (fun _ _ _ mem => absurd mem List.not_mem_nil) (fun _ => ⟨rfl, rfl, rfl⟩)⟩

theorem warmKept_scrubDie (s : State) : WarmKept s (scrubDie s) := by
  have scrubbed := WarmKept.foldl (f := fun st k => modCore (abortCore st k) k (fun c => { scrubRegs c with slots := [] }))
    (fun s k => (warmKept_abortCore s k).trans (warmKept_scrubSlots _ k)) (s.cores.map (fun p => p.1)) s
  rw [scrubDie]
  generalize (s.cores.map (fun p => p.1)).foldl (fun st k => modCore (abortCore st k) k (fun c => { scrubRegs c with slots := [] })) s = u
    at scrubbed ⊢
  exact scrubbed.trans ⟨rfl, rfl, rfl, rfl, rfl, rfl, .of_cores rfl⟩

theorem scrubDie_clears (s : State) : (scrubDie s).tasks = [] ∧ (scrubDie s).phys = [] ∧ ∀ c ∈ (scrubDie s).clusters, c.2.lines = [] := by
  rw [scrubDie]
  refine ⟨rfl, rfl, fun c mem => ?_⟩
  obtain ⟨p, -, rfl⟩ := List.mem_map.mp mem
  rfl

/-- s with newer images dropped and the event logged. -/
def imagesDropped (s : State) (byReed : Bool) : State :=
  if (loadOf (bellRaise s 0x0002 0 0 1 (b2n byReed))).isSome
  then send (dropLoad (bellRaise s 0x0002 0 0 1 (b2n byReed)) 7 0) (.rejectReport true)
  else bellRaise s 0x0002 0 0 1 (b2n byReed)

theorem warmReset_eq {s : State} (active : s.reed.active ≠ none) (byReed : Bool) : warmReset s byReed =
    { emptyTranslation (scrubDie ((imagesDropped s byReed).items.foldl replayItem (imagesDropped s byReed))) with
      reed := { (scrubDie ((imagesDropped s byReed).items.foldl replayItem (imagesDropped s byReed))).reed with warm := true, st := .verifying } } := by
  rw [warmReset, if_neg (by simpa using active)]
  rfl

/-- What the end of a load keeps: all but Reed and the interrupts. -/
theorem dropLoad_frame (s : State) (code result : Nat) : dropLoad s code result =
    { s with reed := (dropLoad s code result).reed, irq := (dropLoad s code result).irq } := by
  cases h : loadOf s with
  | none => rw [dropLoad_none h]
  | some l =>
    rw [dropLoad_some h]
    have side := mailSide_complete (withoutLoad s) .host l.tag code result
    generalize complete (withoutLoad s) .host l.tag code result = t at side
    rw [side]
    rfl

/-- What the drop of newer images leaves. -/
theorem imagesDropped_keeps (s : State) (byReed : Bool) :
    (imagesDropped s byReed).breath = s.breath ∧ (imagesDropped s byReed).epoch = s.epoch ∧ (imagesDropped s byReed).mute = s.mute ∧
    (imagesDropped s byReed).history = s.history ∧
    (imagesDropped s byReed).bell.head = s.bell.head ∧ (imagesDropped s byReed).cores = s.cores ∧
    (imagesDropped s byReed).reed.active = s.reed.active ∧ loadOf (imagesDropped s byReed) = none := by
  have side := bellSide_bellRaise s 0x0002 0 0 1 (b2n byReed)
  have head : (bellRaise s 0x0002 0 0 1 (b2n byReed)).bell.head = s.bell.head := by rw [bellRaise_bell]
  rw [imagesDropped]
  generalize bellRaise s 0x0002 0 0 1 (b2n byReed) = u at side head ⊢
  cases h : loadOf u with
  | none => exact ⟨by rw [side]; rfl, by rw [side]; rfl, by rw [side]; rfl, by rw [side]; rfl, head, by rw [side]; rfl, by rw [side]; rfl, h⟩
  | some l =>
    have ended := ended_dropLoad h 7 0
    have frame := dropLoad_frame u 7 0
    simp only [Option.isSome_some, if_true]
    generalize dropLoad u 7 0 = v at ended frame ⊢
    have active : v.reed.active = s.reed.active := ended.active.trans (by rw [side])
    refine ⟨?_, ?_, ?_, ?_, ?_, ?_, active, ended.loadOf⟩
    · exact (congrArg State.breath frame).trans (by rw [side])
    · exact (congrArg State.epoch frame).trans (by rw [side])
    · exact (congrArg State.mute frame).trans (by rw [side])
    · exact (congrArg State.history frame).trans (by rw [side])
    · exact (congrArg (fun t : State => t.bell.head) frame).trans head
    · exact (congrArg State.cores frame).trans (by rw [side])

/-- A warm reset clears the work of the die and keeps the image, the breath, the bindings and the Bell record. -/
structure WarmReset (s t : State) : Prop where
  warm : t.reed.warm = true
  verifying : t.reed.st = .verifying
  active : t.reed.active = s.reed.active
  noLoad : loadOf t = none
  tasks : t.tasks = []
  phys : t.phys = []
  recs : t.tr.recs = []
  bank : t.tr.active = []
  inactive : t.tr.inactive = []
  breath : t.breath = s.breath
  epoch : t.epoch = s.epoch
  mute : t.mute = s.mute
  history : t.history = s.history
  head : t.bell.head = s.bell.head
  lines : ∀ c ∈ t.clusters, c.2.lines = []
  bound : ∀ k, SameBinding (getCore s k) (getCore t k)

/-- The last change of a warm reset, on a die whose work has gone. -/
theorem warmReset_last {s u : State} (kept : WarmKept s u) (noLoad : loadOf s = none) (tasks : u.tasks = []) (phys : u.phys = [])
    (lines : ∀ c ∈ u.clusters, c.2.lines = []) :
    WarmReset s { emptyTranslation u with reed := { u.reed with warm := true, st := .verifying } } where
  warm := rfl
  verifying := rfl
  active := show u.reed.active = s.reed.active from congrArg Reed.active kept.reed
  noLoad := by rw [← noLoad, loadOf, loadOf, kept.reed]
  tasks := tasks
  phys := phys
  recs := rfl
  bank := rfl
  inactive := rfl
  breath := kept.breath
  epoch := kept.epoch
  mute := kept.mute
  history := kept.history
  head := kept.head
  lines := lines
  bound := kept.cores.bound

theorem warmReset_resets {s : State} (active : s.reed.active ≠ none) (byReed : Bool) : WarmReset s (warmReset s byReed) := by
  obtain ⟨breath, epoch, mute, history, head, cores, active', noLoad⟩ := imagesDropped_keeps s byReed
  rw [warmReset_eq active]
  generalize imagesDropped s byReed = u at *
  have kept := (WarmKept.foldl warmKept_replayItem u.items u).trans (warmKept_scrubDie _)
  obtain ⟨tasks, phys, lines⟩ := scrubDie_clears (u.items.foldl replayItem u)
  generalize scrubDie (u.items.foldl replayItem u) = v at *
  have last := warmReset_last kept noLoad tasks phys lines
  exact { last with
    active := last.active.trans active'
    breath := last.breath.trans breath
    epoch := last.epoch.trans epoch
    mute := last.mute.trans mute
    history := last.history.trans history
    head := last.head.trans head
    bound := fun k => by rw [← getCore_congr cores k]; exact last.bound k }

theorem warmRequest_held {s : State} (h : s.rstLow = true ∨ s.powered = false) (low : Nat) (byReed : Bool) : warmRequest s low byReed = s := by
  rw [warmRequest, if_pos]
  rcases h with h | h <;> simp [h]

section
variable {s : State} (high : s.rstLow = false) (powered : s.powered = true)
include high powered

theorem warmRequest_muted (muted : s.mute.muted = true) (low : Nat) (byReed : Bool) :
    warmRequest s low byReed = { s with mute := { s.mute with wrstSeen := true } } := by
  rw [warmRequest, if_neg (by simp [high, powered]), if_pos muted]

theorem warmRequest_short (running : s.mute.muted = false) {low : Nat} (short : low < 100) : warmRequest s low false = s := by
  rw [warmRequest, if_neg (by simp [high, powered]), if_neg (by simp [running]), if_neg (by simpa using short)]

theorem warmRequest_due (running : s.mute.muted = false) {low : Nat} {byReed : Bool} (due : 100 ≤ low ∨ byReed = true) :
    warmRequest s low byReed = warmReset s byReed := by
  rw [warmRequest, if_neg (by simp [high, powered]), if_neg (by simp [running]), if_pos (by rcases due with h | h <;> simp [h])]

theorem coldRequest_muted (muted : s.mute.muted = true) : coldRequest s = { s with mute := { s.mute with rstSeen := true } } := by
  rw [coldRequest, if_neg (by simp [high, powered]), if_pos muted]

theorem coldRequest_due (running : s.mute.muted = false) : coldRequest s = coldReset s := by
  rw [coldRequest, if_neg (by simp [high, powered]), if_neg (by simp [running])]

end

theorem coldRequest_held {s : State} (h : s.rstLow = true ∨ s.powered = false) : coldRequest s = s := by
  rw [coldRequest, if_pos]
  rcases h with h | h <;> simp [h]

theorem warmReset_none {s : State} (none_ : s.reed.active = none) (byReed : Bool) : warmReset s byReed = s := by
  rw [warmReset, if_pos (by simp [none_])]

/-- With nothing outstanding a cold reset leaves memory and the boot device (R389). -/
theorem coldReset_quiet {s : State} (reqs : s.mem.reqs = []) (quiet : s.bell.flushing = none) :
    (coldReset s).mem.bytes = s.mem.bytes ∧ (coldReset s).xspi = s.xspi := by
  have cut : s.mem.reqs.foldl cutWrite (cutFlush s) = s := by
    rw [reqs, cutFlush]
    simp [quiet]
  rw [coldReset, cut]
  exact ⟨rfl, rfl⟩

/-! ### Boot (R339, R340, R376) -/

/-- t differs from s in the unit history, the clusters and the counter of free values alone. -/
def BootSide (s t : State) : Prop := t = { s with history := t.history, clusters := t.clusters, free := t.free }

theorem BootSide.trans {s t u : State} (a : BootSide s t) (b : BootSide t u) : BootSide s u := by
  unfold BootSide at *
  rw [b, a]

/-- t differs from s in the unit history alone. -/
def RoleSide (s t : State) : Prop := t = { s with history := t.history }

theorem RoleSide.trans {s t u : State} (a : RoleSide s t) (b : RoleSide t u) : RoleSide s u := by
  unfold RoleSide at *
  rw [b, a]

theorem roleSide_foldl (l : List Nat) (f : Nat → W16) (r : Byte) (s : State) :
    RoleSide s (l.foldl (fun st k => modUnit st (f k) (fun x => { x with role := r })) s) := by
  induction l generalizing s with
  | nil => rfl
  | cons k l ih =>
    have rest := ih (modUnit s (f k) (fun x => { x with role := r }))
    unfold RoleSide at *
    rw [List.foldl_cons, rest]
    rfl

/-- A cluster as boot maps it: by its own number, with no line of its cache filled and every spare line left. -/
def Mapped (s : State) (p : Nat) : Prop := (getCluster s p).phys = p ∧ (getCluster s p).spareLines = 1310 ∧ (getCluster s p).lines = []

/-- The roles of a cluster's cores change the unit history alone. -/
theorem bootCluster_eq (s : State) (p : Nat) : ∃ u c, RoleSide { s with free := s.free + 16 } u ∧ bootCluster s p = setCluster u p c ∧
    c.phys = p ∧ c.spareLines = 1310 ∧ c.lines = [] := by
  rw [bootCluster]
  generalize bootCores s p = cores
  generalize bootSpare s p cores (Config.freeWord s.free).toNat = spare
  generalize orderBy s 1 (cores.filter (fun k => k ≠ spare)) = act
  have active := roleSide_foldl act (fun k => BitVec.ofNat 16 (0x1000 + 9 * p + k)) (BitVec.ofNat 8 0) { s with free := s.free + 16 }
  dsimp only
  generalize act.foldl (fun st k => modUnit st (BitVec.ofNat 16 (0x1000 + 9 * p + k)) (fun x => { x with role := BitVec.ofNat 8 0 }))
    { s with free := s.free + 16 } = v at active ⊢
  refine ⟨_, _, ?_, rfl, rfl, rfl, rfl⟩
  split
  · exact RoleSide.trans active rfl
  · exact active

theorem bootSide_bootCluster (s : State) (p : Nat) : BootSide s (bootCluster s p) := by
  obtain ⟨u, c, roles, eq, -⟩ := bootCluster_eq s p
  rw [eq]
  unfold RoleSide at roles
  rw [roles]
  rfl

theorem mapped_bootCluster (s : State) (p : Nat) : Mapped (bootCluster s p) p := by
  obtain ⟨u, c, -, eq, mapped⟩ := bootCluster_eq s p
  rw [Mapped, eq, show getCluster (setCluster u p c) p = c from tget_tput_same ..]
  exact mapped

theorem mapped_bootCluster_kept {s : State} {n : Nat} (h : Mapped s n) (p : Nat) : Mapped (bootCluster s p) n := by
  by_cases same : n = p
  · exact same ▸ mapped_bootCluster s p
  · obtain ⟨u, c, roles, eq, -⟩ := bootCluster_eq s p
    have kept : getCluster (setCluster u p c) n = getCluster s n := by
      refine (tget_tput_other _ _ _ _ _ same).trans ?_
      rw [roles]
      rfl
    rw [Mapped, eq, kept]
    exact h

theorem bootClusters (l : List Nat) (s : State) : BootSide s (l.foldl bootCluster s) ∧
    ∀ n, n ∈ l ∨ Mapped s n → Mapped (l.foldl bootCluster s) n := by
  induction l generalizing s with
  | nil => exact ⟨rfl, fun n h => h.resolve_left List.not_mem_nil⟩
  | cons p l ih =>
    obtain ⟨side, mapped⟩ := ih (bootCluster s p)
    refine ⟨(bootSide_bootCluster s p).trans side, fun n h => mapped n ?_⟩
    rcases h with mem | done
    · rcases List.mem_cons.mp mem with rfl | mem
      · exact .inr (mapped_bootCluster s n)
      · exact .inl mem
    · exact .inr (mapped_bootCluster_kept done p)

/-- The history that a boot loads, and what it may stage (R359). -/
theorem loadHistory_keeps (s : State) : (loadHistory s).xspi = s.xspi ∧ (loadHistory s).bell.head = s.bell.head ∧
    (loadHistory s).bell.flushed = s.bell.flushed ∧ (loadHistory s).bell.staging.length ≤ s.bell.staging.length + 1 := by
  rw [loadHistory]
  cases bestHistory s.xspi with
  | some h => exact ⟨rfl, rfl, rfl, Nat.le_succ _⟩
  | none =>
    dsimp only
    refine ⟨?_, ?_, ?_, ?_⟩
    · rw [bellSide_bellRaise]
    · rw [bellRaise_bell]
    · rw [bellRaise_bell]
    · rw [bellRaise, stageEvent]
      split <;> simp

/-- COLD_BOOT joins the staged events, and nothing else of what a boot restores changes. -/
theorem bootLogged {s : State} (room : s.bell.staging.length < 256) (arg : Nat) :
    (bellRaise s 0x0001 0 0 1 arg).bell.head = s.bell.head ∧ (bellRaise s 0x0001 0 0 1 arg).bell.flushed = s.bell.flushed ∧
    (∃ es e, (bellRaise s 0x0001 0 0 1 arg).bell.staging = es ++ [e] ∧ e.code = 0x0001 ∧ e.src = 1) ∧
    (bellRaise s 0x0001 0 0 1 arg).reed = s.reed ∧ (bellRaise s 0x0001 0 0 1 arg).clusters = s.clusters := by
  have bell := bellRaise_staging room 0x0001 0 0 1 arg
  have side := bellSide_bellRaise s 0x0001 0 0 1 arg
  have staged := congrArg Bell.staging bell
  refine ⟨by rw [bell], by rw [bell], ⟨_, _, staged, rfl, rfl⟩, by rw [side], by rw [side]⟩

/-- s with the record below a trailer's HEAD. -/
def recordFrom (s : State) (slots : Tab BellEvent) (h : W32) : State :=
  { s with bell := { s.bell with slots := slots, head := h, flushed := h } }

/-- The record that a boot restores, with COLD_BOOT as the last staged event (R376). -/
theorem restoreBell_restores {s : State} (room : s.bell.staging.length < 256) :
    (∀ h, bestTrailer s.xspi = some h → (restoreBell s).bell.head = h ∧ (restoreBell s).bell.flushed = h) ∧
    (bestTrailer s.xspi = none → (restoreBell s).bell.head = s.bell.head ∧ (restoreBell s).bell.flushed = s.bell.flushed) ∧
    (∃ es e, (restoreBell s).bell.staging = es ++ [e] ∧ e.code = 0x0001 ∧ e.src = 1) ∧
    (restoreBell s).reed = s.reed ∧ (restoreBell s).clusters = s.clusters := by
  rw [restoreBell]
  cases best : bestTrailer s.xspi with
  | none =>
    obtain ⟨head, flushed, logged, rest⟩ := bootLogged room (2 ^ 32)
    exact ⟨fun h some_ => (Option.some_ne_none h some_.symm).elim, fun _ => ⟨head, flushed⟩, logged, rest⟩
  | some h =>
    obtain ⟨head, flushed, logged, rest⟩ := bootLogged (s := recordFrom s
      ((s.xspi.bellArea.filter (fun p => isBelow h 8192 p.2)).foldl (fun t p => tput {} t (p.2.seq.toNat % 8192) p.2) []) h) room
      (s.xspi.bellArea.filter (fun p => isBelow h 8192 p.2)).length
    refine ⟨fun h' some_ => ?_, fun none_ => (Option.some_ne_none h none_).elim, logged, rest⟩
    cases some_
    exact ⟨head, flushed⟩

/-- A boot whose self-test passes, on a die at its reset values. -/
theorem bootReed_boots {s : State} (quiet : s.bell.staging = []) :
    (bootReed s).reed.booted = true ∧ (∀ p, p < 8 → Mapped (bootReed s) p) ∧
    (∀ h, bestTrailer s.xspi = some h → (bootReed s).bell.head = h ∧ (bootReed s).bell.flushed = h) ∧
    (bestTrailer s.xspi = none → (bootReed s).bell.head = s.bell.head ∧ (bootReed s).bell.flushed = s.bell.flushed) ∧
    (∃ es e, (bootReed s).bell.staging = es ++ [e] ∧ e.code = 0x0001 ∧ e.src = 1) := by
  obtain ⟨xspi, head, flushed, staged⟩ := loadHistory_keeps s
  obtain ⟨side, mapped⟩ := bootClusters (List.range 8) (loadHistory s)
  have mapped : ∀ p, p < 8 → Mapped ((List.range 8).foldl bootCluster (loadHistory s)) p :=
    fun p small => mapped p (.inl (List.mem_range.mpr small))
  rw [bootReed]
  generalize (List.range 8).foldl bootCluster (loadHistory s) = u at *
  have bell : u.bell = (loadHistory s).bell := by rw [side]
  have device : u.xspi = s.xspi := by rw [side]; exact xspi
  obtain ⟨some_, none_, logged, reed, clusters⟩ := restoreBell_restores (s := { u with reed := { u.reed with booted := true } }) (by
    show u.bell.staging.length < 256
    rw [bell]
    rw [quiet] at staged
    exact Nat.lt_of_le_of_lt staged (by decide))
  refine ⟨congrArg Reed.booted reed, fun p small => ?_, fun h best => some_ h ?_, fun best => ?_, logged⟩
  · rw [Mapped, getCluster, clusters]
    exact mapped p small
  · exact (congrArg bestTrailer device).trans best
  · obtain ⟨h, f⟩ := none_ ((congrArg bestTrailer device).trans best)
    exact ⟨(h.trans (congrArg Bell.head bell)).trans head, (f.trans (congrArg Bell.flushed bell)).trans flushed⟩

/-- What a die at its reset values holds of the record. -/
theorem bell_of_held {s : State} (held : s = coldState s) : s.bell.staging = [] ∧ s.bell.head = 1 ∧ s.bell.flushed = 1 := by
  rw [held]
  exact ⟨rfl, rfl, rfl⟩

/-- Settles O50: the two resets by their requests, a warm reset by `warmReset_resets`, and boot by `bootReed_boots`. -/
theorem resetsLeaveWhatTheyShould : Obligations.ResetsLeaveWhatTheyShould := by
  refine ⟨fun s low byReed => ⟨fun held => ⟨?_, ?_⟩, fun high powered => ⟨fun muted => ⟨?_, ?_⟩, fun running => ⟨fun short => ?_,
    fun none_ => ?_, fun active due => ?warm, ?cold⟩⟩, ⟨powerLoss s, rfl, rfl, rfl, rfl, rfl, rfl⟩⟩, fun s low => ⟨?_, fun held => ?boot⟩,
    fun s hup => ⟨fun booted st => ?_, fun other => ?_⟩⟩
  · refine congrArg Host.Outcome.next ?_
    show keepOuter s (warmRequest s low byReed) = s
    rw [warmRequest_held held]
    rfl
  · exact congrArg Host.Outcome.next (coldRequest_held held)
  · refine congrArg Host.Outcome.next ?_
    show keepOuter s (warmRequest s low byReed) = _
    rw [warmRequest_muted high powered muted]
    rfl
  · exact congrArg Host.Outcome.next (coldRequest_muted high powered muted)
  · refine congrArg Host.Outcome.next ?_
    show keepOuter s (warmRequest s low false) = s
    rw [warmRequest_short high powered running short]
    rfl
  · refine congrArg Host.Outcome.next ?_
    show keepOuter s (warmRequest s low byReed) = s
    by_cases due : 100 ≤ low ∨ byReed = true
    · rw [warmRequest_due high powered running due, warmReset_none none_]
      rfl
    · obtain ⟨short, host⟩ := not_or.mp due
      rw [Bool.eq_false_iff.mpr host, warmRequest_short high powered running (Nat.lt_of_not_le short)]
      rfl
  case warm =>
    have reset := warmReset_resets active byReed
    refine ⟨keepOuter s (warmRequest s low byReed), rfl, ?_⟩
    rw [warmRequest_due high powered running due]
    generalize warmReset s byReed = t at reset
    exact ⟨reset.warm, reset.verifying, reset.active, reset.noLoad, reset.tasks, reset.phys, reset.recs, reset.bank, reset.inactive,
      reset.breath, reset.epoch, reset.head, reset.lines,
      fun k => ⟨(reset.bound k).bind, (reset.bound k).ctx⟩⟩
  case cold =>
    refine ⟨coldReset s, congrArg Host.Outcome.next (coldRequest_due high powered running), coldReset_held s, rfl, powered, rfl,
      fun reqs quiet => coldReset_quiet reqs quiet⟩
  · refine congrArg Host.Outcome.next ?_
    show coldBoot s false = _
    rw [coldBoot, if_neg (by simp [low])]
    rfl
  case boot =>
    obtain ⟨quiet, head, flushed⟩ := bell_of_held held
    have boots := bootReed_boots (s := { s with rstLow := false, powered := true, fuses := s.newFuses }) quiet
    refine ⟨keepOuter { s with rstLow := false, powered := true, fuses := s.newFuses }
      (bootReed { s with rstLow := false, powered := true, fuses := s.newFuses }), ?_, rfl, rfl, ?_⟩
    · refine congrArg Host.Outcome.next ?_
      show coldBoot s true = _
      rw [coldBoot, if_neg (by simp [low])]
      rfl
    · generalize bootReed { s with rstLow := false, powered := true, fuses := s.newFuses } = t at boots ⊢
      obtain ⟨booted, mapped, some_, none_, logged⟩ := boots
      exact ⟨booted, mapped, some_, fun best => ⟨(none_ best).1.trans head, (none_ best).2.trans flushed⟩, logged⟩
  · exact live_next (f := bootReady) hup (by rw [bootReady, if_pos (by simp [booted, st])]) rfl
  · refine live_next (f := bootReady) hup ?_ rfl
    rw [bootReady, if_neg]
    rcases other with h | h <;> simp [h]

end Sys2Proof.Proofs.Resets

/-! Mute freezes the die, and its release goes on (chapter 17, R377 to R380). -/

namespace Sys2Proof.Proofs.Muting

open Sys2Proof Sys2Proof.Machine Sys2Proof.Safety Sys2Proof.Laws Sys2Proof.Proofs.RegisterWrites Sys2Proof.Proofs.BellRecord
  Sys2Proof.Proofs.Resets

/-! ### Every staged event is logged (Table 17.7) -/

/-- The events that are still to be logged: those staged, and one BELL_DROP when some were dropped. -/
def toLog (s : State) : Nat := s.bell.staging.length + if s.bell.droppedSince = 0 then 0 else 1

theorem toLog_logEvent {s : State} {e : BellEvent} {rest : List BellEvent} (waiting : s.bell.staging = e :: rest) :
    toLog (logEvent s) + 1 = toLog s := by
  have none : (logEvent s).bell.droppedSince = 0 := by rw [logEvent_bell waiting]
  by_cases lost : s.bell.droppedSince = 0
  · simp [toLog, logEvent_staging waiting lost, waiting, lost, none]
  · simp [toLog, logEvent_staging_dropped waiting lost, waiting, lost, none]

theorem logAll_empty {s : State} (h : s.bell.staging = []) (n : Nat) : logAll n s = s := by
  cases n with
  | zero => rfl
  | succ n => rw [logAll, h]; rfl

theorem logAll_cons {s : State} {e : BellEvent} {rest : List BellEvent} (waiting : s.bell.staging = e :: rest) (n : Nat) :
    logAll (n + 1) s = logAll n (logEvent s) := by
  rw [logAll, waiting]
  rfl

theorem bellSide_logAll (n : Nat) (s : State) : BellSide s (logAll n s) := by
  induction n generalizing s with
  | zero => exact .refl s
  | succ n ih =>
    cases waiting : s.bell.staging with
    | nil => rw [logAll_empty waiting]; exact .refl s
    | cons e rest => rw [logAll_cons waiting]; exact (bellSide_logEvent s).trans (ih _)

theorem staging_logAll {n : Nat} {s : State} (few : toLog s ≤ n) : (logAll n s).bell.staging = [] := by
  induction n generalizing s with
  | zero => exact List.length_eq_zero_iff.mp (by simp only [toLog] at few; rw [logAll]; omega)
  | succ n ih =>
    cases waiting : s.bell.staging with
    | nil => rw [logAll_empty waiting, waiting]
    | cons e rest =>
      have fewer := toLog_logEvent waiting
      rw [logAll_cons waiting]
      exact ih (by omega)

theorem staging_stageEvent_length (s : State) (e : BellEvent) : (stageEvent s e).bell.staging.length ≤ s.bell.staging.length + 1 := by
  unfold stageEvent
  split <;> simp

/-! ### The die freezes (R377, R378) -/

/-- What a mute from die leaves in the Mute registers (Table 17.8). -/
def mutedBy (m : Mute) (die : BitVec 2) (bridge : Bool) : Mute :=
  { m with muted := true, count := satAdd m.count 1, originDie := die, origin := bridge, rstSeen := false, wrstSeen := false }

/-- s with MUTE_ENTER staged and every event logged. -/
def muteLogged (s : State) (die : BitVec 2) (bridge : Bool) : State :=
  logAll 512 (bellRaise s 0x0003 0 0 0 (b2n bridge + 2 * die.toNat))

theorem bellSide_muteLogged (s : State) (die : BitVec 2) (bridge : Bool) : BellSide s (muteLogged s die bridge) :=
  (bellSide_bellRaise ..).trans (bellSide_logAll ..)

theorem staging_muteLogged {s : State} (few : s.bell.staging.length ≤ 256) (die : BitVec 2) (bridge : Bool) :
    (muteLogged s die bridge).bell.staging = [] := by
  refine staging_logAll ?_
  have length : (bellRaise s 0x0003 0 0 0 (b2n bridge + 2 * die.toNat)).bell.staging.length ≤ s.bell.staging.length + 1 :=
    staging_stageEvent_length ..
  rw [toLog]
  split <;> omega

theorem muteDie_eq (s : State) (die : BitVec 2) (bridge : Bool) : muteDie s die bridge =
    { muteLogged s die bridge with mute := mutedBy (muteLogged s die bridge).mute die bridge } := rfl

theorem canMute_of_not {s : State} {b : Bool} (h : canMute s = false ∨ b = false) : (canMute s && b) = false := by
  rcases h with h | h <;> simp [h]

/-! ### The release (R379, R380) -/

/-- Staging an event draws no free value. -/
theorem free_bellRaise (s : State) (code : Nat) (u : W16) (ctx : CtxId) (src arg : Nat) :
    (bellRaise s code u ctx src arg).free = s.free := by
  unfold bellRaise stageEvent
  split <;> rfl

theorem free_enterFreeRun (s : State) (late : Nat) : (enterFreeRun s late).free = s.free := by
  rw [enterFreeRun]
  exact free_bellRaise ..

theorem bellSide_enterFreeRun (s : State) (late : Nat) : BellSide { s with breath :=
    { s.breath with freeRun := true, miss := true, missedCnt := satAdd s.breath.missedCnt 1 } } (enterFreeRun s late) := by
  rw [enterFreeRun]
  exact (bellSide_bellRaise ..).trans rfl

/-- t differs from s in the Bell record, the interrupts and the breath alone, in free-run when the breath had started. -/
structure Resumed (s t : State) : Prop where
  eq : t = { s with bell := t.bell, irq := t.irq, breath := t.breath }
  running : s.breath.started = true → t.breath.freeRun = true
  notStarted : s.breath.started = false → t.breath = s.breath

theorem resumed_resumeBreath (s : State) : Resumed s (resumeBreath s) := by
  unfold resumeBreath
  split
  · next due =>
    obtain ⟨started, -⟩ := Bool.and_eq_true_iff.mp due
    have side := bellSide_enterFreeRun s s.breath.late
    have free := free_enterFreeRun s s.breath.late
    generalize enterFreeRun s s.breath.late = t at side free
    refine ⟨by rw [side, free], fun _ => by rw [side], fun no => ?_⟩
    rw [started] at no
    cases no
  · next other =>
    refine ⟨rfl, fun started => ?_, fun _ => rfl⟩
    simpa [started] using other

theorem muteExit_held {s : State} {high cycles : Nat} (h : s.mute.muted = false ∨ high < 8) : muteExit s high cycles = s := by
  rw [muteExit, if_pos]
  rcases h with h | h <;> simp [h]

/-- s as the release finds it. -/
def unmuted (s : State) (cycles : Nat) : State :=
  { s with mute := { s.mute with muted := false, lastLen := BitVec.ofNat 32 (min cycles (2 ^ 32 - 1)), rstSeen := false, wrstSeen := false } }

theorem muteExit_released {s : State} {high cycles : Nat} (muted : s.mute.muted = true) (long : 8 ≤ high) (reset : s.mute.rstSeen = false) :
    muteExit s high cycles = keepOuter s (muteRelease (unmuted s cycles) (s.mute.wrstSeen && s.reed.active.isSome) cycles) := by
  rw [muteExit, if_neg (by simp [muted]; omega), reset]
  rfl

theorem muteExit_reset {s : State} {high cycles : Nat} (muted : s.mute.muted = true) (long : 8 ≤ high) (reset : s.mute.rstSeen = true) :
    muteExit s high cycles = coldReset (unmuted s cycles) := by
  rw [muteExit, if_neg (by simp [muted]; omega), reset]
  rfl

theorem muteRelease_logged (s : State) (cycles : Nat) :
    Resumed s (muteRelease s false cycles) := by
  have side := bellSide_bellRaise s 0x0004 0 0 0 (min cycles (2 ^ 64 - 1))
  have free := free_bellRaise s 0x0004 0 0 0 (min cycles (2 ^ 64 - 1))
  rw [muteRelease, if_neg (by decide)]
  generalize bellRaise s 0x0004 0 0 0 (min cycles (2 ^ 64 - 1)) = u at side free
  obtain ⟨eq, running, notStarted⟩ := resumed_resumeBreath u
  generalize resumeBreath u = t at *
  have breath : u.breath = s.breath := by rw [side]
  exact ⟨by rw [eq, side, free], breath ▸ running, breath ▸ notStarted⟩

/-- The warm reset that a release carries out. -/
theorem muteRelease_warm {s : State} (active : s.reed.active ≠ none) (cycles : Nat) :
    WarmReset (resumeBreath s) (muteRelease s true cycles) := by
  rw [muteRelease, if_pos rfl]
  refine warmReset_resets ?_ false
  rw [(resumed_resumeBreath s).eq]
  exact active

/-- What a die muted by die leaves: all but Mute, the Bell record, the interrupts, the free values and what was sent. -/
theorem muted_kept {s t : State} {die : BitVec 2} {bridge : Bool} (side : BellSide s t) (few : s.bell.staging.length ≤ 256 → t.bell.staging = [])
    (words : List Sent) :
    let m : State := { t with mute := mutedBy t.mute die bridge, sent := t.sent ++ words }
    m = { s with mute := m.mute, bell := m.bell, irq := m.irq, sent := m.sent, free := m.free } ∧ m.mute.muted = true ∧
      m.mute.count = satAdd s.mute.count 1 ∧ (s.bell.staging.length ≤ 256 → m.bell.staging = []) ∧ m.sent = s.sent ++ words := by
  have mute : t.mute = s.mute := by rw [side]
  have sent : t.sent = s.sent := by rw [side]
  refine ⟨?_, rfl, ?_, few, ?_⟩
  · rw [side]
  · exact congrArg (fun m : Mute => satAdd m.count 1) mute
  · exact congrArg (· ++ words) sent

/-- Settles O53: a mute through `muteDie_eq`, its release through `muteExit_released`. -/
theorem muteFreezesAndReleases : Obligations.MuteFreezesAndReleases := by
  intro s kept
  refine ⟨fun low can long => ?enter, fun low other => ?held, fun die can k6 small peer => ?bridge, fun die other => ?noBridge,
    fun low hup one short => ?runt, fun high cycles other => ?stays, fun high cycles muted long noReset => ⟨fun plain => ?release,
    fun warm active => ?warm⟩, fun high cycles muted long reset => ?cold⟩
  case enter =>
    have effect : muteEnter s low = send (muteDie s s.cascId false) .muteSideband := by
      rw [muteEnter, if_pos (by simp [can, long])]
    obtain ⟨frame, on, count, few, sent⟩ := muted_kept (die := s.cascId) (bridge := false) (bellSide_muteLogged s s.cascId false)
      (staging_muteLogged · s.cascId false) [.muteSideband]
    rw [muteDie_eq] at effect
    refine ⟨_, congrArg Host.Outcome.next ?_, ⟨frame, on, count, few⟩, rfl, rfl, sent⟩
    show keepOuter s (muteEnter s low) = _
    rw [effect]
    exact (congrArg (keepOuter s) frame).trans frame.symm
  case held =>
    refine congrArg Host.Outcome.next ?_
    show keepOuter s (muteEnter s low) = s
    rw [muteEnter, canMute_of_not (other.imp_right (fun short => decide_eq_false (Nat.not_le_of_lt short)))]
    rfl
  case bridge =>
    have effect : muteSideband s die = muteDie s (BitVec.ofNat 2 die) true := by
      rw [muteSideband, if_pos (by simp [can, k6, small, peer])]
    obtain ⟨frame, on, count, few, sent⟩ := muted_kept (die := BitVec.ofNat 2 die) (bridge := true)
      (bellSide_muteLogged s (BitVec.ofNat 2 die) true) (staging_muteLogged · (BitVec.ofNat 2 die) true) []
    rw [List.append_nil] at frame on count few sent
    rw [muteDie_eq] at effect
    refine ⟨_, congrArg Host.Outcome.next ?_, ⟨frame, on, count, few⟩, ?_, rfl, sent.trans (List.append_nil _)⟩
    · show keepOuter s (muteSideband s die) = _
      rw [effect]
      exact (congrArg (keepOuter s) frame).trans frame.symm
    · exact Nat.mod_eq_of_lt small
  case noBridge =>
    refine congrArg Host.Outcome.next ?_
    show keepOuter s (muteSideband s die) = s
    rw [muteSideband, if_neg]
    · rfl
    · rcases other with h | h | h | h
      · simp [h]
      · simp [h]
      · simp [Nat.not_lt_of_le h]
      · simp [h]
  case runt => exact live_next (f := (muteRunt · low)) hup (if_pos ⟨one, short⟩) rfl
  case stays => exact congrArg Host.Outcome.next (muteExit_held other)
  case release =>
    have logged := muteRelease_logged (unmuted s cycles) cycles
    have effect : muteExit s high cycles = keepOuter s (muteRelease (unmuted s cycles) false cycles) := by
      rw [muteExit_released muted long noReset]
      rcases plain with h | h <;> simp [h]
    refine ⟨_, congrArg Host.Outcome.next effect, ?_⟩
    generalize muteRelease (unmuted s cycles) false cycles = t at logged ⊢
    obtain ⟨eq, running, notStarted⟩ := logged
    have mute : t.mute = (unmuted s cycles).mute := by rw [eq]
    refine ⟨congrArg Mute.muted mute, ?_, running, notStarted, ?_⟩
    · refine (congrArg (fun m : Mute => m.lastLen.toNat) mute).trans ?_
      exact Nat.mod_eq_of_lt (by omega)
    · rw [eq]
      rfl
  case warm =>
    have reset := muteRelease_warm (s := unmuted s cycles) active cycles
    have effect : muteExit s high cycles = keepOuter s (muteRelease (unmuted s cycles) true cycles) := by
      rw [muteExit_released muted long noReset, warm, Option.isSome_iff_ne_none.mpr active]
      rfl
    refine ⟨_, congrArg Host.Outcome.next effect, ?_⟩
    have released : (resumeBreath (unmuted s cycles)).mute.muted = false := by rw [(resumed_resumeBreath _).eq]; rfl
    generalize resumeBreath (unmuted s cycles) = u at *
    generalize muteRelease (unmuted s cycles) true cycles = t at reset ⊢
    exact ⟨(congrArg Mute.muted reset.mute).trans released, reset.warm, reset.tasks⟩
  case cold =>
    refine ⟨_, congrArg Host.Outcome.next (muteExit_reset muted long reset), coldReset_held _, rfl⟩

end Sys2Proof.Proofs.Muting

/-! Test packs and memory scrubs (chapter 16, R362 to R364). -/

namespace Sys2Proof.Proofs.SelfTests

open Sys2Proof Sys2Proof.Machine Sys2Proof.Safety Sys2Proof.Laws Sys2Proof.Proofs.RegisterWrites
  Sys2Proof.Proofs.BellRecord Sys2Proof.Proofs.ItemLaws Sys2Proof.Proofs.Accesses Sys2Proof.Proofs.Aborts
  Sys2Proof.Proofs.PagingBegin Sys2Proof.Proofs.Applications Sys2Proof.Proofs.WindowWrites Sys2Proof.Proofs.WriteAnswers

/-! ### A record that has run -/

/-- The slots of an item that has taken a core's slot of the breath. -/
def slotsWith (s : State) (i : Item) (p : Nat) : List (Nat × W64) :=
  if i.slots.contains (p, s.breath.num) then i.slots else i.slots ++ [(p, s.breath.num)]

theorem mem_slotsWith (s : State) (i : Item) (p : Nat) : (p, s.breath.num) ∈ slotsWith s i p := by
  unfold slotsWith
  split
  · next h => exact List.contains_iff_mem.mp h
  · exact List.mem_append_right _ (List.mem_singleton.mpr rfl)

/-- s with a record noted against its item. -/
def recordNoted (s : State) (i : Item) (p record : Nat) (matched : Bool) : State :=
  modItem s i.q i.idx (fun x => { x with ran := i.ran ++ [(p, record, matched)], slots := slotsWith s i p })

/-- s with a physical core's slot of the breath taken, and its own test task gone. -/
def slotTaken (s : State) (i : Item) (p : Nat) : State :=
  match logicalOf s p with
  | some k => { (modCore s k (fun c => { c with tse := true })) with tasks := s.tasks.filter (fun t => !testTask i k t) }
  | none => s

/-- s with a physical core's memories written by a test. -/
def memoriesUsed (s : State) (p : Nat) : State := { s with phys := tmod {} s.phys p (fun m => { m with dirty := true, accDirty := true }) }

/-- s with a record's outcome counted against its core. -/
def outcomeCounted (s : State) (i : Item) (p record : Nat) (matched : Bool) : State :=
  if matched then s else bellRaise (recordPack s (BitVec.ofNat 16 (0x1000 + p)) false) 0x0044 (BitVec.ofNat 16 (0x1000 + p)) i.ctx 0
    (cmdAt i.cmd 32 4 + record * 2 ^ 32)

/-- s with a pack that a core has passed noted. -/
def packPassed (s : State) (mine : List (Nat × Nat × Bool)) (p records : Nat) : State :=
  if decide (records ≤ mine.length) && mine.all (fun x => x.2.2) then recordPack s (BitVec.ofNat 16 (0x1000 + p)) true else s

/-- s once a record has run, before the item may end. -/
def recordJudged (s : State) (i : Item) (p record : Nat) (matched : Bool) (records : Nat) : State :=
  packPassed (outcomeCounted (memoriesUsed (slotTaken (recordNoted s i p record matched) i p) p) i p record matched)
    ((i.ran ++ [(p, record, matched)]).filter (fun x => x.1 = p)) p records

/-- s, whose item has run its last record or has not. -/
def itemMayEnd (s : State) (q : Nat) (idx : W32) (last : Bool) : State := if last then endNow s q idx 0x00 0 else s

theorem recordRan_eq (s : State) (i : Item) (p record : Nat) (matched : Bool) (records : Nat) :
    recordRan s i p record matched records = itemMayEnd (recordJudged s i p record matched records) i.q i.idx
      ((packCores (recordJudged s i p record matched records)).all
        (fun c => decide (records ≤ ((i.ran ++ [(p, record, matched)]).filter (fun x => x.1 = c)).length))) := rfl

/-- t differs from s in the unit history, the Bell record, the interrupts and the free values alone. -/
def HistorySide (s t : State) : Prop := t = { s with history := t.history, bell := t.bell, irq := t.irq, free := t.free }

theorem HistorySide.trans {s t u : State} (a : HistorySide s t) (b : HistorySide t u) : HistorySide s u := by
  unfold HistorySide at *
  rw [b, a]

theorem historySide_modUnit (s : State) (u : W16) (f : UnitRec → UnitRec) : HistorySide s (modUnit s u f) := rfl

theorem historySide_of_bellSide {s t : State} (h : BellSide s t) : HistorySide s t := by
  unfold HistorySide
  rw [h]

theorem historySide_outcomeCounted (s : State) (i : Item) (p record : Nat) (matched : Bool) :
    HistorySide s (outcomeCounted s i p record matched) := by
  rw [outcomeCounted]
  split
  · rfl
  · exact (historySide_modUnit ..).trans (historySide_of_bellSide (bellSide_bellRaise ..))

theorem historySide_packPassed (s : State) (mine : List (Nat × Nat × Bool)) (p records : Nat) :
    HistorySide s (packPassed s mine p records) := by
  rw [packPassed]
  split
  · exact historySide_modUnit ..
  · rfl

/-- Logical numbers come from the clusters. -/
theorem slotTaken_keeps (s : State) (i : Item) (p : Nat) : (slotTaken s i p).items = s.items ∧ (slotTaken s i p).mem = s.mem ∧
    (slotTaken s i p).history = s.history ∧ ∀ k, logicalOf s p = some k → (getCore (slotTaken s i p) k).tse = true := by
  rw [slotTaken]
  cases at_ : logicalOf s p with
  | none => exact ⟨rfl, rfl, rfl, fun k h => (Option.some_ne_none k h.symm).elim⟩
  | some k =>
    refine ⟨rfl, rfl, rfl, fun k' h => ?_⟩
    cases h
    exact congrArg Core.tse (getCore_modCore_same s k (fun c => { c with tse := true }))

theorem getUnit_modUnit_same (s : State) (u : W16) (f : UnitRec → UnitRec) : getUnit (modUnit s u f) u = f (getUnit s u) :=
  tget_tmod_same ..

theorem getUnit_congr {s t : State} (h : t.history = s.history) (u : W16) : getUnit t u = getUnit s u := by rw [getUnit, h, getUnit]

theorem history_of_bellSide {s t : State} (h : BellSide s t) : t.history = s.history := by rw [h]

/-- A failed record counts one against the core (Table 16.9). -/
theorem tfail_recordPack (s : State) (u : W16) : (getUnit (recordPack s u false) u).tfail = satAdd (getUnit s u).tfail 1 := by
  rw [recordPack, getUnit_modUnit_same]
  simp only [Bool.false_eq_true, if_false]
  split
  · rfl
  · split <;> rfl

/-- What the die holds once a record has run (R362, R363). -/
theorem recordJudged_holds {s : State} {i b : Item} (found : findItem s i.q i.idx = some b) (p record : Nat) (matched : Bool)
    (records : Nat) :
    findItem (recordJudged s i p record matched records) i.q i.idx =
      some { b with ran := i.ran ++ [(p, record, matched)], slots := slotsWith s i p } ∧
    (recordJudged s i p record matched records).mem = s.mem ∧
    (∀ k, logicalOf s p = some k → (getCore (recordJudged s i p record matched records) k).tse = true) ∧
    (matched = false → (getUnit (recordJudged s i p record matched records) (BitVec.ofNat 16 (0x1000 + p))).tfail =
      satAdd (getUnit s (BitVec.ofNat 16 (0x1000 + p))).tfail 1) := by
  have noted : findItem (recordNoted s i p record matched) i.q i.idx =
      some { b with ran := i.ran ++ [(p, record, matched)], slots := slotsWith s i p } := by
    rw [recordNoted, findItem_modItem s i.q i.idx
      (f := fun x => { x with ran := i.ran ++ [(p, record, matched)], slots := slotsWith s i p }) (h := fun _ h => h), found]
    rfl
  obtain ⟨items, mem, history, tse⟩ := slotTaken_keeps (recordNoted s i p record matched) i p
  have counted := historySide_outcomeCounted (memoriesUsed (slotTaken (recordNoted s i p record matched) i p) p) i p record matched
  have passed := historySide_packPassed
    (outcomeCounted (memoriesUsed (slotTaken (recordNoted s i p record matched) i p) p) i p record matched)
    ((i.ran ++ [(p, record, matched)]).filter (fun x => x.1 = p)) p records
  have side := counted.trans passed
  refine ⟨?_, ?_, fun k at_ => ?_, fun bad => ?_⟩
  · refine (findItem_congr ?_ i.q i.idx).trans noted
    exact (congrArg State.items side).trans items
  · exact (congrArg State.mem side).trans mem
  · exact (congrArg Core.tse (getCore_congr (congrArg State.cores side) k)).trans (tse k at_)
  · subst bad
    have failed : ∀ t, packPassed t ((i.ran ++ [(p, record, false)]).filter (fun x => x.1 = p)) p records = t := fun t => by
      rw [packPassed, if_neg]
      simp
    rw [recordJudged, failed, outcomeCounted, if_neg Bool.false_ne_true, getUnit_congr (history_of_bellSide (bellSide_bellRaise ..)),
      tfail_recordPack]
    exact congrArg (fun r : UnitRec => satAdd r.tfail 1) (getUnit_congr history _)

/-- An item's notes stay as it ends with its last record. -/
theorem itemMayEnd_keeps {s : State} {q : Nat} {idx : W32} {i : Item} (found : findItem s q idx = some i) (last : Bool) :
    ∃ j, findItem (itemMayEnd s q idx last) q idx = some j ∧ j.ran = i.ran ∧ j.slots = i.slots ∧ (itemMayEnd s q idx last).mem = s.mem ∧
      (∀ k, (getCore (itemMayEnd s q idx last) k).tse = (getCore s k).tse) ∧ (itemMayEnd s q idx last).history = s.history := by
  cases last with
  | false => exact ⟨i, found, rfl, rfl, rfl, fun _ => rfl, rfl⟩
  | true =>
    obtain ⟨g, ended⟩ := findItem_endNow s q idx 0x00 0 i found
    have side := itemSide_endNow s q idx 0x00 0
    have cores := idleKept_endNow s q idx 0x00 0
    exact ⟨_, ended, rfl, rfl, side.mem, fun k => (cores.bound k).tse, by rw [itemMayEnd, if_pos rfl, side]; rfl⟩

/-! ### A test pack's event -/

section
variable {s : State} {q : Nat} {idx : W32} {i : Item} {bs : List Byte} (ready : itemReady s q idx 0x50 i) (read : packBytes s i = .ok bs)
include ready read

theorem testPack_bad (bad : packOk s i bs = false) (p record : Nat) (matched : Bool) :
    testPack (inBreath s) q idx p record matched = endItem (begun (inBreath s) q idx) q idx 0x15 0 := by
  obtain ⟨found, opcode, may⟩ := ready
  have found' : findItem (inBreath s) q idx = some i := found
  have may' : (mayBegin (inBreath s) i || mayRun (inBreath s) i) = true := Bool.or_eq_true_iff.mpr may
  have read' : packBytes (inBreath s) i = .ok bs := ((readsAlike_inBreath s).readVa ..).trans read
  have bad' : packOk (begun (inBreath s) q idx) i bs = false := bad
  rw [testPack, found']
  dsimp only
  rw [if_neg (by simp [opcode, may']), read']
  dsimp only
  rw [if_pos (by rw [bad']; rfl)]

variable (good : packOk s i bs = true) {p record : Nat} (inside : record < leAt bs 6 2) (listed : p ∈ packCores s)
  (fresh : ∀ x ∈ i.ran, ¬(x.1 = p ∧ x.2.1 = record))
include good inside listed fresh

theorem testPack_good (matched : Bool) : testPack (inBreath s) q idx p record matched =
    if !idleFor (begun (inBreath s) q idx) i p || !slotLeft (begun (inBreath s) q idx) i p then begun (inBreath s) q idx
    else recordRan (begun (inBreath s) q idx) i p record matched (leAt bs 6 2) := by
  obtain ⟨found, opcode, may⟩ := ready
  have found' : findItem (inBreath s) q idx = some i := found
  have may' : (mayBegin (inBreath s) i || mayRun (inBreath s) i) = true := Bool.or_eq_true_iff.mpr may
  have read' : packBytes (inBreath s) i = .ok bs := ((readsAlike_inBreath s).readVa ..).trans read
  have good' : packOk (begun (inBreath s) q idx) i bs = true := good
  have listed' : (packCores (begun (inBreath s) q idx)).contains p = true := List.contains_iff_mem.mpr listed
  have fresh' : i.ran.any (fun x => x.1 = p && x.2.1 = record) = false := by
    rw [List.any_eq_false]
    intro x mem both
    simp only [Bool.and_eq_true, decide_eq_true_eq] at both
    exact fresh x mem both
  rw [testPack, found']
  dsimp only
  rw [if_neg (by simp [opcode, may']), read']
  dsimp only
  rw [if_neg (by rw [good']; exact Bool.false_ne_true), listed', fresh', decide_eq_false (Nat.not_le_of_lt inside)]
  rfl

end

/-- A core that is bound elsewhere, or busy, does not idle for the item (R69, R182). -/
theorem idleFor_busy {s : State} {i : Item} {p k : Nat} (at_ : logicalOf s p = some k)
    (busy : (getCore s k).bind ≠ 1 ∨ (getCore s k).ctx ≠ i.ctx ∨ (getCore s k).taken = true) : idleFor s i p = false := by
  rw [idleFor, at_]
  rcases busy with h | h | h
  · have h' : decide ((getCore s k).bind = 1) = false := decide_eq_false h
    dsimp only
    rw [h']
    rfl
  · simp [h]
  · simp [h]

/-! ### Memory scrubs (R364) -/

theorem ReadsAlike.scrubGo {s t : State} (h : ReadsAlike s t) (ctx : CtxId) (l : List W64) :
    ∀ n bad, scrubGo t ctx l n bad = Machine.scrubGo s ctx l n bad := by
  induction l with
  | nil => exact fun _ _ => rfl
  | cons b l ih =>
    intro n bad
    unfold Machine.scrubGo
    simp only [h.entryAddr, h.readVa, ih]

/-- s with the blocks of a scrub counted and its bad ones logged. -/
def scrubCounted (s : State) (ctx : CtxId) (n : Nat) (bad : List W64) : State :=
  (bad.take 16).foldl (fun st b => bellRaise st 0x0032 0 ctx 0 (addrKey b))
    { countVerified s n with str := { (countVerified s n).str with chkFail := satAdd (countVerified s n).str.chkFail bad.length } }

theorem bellSide_foldl {α : Type} {f : State → α → State} (h : ∀ s a, BellSide s (f s a)) (l : List α) (s : State) :
    BellSide s (l.foldl f s) := by
  induction l generalizing s with
  | nil => exact .refl s
  | cons a l ih => exact (h s a).trans (ih _)

theorem scrubCounted_keeps (s : State) (ctx : CtxId) (n : Nat) (bad : List W64) :
    (scrubCounted s ctx n bad).items = s.items ∧ (scrubCounted s ctx n bad).cle = s.cle ∧ (scrubCounted s ctx n bad).mem = s.mem ∧
    (scrubCounted s ctx n bad).str =
      { s.str with chkVerified := satAdd s.str.chkVerified n, chkFail := satAdd s.str.chkFail bad.length } := by
  have side := bellSide_foldl (f := fun st (b : W64) => bellRaise st 0x0032 0 ctx 0 (addrKey b)) (fun _ _ => bellSide_bellRaise ..)
    (bad.take 16) { countVerified s n with str := { (countVerified s n).str with chkFail := satAdd (countVerified s n).str.chkFail bad.length } }
  rw [scrubCounted]
  generalize (bad.take 16).foldl (fun st b => bellRaise st 0x0032 0 ctx 0 (addrKey b)) _ = t at side ⊢
  exact ⟨by rw [side]; rfl, by rw [side]; rfl, by rw [side]; rfl, by rw [side]; rfl⟩

/-- How a scrub ends: OK, or with the first bad block. -/
def scrubEnd (bad : List W64) : Nat × Nat :=
  match bad with
  | [] => (0x00, 0)
  | b :: _ => (0x22, addrKey b)

theorem memScrub_ends {s : State} {q : Nat} {idx : W32} {i : Item} (ready : itemReady s q idx 0x51 i) (alone : opOf s q idx = none)
    {n : Nat} {bad : List W64}
    (scrubbed : scrubGo s i.ctx (blocksTouched (cmd64 i.cmd 16) (cmdAt i.cmd 24 8)) 0 [] = .ok (n, bad)) :
    memScrub (inBreath s) q idx = endNow (scrubCounted (begun (inBreath s) q idx) i.ctx n bad) q idx (scrubEnd bad).1 (scrubEnd bad).2 := by
  obtain ⟨found, opcode, may⟩ := ready
  have found' : findItem (inBreath s) q idx = some i := found
  have may' : (mayBegin (inBreath s) i || mayRun (inBreath s) i) = true := Bool.or_eq_true_iff.mpr may
  have scrubbed' := (ReadsAlike.scrubGo (readsAlike_begun s q idx) i.ctx _ 0 []).trans scrubbed
  rw [memScrub, found']
  dsimp only
  rw [if_neg (by simp [opcode, may']), scrubbed']
  cases bad with
  | nil => rfl
  | cons b rest =>
    have alone' : opOf (scrubCounted (begun (inBreath s) q idx) i.ctx n (b :: rest)) q idx = none :=
      (opOf_congr ((scrubCounted_keeps ..).2.1.trans (begun_cle s q idx)) q idx).trans alone
    exact endItem_alone alone' _ _

/-- Settles O31: a record through `recordJudged`, a scrub through `scrubCounted`. -/
theorem testsAndScrubs : Obligations.TestsAndScrubs := by
  intro s q idx i hup alone
  refine ⟨fun ready bs read => ⟨fun bad p r m => ?bad, fun good p r m inside listed fresh =>
    ⟨fun idle left => ?ran, fun busy => ?busy, fun k at_ busy => idleFor_busy at_ busy⟩⟩, fun ready n bad scrubbed => ?scrub⟩
  case bad =>
    have effect := testPack_bad ready read bad p r m
    rw [endItem_alone (s := begun (inBreath s) q idx) alone] at effect
    obtain ⟨t, run, done, -, -⟩ := ended_begun (f := fun s => testPack s q idx p r m) hup ready.1 effect
    exact ⟨t, run, done⟩
  case busy =>
    refine live_next (f := fun s => testPack (inBreath s) q idx p r m) hup ?_ rfl
    rw [testPack_good ready read good inside listed fresh, busy]
    rfl
  case ran =>
    have named : i.q = q ∧ i.idx = idx := name_of_found ready.1
    obtain ⟨rfl, rfl⟩ := named
    have effect := testPack_good ready read good inside listed fresh m
    rw [idle, left, recordRan_eq] at effect
    obtain ⟨found, mem, tse, tfail⟩ := recordJudged_holds (findItem_begun (s := inBreath s) ready.1) p r m (leAt bs 6 2)
    have slot := mem_slotsWith (begun (inBreath s) i.q i.idx) i p
    generalize recordJudged (begun (inBreath s) i.q i.idx) i p r m (leAt bs 6 2) = u at *
    obtain ⟨j, found', ran, slots, mem', tse', history⟩ := itemMayEnd_keeps found ((packCores u).all
      (fun c => decide (leAt bs 6 2 ≤ ((i.ran ++ [(p, r, m)]).filter (fun x => x.1 = c)).length)))
    refine ⟨_, j, live_up (f := fun s => testPack (inBreath s) i.q i.idx p r m) hup, ?_⟩
    have effect := effect.trans (if_neg Bool.false_ne_true)
    rw [effect]
    refine ⟨found', ran, slots ▸ slot, mem'.trans mem, fun k at_ => (tse' k).trans (tse k at_), fun bad => ?_⟩
    exact (congrArg UnitRec.tfail (getUnit_congr history _)).trans (tfail bad)
  case scrub =>
    have effect := memScrub_ends ready alone scrubbed
    obtain ⟨items, cle, mem, str⟩ := scrubCounted_keeps (begun (inBreath s) q idx) i.ctx n bad
    have found := (findItem_congr items q idx).trans (findItem_begun (s := inBreath s) ready.1)
    have done := ended_endNow found (scrubEnd bad).1 (scrubEnd bad).2
    have side := itemSide_endNow (scrubCounted (begun (inBreath s) q idx) i.ctx n bad) q idx (scrubEnd bad).1 (scrubEnd bad).2
    refine ⟨_, live_up (f := fun s => memScrub (inBreath s) q idx) hup, ?_⟩
    rw [effect]
    generalize scrubCounted (begun (inBreath s) q idx) i.ctx n bad = u at *
    generalize endNow u q idx (scrubEnd bad).1 (scrubEnd bad).2 = t at *
    have str' : t.str = u.str := by rw [side]; rfl
    refine ⟨side.mem.trans mem, str'.trans str, fun none_ => ?_, fun b rest cons => ?_⟩
    · subst none_
      exact ended_keepOuter done
    · subst cons
      exact ended_keepOuter done

end Sys2Proof.Proofs.SelfTests

/-! Detections charge their unit and take what they reached (chapter 16, R346, R350, R351, R358). -/

namespace Sys2Proof.Proofs.Detections

open Sys2Proof Sys2Proof.Machine Sys2Proof.Safety Sys2Proof.Laws Sys2Proof.Proofs.RegisterWrites
  Sys2Proof.Proofs.BellRecord Sys2Proof.Proofs.LinkPort Sys2Proof.Proofs.ItemLaws Sys2Proof.Proofs.QueueWork Sys2Proof.Proofs.Aborts
  Sys2Proof.Proofs.WindowWrites Sys2Proof.Proofs.WindowsOpen Sys2Proof.Proofs.Releases Sys2Proof.Proofs.WriteAnswers
  Sys2Proof.Proofs.Resets Sys2Proof.Proofs.SelfTests

/-! ### The tasks that the end of an item leaves -/

/-- No task of t is new. -/
def FewerTasks (s t : State) : Prop := t.tasks.Sublist s.tasks

theorem FewerTasks.refl (s : State) : FewerTasks s s := List.Sublist.refl _

theorem FewerTasks.trans {s t u : State} (a : FewerTasks s t) (b : FewerTasks t u) : FewerTasks s u := List.Sublist.trans b a

theorem FewerTasks.of_tasks {s t : State} (h : t.tasks = s.tasks) : FewerTasks s t := by
  rw [FewerTasks, h]

theorem FewerTasks.foldl {α : Type} {f : State → α → State} (h : ∀ s a, FewerTasks s (f s a)) (l : List α) (s : State) :
    FewerTasks s (l.foldl f s) := by
  induction l generalizing s with
  | nil => exact .refl s
  | cons a l ih => exact (h s a).trans (ih _)

theorem fewerTasks_dropHalo (s : State) (core w : Nat) : FewerTasks s (dropHalo s core w) :=
  FewerTasks.trans (aborting_closeWindow s core w).tasks (.of_tasks rfl)

theorem fewerTasks_abortItemTasks (s : State) (q : Nat) (idx : W32) : FewerTasks s (abortItemTasks s q idx) :=
  ((FewerTasks.foldl (fun _ _ => (aborting_abortThreads ..).tasks) _ _).trans
    (FewerTasks.foldl (fun _ (p : Nat × Nat) => fewerTasks_dropHalo _ p.1 p.2) _ _)).trans (.of_tasks rfl)

theorem tasks_closeOp (s : State) (q : Nat) (idx : W32) (st : Byte) (d : W64) : (closeOp s q idx st d).tasks = s.tasks := by
  rw [closeOp]
  cases opOf s q idx with
  | none => rfl
  | some o =>
    dsimp only
    split <;> rfl

theorem fewerTasks_endNow (s : State) (q : Nat) (idx : W32) (st d : Nat) : FewerTasks s (endNow s q idx st d) :=
  (fewerTasks_abortItemTasks s q idx).trans (.of_tasks (tasks_closeOp ..))

theorem fewerTasks_commitNow (s : State) (q : Nat) (idx : W32) : FewerTasks s (commitNow s q idx) := by
  rw [commitNow]
  cases findItem s q idx with
  | none => exact .refl s
  | some i => exact .of_tasks (tasks_closeOp ..)

theorem fewerTasks_settleOp (s : State) (q : Nat) (idx : W32) : FewerTasks s (settleOp s q idx) := by
  unfold settleOp
  split
  · exact .refl s
  · dsimp only
    split
    · split
      · exact fewerTasks_endNow ..
      · exact fewerTasks_commitNow ..
    · exact .refl s

theorem tasks_of_portSide {s t : State} (h : PortSide s t) : t.tasks = s.tasks := by rw [h.1.1]

theorem fewerTasks_endItem (s : State) (q : Nat) (idx : W32) (st d : Nat) : FewerTasks s (endItem s q idx st d) := by
  unfold endItem
  split
  · exact fewerTasks_endNow ..
  · dsimp only
    split
    · exact .refl s
    · refine .trans ?_ (fewerTasks_settleOp ..)
      exact (fewerTasks_abortItemTasks s q idx).trans (.of_tasks ((tasks_of_portSide (portSide_toOthers ..)).trans rfl))

theorem fewerTasks_modItem (s : State) (q : Nat) (idx : W32) (f : Item → Item) : FewerTasks s (modItem s q idx f) := .of_tasks rfl

theorem idleKept_modItem (s : State) (q : Nat) (idx : W32) (f : Item → Item) : IdleKept s (modItem s q idx f) := .of_cores rfl

theorem fewerTasks_hwAbort (s : State) (q : Nat) (idx : W32) (u : W16) : FewerTasks s (hwAbort s q idx u) := by
  unfold hwAbort
  dsimp only
  split
  · split
    · exact (fewerTasks_modItem ..).trans (fewerTasks_endItem ..)
    · exact .of_tasks rfl
  · exact .of_tasks rfl

theorem idleKept_hwAbort (s : State) (q : Nat) (idx : W32) (u : W16) : IdleKept s (hwAbort s q idx u) := by
  unfold hwAbort
  dsimp only
  split
  · split
    · exact (idleKept_modItem ..).trans (idleKept_endItem ..)
    · exact .of_cores rfl
  · exact .of_cores rfl

theorem warmKept_hwAbort (s : State) (q : Nat) (idx : W32) (u : W16) : WarmKept s (hwAbort s q idx u) :=
  warmKept_of_itemSide (itemSide_hwAbort ..) (idleKept_hwAbort ..)

/-- The aborts counted against a list of tasks' items (R350). -/
def countAborts (s : State) (ts : List Task) (u : W16) : State := ts.foldl (fun st t => hwAbort st t.q t.idx u) s

theorem countAborts_keeps (s : State) (ts : List Task) (u : W16) :
    WarmKept s (countAborts s ts u) ∧ FewerTasks s (countAborts s ts u) ∧ ItemSide s (countAborts s ts u) :=
  ⟨WarmKept.foldl (fun _ _ => warmKept_hwAbort ..) _ _, FewerTasks.foldl (fun _ _ => fewerTasks_hwAbort ..) _ _,
    ItemSide.foldl (fun _ _ => itemSide_hwAbort ..) _ _⟩

/-! ### The reset of a core -/

/-- No task is left on a core. -/
def NoTaskOn (s : State) (core : Nat) : Prop := ∀ k ∈ s.tasks, k.core ≠ core

theorem NoTaskOn.fewer {s t : State} {core : Nat} (h : NoTaskOn s core) (fewer : FewerTasks s t) : NoTaskOn t core :=
  fun k mem => h k (fewer.subset mem)

theorem fewerTasks_abortCore (s : State) (core : Nat) : FewerTasks s (abortCore s core) := by
  rw [abortCore]
  refine .trans ?_ (FewerTasks.foldl (fun _ _ => (aborting_closeWindow ..).tasks) _ _)
  exact FewerTasks.trans (.of_tasks rfl) (aborting_abortThreads ..).tasks

theorem noTaskOn_abortCore (s : State) (core : Nat) : NoTaskOn (abortCore s core) core := by
  rw [abortCore]
  refine NoTaskOn.fewer ?_ (FewerTasks.foldl (fun _ _ => (aborting_closeWindow ..).tasks) _ _)
  intro k mem here
  obtain ⟨listed, out⟩ := tasks_abortThreads (f := 33) (by decide) _ _ _ k mem
  exact out here (List.mem_map.mpr ⟨k, List.mem_filter.mpr ⟨listed, decide_eq_true here⟩, rfl⟩)

theorem itemSide_abortCore (s : State) (core : Nat) : ItemSide s (abortCore s core) := by
  rw [abortCore]
  exact ((ItemSide.trans (t := markReplayed (hitHalo s core) (itemsOn s core (threadsOf s core))) rfl (itemSide_abortThreads ..)).trans
    (itemSide_closeAllWindows ..))

/-- The cores keep their bindings while one is scrubbed. -/
theorem bound_scrubCore (s : State) (k : Nat) : ∀ x, SameBinding (getCore s x) (getCore (scrubCore s k) x) := by
  have one : ∀ x, SameBinding (getCore s x) (getCore (modCore s k scrubRegs) x) := fun x => by
    by_cases same : x = k
    · subst same
      rw [getCore_modCore_same]
      exact ⟨rfl, rfl, rfl⟩
    · rw [getCore_modCore_other _ _ same]
      exact .refl _
  intro x
  cases at_ : physOf s k with
  | none => rw [scrubCore_none at_]; exact one x
  | some p => rw [scrubCore_some at_]; exact one x

theorem tasks_scrubCore (s : State) (k : Nat) : (scrubCore s k).tasks = s.tasks := by rw [scrubSide_scrubCore s k]
theorem history_scrubCore (s : State) (k : Nat) : (scrubCore s k).history = s.history := by rw [scrubSide_scrubCore s k]

theorem physOf_congr {s t : State} (h : t.clusters = s.clusters) (k : Nat) : physOf t k = physOf s k := by
  rw [physOf, getCluster, h, ← getCluster, ← physOf]

/-- s with a core's work gone and its slots emptied. -/
def coreEmptied (s : State) (core : Nat) : State :=
  modCore (orphanStreams (abortCore s core) (fun k => k = core)) core (fun c => { c with slots := [] })

theorem coreReset_eq (s : State) (core : Nat) (u : W16) : coreReset s core u =
    bellRaise (countAborts (scrubCore (coreEmptied s core) core)
      (s.tasks.filter (fun t => t.core = core && (threadsOf s core).contains t.thread)) u) 0x0041 u 0 0 0 := rfl

theorem coreEmptied_keeps (s : State) (core : Nat) : NoTaskOn (coreEmptied s core) core ∧ (coreEmptied s core).history = s.history ∧
    (coreEmptied s core).clusters = s.clusters ∧ ∀ x, SameBinding (getCore s x) (getCore (coreEmptied s core) x) := by
  have none_ := noTaskOn_abortCore s core
  have side := itemSide_abortCore s core
  have bound := (warmKept_abortCore s core).cores.bound
  rw [coreEmptied]
  generalize abortCore s core = t at *
  refine ⟨none_, by rw [side]; rfl, by rw [side]; rfl, fun x => (bound x).trans ?_⟩
  by_cases same : x = core
  · subst same
    rw [getCore_modCore_same]
    exact ⟨rfl, rfl, rfl⟩
  · rw [getCore_modCore_other _ _ same]
    exact .refl _

/-- What a core reset leaves (Table 16.4). -/
theorem coreReset_holds (s : State) (core : Nat) (u : W16) : NoTaskOn (coreReset s core u) core ∧
    (coreReset s core u).history = s.history ∧ (∀ x, SameBinding (getCore s x) (getCore (coreReset s core u) x)) ∧
    ∀ p, physOf s core = some p → tget {} (coreReset s core u).phys p = {} := by
  obtain ⟨none_, history, clusters, bound⟩ := coreEmptied_keeps s core
  rw [coreReset_eq]
  generalize coreEmptied s core = v at *
  obtain ⟨kept, fewer, side⟩ := countAborts_keeps (scrubCore v core)
    (s.tasks.filter (fun t => t.core = core && (threadsOf s core).contains t.thread)) u
  have scrubTasks := tasks_scrubCore v core
  have scrubHistory := history_scrubCore v core
  have scrubBound := bound_scrubCore v core
  have scrubbed : ∀ p, physOf s core = some p → tget {} (scrubCore v core).phys p = {} := fun p at_ => by
    refine phys_scrubCore ?_
    exact (physOf_congr clusters core).trans at_
  generalize scrubCore v core = w at *
  generalize countAborts w (s.tasks.filter (fun t => t.core = core && (threadsOf s core).contains t.thread)) u = x at *
  have bell := bellSide_bellRaise x 0x0041 u 0 0 0
  generalize bellRaise x 0x0041 u 0 0 0 = y at bell
  refine ⟨?_, ?_, fun n => ?_, fun p at_ => ?_⟩
  · exact ((none_.fewer (.of_tasks scrubTasks)).fewer fewer).fewer (.of_tasks (by rw [bell]))
  · rw [history_of_bellSide bell, kept.history, scrubHistory, history]
  · rw [getCore_congr (kept_of_bellSide bell).2.2]
    exact ((bound n).trans (scrubBound n)).trans (kept.cores.bound n)
  · have phys : y.phys = w.phys := by rw [bell, side]; rfl
    rw [phys]
    exact scrubbed p at_

/-! ### The reset of a cluster -/

/-- A core's part of a cluster reset. -/
def coreScrubbed (s : State) (k : Nat) : State := scrubCore (modCore (abortCore s k) k (fun c => { c with slots := [] })) k

theorem coreScrubbed_keeps (s : State) (k : Nat) : NoTaskOn (coreScrubbed s k) k ∧ FewerTasks s (coreScrubbed s k) ∧
    (coreScrubbed s k).history = s.history := by
  have none_ := noTaskOn_abortCore s k
  have fewer := fewerTasks_abortCore s k
  have history := (warmKept_abortCore s k).history
  rw [coreScrubbed]
  generalize abortCore s k = t at *
  have tasks : (scrubCore (modCore t k (fun c => { c with slots := [] })) k).tasks = t.tasks := tasks_scrubCore ..
  exact ⟨none_.fewer (.of_tasks tasks), fewer.trans (.of_tasks tasks), (history_scrubCore ..).trans history⟩

theorem coresScrubbed_keep (l : List Nat) (s : State) : FewerTasks s (l.foldl coreScrubbed s) ∧
    (l.foldl coreScrubbed s).history = s.history ∧ ∀ k, k ∈ l ∨ NoTaskOn s k → NoTaskOn (l.foldl coreScrubbed s) k := by
  induction l generalizing s with
  | nil => exact ⟨.refl s, rfl, fun k h => h.resolve_left List.not_mem_nil⟩
  | cons c l ih =>
    obtain ⟨none_, fewer, history⟩ := coreScrubbed_keeps s c
    obtain ⟨fewer', history', rest⟩ := ih (coreScrubbed s c)
    refine ⟨fewer.trans fewer', history'.trans history, fun k h => rest k ?_⟩
    rcases h with mem | clear
    · rcases List.mem_cons.mp mem with rfl | mem
      · exact .inr none_
      · exact .inl mem
    · exact .inr (clear.fewer fewer)

/-- The cores of a cluster. -/
def clusterCores (n : Nat) : List Nat := (List.range 8).map (fun c => 8 * n + c)

theorem mem_clusterCores {n k : Nat} (h : k / 8 = n) : k ∈ clusterCores n :=
  List.mem_map.mpr ⟨k % 8, List.mem_range.mpr (Nat.mod_lt _ (by decide)), by omega⟩

/-- s with a cluster's items replayed, its cores emptied and its streams orphaned. -/
def clusterEmptied (s : State) (n : Nat) : State :=
  orphanStreams ((clusterCores n).foldl coreScrubbed ((clusterItems s n).foldl replayItem s)) (fun k => k / 8 = n)

/-- s with a cluster that takes no task. -/
def clusterHeld (s : State) (n : Nat) : State :=
  setCluster s n { getCluster s n with lines := [], resetting := true, resetAt := none }

theorem clusterReset_eq (s : State) (n : Nat) (u : W16) : clusterReset s n u =
    bellRaise (countAborts (clusterHeld (clusterEmptied s n) n) (s.tasks.filter (fun t => t.core / 8 = n)) u) 0x0042 u 0 0 0 := rfl

theorem clusterEmptied_keeps (s : State) (n : Nat) : (clusterEmptied s n).history = s.history ∧
    ∀ k, k / 8 = n → NoTaskOn (clusterEmptied s n) k := by
  have replayed := WarmKept.foldl warmKept_replayItem (clusterItems s n) s
  rw [clusterEmptied]
  generalize (clusterItems s n).foldl replayItem s = t at *
  obtain ⟨-, history, none_⟩ := coresScrubbed_keep (clusterCores n) t
  generalize (clusterCores n).foldl coreScrubbed t = v at *
  exact ⟨history.trans replayed.history, fun k here => none_ k (.inl (mem_clusterCores here))⟩

theorem clusterHeld_keeps (s : State) (n : Nat) : (clusterHeld s n).history = s.history ∧ (clusterHeld s n).tasks = s.tasks ∧
    getCluster (clusterHeld s n) n = { getCluster s n with lines := [], resetting := true, resetAt := none } :=
  ⟨rfl, rfl, tget_tput_same ..⟩

/-- What a cluster reset leaves (Table 16.4). -/
theorem clusterReset_holds (s : State) (n : Nat) (u : W16) : (clusterReset s n u).history = s.history ∧
    (getCluster (clusterReset s n u) n).resetting = true ∧ (getCluster (clusterReset s n u) n).lines = [] ∧
    ∀ k ∈ (clusterReset s n u).tasks, k.core / 8 ≠ n := by
  obtain ⟨history, none_⟩ := clusterEmptied_keeps s n
  rw [clusterReset_eq]
  generalize clusterEmptied s n = v at *
  obtain ⟨history', tasks, cluster⟩ := clusterHeld_keeps v n
  generalize clusterHeld v n = w at *
  obtain ⟨kept, fewer, side⟩ := countAborts_keeps w (s.tasks.filter (fun t => t.core / 8 = n)) u
  generalize countAborts w (s.tasks.filter (fun t => t.core / 8 = n)) u = x at *
  have bell := bellSide_bellRaise x 0x0042 u 0 0 0
  generalize bellRaise x 0x0042 u 0 0 0 = y at bell
  have clusters : y.clusters = w.clusters := by rw [bell, side]; rfl
  have same : getCluster y n = getCluster w n := by rw [getCluster, clusters, getCluster]
  rw [same, cluster]
  refine ⟨?_, rfl, rfl, fun k mem here => ?_⟩
  · rw [history_of_bellSide bell, kept.history, history', history]
  · have listed : k ∈ x.tasks := by rwa [bell] at mem
    exact none_ k.core here k (tasks ▸ fewer.subset listed) rfl

/-! ### What a detection counts (Table 16.9) -/

/-- A unit's record after an uncorrected event. -/
def afterUE (kind : Nat) (b : W32) (r : UnitRec) : UnitRec :=
  let r1 := { r with ue := satAdd r.ue 1 }
  if kind = 4 then r1
  else if r1.st = 0 then r1.become 1 b
  else if r1.st = 1 && decide (3 ≤ r1.ue.toNat) then { (r1.become 2 b) with role := r.role }
  else { r1 with ueSince := true }

theorem afterUE_counts (kind : Nat) (b : W32) (r : UnitRec) : (afterUE kind b r).ue = satAdd r.ue 1 ∧ (afterUE kind b r).ce = r.ce ∧
    (kind ≠ 4 → r.st = 0 → (afterUE kind b r).st = 1) ∧ (kind = 4 → (afterUE kind b r).st = r.st) := by
  unfold afterUE
  dsimp only
  split
  · next lane => exact ⟨rfl, rfl, fun other => absurd lane other, fun _ => rfl⟩
  · next other =>
    split
    · exact ⟨rfl, rfl, fun _ _ => rfl, fun lane => absurd lane other⟩
    · next inUse =>
      split
      · exact ⟨rfl, rfl, fun _ fresh => absurd fresh inUse, fun lane => absurd lane other⟩
      · exact ⟨rfl, rfl, fun _ fresh => absurd fresh inUse, fun lane => absurd lane other⟩

/-- t differs from s in the unit history and the Bell record alone. -/
def ChargeSide (s t : State) : Prop := t = { s with history := t.history, bell := t.bell }

theorem ChargeSide.trans {s t u : State} (a : ChargeSide s t) (b : ChargeSide t u) : ChargeSide s u := by
  unfold ChargeSide at *
  rw [b, a]

theorem chargeSide_bellRaise (s : State) (code : Nat) (u : W16) (ctx : CtxId) (src arg : Nat) :
    ChargeSide s (bellRaise s code u ctx src arg) := by
  unfold bellRaise stageEvent
  split <;> rfl

theorem history_bellRaise (s : State) (code : Nat) (u : W16) (ctx : CtxId) (src arg : Nat) :
    (bellRaise s code u ctx src arg).history = s.history := history_of_bellSide (bellSide_bellRaise ..)

theorem chargeSide_recordUE (s : State) (u : W16) (src row : Nat) : ChargeSide s (recordUE s u src row) :=
  ChargeSide.trans (t := modUnit s u (afterUE (unitKind u) (lowBreath s))) rfl (chargeSide_bellRaise ..)

theorem getUnit_recordUE (s : State) (u : W16) (src row : Nat) :
    getUnit (recordUE s u src row) u = afterUE (unitKind u) (lowBreath s) (getUnit s u) :=
  (getUnit_congr (history_bellRaise ..) u).trans (getUnit_modUnit_same s u (afterUE (unitKind u) (lowBreath s)))

/-- An uncorrected event counts one in its unit and no corrected one. -/
def Charged (s t : State) (u : W16) : Prop := (getUnit t u).ue = satAdd (getUnit s u).ue 1 ∧ (getUnit t u).ce = (getUnit s u).ce

theorem charged_recordUE (s : State) (u : W16) (src row : Nat) : Charged s (recordUE s u src row) u := by
  obtain ⟨ue, ce, -⟩ := afterUE_counts (unitKind u) (lowBreath s) (getUnit s u)
  rw [Charged, getUnit_recordUE]
  exact ⟨ue, ce⟩

theorem Charged.kept {s t v : State} {u : W16} (h : Charged s t u) (history : v.history = t.history) : Charged s v u := by
  rw [Charged, getUnit_congr history]
  exact h

theorem getUnit_modUnit_other (s : State) {u v : W16} (f : UnitRec → UnitRec) (h : v ≠ u) : getUnit (modUnit s u f) v = getUnit s v :=
  tget_tmod_other _ _ _ (fun same => h (BitVec.eq_of_toNat_eq same))

/-- A unit's record after a corrected event. -/
def afterCE (kind : Nat) (b : W32) (r : UnitRec) : UnitRec :=
  let r1 := { r with ce := satAdd r.ce 1, ceWin := satAdd r.ceWin 1 }
  if r1.st = 0 && decide (256 ≤ r1.ceWin.toNat) && kind ≠ 4 then r1.become 1 b else r1

theorem afterCE_counts (kind : Nat) (b : W32) (r : UnitRec) : (afterCE kind b r).ce = satAdd r.ce 1 ∧
    (afterCE kind b r).ceWin = satAdd r.ceWin 1 ∧ (afterCE kind b r).ue = r.ue := by
  unfold afterCE
  dsimp only
  split <;> exact ⟨rfl, rfl, rfl⟩

theorem recordCE_eq (s : State) (u : W16) : recordCE s u = modUnit s u (afterCE (unitKind u) (lowBreath s)) := rfl

/-- A unit's record after a failed test pack. -/
def afterPackFail (b : W32) (r : UnitRec) : UnitRec :=
  let r1 := { r with tfail := satAdd r.tfail 1 }
  if r1.st = 0 then r1.become 1 b else if r1.st = 1 then { (r1.become 2 b) with role := r.role } else r1

theorem afterPackFail_counts (b : W32) (r : UnitRec) : (afterPackFail b r).tfail = satAdd r.tfail 1 ∧
    (r.st = 0 → (afterPackFail b r).st = 1) ∧ (r.st = 1 → (afterPackFail b r).st = 2) := by
  unfold afterPackFail
  dsimp only
  split
  · next fresh => exact ⟨rfl, fun _ => rfl, fun other => absurd (fresh.symm.trans other) (by decide)⟩
  · next used =>
    split
    · exact ⟨rfl, fun fresh => absurd fresh used, fun _ => rfl⟩
    · next other => exact ⟨rfl, fun fresh => absurd fresh used, fun one => absurd one other⟩

theorem recordPack_fail (s : State) (u : W16) : recordPack s u false = modUnit s u (afterPackFail (lowBreath s)) := rfl

/-! ### Where a detection leads -/

theorem logicalOf_congr {s t : State} (h : t.clusters = s.clusters) (p : Nat) : logicalOf t p = logicalOf s p := by
  have same : (fun k => decide (physOf t k = some p)) = fun k => decide (physOf s k = some p) :=
    funext fun k => by rw [physOf_congr h]
  rw [logicalOf, same, logicalOf]

theorem logicalCluster_congr {s t : State} (h : t.clusters = s.clusters) (caps : t.caps = s.caps) (p : Nat) :
    logicalCluster t p = logicalCluster s p := by
  have same : (fun n => decide ((getCluster t n).phys = p)) = fun n => decide ((getCluster s n).phys = p) :=
    funext fun n => by rw [getCluster, h, getCluster]
  have count : clustersEn t = clustersEn s := by rw [clustersEn, cap, caps, clustersEn, cap]
  rw [logicalCluster, same, count, logicalCluster]

theorem physOf_of_logicalOf {s : State} {p k : Nat} (h : logicalOf s p = some k) : physOf s k = some p := by
  simpa using List.find?_some h

section
variable {s : State} {u : W16} {src : FaultSource}

theorem faultDetected_unfit {k : Nat} (kind : sourceKind src = some k) (h : ¬(unitKind u = k ∧ unitValid u = true)) (unc : Bool) :
    faultDetected s src u unc = s := by
  rw [faultDetected, kind]
  refine if_pos ?_
  rw [Bool.or_eq_true, decide_eq_true_eq, Bool.not_eq_true']
  rcases not_and_or.mp h with h | h
  · exact .inl h
  · exact .inr (Bool.eq_false_iff.mpr h)

theorem faultDetected_fit {k : Nat} (kind : sourceKind src = some k) (fits : unitKind u = k) (valid : unitValid u = true) (unc : Bool) :
    faultDetected s src u unc = if unc then uncorrectedFault s src u else if src = .testPack then s else recordCE s u := by
  rw [faultDetected, kind]
  refine if_neg ?_
  rw [fits, valid]
  simp

end

/-- Row 1 (Table 16.2): the task on the thread goes. -/
theorem scratchFault_holds {s : State} {u : W16} {c : Nat} (at_ : logicalOf s (unitIdx u) = some c) (thread : Nat) :
    (scratchFault s u thread).history = (recordUE s u 0 1).history ∧ findTask (scratchFault s u thread) c thread = none := by
  have side := chargeSide_recordUE s u 0 1
  rw [scratchFault]
  generalize recordUE s u 0 1 = v at side ⊢
  have at' : logicalOf v (unitIdx u) = some c := (logicalOf_congr (by rw [side]) _).trans at_
  rw [at']
  dsimp only
  cases found : findTask v c thread with
  | none => exact ⟨rfl, found⟩
  | some k =>
    have gone : findTask (abortTask v c thread) c thread = none := findTask_abortThreads (by decide) v c (List.mem_singleton.mpr rfl)
    have aborted := taskSide_abortTask v c thread
    dsimp only
    generalize abortTask v c thread = w at *
    have kept := warmKept_hwAbort w k.q k.idx u
    have fewer := fewerTasks_hwAbort w k.q k.idx u
    refine ⟨kept.history.trans (by rw [aborted]), ?_⟩
    rw [findTask, List.find?_eq_none] at gone ⊢
    exact fun x mem => gone x (fewer.subset mem)

theorem residueFault_eq {s : State} {u : W16} {c : Nat} (at_ : logicalOf s (unitIdx u) = some c) :
    residueFault s u = coreReset (recordUE s u 0 2) c u := by
  have side := chargeSide_recordUE s u 0 2
  rw [residueFault]
  generalize recordUE s u 0 2 = v at side ⊢
  have at' : logicalOf v (unitIdx u) = some c := (logicalOf_congr (by rw [side]) _).trans at_
  rw [at']

theorem controlFault_cluster {s : State} {u : W16} {n : Nat} (die : unitIdx u ≠ 8) (at_ : logicalCluster s (unitIdx u) = some n) :
    controlFault s u = clusterReset (recordUE s u 0 4) n u := by
  have side := chargeSide_recordUE s u 0 4
  rw [controlFault]
  generalize recordUE s u 0 4 = v at side ⊢
  have at' : logicalCluster v (unitIdx u) = some n := (logicalCluster_congr (by rw [side]) (by rw [side]) _).trans at_
  rw [if_neg die, at']

theorem countAll_keeps (s : State) (u : W16) : WarmKept s (countAll s u) := (countAborts_keeps s s.tasks u).1

/-- A warm reset for a fault of the die master, once the fault is charged. -/
theorem warmFault {s t : State} {u : W16} (charged : Charged s t u) (active : t.reed.active ≠ none) :
    Charged s (warmReset (countAll t u) true) u ∧ (warmReset (countAll t u) true).reed.warm = true ∧ (warmReset (countAll t u) true).tasks = [] := by
  have kept := countAll_keeps t u
  generalize countAll t u = v at kept ⊢
  have reset := warmReset_resets (s := v) (by rw [kept.reed]; exact active) true
  exact ⟨charged.kept (reset.history.trans kept.history), reset.warm, reset.tasks⟩

theorem controlFault_die {s : State} {u : W16} (die : unitIdx u = 8) (active : s.reed.active ≠ none) :
    controlFault s u = warmReset (countAll (recordUE s u 0 4) u) true := by
  have side := chargeSide_recordUE s u 0 4
  rw [controlFault]
  generalize recordUE s u 0 4 = v at side ⊢
  have active' : v.reed.active ≠ none := by rw [side]; exact active
  rw [if_pos die, if_neg (by simpa using active')]

theorem controlUnit_code {u : W16} (kind : unitKind u = 8) : BitVec.ofNat 16 (0x8000 + unitIdx u) = u := by
  rw [unitKind] at kind
  refine BitVec.eq_of_toNat_eq ?_
  rw [BitVec.toNat_ofNat, unitIdx]
  have := u.isLt
  omega

/-- s with a hang charged and logged. -/
def hangLogged (s : State) (u : W16) : State := bellRaise (recordUE s u 0 5) 0x0046 u 0 1 0

theorem chargeSide_hangLogged (s : State) (u : W16) : ChargeSide s (hangLogged s u) :=
  (chargeSide_recordUE ..).trans (chargeSide_bellRaise ..)

theorem charged_hangLogged (s : State) (u : W16) : Charged s (hangLogged s u) u :=
  (charged_recordUE s u 0 5).kept (history_bellRaise ..)

theorem controlHang_eq {s : State} {u : W16} (kind : unitKind u = 8) (valid : unitValid u = true) : controlHang s (unitIdx u) =
    if (hangLogged s u).reed.active.isNone then hangLogged s u else warmReset (countAll (hangLogged s u) u) true := by
  rw [controlHang, controlUnit_code kind]
  dsimp only
  rw [if_neg (by simp [valid])]
  rfl

theorem history_abortSlice (s : State) (u : W16) (count : Bool) : (abortSlice s u count).history = s.history := by
  have aborted := TaskSide.foldl (f := fun st (t : Task) => abortTask st t.core t.thread) (fun _ _ => taskSide_abortTask ..) (tasksOnSlice s u)
    (markReplayed { s with free := s.free + 65536 } (((tasksOnSlice s u).map (fun t => (t.q, t.idx))).eraseDups))
  rw [abortSlice]
  generalize (tasksOnSlice s u).foldl (fun st t => abortTask st t.core t.thread)
    (markReplayed { s with free := s.free + 65536 } (((tasksOnSlice s u).map (fun t => (t.q, t.idx))).eraseDups)) = v at aborted ⊢
  have history : v.history = s.history := by rw [aborted]; rfl
  split
  · exact (countAborts_keeps v (tasksOnSlice s u) u).1.history.trans history
  · exact history

/-! ### An item of the store is lost -/

theorem tracks_any : Tracks (fun _ _ => True) := ⟨fun _ _ => trivial, fun _ _ => trivial⟩

theorem history_dropWaitingOp (s : State) (q : Nat) (idx : W32) : (dropWaitingOp s q idx).history = s.history := by
  rw [dropWaitingOp]
  cases opOf s q idx <;> rfl

/-- s without an item and what it held (R344, R345). -/
def itemGone (s : State) (q : Nat) (idx : W32) : State :=
  let s1 := dropWaitingOp (abortItemTasks s q idx) q idx
  dropItem { s1 with tr := { s1.tr with recs := s1.tr.recs.map (fun r => { r with attached := r.attached.filter (fun p => p ≠ (q, idx)) }) } } q idx

theorem itemLost_eq {s : State} {q : Nat} {idx : W32} {i : Item} (found : findItem s q idx = some i) (sent : i.stage ≠ .recordSent) :
    itemLost s q idx = checkQueue (bellRaise (itemGone s q idx) 0x0045 0 0 0 (q + idx.toNat * 2 ^ 32)) q := by
  rw [itemLost, found]
  exact if_neg sent

theorem itemLost_holds {s : State} {q : Nat} {idx : W32} {i : Item} (found : findItem s q idx = some i) (sent : i.stage ≠ .recordSent) :
    findItem (itemLost s q idx) q idx = none ∧ (itemLost s q idx).history = s.history := by
  rw [itemLost_eq found sent]
  have gone : findItem (itemGone s q idx) q idx = none := findItem_dropItem ..
  have history : (itemGone s q idx).history = s.history := by
    refine (history_dropWaitingOp (abortItemTasks s q idx) q idx).trans ?_
    rw [itemSide_abortItemTasks s q idx]
    rfl
  generalize itemGone s q idx = v at *
  have bell := bellSide_bellRaise v 0x0045 0 0 0 (q + idx.toNat * 2 ^ 32)
  generalize bellRaise v 0x0045 0 0 0 (q + idx.toNat * 2 ^ 32) = w at *
  have gone' : findItem w q idx = none := (findItem_congr (by rw [bell]) q idx).trans gone
  refine ⟨FoundAs.none (FoundAs.checkQueue tracks_any w q (fun _ _ _ => trivial) (fun _ _ _ _ => trivial)) gone', ?_⟩
  rw [checkSide_checkQueue w q]
  exact (history_of_bellSide bell).trans history

theorem charged_keepOuter {s t : State} {u : W16} (h : Charged s t u) : Charged s (keepOuter s t) u := h

/-- Settles O47: each row of Table 16.2 by what it leaves of the die, once `recordUE` has charged its unit. -/
theorem detectionsChargeTheirUnit : Obligations.DetectionsChargeTheirUnit := by
  intro s u hup ue
  have run : ∀ src unc, exec (.unitFaultDetected src u unc) s = .next (keepOuter s (faultDetected s src u unc)) := fun src unc =>
    live_up (f := fun s => faultDetected s src u unc) hup
  have charged := charged_recordUE s u 0
  refine ⟨fun src unc k kind unfit => ?unfit, fun valid src k kind other fits => ?corrected, fun valid kind c at_ => ⟨fun thread => ?scratch,
    ?residue⟩, fun valid kind n at_ lines => ?cache, fun valid kind n die at_ => ?cluster, fun valid kind die active => ?die,
    fun valid kind => ⟨?packGood, ?packBad⟩, fun valid kind none_ => ?hang, fun valid kind active => ?hangWarm, fun valid kind => ?port,
    fun valid kind => ?lane, fun valid kind => ?adapter, fun q idx i found sent => ?store⟩
  case unfit => rw [run, faultDetected_unfit kind unfit]; rfl
  case corrected =>
    obtain ⟨ce, ceWin, ue'⟩ := afterCE_counts (unitKind u) (lowBreath s) (getUnit s u)
    refine ⟨_, run src false, ?_⟩
    rw [faultDetected_fit kind fits valid, if_neg Bool.false_ne_true, if_neg other, recordCE_eq]
    have same := getUnit_modUnit_same s u (afterCE (unitKind u) (lowBreath s))
    refine ⟨rfl, (congrArg UnitRec.ce same).trans ce, (congrArg UnitRec.ceWin same).trans ceWin, (congrArg UnitRec.ue same).trans ue',
      fun v far => getUnit_modUnit_other s _ far⟩
  case scratch =>
    obtain ⟨history, gone⟩ := scratchFault_holds at_ thread
    refine ⟨_, run (.scratchpadEcc thread) true, ?_⟩
    rw [faultDetected_fit (k := 1) rfl kind valid, if_pos rfl, uncorrectedFault]
    have same : getUnit (scratchFault s u thread) u = afterUE (unitKind u) (lowBreath s) (getUnit s u) :=
      (getUnit_congr history u).trans (getUnit_recordUE s u 0 1)
    refine ⟨charged_keepOuter ((charged 1).kept history), gone, fun fresh => ?_⟩
    exact (congrArg UnitRec.st same).trans ((afterUE_counts ..).2.2.1 (by rw [kind]; decide) fresh)
  case residue =>
    obtain ⟨none_, history, bound, phys⟩ := coreReset_holds (recordUE s u 0 2) c u
    have side := chargeSide_recordUE s u 0 2
    refine ⟨_, run .residueOrCrossbar true, ?_⟩
    rw [faultDetected_fit (k := 1) rfl kind valid, if_pos rfl, uncorrectedFault, residueFault_eq at_]
    have before : getCore (recordUE s u 0 2) c = getCore s c := getCore_congr (by rw [side]) c
    have here : physOf (recordUE s u 0 2) c = some (unitIdx u) :=
      physOf_of_logicalOf ((logicalOf_congr (by rw [side]) _).trans at_)
    have own := before ▸ bound c
    exact ⟨charged_keepOuter ((charged 2).kept history), none_, phys _ here, own.bind, own.ctx⟩
  case cache =>
    rw [run, faultDetected_fit (k := 2) rfl kind valid, if_pos rfl, uncorrectedFault, cacheFault, at_]
    dsimp only
    rw [if_neg lines]
    rfl
  case cluster =>
    obtain ⟨history, resetting, lines, none_⟩ := clusterReset_holds (recordUE s u 0 4) n u
    refine ⟨_, run .controlMemEcc true, ?_⟩
    rw [faultDetected_fit (k := 8) rfl kind valid, if_pos rfl, uncorrectedFault, controlFault_cluster die at_]
    exact ⟨charged_keepOuter ((charged 4).kept history), resetting, lines, none_⟩
  case die =>
    have side := chargeSide_recordUE s u 0 4
    obtain ⟨counted, warm, tasks⟩ := warmFault (charged 4) (by rw [side]; exact active)
    refine ⟨_, run .controlMemEcc true, ?_⟩
    rw [faultDetected_fit (k := 8) rfl kind valid, if_pos rfl, uncorrectedFault, controlFault_die die active]
    exact ⟨charged_keepOuter counted, warm, tasks⟩
  case packGood => rw [run, faultDetected_fit (k := 1) rfl kind valid, if_neg Bool.false_ne_true, if_pos rfl]; rfl
  case packBad =>
    obtain ⟨tfail, suspect, retired⟩ := afterPackFail_counts (lowBreath s) (getUnit s u)
    refine ⟨_, run .testPack true, ?_⟩
    rw [faultDetected_fit (k := 1) rfl kind valid, if_pos rfl, uncorrectedFault, recordPack_fail]
    have same := getUnit_modUnit_same s u (afterPackFail (lowBreath s))
    exact ⟨rfl, (congrArg UnitRec.tfail same).trans tfail, fun st => (congrArg UnitRec.st same).trans (suspect st),
      fun st => (congrArg UnitRec.st same).trans (retired st), fun v far => getUnit_modUnit_other s _ far⟩
  case hang =>
    have side := chargeSide_hangLogged s u
    refine ⟨_, live_up (f := fun s => controlHang s (unitIdx u)) hup, ?_⟩
    rw [controlHang_eq kind valid, if_pos (by rw [side]; simp [none_])]
    refine ⟨charged_keepOuter (charged_hangLogged s u), ?_⟩
    rw [side]
    rfl
  case hangWarm =>
    have side := chargeSide_hangLogged s u
    have active' : (hangLogged s u).reed.active ≠ none := by rw [side]; exact active
    obtain ⟨counted, warm, tasks⟩ := warmFault (charged_hangLogged s u) active'
    refine ⟨_, live_up (f := fun s => controlHang s (unitIdx u)) hup, ?_⟩
    rw [controlHang_eq kind valid, if_neg (by simpa using active')]
    exact ⟨charged_keepOuter counted, warm, tasks⟩
  case port =>
    refine ⟨_, run .portParity true, ?_⟩
    rw [faultDetected_fit (k := 3) rfl kind valid, if_pos rfl, uncorrectedFault]
    exact charged_keepOuter ((charged 6).kept (history_abortSlice ..))
  case lane =>
    have side := chargeSide_recordUE s u 0 7
    refine ⟨_, run .linkLane true, ?_⟩
    rw [faultDetected_fit (k := 4) rfl kind valid, if_pos rfl, uncorrectedFault]
    refine ⟨charged_keepOuter (charged 7), ?_, ?_⟩
    · exact (congrArg UnitRec.st (getUnit_recordUE s u 0 7)).trans ((afterUE_counts ..).2.2.2 kind)
    · rw [side]
      rfl
  case adapter =>
    have side := chargeSide_recordUE s u 0 8
    refine ⟨_, run .bridgeAdapter true, ?_⟩
    rw [faultDetected_fit (k := 6) rfl kind valid, if_pos rfl, uncorrectedFault]
    have counted := charged 8
    generalize recordUE s u 0 8 = v at *
    have casc : getBridge v (unitIdx u) = getBridge s (unitIdx u) := by rw [side]; rfl
    have port : getBridge (adapterFault v u) (unitIdx u) = { getBridge v (unitIdx u) with
      retries := satAdd (getBridge v (unitIdx u)).retries 1 } :=
      tget_tmod_same ({} : Bridge) v.casc.ports (unitIdx u) (fun b => { b with retries := satAdd b.retries 1 })
    refine ⟨charged_keepOuter (counted.kept rfl), (congrArg Bridge.retries port).trans (by rw [casc]), ?_⟩
    show v.link = s.link
    rw [side]
  case store =>
    obtain ⟨gone, history⟩ := itemLost_holds found sent
    refine ⟨_, run (.itemStore q idx) true, ?_⟩
    rw [show faultDetected s (.itemStore q idx) u true = itemLost s q idx from rfl]
    exact ⟨gone, history⟩

end Sys2Proof.Proofs.Detections

/-! The operations of the Collective Engine: how one is found, replaced, settled and ended (chapter 13, R286). -/

namespace Sys2Proof.Proofs.Operations

open Sys2Proof Sys2Proof.Machine Sys2Proof.Safety Sys2Proof.Laws Sys2Proof.Proofs.LinkPort Sys2Proof.Proofs.ItemLaws
  Sys2Proof.Proofs.ItemLists Sys2Proof.Proofs.Aborts

/-! ### An operation in its place -/

/-- The operation of an item. -/
def opNamed (q : Nat) (idx : W32) (o : CleOp) : Bool := o.q = q && o.idx = idx

theorem opNamed_iff {q : Nat} {idx : W32} {o : CleOp} : opNamed q idx o = true ↔ o.q = q ∧ o.idx = idx := by
  simp only [opNamed, Bool.and_eq_true, decide_eq_true_eq]

/-- o in the place of the operation of its item. -/
def replaceOp (o x : CleOp) : CleOp := if opNamed o.q o.idx x then o else x

theorem ops_setOp (s : State) (o : CleOp) : (setOp s o).cle.ops = s.cle.ops.map (replaceOp o) := rfl

theorem opNamed_replaceOp (o x : CleOp) : opNamed o.q o.idx (replaceOp o x) = opNamed o.q o.idx x := by
  unfold replaceOp
  split
  · next named => rw [named]; exact opNamed_iff.mpr ⟨rfl, rfl⟩
  · rfl

/-- An operation that takes the place of one is found there. -/
theorem opOf_setOp {s : State} {o o' : CleOp} (listed : o ∈ s.cle.ops) (named : o'.q = o.q ∧ o'.idx = o.idx) :
    opOf (setOp s o') o.q o.idx = some o' := by
  obtain ⟨q, idx⟩ := named
  rw [← q, ← idx]
  show (s.cle.ops.map (replaceOp o')).find? (opNamed o'.q o'.idx) = some o'
  rw [List.find?_map, show opNamed o'.q o'.idx ∘ replaceOp o' = opNamed o'.q o'.idx from funext (opNamed_replaceOp o')]
  have found : (s.cle.ops.find? (opNamed o'.q o'.idx)).isSome = true :=
    List.find?_isSome.mpr ⟨o, listed, opNamed_iff.mpr ⟨q.symm, idx.symm⟩⟩
  obtain ⟨x, hx⟩ := Option.isSome_iff_exists.mp found
  rw [hx, Option.map_some, replaceOp, List.find?_some hx]
  rfl

theorem mem_ops_setOp {s : State} {o o' : CleOp} (listed : o ∈ s.cle.ops) (named : o'.q = o.q ∧ o'.idx = o.idx) :
    o' ∈ (setOp s o').cle.ops := List.mem_of_find?_eq_some (opOf_setOp listed named)

theorem setOp_setOp {s : State} {a b : CleOp} (named : b.q = a.q ∧ b.idx = a.idx) : setOp (setOp s a) b = setOp s b := by
  obtain ⟨q, idx⟩ := named
  have twice : replaceOp b ∘ replaceOp a = replaceOp b := by
    refine funext fun x => ?_
    simp only [Function.comp, replaceOp, q, idx]
    by_cases h : opNamed a.q a.idx x = true
    · rw [if_pos h, if_pos (opNamed_iff.mpr ⟨rfl, rfl⟩), if_pos h]
    · rw [if_neg h, if_neg h]
  have ops : (setOp (setOp s a) b).cle.ops = (setOp s b).cle.ops := by
    rw [ops_setOp, ops_setOp, List.map_map, twice, ops_setOp]
  have all : setOp (setOp s a) b = { setOp s b with cle := { (setOp s b).cle with ops := (setOp (setOp s a) b).cle.ops } } := rfl
  rw [all, ops]

theorem listed_of_opOf {s : State} {q : Nat} {idx : W32} {o : CleOp} (h : opOf s q idx = some o) : o ∈ s.cle.ops :=
  List.mem_of_find?_eq_some h

theorem listed_of_opByTag {s : State} {g : UnitTag} {o : CleOp} (h : opByTag s g = some o) : o ∈ s.cle.ops :=
  List.mem_of_find?_eq_some h

theorem opOf_of_ops {s t : State} (h : t.cle.ops = s.cle.ops) (q : Nat) (idx : W32) : opOf t q idx = opOf s q idx := by
  rw [opOf, h, opOf]

theorem opOf_of_portSide {s t : State} (h : PortSide s t) (q : Nat) (idx : W32) : opOf t q idx = opOf s q idx :=
  opOf_of_ops (by rw [h.1.1]) q idx

theorem getGroup_of_portSide {s t : State} (h : PortSide s t) (g : Nat) : getGroup t g = getGroup s g := by
  have groups : t.cle.groups = s.cle.groups := by rw [h.1.1]
  rw [getGroup, groups, getGroup]

theorem mem_of_portSide {s t : State} (h : PortSide s t) : t.mem = s.mem := by rw [h.1.1]

/-! ### The judgment of an operation (R286) -/

theorem leastFail_eq_none {l : List (Nat × Byte × W64)} : leastFail l = none ↔ l = [] := by
  cases l with
  | nil => simp [leastFail]
  | cons f t =>
    simp only [leastFail, List.cons_ne_nil, iff_false]
    split
    · split <;> exact Option.some_ne_none _
    · exact Option.some_ne_none _

/-- Every member has reported. -/
def allReported (s : State) (o : CleOp) : Prop :=
  ∀ r, r < groupSize s o.group → r ∈ o.doneFrom ∨ ∃ f ∈ o.failFrom, f.1 = r

theorem allReported_iff (s : State) (o : CleOp) : ((List.range (groupSize s o.group)).all
    (fun r => o.doneFrom.contains r || o.failFrom.any (fun f => f.1 = r))) = true ↔ allReported s o := by
  simp [allReported, List.all_eq_true]

section
variable {s : State} {q : Nat} {idx : W32} {o : CleOp} (opened : opOf s q idx = some o)
include opened

theorem settleOp_waits (h : ¬ allReported s o) : settleOp s q idx = s := by
  rw [settleOp, opened]
  exact if_neg (mt (allReported_iff s o).mp h)

theorem settleOp_commits (h : allReported s o) (fine : o.failFrom = []) : settleOp s q idx = commitNow s q idx := by
  rw [settleOp, opened]
  dsimp only
  rw [if_pos ((allReported_iff s o).mpr h), leastFail_eq_none.mpr fine]

theorem settleOp_fails (h : allReported s o) {f : Nat × Byte × W64} (least : leastFail o.failFrom = some f) :
    settleOp s q idx = endNow s q idx f.2.1.toNat f.2.2.toNat := by
  rw [settleOp, opened]
  dsimp only
  rw [if_pos ((allReported_iff s o).mpr h), least]

end

/-- s with a failure of this member reported. -/
def failReported (s : State) (q : Nat) (idx : W32) (o : CleOp) (st d : Nat) : State :=
  let rank := (getGroup s o.group).rank.toNat
  modItem (toOthers (send (setOp (abortItemTasks s q idx) { o with failFrom := o.failFrom ++ [(rank, BitVec.ofNat 8 st, BitVec.ofNat 64 d)] })
    (.fail (o.tag rank) (BitVec.ofNat 8 st) (BitVec.ofNat 64 d))) o (o.tag rank) (toLE 1 st ++ toLE 8 d)) q idx
    (fun i => { i with holdKeys := [], retryFull := false, ready := none })

theorem endItem_failed {s : State} {q : Nat} {idx : W32} {o : CleOp} (opened : opOf s q idx = some o) (failed : failedHere s o = true)
    (st d : Nat) : endItem s q idx st d = s := by
  rw [endItem, opened]
  exact if_pos failed

theorem endItem_reports {s : State} {q : Nat} {idx : W32} {o : CleOp} (opened : opOf s q idx = some o) (fresh : failedHere s o = false)
    (st d : Nat) : endItem s q idx st d = settleOp (failReported s q idx o st d) q idx := by
  rw [endItem, opened]
  exact if_neg (Bool.eq_false_iff.mp fresh)

theorem opOf_failReported {s : State} {q : Nat} {idx : W32} {o : CleOp} (opened : opOf s q idx = some o) (st d : Nat) :
    opOf (failReported s q idx o st d) q idx =
      some { o with failFrom := o.failFrom ++ [((getGroup s o.group).rank.toNat, BitVec.ofNat 8 st, BitVec.ofNat 64 d)] } := by
  obtain ⟨rfl, rfl⟩ := name_of_opOf opened
  have cle : (abortItemTasks s o.q o.idx).cle = s.cle := (taskSide_abortItemTasks s o.q o.idx).cle
  have listed : o ∈ (abortItemTasks s o.q o.idx).cle.ops := cle ▸ listed_of_opOf opened
  rw [failReported]
  generalize abortItemTasks s o.q o.idx = u at listed
  refine (opOf_of_portSide (portSide_toOthers ..) o.q o.idx).trans ?_
  exact opOf_setOp listed ⟨rfl, rfl⟩

theorem findItem_of_sameItems {s t : State} (h : SameItems s t) {q : Nat} {idx : W32} {i : Item} (found : findItem s q idx = some i) :
    ∃ g, findItem t q idx = some (i.rid g) := by
  obtain ⟨g, same⟩ := h.find q idx
  exact ⟨g i, by rw [same, found]; rfl⟩

theorem findItem_failReported {s : State} {q : Nat} {idx : W32} {i : Item} (found : findItem s q idx = some i) (o : CleOp) (st d : Nat) :
    ∃ j, findItem (failReported s q idx o st d) q idx = some j ∧ j.stage = i.stage := by
  obtain ⟨g, aborted⟩ := findItem_of_sameItems (sameItems_abortItemTasks s q idx) found
  rw [failReported]
  generalize abortItemTasks s q idx = u at aborted
  rw [findItem_modItem _ q idx (f := fun i => { i with holdKeys := [], retryFull := false, ready := none }) (h := fun _ h => h),
    findItem_congr (items_toOthers ..) q idx]
  exact ⟨_, (congrArg (Option.map _) aborted), rfl⟩

/-- An executing item that ends has ended, or executes on until its peers have reported. -/
theorem stage_endItem {s : State} {q : Nat} {idx : W32} {i : Item} (found : findItem s q idx = some i) (runs : i.stage = .executing)
    (st d : Nat) : ∃ j, findItem (endItem s q idx st d) q idx = some j ∧ (j.stage = .executing ∨ j.stage = .ended) := by
  cases opened : opOf s q idx with
  | none =>
    rw [endItem_alone opened]
    obtain ⟨j, found', stage, -⟩ := ended_endNow found st d
    exact ⟨j, found', .inr stage⟩
  | some o =>
    cases failed : failedHere s o with
    | true => rw [endItem_failed opened failed]; exact ⟨i, found, .inl runs⟩
    | false =>
      rw [endItem_reports opened failed]
      have opened' := opOf_failReported opened st d
      obtain ⟨j, found', stage⟩ := findItem_failReported found o st d
      generalize failReported s q idx o st d = u at *
      by_cases all : allReported u { o with failFrom := o.failFrom ++ [((getGroup s o.group).rank.toNat, BitVec.ofNat 8 st, BitVec.ofNat 64 d)] }
      · have some_ : leastFail (o.failFrom ++ [((getGroup s o.group).rank.toNat, BitVec.ofNat 8 st, BitVec.ofNat 64 d)]) ≠ none :=
          mt leastFail_eq_none.mp (List.append_ne_nil_of_right_ne_nil _ (List.cons_ne_nil _ _))
        obtain ⟨f, least⟩ := Option.ne_none_iff_exists'.mp some_
        rw [settleOp_fails opened' all least]
        obtain ⟨k, found'', stage', -⟩ := ended_endNow found' f.2.1.toNat f.2.2.toNat
        exact ⟨k, found'', .inr stage'⟩
      · rw [settleOp_waits opened' all]
        exact ⟨j, found', .inl (stage.trans runs)⟩

/-! ### What the end of an item leaves of the Collective Engine -/

/-- The counts of failed chunks and of failed streams (Table 13.8). -/
structure FailCounts (s t : State) : Prop where
  chunkFail : t.cle.chunkFail = s.cle.chunkFail
  digestFail : t.cle.digestFail = s.cle.digestFail

theorem FailCounts.refl (s : State) : FailCounts s s := ⟨rfl, rfl⟩

theorem FailCounts.trans {s t u : State} (a : FailCounts s t) (b : FailCounts t u) : FailCounts s u :=
  ⟨b.chunkFail.trans a.chunkFail, b.digestFail.trans a.digestFail⟩

theorem failCounts_of_cle {s t : State} (h : t.cle = s.cle) : FailCounts s t := ⟨by rw [h], by rw [h]⟩

theorem failCounts_of_portSide {s t : State} (h : PortSide s t) : FailCounts s t := ⟨by rw [h.1.1], by rw [h.1.1]⟩

theorem failCounts_modItem (s : State) (q : Nat) (idx : W32) (f : Item → Item) : FailCounts s (modItem s q idx f) := ⟨rfl, rfl⟩
theorem failCounts_setOp (s : State) (o : CleOp) : FailCounts s (setOp s o) := ⟨rfl, rfl⟩
theorem failCounts_send (s : State) (x : Sent) : FailCounts s (send s x) := ⟨rfl, rfl⟩

theorem failCounts_closeOp (s : State) (q : Nat) (idx : W32) (st : Byte) (d : W64) : FailCounts s (closeOp s q idx st d) := by
  rw [closeOp]
  cases opOf s q idx with
  | none => exact .refl s
  | some o =>
    dsimp only
    split <;> exact ⟨rfl, rfl⟩

theorem failCounts_endNow (s : State) (q : Nat) (idx : W32) (st d : Nat) : FailCounts s (endNow s q idx st d) :=
  ((failCounts_of_cle (taskSide_abortItemTasks s q idx).cle).trans
    (failCounts_closeOp _ q idx (BitVec.ofNat 8 st) (BitVec.ofNat 64 d))).trans ⟨rfl, rfl⟩

theorem failCounts_commitNow (s : State) (q : Nat) (idx : W32) : FailCounts s (commitNow s q idx) := by
  rw [commitNow]
  cases findItem s q idx with
  | none => exact .refl s
  | some i => exact (failCounts_closeOp ..).trans ⟨rfl, rfl⟩

theorem failCounts_settleOp (s : State) (q : Nat) (idx : W32) : FailCounts s (settleOp s q idx) := by
  unfold settleOp
  split
  · exact .refl s
  · dsimp only
    split
    · split
      · exact failCounts_endNow ..
      · exact failCounts_commitNow ..
    · exact .refl s

theorem failCounts_endItem (s : State) (q : Nat) (idx : W32) (st d : Nat) : FailCounts s (endItem s q idx st d) := by
  cases opened : opOf s q idx with
  | none => rw [endItem_alone opened]; exact failCounts_endNow ..
  | some o =>
    cases failed : failedHere s o with
    | true => rw [endItem_failed opened failed]; exact .refl s
    | false =>
      rw [endItem_reports opened failed]
      refine .trans ?_ (failCounts_settleOp ..)
      have aborted := failCounts_of_cle (taskSide_abortItemTasks s q idx).cle
      rw [failReported]
      generalize abortItemTasks s q idx = u at aborted
      refine .trans (.trans aborted ?_) (failCounts_modItem ..)
      exact FailCounts.trans (failCounts_setOp u _) (.trans (failCounts_send _ _) (failCounts_of_portSide (portSide_toOthers ..)))

/-- A closed operation is gone. -/
theorem opOf_closeOp (s : State) (q : Nat) (idx : W32) (st : Byte) (d : W64) : opOf (closeOp s q idx st d) q idx = none := by
  cases opened : opOf s q idx with
  | none => rw [closeOp_alone opened]; exact opened
  | some o =>
    have gone : (s.cle.ops.filter (fun x => !(x.q = q && x.idx = idx))).find? (opNamed q idx) = none := by
      rw [List.find?_eq_none]
      intro x mem named
      obtain ⟨-, out⟩ := List.mem_filter.mp mem
      have named : (decide (x.q = q) && decide (x.idx = idx)) = true := named
      rw [named] at out
      cases out
    rw [closeOp, opened]
    dsimp only
    split <;> exact gone

theorem opOf_endNow (s : State) (q : Nat) (idx : W32) (st d : Nat) : opOf (endNow s q idx st d) q idx = none :=
  opOf_closeOp (abortItemTasks s q idx) q idx (BitVec.ofNat 8 st) (BitVec.ofNat 64 d)

theorem settleOp_none {s : State} {q : Nat} {idx : W32} (h : opOf s q idx = none) : settleOp s q idx = s := by
  rw [settleOp, h]

theorem committed_commitNow {s : State} {q : Nat} {idx : W32} {i : Item} (found : findItem s q idx = some i) :
    committed (commitNow s q idx) q idx i.status i.detail := by
  obtain ⟨g, closed⟩ := findItem_of_sameItems (sameItems_closeOp s q idx i.status i.detail) found
  rw [commitNow, found]
  dsimp only
  refine ⟨_, (findItem_modItem _ q idx (f := fun x => { x with stage := .committed, breath := lowBreath s }) (h := fun _ h => h)).trans
    (congrArg (Option.map _) closed), rfl, rfl, rfl⟩

/-! ### What is sent -/

theorem sends_of_portSide {s t : State} {x : Sent} (h : PortSide (send s x) t) : ∃ more, t.sent = s.sent ++ x :: more := by
  obtain ⟨-, words, sent⟩ := h
  exact ⟨words, by rw [sent]; exact List.append_assoc ..⟩

theorem sent_closeOp (s : State) (q : Nat) (idx : W32) (st : Byte) (d : W64) : (closeOp s q idx st d).sent = s.sent := by
  rw [closeOp]
  cases opOf s q idx with
  | none => rfl
  | some o =>
    dsimp only
    split <;> rfl

theorem sent_abortItemTasks (s : State) (q : Nat) (idx : W32) : (abortItemTasks s q idx).sent = s.sent := by
  rw [taskSide_abortItemTasks s q idx]

theorem sent_endNow (s : State) (q : Nat) (idx : W32) (st d : Nat) : (endNow s q idx st d).sent = s.sent :=
  (sent_closeOp (abortItemTasks s q idx) q idx (BitVec.ofNat 8 st) (BitVec.ofNat 64 d)).trans (sent_abortItemTasks ..)

theorem sent_commitNow (s : State) (q : Nat) (idx : W32) : (commitNow s q idx).sent = s.sent := by
  rw [commitNow]
  cases findItem s q idx with
  | none => rfl
  | some i => exact sent_closeOp ..

theorem sent_settleOp (s : State) (q : Nat) (idx : W32) : (settleOp s q idx).sent = s.sent := by
  unfold settleOp
  split
  · rfl
  · dsimp only
    split
    · split
      · exact sent_endNow ..
      · exact sent_commitNow ..
    · rfl

/-! ### A failed operation -/

section
variable {s : State} {q : Nat} {idx : W32} {o : CleOp} {i : Item}

/-- The one failure reported is the outcome. -/
theorem settleOp_oneFailure (opened : opOf s q idx = some o) (all : allReported s o) {r : Nat} {st : Byte} {d : W64}
    (failure : o.failFrom = [(r, st, d)]) : settleOp s q idx = endNow s q idx st.toNat d.toNat :=
  settleOp_fails opened all (f := (r, st, d)) (by rw [failure]; rfl)

theorem ended_settleOp (opened : opOf s q idx = some o) (all : allReported s o) {r : Nat} {st : Byte} {d : W64}
    (failure : o.failFrom = [(r, st, d)]) (found : findItem s q idx = some i) : ended (settleOp s q idx) q idx st d := by
  rw [settleOp_oneFailure opened all failure]
  have done := ended_endNow found st.toNat d.toNat
  rwa [BitVec.ofNat_toNat, BitVec.ofNat_toNat, BitVec.setWidth_eq, BitVec.setWidth_eq] at done

end

/-- s with what a member computed for an item dropped, its peers having failed (R297). -/
def workDropped (s : State) (q : Nat) (idx : W32) : State :=
  modItem (abortItemTasks s q idx) q idx (fun i => { i with holdKeys := [], retryFull := false, ready := none })

theorem yieldFail_eq {s : State} {q : Nat} {idx : W32} {o : CleOp} (opened : opOf s q idx = some o) : yieldFail s q idx =
    if !o.begun || o.failFrom.isEmpty || o.sentDone || failedHere s o || o.rejoining || o.heldFor.isSome then s
    else if outputsLeft (workDropped s q idx) q idx = 0 then sendDone (workDropped s q idx) o else workDropped s q idx := by
  rw [yieldFail, opened]
  rfl

theorem workDropped_keeps (s : State) (q : Nat) (idx : W32) : (workDropped s q idx).cle = s.cle ∧ (workDropped s q idx).sent = s.sent ∧
    (workDropped s q idx).mem = s.mem := by
  have side := taskSide_abortItemTasks s q idx
  rw [workDropped]
  generalize abortItemTasks s q idx = u at side ⊢
  exact ⟨side.cle, by rw [show (modItem u q idx (fun i => { i with holdKeys := [], retryFull := false, ready := none })).sent = u.sent from rfl, side],
    side.mem⟩

theorem findItem_workDropped {s : State} {q : Nat} {idx : W32} {i : Item} (found : findItem s q idx = some i) :
    ∃ j, findItem (workDropped s q idx) q idx = some j := by
  obtain ⟨g, aborted⟩ := findItem_of_sameItems (sameItems_abortItemTasks s q idx) found
  rw [workDropped, findItem_modItem _ q idx (f := fun i => { i with holdKeys := [], retryFull := false, ready := none }) (h := fun _ h => h),
    aborted]
  exact ⟨_, rfl⟩

theorem groupSize_congr {s t : State} (h : t.cle = s.cle) (g : Nat) : groupSize t g = groupSize s g := by
  rw [groupSize, getGroup, h, ← getGroup, ← groupSize]

/-- This member's DONE, and the operation with it. -/
def withDone (s : State) (o : CleOp) : CleOp :=
  { o with sentDone := true, doneFrom := o.doneFrom ++ [(getGroup s o.group).rank.toNat] }

/-- s with DONE sent to every other member. -/
def doneSent (s : State) (o : CleOp) : State :=
  toOthers (send (setOp s (withDone s o)) (.done (o.tag (getGroup s o.group).rank.toNat))) o (o.tag (getGroup s o.group).rank.toNat) []

theorem sendDone_eq (s : State) (o : CleOp) : sendDone s o = settleOp (doneSent s o) o.q o.idx := rfl

theorem portSide_doneSent (s : State) (o : CleOp) :
    PortSide (send (setOp s (withDone s o)) (.done (o.tag (getGroup s o.group).rank.toNat))) (doneSent s o) := portSide_toOthers ..

theorem opOf_doneSent {s : State} {o : CleOp} (listed : o ∈ s.cle.ops) : opOf (doneSent s o) o.q o.idx = some (withDone s o) :=
  (opOf_of_portSide (portSide_doneSent s o) o.q o.idx).trans (opOf_setOp listed ⟨rfl, rfl⟩)

theorem sent_sendDone (s : State) (o : CleOp) : ∃ more, (sendDone s o).sent =
    s.sent ++ .done (o.tag (getGroup s o.group).rank.toNat) :: more := by
  obtain ⟨more, sent⟩ := sends_of_portSide (portSide_doneSent s o)
  exact ⟨more, by rw [sendDone_eq, sent_settleOp, sent]; rfl⟩

/-- Once every other member has reported, and one of them a failure, the item ends with it. -/
theorem ended_yieldFail {s : State} {q : Nat} {idx : W32} {o : CleOp} {i : Item} (opened : opOf s q idx = some o) (all : allReported s o)
    {r : Nat} {st : Byte} {d : W64} (failure : o.failFrom = [(r, st, d)]) (found : findItem s q idx = some i) :
    ended (settleOp (yieldFail s q idx) q idx) q idx st d := by
  rw [yieldFail_eq opened]
  split
  · exact ended_settleOp opened all failure found
  · obtain ⟨cle, -, -⟩ := workDropped_keeps s q idx
    obtain ⟨j, found'⟩ := findItem_workDropped found
    generalize workDropped s q idx = u at *
    have opened' : opOf u q idx = some o := (opOf_congr cle q idx).trans opened
    have all' : allReported u o := fun r small => all r (groupSize_congr cle o.group ▸ small)
    split
    · obtain ⟨rfl, rfl⟩ := name_of_opOf opened'
      have port := portSide_doneSent u o
      have last := opOf_doneSent (listed_of_opOf opened')
      have size : groupSize (doneSent u o) o.group = groupSize u o.group := by
        rw [groupSize, getGroup_of_portSide port, groupSize]
        rfl
      have all'' : allReported (doneSent u o) (withDone u o) := fun r small =>
        (all' r (size ▸ small)).imp_left (List.mem_append_left _)
      have found'' : findItem (doneSent u o) o.q o.idx = some j := (findItem_congr port.items o.q o.idx).trans found'
      rw [sendDone_eq]
      have done := ended_settleOp last all'' failure found''
      rw [settleOp_oneFailure last all'' failure] at done ⊢
      rwa [settleOp_none (opOf_endNow ..)]
    · exact ended_settleOp opened' all' failure found'

end Sys2Proof.Proofs.Operations

/-! Losses and returns of dies and links, exchange timeouts, cluster resets that end, and the history's copies (chapters 13 and 16). -/

namespace Sys2Proof.Proofs.Losses

open Sys2Proof Sys2Proof.Machine Sys2Proof.Safety Sys2Proof.Laws Sys2Proof.Proofs.RegisterWrites Sys2Proof.Proofs.OuterState
  Sys2Proof.Proofs.BellRecord Sys2Proof.Proofs.ItemLaws Sys2Proof.Proofs.Aborts Sys2Proof.Proofs.Muting Sys2Proof.Proofs.SelfTests
  Sys2Proof.Proofs.Detections Sys2Proof.Proofs.Operations

/-! ### Capacity events (R355) -/

/-- The capacity event that tells of a unit. -/
def capacityOf (s : State) (u : W16) (kind : Nat) : CapEv :=
  { count := s.capev.count + 1, epoch := capEpoch s, unit := u, kind := BitVec.ofNat 8 kind, pending := true }

theorem capacityEvent_holds (s : State) (u : W16) (kind : Nat) :
    capacityEvent s u kind = { s with capev := capacityOf s u kind, bell := (capacityEvent s u kind).bell, irq := (capacityEvent s u kind).irq } ∧
    (capacityEvent s u kind).irq.gstat.getLsbD 2 = true := by
  have side := chargeSide_bellRaise { s with capev := capacityOf s u kind } 0x0043 u 0 1
    (capevWord { s with capev := capacityOf s u kind })
  have history := history_bellRaise { s with capev := capacityOf s u kind } 0x0043 u 0 1
    (capevWord { s with capev := capacityOf s u kind })
  rw [capacityEvent]
  refine ⟨?_, pendG_getLsbD _ (by decide)⟩
  rw [show ({ count := s.capev.count + 1, epoch := capEpoch s, unit := u, kind := BitVec.ofNat 8 kind, pending := true } : CapEv) =
    capacityOf s u kind from rfl]
  generalize bellRaise { s with capev := capacityOf s u kind } 0x0043 u 0 1 (capevWord { s with capev := capacityOf s u kind }) = t at *
  rw [side, history]
  rfl

/-! ### The loss of a die (R356) -/

/-- The entry into free-run keeps the interrupts that are pending. -/
theorem enterFreeRun_holds (s : State) (late : Nat) : (enterFreeRun s late).breath.freeRun = true ∧
    enterFreeRun s late = { s with breath := (enterFreeRun s late).breath, bell := (enterFreeRun s late).bell, irq := (enterFreeRun s late).irq } ∧
    (s.irq.gstat.getLsbD 2 = true → (enterFreeRun s late).irq.gstat.getLsbD 2 = true) := by
  rw [enterFreeRun]
  have side := bellSide_bellRaise { s with breath := { s.breath with freeRun := true, miss := true, missedCnt := satAdd s.breath.missedCnt 1 } }
    0x0010 0 0 0 ((s.breath.period.toNat * 1000000 + late) * s.breath.refPerUs.toNat / 1000000)
  have charge := chargeSide_bellRaise { s with breath := { s.breath with freeRun := true, miss := true, missedCnt := satAdd s.breath.missedCnt 1 } }
    0x0010 0 0 0 ((s.breath.period.toNat * 1000000 + late) * s.breath.refPerUs.toNat / 1000000)
  dsimp only
  generalize bellRaise { s with breath := { s.breath with freeRun := true, miss := true, missedCnt := satAdd s.breath.missedCnt 1 } }
    0x0010 0 0 0 ((s.breath.period.toNat * 1000000 + late) * s.breath.refPerUs.toNat / 1000000) = t at *
  have history : t.history = s.history := by rw [side]
  refine ⟨?_, ?_, fun pending => ?_⟩
  · rw [pendG, side]
  · rw [charge, history]
    rfl
  · have irq : t.irq = s.irq := by rw [charge]
    rw [pendG, irq, BitVec.getLsbD_or, pending, Bool.true_or]

/-- s with a die on the list of the lost. -/
def lossNoted (s : State) (die : Nat) : State :=
  capacityEvent { s with casc := { s.casc with lost := insUp s.casc.lost die } } (BitVec.ofNat 16 (0x7000 + die)) 1

section
variable {s : State} {die n : Nat} (bridged : isK5 s = false) (small : die < 4) (peer : die ≠ s.cascId.toNat)
  (reached : s.casc.lost.contains die = false) (away : s.casc.unreachable.find? (fun x => x.1 = die) = some (die, n))
include away

theorem dieLost_soon (short : n < 4) : dieLost s die = s := by
  rw [dieLost, away]
  refine if_pos ?_
  simp [short]

include bridged small peer reached

theorem dieLost_due (long : 4 ≤ n) : dieLost s die =
    if die = 0 && !(lossNoted s die).breath.freeRun then enterFreeRun (lossNoted s die) (lossNoted s die).breath.late else lossNoted s die := by
  rw [dieLost, away]
  have h1 : decide (4 ≤ die) = false := decide_eq_false (by omega)
  have h2 : decide (n < 4) = false := decide_eq_false (by omega)
  have h3 : decide (die = s.cascId.toNat) = false := decide_eq_false peer
  refine if_neg ?_
  rw [bridged, h1, h3, reached]
  simpa using h2

/-- What the loss of a die leaves. -/
theorem dieLost_holds (long : 4 ≤ n) : keepOuter s (dieLost s die) = dieLost s die ∧ die ∈ (dieLost s die).casc.lost ∧
    (dieLost s die).capev.unit = BitVec.ofNat 16 (0x7000 + die) ∧ (dieLost s die).capev.kind = 1 ∧ (dieLost s die).capev.pending = true ∧
    (dieLost s die).irq.gstat.getLsbD 2 = true ∧ (die = 0 → (dieLost s die).breath.freeRun = true) ∧
    (dieLost s die).queues = s.queues ∧ (dieLost s die).items = s.items ∧ (dieLost s die).tasks = s.tasks := by
  rw [dieLost_due bridged small peer reached away long]
  obtain ⟨eq, pending⟩ := capacityEvent_holds { s with casc := { s.casc with lost := insUp s.casc.lost die } } (BitVec.ofNat 16 (0x7000 + die)) 1
  have listed : die ∈ insUp s.casc.lost die := (mem_insUp die die s.casc.lost).mpr (.inl rfl)
  rw [← lossNoted] at eq pending
  generalize lossNoted s die = v at *
  split
  · obtain ⟨freeRun, frame, stays⟩ := enterFreeRun_holds v v.breath.late
    have gstat := stays pending
    generalize enterFreeRun v v.breath.late = w at *
    have casc : w.casc = { s.casc with lost := insUp s.casc.lost die } := by rw [frame, eq]
    have capev : w.capev = capacityOf { s with casc := { s.casc with lost := insUp s.casc.lost die } } (BitVec.ofNat 16 (0x7000 + die)) 1 := by
      rw [frame, eq]
    refine ⟨by rw [frame, eq]; rfl, by rw [casc]; exact listed, by rw [capev]; rfl, by rw [capev]; rfl, by rw [capev]; rfl, gstat,
      fun _ => freeRun, by rw [frame, eq], by rw [frame, eq], by rw [frame, eq]⟩
  · next other =>
    have casc : v.casc = { s.casc with lost := insUp s.casc.lost die } := by rw [eq]
    have capev : v.capev = capacityOf { s with casc := { s.casc with lost := insUp s.casc.lost die } } (BitVec.ofNat 16 (0x7000 + die)) 1 := by
      rw [eq]
    refine ⟨by rw [eq]; rfl, by rw [casc]; exact listed, by rw [capev]; rfl, by rw [capev]; rfl, by rw [capev]; rfl, pending,
      fun master => ?_, by rw [eq], by rw [eq], by rw [eq]⟩
    simpa [master] using other

end

/-! ### Returns (R357) -/

theorem restoration_die {s : State} {u : W16} (kind : unitKind u = 7) (lost : s.casc.lost.contains (unitIdx u) = true) :
    restoration s u = capacityEvent { s with casc := { s.casc with lost := dropOne s.casc.lost (unitIdx u) } } u 2 := by
  rw [restoration, if_pos (by rw [lost, kind]; rfl)]

theorem linkUnit_kind : unitKind 20480#16 = 5 := by decide

theorem restoration_link {s : State} (lost : s.link.lost = true) (running : s.link.st = 2) :
    restoration s 0x5000 = capacityEvent { s with link := { s.link with lost := false } } 0x5000 2 := by
  rw [restoration, if_neg (by simp [linkUnit_kind]), if_pos (by simp [lost, running])]

theorem restoration_none {s : State} (here : s.link.lost = false) : restoration s 0x5000 = s := by
  rw [restoration, if_neg (by simp [linkUnit_kind]), if_neg (by simp [here])]

/-! ### Exchange timeouts (R286) -/

/-- The unit that an exchange timeout names. -/
def timeoutUnit (die : Option Nat) : Nat :=
  match die with
  | some x => 0x7000 + x % 4
  | none => 0x5000

section
variable {s : State} {q : Nat} {idx : W32} {i : Item} (found : findItem s q idx = some i) (runs : i.stage = .executing)
include found runs

theorem exchangeTimeout_soon (short : i.exchangeWait < 64) (die : Option Nat) : exchangeTimeout s q idx die = s := by
  unfold exchangeTimeout
  rw [found]
  exact if_pos (by simp [short])

theorem exchangeTimeout_due (long : 64 ≤ i.exchangeWait) (die : Option Nat) {j : Item}
    (found' : findItem (endItem s q idx 0x24 (timeoutUnit die)) q idx = some j) : exchangeTimeout s q idx die =
    if j.stage = .executing then endNow (endItem s q idx 0x24 (timeoutUnit die)) q idx 0x24 (timeoutUnit die)
    else endItem s q idx 0x24 (timeoutUnit die) := by
  unfold exchangeTimeout
  rw [found]
  dsimp only
  rw [if_neg (by simp [runs, Nat.not_lt_of_le long])]
  cases die with
  | none =>
    have found'' : findItem (endItem s q idx 0x24 0x5000) q idx = some j := found'
    dsimp only
    rw [found'']
    rfl
  | some x =>
    have found'' : findItem (endItem s q idx 0x24 (0x7000 + x % 4)) q idx = some j := found'
    dsimp only
    rw [found'']
    rfl

/-- At the 64th boundary the item ends, whether or not its peers have reported. -/
theorem exchangeTimeout_ends (long : 64 ≤ i.exchangeWait) (die : Option Nat) :
    (∃ j, findItem (exchangeTimeout s q idx die) q idx = some j ∧ j.stage = .ended) ∧
    (opOf s q idx = none → ended (exchangeTimeout s q idx die) q idx 0x24 (BitVec.ofNat 64 (timeoutUnit die))) := by
  obtain ⟨j, found', stage⟩ := stage_endItem found runs 0x24 (timeoutUnit die)
  rw [exchangeTimeout_due found runs long die found']
  constructor
  · rcases stage with executing | done
    · rw [if_pos executing]
      obtain ⟨k, found'', stage, -⟩ := ended_endNow found' 0x24 (timeoutUnit die)
      exact ⟨k, found'', stage⟩
    · rw [if_neg (by rw [done]; nofun)]
      exact ⟨j, found', done⟩
  · intro alone
    obtain ⟨k, found'', stage', status, detail⟩ := ended_endNow found 0x24 (timeoutUnit die)
    rw [endItem_alone alone] at found' ⊢
    have same : k = j := Option.some.inj (found''.symm.trans found')
    rw [if_neg (by rw [← same, stage']; nofun)]
    exact ⟨k, found'', stage', status, detail⟩

end

/-! ### The history's copies (R359) -/

/-- s with a copy of the history written, or torn: the one not written last. -/
def putCopy (s : State) (v : Option (Nat × Tab UnitRec)) : State :=
  if decide (copySeq s.xspi.histB ≤ copySeq s.xspi.histA) then { s with xspi := { s.xspi with histB := v } }
  else { s with xspi := { s.xspi with histA := v } }

theorem historyWrite_ok (s : State) : historyWrite s true =
    putCopy s (some (max (copySeq s.xspi.histA) (copySeq s.xspi.histB), s.history)) := rfl

theorem putCopy_keeps (s : State) (v : Option (Nat × Tab UnitRec)) : putCopy s v = { s with xspi := (putCopy s v).xspi } ∧
    ((putCopy s v).xspi.histA = s.xspi.histA ∨ (putCopy s v).xspi.histB = s.xspi.histB) := by
  unfold putCopy
  split
  · exact ⟨rfl, .inl rfl⟩
  · exact ⟨rfl, .inr rfl⟩

/-- The copy just written has the higher sequence number. -/
theorem bestHistory_written (s : State) :
    bestHistory (putCopy s (some (max (copySeq s.xspi.histA) (copySeq s.xspi.histB), s.history))).xspi = some s.history := by
  unfold putCopy
  have above : ∀ n h, copySeq (some (n, h)) = n + 1 := fun _ _ => rfl
  split
  · next toB =>
    have toB := of_decide_eq_true toB
    simp only [bestHistory, above]
    rw [if_neg (by simp), if_neg (by omega)]
    rfl
  · next toA =>
    simp only [bestHistory, above]
    rw [if_neg (by simp), if_pos (by omega)]
    rfl

/-- What a failed write leaves: one of the two copies, and its event. -/
theorem historyWrite_fails (s : State) : (historyWrite s false).history = s.history ∧
    ((historyWrite s false).xspi.histA = s.xspi.histA ∨ (historyWrite s false).xspi.histB = s.xspi.histB) ∧
    (s.bell.staging.length < 256 → ∃ e, (historyWrite s false).bell.staging = s.bell.staging ++ [e] ∧ e.code = 0x0052) := by
  have before : ∃ u : State, historyWrite s false = bellRaise u 0x0052 0 0 1 0 ∧ u.history = s.history ∧ u.bell = s.bell ∧
      (u.xspi.histA = s.xspi.histA ∨ u.xspi.histB = s.xspi.histB) := by
    refine ⟨if (drawFree s).1.getLsbD 0 then putCopy (drawFree s).2 none else (drawFree s).2, rfl, ?_⟩
    split
    · obtain ⟨eq, copies⟩ := putCopy_keeps (drawFree s).2 none
      exact ⟨by rw [eq]; rfl, by rw [eq]; rfl, copies⟩
    · exact ⟨rfl, rfl, .inl rfl⟩
  obtain ⟨u, eq, history, bell, copies⟩ := before
  rw [eq]
  have side := bellSide_bellRaise u 0x0052 0 0 1 0
  have device : (bellRaise u 0x0052 0 0 1 0).xspi = u.xspi := by rw [side]
  refine ⟨(history_of_bellSide side).trans history, by rw [device]; exact copies, fun room => ?_⟩
  have staged := congrArg Bell.staging (bellRaise_staging (s := u) (by rw [bell]; exact room) 0x0052 0 0 1 0)
  rw [bell] at staged
  exact ⟨_, staged, rfl⟩

/-- Settles O49: a loss through `dieLost_holds`, a timeout through `exchangeTimeout_ends`, a history write through `putCopy`. -/
theorem lossesAndReturnsAreReported : Obligations.LossesAndReturnsAreReported := by
  intro s hup
  refine ⟨fun inside => ⟨fun die => atEdge_late (f := fun s => dieLost s die) hup inside,
    fun u => atEdge_late (f := fun s => restoration s u) hup inside,
    fun q idx die => atEdge_late (f := fun s => exchangeTimeout s q idx die) hup inside⟩,
    fun die n edge bridged small peer reached away => ⟨fun short => ?soon, fun long => ?lost⟩, fun u edge kind lost => ?dieBack,
    fun edge lost running => ?linkBack, fun here => ?notLost, fun q idx i die edge found runs => ⟨fun short => ?waits, fun long => ?timeout⟩,
    fun n => ⟨fun resetting => ?resetDone, fun idle => ?noReset⟩, ?written, ?failed⟩
  case soon =>
    refine (atEdge_up (f := fun s => dieLost s die) hup edge).trans (congrArg _ ?_)
    show keepOuter s (dieLost s die) = s
    rw [dieLost_soon away short]
    rfl
  case lost =>
    obtain ⟨inner, rest⟩ := dieLost_holds bridged small peer reached away long
    exact ⟨dieLost s die, (atEdge_up (f := fun s => dieLost s die) hup edge).trans (congrArg _ inner), rest⟩
  case dieBack =>
    obtain ⟨eq, pending⟩ := capacityEvent_holds { s with casc := { s.casc with lost := dropOne s.casc.lost (unitIdx u) } } u 2
    refine ⟨_, (atEdge_up (f := fun s => restoration s u) hup edge), ?_⟩
    rw [restoration_die kind lost]
    generalize capacityEvent { s with casc := { s.casc with lost := dropOne s.casc.lost (unitIdx u) } } u 2 = t at *
    have capev : t.capev = capacityOf { s with casc := { s.casc with lost := dropOne s.casc.lost (unitIdx u) } } u 2 := by rw [eq]
    have casc : t.casc = { s.casc with lost := dropOne s.casc.lost (unitIdx u) } := by rw [eq]
    exact ⟨casc, congrArg CapEv.unit capev, congrArg CapEv.kind capev, congrArg CapEv.pending capev, pending⟩
  case linkBack =>
    obtain ⟨eq, -⟩ := capacityEvent_holds { s with link := { s.link with lost := false } } 0x5000 2
    refine ⟨_, (atEdge_up (f := fun s => restoration s 0x5000) hup edge), ?_⟩
    rw [restoration_link lost running]
    generalize capacityEvent { s with link := { s.link with lost := false } } 0x5000 2 = t at *
    have capev : t.capev = capacityOf { s with link := { s.link with lost := false } } 0x5000 2 := by rw [eq]
    have link : t.link = { s.link with lost := false } := by rw [eq]
    exact ⟨link, congrArg CapEv.unit capev, congrArg CapEv.kind capev⟩
  case notLost =>
    cases edge : s.edge with
    | false => exact atEdge_late (f := fun s => restoration s 0x5000) hup edge
    | true =>
      refine (atEdge_up (f := fun s => restoration s 0x5000) hup edge).trans (congrArg _ ?_)
      show keepOuter s (restoration s 0x5000) = s
      rw [restoration_none here]
      rfl
  case waits =>
    refine (atEdge_up (f := fun s => exchangeTimeout s q idx die) hup edge).trans (congrArg _ ?_)
    show keepOuter s (exchangeTimeout s q idx die) = s
    rw [exchangeTimeout_soon found runs short]
    rfl
  case timeout =>
    obtain ⟨⟨j, found', stage⟩, alone⟩ := exchangeTimeout_ends found runs long die
    exact ⟨_, j, atEdge_up (f := fun s => exchangeTimeout s q idx die) hup edge, found', stage, fun none_ => ended_keepOuter (alone none_)⟩
  case resetDone =>
    refine live_next (f := (clusterResetDone · n)) hup ?_ rfl
    rw [clusterResetDone]
    exact if_pos resetting
  case noReset =>
    refine live_next (f := (clusterResetDone · n)) hup ?_ rfl
    rw [clusterResetDone]
    exact if_neg (by rw [idle]; exact Bool.false_ne_true)
  case written =>
    obtain ⟨eq, copies⟩ := putCopy_keeps s (some (max (copySeq s.xspi.histA) (copySeq s.xspi.histB), s.history))
    refine ⟨_, live_next (f := (historyWrite · true)) hup (historyWrite_ok s) ?_, bestHistory_written s, eq, copies⟩
    rw [eq]
    rfl
  case failed =>
    have fails := historyWrite_fails s
    refine ⟨_, live_up (f := (historyWrite · false)) hup, ?_⟩
    generalize historyWrite s false = t at *
    exact fails

end Sys2Proof.Proofs.Losses

/-! Spares take the place of suspect units, and units without a spare retire (chapter 16, R352, R353; R12, R329). -/

namespace Sys2Proof.Proofs.SpareUnits

open Sys2Proof Sys2Proof.Machine Sys2Proof.Safety Sys2Proof.Laws Sys2Proof.Proofs.RegisterWrites
  Sys2Proof.Proofs.BellRecord Sys2Proof.Proofs.Aborts Sys2Proof.Proofs.WindowWrites Sys2Proof.Proofs.WriteAnswers
  Sys2Proof.Proofs.Resets Sys2Proof.Proofs.SelfTests Sys2Proof.Proofs.Detections Sys2Proof.Proofs.Losses

/-! ### Substitution (R352) -/

theorem substitute_unwanted {s : State} {u : W16} (h : wantsSpare s u = false) : substitute s u = s := by
  rw [substitute, if_pos (by simp [h])]

theorem substitute_long {s : State} {u : W16} {k : Nat} (kind : unitKind u = 1) (at_ : logicalOf s (unitIdx u) = some k)
    (long : longOn s k = true) : substitute s u = s := by
  cases wants : wantsSpare s u with
  | false => exact substitute_unwanted wants
  | true =>
    rw [substitute, if_neg (by simp [wants]), if_pos kind, at_]
    exact if_neg (by simp [long])

/-- s with a core's work gone, its place given to its cluster's spare. -/
def spareServes (s : State) (k : Nat) : State :=
  setCluster (abortCore s k) (k / 8) { getCluster (abortCore s k) (k / 8) with
    map := (getCluster (abortCore s k) (k / 8)).map.set (k % 8) (getCluster (abortCore s k) (k / 8)).spare, spare := 0xF }

theorem substituteCore_eq (s : State) (u : W16) (k : Nat) : substituteCore s u k =
    scrubPhys (modUnit (modUnit (spareServes s k) u (fun r => { r with role := 2 }))
      (BitVec.ofNat 16 (0x1000 + (getCluster (abortCore s k) (k / 8)).phys * 9 + (getCluster (abortCore s k) (k / 8)).spare))
      (fun r => { r with role := 0 })) (unitIdx u) := rfl

section
variable {s : State} {u : W16} {k : Nat} (wants : wantsSpare s u = true)
include wants

theorem substitute_core (kind : unitKind u = 1) (at_ : logicalOf s (unitIdx u) = some k) (served : k / 8 < clustersEn s)
    (spare : (getCluster s (k / 8)).spare < 9) (short : longOn s k = false) : substitute s u = substituteCore s u k := by
  rw [substitute, if_neg (by simp [wants]), if_pos kind, at_]
  exact if_pos (by simp [served, spare, short])

theorem substitute_slice (kind : unitKind u = 3) {v : W16} (free : spareSlice s = some v) : substitute s u =
    modUnit (modUnit (abortSlice s u false) u (fun r => { r with role := 2 })) v (fun r => { r with role := 0 }) := by
  rw [substitute, if_neg (by simp [wants]), if_neg (by simp [kind]), if_pos kind, free]

end

/-- A place that a cluster's map has, with another core in it. -/
theorem getD_set_same (l : List Nat) {i : Nat} (v d : Nat) (h : i < l.length) : (l.set i v).getD i d = v := by
  simp [List.getD_eq_getElem?_getD, h]

theorem getD_set_other (l : List Nat) {i j : Nat} (v d : Nat) (h : i ≠ j) : (l.set i v).getD j d = l.getD j d := by
  simp [List.getD_eq_getElem?_getD, h]

theorem place_of_physOf {s : State} {k p : Nat} (h : physOf s k = some p) : k % 8 < (getCluster s (k / 8)).map.length := by
  rw [physOf] at h
  by_contra out
  rw [List.getD_eq_default _ _ (Nat.le_of_not_lt out)] at h
  cases h

theorem physOf_eq (s : State) (k : Nat) : physOf s k =
    if (getCluster s (k / 8)).map.getD (k % 8) 0xF < 9 then some ((getCluster s (k / 8)).phys * 9 + (getCluster s (k / 8)).map.getD (k % 8) 0xF)
    else none := rfl

theorem getCluster_congr {s t : State} (h : t.clusters = s.clusters) (n : Nat) : getCluster t n = getCluster s n := by
  rw [getCluster, h, getCluster]

/-- What a core's substitution leaves (Table 16.5). -/
theorem substituteCore_holds {s : State} {u : W16} {k p : Nat} (here : physOf s k = some p) (spare : (getCluster s (k / 8)).spare < 9)
    (other : BitVec.ofNat 16 (0x1000 + (getCluster s (k / 8)).phys * 9 + (getCluster s (k / 8)).spare) ≠ u) :
    physOf (substituteCore s u k) k = some ((getCluster s (k / 8)).phys * 9 + (getCluster s (k / 8)).spare) ∧
    (getCluster (substituteCore s u k) (k / 8)).spare = 0xF ∧ (getUnit (substituteCore s u k) u).role = 2 ∧
    (getUnit (substituteCore s u k) (BitVec.ofNat 16 (0x1000 + (getCluster s (k / 8)).phys * 9 + (getCluster s (k / 8)).spare))).role = 0 ∧
    (∀ x ∈ (substituteCore s u k).tasks, x.core ≠ k) ∧ tget {} (substituteCore s u k).phys (unitIdx u) = {} ∧
    (getCore (substituteCore s u k) k).bind = (getCore s k).bind ∧ (substituteCore s u k).epoch = s.epoch := by
  have place := place_of_physOf here
  have none_ := noTaskOn_abortCore s k
  have kept := warmKept_abortCore s k
  have clusters : getCluster (abortCore s k) (k / 8) = getCluster s (k / 8) :=
    getCluster_congr (by rw [itemSide_abortCore s k]; rfl) _
  rw [substituteCore_eq, spareServes, clusters]
  generalize abortCore s k = t at *
  generalize getCluster s (k / 8) = c at *
  generalize BitVec.ofNat 16 (0x1000 + c.phys * 9 + c.spare) = v at *
  have cluster : getCluster (setCluster t (k / 8) { c with map := c.map.set (k % 8) c.spare, spare := 0xF }) (k / 8) =
    { c with map := c.map.set (k % 8) c.spare, spare := 0xF } := tget_tput_same ..
  have cores : (setCluster t (k / 8) { c with map := c.map.set (k % 8) c.spare, spare := 0xF }).cores = t.cores := rfl
  have tasks : (setCluster t (k / 8) { c with map := c.map.set (k % 8) c.spare, spare := 0xF }).tasks = t.tasks := rfl
  have epoch : (setCluster t (k / 8) { c with map := c.map.set (k % 8) c.spare, spare := 0xF }).epoch = t.epoch := rfl
  generalize setCluster t (k / 8) { c with map := c.map.set (k % 8) c.spare, spare := 0xF } = w at *
  have roleU : getUnit (modUnit (modUnit w u (fun r => { r with role := 2 })) v (fun r => { r with role := 0 })) u =
      { getUnit w u with role := 2 } :=
    (getUnit_modUnit_other _ _ other.symm).trans (getUnit_modUnit_same w u (fun r => { r with role := 2 }))
  have roleV := getUnit_modUnit_same (modUnit w u (fun r => { r with role := 2 })) v (fun r => { r with role := 0 })
  have final : ∀ x : State, x.clusters = w.clusters → x.cores = w.cores → x.tasks = w.tasks → x.epoch = w.epoch →
      physOf (scrubPhys x (unitIdx u)) k = some (c.phys * 9 + c.spare) ∧ (getCluster (scrubPhys x (unitIdx u)) (k / 8)).spare = 0xF ∧
      (∀ y ∈ (scrubPhys x (unitIdx u)).tasks, y.core ≠ k) ∧ tget {} (scrubPhys x (unitIdx u)).phys (unitIdx u) = {} ∧
      (getCore (scrubPhys x (unitIdx u)) k).bind = (getCore s k).bind ∧ (scrubPhys x (unitIdx u)).epoch = s.epoch := by
    intro x hc hk ht he
    have cluster' : getCluster (scrubPhys x (unitIdx u)) (k / 8) = { c with map := c.map.set (k % 8) c.spare, spare := 0xF } :=
      (getCluster_congr (t := scrubPhys x (unitIdx u)) hc _).trans cluster
    refine ⟨?_, by rw [cluster'], fun y mem => ?_, tget_tput_same .., ?_, ?_⟩
    · rw [physOf_eq, cluster', getD_set_same _ _ _ place, if_pos spare]
    · exact none_ y (tasks ▸ ht ▸ mem)
    · exact (congrArg Core.bind (getCore_congr (t := scrubPhys x (unitIdx u)) (hk.trans cores) k)).trans (kept.cores.bound k).bind
    · exact he.trans (epoch.trans kept.epoch)
  obtain ⟨phys, spare', tasks', clear, bind, epoch'⟩ :=
    final (modUnit (modUnit w u (fun r => { r with role := 2 })) v (fun r => { r with role := 0 })) rfl rfl rfl rfl
  exact ⟨phys, spare', congrArg UnitRec.role roleU, congrArg UnitRec.role roleV, tasks', clear, bind, epoch'⟩

/-- The slice that takes a suspect one's place is a spare, and so another one. -/
theorem spareSlice_other {s : State} {u v : W16} (wants : wantsSpare s u = true) (free : spareSlice s = some v) : u ≠ v := by
  have spare := List.find?_some free
  simp only [wantsSpare, Bool.and_eq_true, decide_eq_true_eq] at wants spare
  rintro rfl
  exact absurd (wants.1.2.symm.trans spare.1) (by decide)

theorem epoch_abortSlice (s : State) (u : W16) : (abortSlice s u false).epoch = s.epoch := by
  have aborted := TaskSide.foldl (f := fun st (t : Task) => abortTask st t.core t.thread) (fun _ _ => taskSide_abortTask ..) (tasksOnSlice s u)
    (markReplayed { s with free := s.free + 65536 } (((tasksOnSlice s u).map (fun t => (t.q, t.idx))).eraseDups))
  rw [abortSlice]
  exact (congrArg State.epoch aborted).trans rfl

/-! ### Retirement (R353) -/

/-- t keeps the breath, Reed, CAP_EPOCH and KQ_CAPEV of s. -/
structure ServiceKept (s t : State) : Prop where
  breath : t.breath = s.breath
  reed : t.reed = s.reed
  epoch : t.epoch = s.epoch
  capev : t.capev = s.capev

theorem ServiceKept.refl (s : State) : ServiceKept s s := ⟨rfl, rfl, rfl, rfl⟩

theorem ServiceKept.trans {s t u : State} (a : ServiceKept s t) (b : ServiceKept t u) : ServiceKept s u :=
  ⟨b.breath.trans a.breath, b.reed.trans a.reed, b.epoch.trans a.epoch, b.capev.trans a.capev⟩

theorem ServiceKept.foldl {α : Type} {f : State → α → State} (h : ∀ s a, ServiceKept s (f s a)) (l : List α) (s : State) :
    ServiceKept s (l.foldl f s) := by
  induction l generalizing s with
  | nil => exact .refl s
  | cons a l ih => exact (h s a).trans (ih _)

theorem serviceKept_of_itemSide {s t : State} (h : ItemSide s t) : ServiceKept s t :=
  ⟨h.breath, by rw [h]; rfl, by rw [h]; rfl, by rw [h]; rfl⟩

theorem serviceKept_abortCore (s : State) (k : Nat) : ServiceKept s (abortCore s k) := serviceKept_of_itemSide (itemSide_abortCore s k)
theorem serviceKept_setCluster (s : State) (n : Nat) (c : Cluster) : ServiceKept s (setCluster s n c) := ⟨rfl, rfl, rfl, rfl⟩
theorem serviceKept_setCore (s : State) (k : Nat) (c : Core) : ServiceKept s (setCore s k c) := ⟨rfl, rfl, rfl, rfl⟩
theorem serviceKept_scrubPhys (s : State) (p : Nat) : ServiceKept s (scrubPhys s p) := ⟨rfl, rfl, rfl, rfl⟩
theorem serviceKept_modUnit (s : State) (u : W16) (f : UnitRec → UnitRec) : ServiceKept s (modUnit s u f) := ⟨rfl, rfl, rfl, rfl⟩

/-- A physical core that comes to serve a number changes cores and scratchpads alone (R12, R182). -/
theorem takeOver_keeps (s : State) (k : Nat) (c : Core) : ServiceKept s (takeOver s k c) ∧ (takeOver s k c).clusters = s.clusters := by
  unfold takeOver
  dsimp only
  split
  · exact ⟨.refl s, rfl⟩
  · split
    · exact ⟨⟨rfl, rfl, rfl, rfl⟩, rfl⟩
    · split <;> exact ⟨⟨rfl, rfl, rfl, rfl⟩, rfl⟩

/-- The highest logical number of a core's cluster. -/
def highest (s : State) (k : Nat) : Nat := 8 * (k / 8) + (coresOf (getCluster s (k / 8)) - 1)

/-- A cluster's map once core k has left and the highest number's core serves in its place (R12). -/
def closedMap (c : Cluster) (k h : Nat) : List Nat := (c.map.set (k % 8) (c.map.getD (h % 8) 0xF)).set (h % 8) 0xF

/-- s with core k's work gone, and the highest number's, and the map closed. -/
def mapClosed (s : State) (k : Nat) : State :=
  setCluster (abortCore (abortCore s k) (highest s k)) (k / 8)
    { getCluster s (k / 8) with map := closedMap (getCluster s (k / 8)) k (highest s k) }

theorem retireCore_eq (s : State) (u : W16) (k : Nat) : retireCore s u k = modUnit (scrubPhys (setCore
    (if highest s k ≠ k then takeOver (mapClosed s k) k (getCore (abortCore (abortCore s k) (highest s k)) (highest s k)) else mapClosed s k)
    (highest s k) {}) (unitIdx u)) u (fun r => { r with role := 2 }) := rfl

/-- What the retirement of a core leaves. -/
theorem retireCore_holds (s : State) (u : W16) (k : Nat) : ServiceKept s (retireCore s u k) ∧ (getUnit (retireCore s u k) u).role = 2 ∧
    getCluster (retireCore s u k) (k / 8) = { getCluster s (k / 8) with map := closedMap (getCluster s (k / 8)) k (highest s k) } := by
  rw [retireCore_eq]
  have closed : ServiceKept s (mapClosed s k) :=
    ((serviceKept_abortCore s k).trans (serviceKept_abortCore _ (highest s k))).trans (serviceKept_setCluster ..)
  have cluster : getCluster (mapClosed s k) (k / 8) =
    { getCluster s (k / 8) with map := closedMap (getCluster s (k / 8)) k (highest s k) } := tget_tput_same ..
  generalize mapClosed s k = t at *
  generalize { getCluster s (k / 8) with map := closedMap (getCluster s (k / 8)) k (highest s k) } = c at *
  have moved : ∀ b : Core, ServiceKept t (if highest s k ≠ k then takeOver t k b else t) ∧
      (if highest s k ≠ k then takeOver t k b else t).clusters = t.clusters := fun b => by
    split
    · exact takeOver_keeps t k b
    · exact ⟨.refl t, rfl⟩
  obtain ⟨kept, clusters⟩ := moved (getCore (abortCore (abortCore s k) (highest s k)) (highest s k))
  generalize (if highest s k ≠ k then takeOver t k (getCore (abortCore (abortCore s k) (highest s k)) (highest s k)) else t) = v at *
  refine ⟨(closed.trans kept).trans ⟨rfl, rfl, rfl, rfl⟩, ?_, ?_⟩
  · exact congrArg UnitRec.role (getUnit_modUnit_same _ u (fun r => { r with role := 2 }))
  · exact (getCluster_congr (s := t) clusters _).trans cluster

/-- The places of a closed map: the highest number serves no more, and its core serves the one that left. -/
theorem physOf_closed {s t : State} {k p : Nat} (here : physOf s k = some p) (inCluster : highest s k / 8 = k / 8)
    (cluster : getCluster t (k / 8) = { getCluster s (k / 8) with map := closedMap (getCluster s (k / 8)) k (highest s k) }) :
    physOf t (highest s k) = none ∧ (highest s k ≠ k → physOf t k = physOf s (highest s k)) := by
  have place := place_of_physOf here
  rw [physOf_eq t, physOf_eq t, physOf_eq s (highest s k), inCluster, cluster]
  generalize getCluster s (k / 8) = c at *
  generalize highest s k = h at *
  refine ⟨?_, fun other => ?_⟩
  · have out : ((c.map.set (k % 8) (c.map.getD (h % 8) 0xF)).set (h % 8) 0xF).getD (h % 8) 0xF = 0xF := by
      by_cases inside : h % 8 < (c.map.set (k % 8) (c.map.getD (h % 8) 0xF)).length
      · exact getD_set_same _ _ _ inside
      · exact List.getD_eq_default _ _ (by rw [List.length_set]; exact Nat.le_of_not_lt inside)
    rw [closedMap, out]
    rfl
  · have apart : h % 8 ≠ k % 8 := by omega
    rw [closedMap, getD_set_other _ _ _ apart, getD_set_same _ _ _ place]

theorem retireCluster_holds (s : State) (u : W16) (n : Nat) : ServiceKept s (retireCluster s u n) ∧
    (getUnit (retireCluster s u n) u).role = 2 := by
  rw [retireCluster]
  generalize List.range 8 = eight
  generalize List.range 9 = nine
  dsimp only
  refine ⟨?_, congrArg UnitRec.role (getUnit_modUnit_same _ u (fun r => { r with role := 2 }))⟩
  refine .trans ?_ (serviceKept_modUnit ..)
  refine .trans ?_ (ServiceKept.foldl (fun _ _ => serviceKept_setCore ..) _ _)
  have cleared : ∀ m t, ServiceKept t (eight.foldl (fun x c => abortCore x (8 * m + c)) t) := fun m t =>
    ServiceKept.foldl (f := fun x c => abortCore x (8 * m + c)) (fun _ _ => serviceKept_abortCore ..) _ _
  have out := (cleared n s).trans (cleared (clustersEn s - 1) _)
  generalize eight.foldl (fun x c => abortCore x (8 * (clustersEn s - 1) + c)) (eight.foldl (fun x c => abortCore x (8 * n + c)) s) = v at out ⊢
  have scrubbed := ServiceKept.foldl (f := fun st p => scrubPhys st ((getCluster v n).phys * 9 + p)) (fun _ _ => serviceKept_scrubPhys ..) nine v
  generalize nine.foldl (fun st p => scrubPhys st ((getCluster v n).phys * 9 + p)) v = w at scrubbed ⊢
  refine out.trans (scrubbed.trans ?_)
  split
  · exact serviceKept_setCluster ..
  · refine .trans ?_ (ServiceKept.foldl (fun _ _ => (takeOver_keeps ..).1) _ _)
    exact (serviceKept_setCluster ..).trans (serviceKept_setCluster ..)

/-- s with a unit out of service. -/
def unitOut (s : State) (u : W16) : State := modUnit s u (fun r => { r with role := 2 })

theorem unitOut_holds (s : State) (u : W16) : ServiceKept s (unitOut s u) ∧ (getUnit (unitOut s u) u).role = 2 :=
  ⟨serviceKept_modUnit .., congrArg UnitRec.role (getUnit_modUnit_same s u (fun r => { r with role := 2 }))⟩

/-- What leaves service when a unit retires. -/
theorem retireUnit_holds (s : State) (u : W16) : ServiceKept s (retireUnit s u).1 ∧ (getUnit (retireUnit s u).1 u).role = 2 := by
  have out := unitOut_holds s u
  unfold retireUnit
  dsimp only
  split
  · cases logicalOf s (unitIdx u) with
    | none => exact out
    | some k => exact ⟨(retireCore_holds s u k).1, (retireCore_holds s u k).2.1⟩
  · cases logicalCluster s (unitIdx u) with
    | none => exact out
    | some n => exact retireCluster_holds s u n
  · rw [← unitOut]
    generalize unitOut s u = v at out ⊢
    cases logicalCluster v (unitIdx u / 16) with
    | none => exact out
    | some n => exact ⟨out.1.trans ⟨rfl, rfl, rfl, rfl⟩, out.2⟩
  · exact out

theorem retireUnit_core {s : State} {u : W16} {k : Nat} (kind : unitKind u = 1) (at_ : logicalOf s (unitIdx u) = some k) :
    (retireUnit s u).1 = retireCore s u k := by
  rw [retireUnit, kind]
  dsimp only
  rw [at_]
  rfl

theorem notDue_unchanged {s : State} {u : W16} (h : s.edge = false ∨ (getUnit s u).st ≠ 2 ∨ (getUnit s u).role ≠ 0 ∨ unitDue s u = false ∨
    spareLeft s u = true) : s.edge = false ∨ retirementRefold s u = s := by
  rcases h with late | h
  · exact .inl late
  · refine .inr ?_
    rw [retirementRefold]
    refine if_pos ?_
    simp only [Bool.or_eq_true, decide_eq_true_eq, Bool.not_eq_true']
    tauto

/-- s with the refold of a retirement in effect: its epoch, its words, the image that fits and the items that are homeless. -/
def refoldedFor (s : State) (u : W16) : State := failHomeless (fitImage (bumpCaps (retireUnit s u).1 (retireUnit s u).2)) u

theorem retirementRefold_due {s : State} {u : W16} (active : s.reed.active ≠ none) (retired : (getUnit s u).st = 2)
    (serves : (getUnit s u).role = 0) (due : unitDue s u = true) (none_ : spareLeft s u = false) (valid : unitValid u = true)
    (kind : unitKind u ≠ 4) : retirementRefold s u = capacityEvent (refoldedFor s u) u 1 := by
  rw [retirementRefold]
  refine if_neg ?_
  simp [active, retired, serves, due, none_, valid, kind]

theorem fitImage_keeps (s : State) : (fitImage s).epoch = s.epoch ∧ (fitImage s).reed.refolded = s.reed.refolded ∧
    (fitImage s).capev = s.capev ∧ (fitImage s).history = s.history ∧ (fitImage s).clusters = s.clusters := by
  rw [fitImage]
  cases s.reed.active <;> exact ⟨rfl, rfl, rfl, rfl, rfl⟩

theorem itemSide_failHomeless (s : State) (u : W16) : ItemSide s (failHomeless s u) :=
  ItemSide.foldl (f := fun st (i : Item) => endItem st i.q i.idx 0x24 u.toNat) (fun _ _ => itemSide_endItem ..) _ _

theorem refoldedFor_holds (s : State) (u : W16) : (refoldedFor s u).epoch = nextEpoch s ∧
    (refoldedFor s u).reed.refolded = some s.breath.num ∧ (refoldedFor s u).capev = s.capev ∧ (getUnit (refoldedFor s u) u).role = 2 ∧
    (refoldedFor s u).clusters = (retireUnit s u).1.clusters := by
  obtain ⟨kept, role⟩ := retireUnit_holds s u
  rw [refoldedFor]
  generalize (retireUnit s u).2 = n
  generalize (retireUnit s u).1 = v at *
  obtain ⟨epoch, refolded, capev, history, clusters⟩ := fitImage_keeps (bumpCaps v n)
  generalize fitImage (bumpCaps v n) = w at *
  have side := itemSide_failHomeless w u
  generalize failHomeless w u = x at *
  have next_ : nextEpoch v = nextEpoch s := by rw [nextEpoch, kept.reed, kept.breath, kept.epoch, nextEpoch]
  refine ⟨?_, ?_, ?_, ?_, ?_⟩
  · rw [side]
    exact epoch.trans next_
  · rw [side]
    exact refolded.trans (congrArg (fun b : Breath => some b.num) kept.breath)
  · rw [side]
    exact capev.trans kept.capev
  · have same : getUnit x u = getUnit v u := getUnit_congr (by rw [side]; exact history) u
    rw [same, role]
  · rw [side]
    exact clusters

/-- Settles O48: a substitution through `substituteCore_holds`, a retirement through `refoldedFor_holds` and `physOf_closed`. -/
theorem sparesAndRetirements : Obligations.SparesAndRetirements := by
  intro s u hup
  have unchanged : substitute s u = s → exec (.spareSubstitution u) s = .next s := fun same => by
    cases edge : s.edge with
    | false => exact atEdge_late (f := fun s => substitute s u) hup edge
    | true =>
      refine (atEdge_up (f := fun s => substitute s u) hup edge).trans (congrArg _ ?_)
      show keepOuter s (substitute s u) = s
      rw [same]
      rfl
  refine ⟨fun h => ?idle, fun k kind at_ long => unchanged (substitute_long kind at_ long),
    fun k edge wants kind at_ served short spare other => ?core, fun v edge wants kind free => ?slice, fun h => ?notDue,
    fun edge active retired serves due none_ valid kind => ?refold⟩
  case idle =>
    rcases h with late | unwanted
    · exact atEdge_late (f := fun s => substitute s u) hup late
    · exact unchanged (substitute_unwanted unwanted)
  case core =>
    refine ⟨_, atEdge_up (f := fun s => substitute s u) hup edge, ?_⟩
    rw [substitute_core wants kind at_ served spare short]
    have holds := substituteCore_holds (physOf_of_logicalOf at_) spare other
    generalize substituteCore s u k = t at *
    exact holds
  case slice =>
    have other := spareSlice_other wants free
    have epoch := epoch_abortSlice s u
    refine ⟨_, atEdge_up (f := fun s => substitute s u) hup edge, ?_⟩
    rw [substitute_slice wants kind free]
    generalize abortSlice s u false = t at *
    have roleU : getUnit (modUnit (modUnit t u (fun r => { r with role := 2 })) v (fun r => { r with role := 0 })) u =
        { getUnit t u with role := 2 } :=
      (getUnit_modUnit_other _ _ other).trans (getUnit_modUnit_same t u (fun r => { r with role := 2 }))
    have roleV := getUnit_modUnit_same (modUnit t u (fun r => { r with role := 2 })) v (fun r => { r with role := 0 })
    exact ⟨congrArg UnitRec.role roleU, congrArg UnitRec.role roleV, epoch⟩
  case notDue =>
    rcases notDue_unchanged h with late | same
    · exact atEdge_late (f := fun s => retirementRefold s u) hup late
    · cases edge : s.edge with
      | false => exact atEdge_late (f := fun s => retirementRefold s u) hup edge
      | true =>
        refine (atEdge_up (f := fun s => retirementRefold s u) hup edge).trans (congrArg _ ?_)
        show keepOuter s (retirementRefold s u) = s
        rw [same]
        rfl
  case refold =>
    refine ⟨_, atEdge_up (f := fun s => retirementRefold s u) hup edge, ?_⟩
    rw [retirementRefold_due active retired serves due none_ valid kind]
    obtain ⟨epoch, refolded, capev, role, clusters⟩ := refoldedFor_holds s u
    have core : ∀ k, unitKind u = 1 → logicalOf s (unitIdx u) = some k → getCluster (refoldedFor s u) (k / 8) =
        { getCluster s (k / 8) with map := closedMap (getCluster s (k / 8)) k (highest s k) } := fun k kind at_ => by
      refine (getCluster_congr clusters _).trans ?_
      rw [retireUnit_core kind at_]
      exact (retireCore_holds s u k).2.2
    generalize refoldedFor s u = v at *
    obtain ⟨eq, pending⟩ := capacityEvent_holds v u 1
    generalize capacityEvent v u 1 = t at *
    have event : t.capev = capacityOf v u 1 := by rw [eq]
    have epoch' : t.epoch = nextEpoch s := by rw [eq]; exact epoch
    refine ⟨?_, epoch', by rw [eq]; exact refolded, congrArg CapEv.unit event, congrArg CapEv.kind event, congrArg CapEv.pending event,
      (congrArg CapEv.epoch event).trans epoch, ?_, pending, fun k kind at_ inCluster _ => ?_⟩
    · exact (congrArg UnitRec.role (getUnit_congr (t := keepOuter s t) (by rw [eq]; rfl) u)).trans role
    · exact (congrArg CapEv.count event).trans (by rw [capacityOf, capev])
    · have cluster : getCluster (keepOuter s t) (k / 8) =
          { getCluster s (k / 8) with map := closedMap (getCluster s (k / 8)) k (highest s k) } :=
        (getCluster_congr (by rw [eq]; rfl) _).trans (core k kind at_)
      exact physOf_closed (physOf_of_logicalOf at_) inCluster cluster

end Sys2Proof.Proofs.SpareUnits

/-! Exchange units join, relay, wait for, duplicate or end the operation that they name (chapter 13, R282, R284 to R286, R289 to R291). -/

namespace Sys2Proof.Proofs.ExchangeUnits

open Sys2Proof Sys2Proof.Machine Sys2Proof.Safety Sys2Proof.Laws Sys2Proof.Proofs.RegisterWrites Sys2Proof.Proofs.LinkPort
  Sys2Proof.Proofs.BellRecord Sys2Proof.Proofs.ItemLaws Sys2Proof.Proofs.ItemLists Sys2Proof.Proofs.Aborts Sys2Proof.Proofs.Operations

/-! ### A unit that names no operation (R282, R284) -/

/-- s with a unit that is ahead of its operation kept, or counted as a duplicate. -/
def earlyOr (s : State) (g : UnitTag) (c : Cle) : State := if ahead s g then { s with cle := c } else countDup s

section
variable {s : State} {g : UnitTag} (none_ : opByTag s g = none)
include none_

theorem agreementArrives_none (r : Agreement) :
    agreementArrives s g r = earlyOr s g { s.cle with earlyAgree := s.cle.earlyAgree ++ [(g, r)] } := by
  rw [agreementArrives, none_]
  rfl

section
variable (noRelay : relayOp s g = none)
include noRelay

theorem chunkArrives_duplicate (i : Nat) (crc : W32) (data : List Byte) : chunkArrives s g i crc data = countDup s := by
  rw [chunkArrives, none_]
  dsimp only
  rw [noRelay]

theorem streamEnds_duplicate (kept : W32) (crc : W64) : streamEnds s g kept crc = countDup s := by
  rw [streamEnds, none_]
  dsimp only
  rw [noRelay]

theorem doneArrives_none : doneArrives s g = earlyOr s g { s.cle with earlyDone := s.cle.earlyDone ++ [g] } := by
  rw [doneArrives, none_]
  dsimp only
  rw [noRelay]
  rfl

theorem failArrives_none (st : Byte) (d : W64) :
    failArrives s g st d = earlyOr s g { s.cle with earlyFail := s.cle.earlyFail ++ [(g, st, d)] } := by
  rw [failArrives, none_]
  dsimp only
  rw [noRelay]
  rfl

end

variable {o : CleOp} {a : Agreement} (relay : relayOp s g = some (o, a))
include relay

theorem chunkArrives_relay (i : Nat) (crc : W32) (data : List Byte) : chunkArrives s g i crc data =
    if goesOn s g a.opcode.toNat a.root.toNat then sendChunk s o g i crc data else s := by
  rw [chunkArrives, none_]
  dsimp only
  rw [relay]

theorem streamEnds_relay (kept : W32) (crc : W64) : streamEnds s g kept crc =
    if goesOn s g a.opcode.toNat a.root.toNat then sendMarker s o g kept crc else s := by
  rw [streamEnds, none_]
  dsimp only
  rw [relay]

theorem doneArrives_relay : doneArrives s g = s := by
  rw [doneArrives, none_]
  dsimp only
  rw [relay]
  rfl

theorem failArrives_relay (st : Byte) (d : W64) : failArrives s g st d = s := by
  rw [failArrives, none_]
  dsimp only
  rw [relay]
  rfl

end

/-! ### Units of an open operation -/

/-- A member whose record is not here. -/
theorem agreementDone_missing {s : State} {o : CleOp} {m : Nat} (small : m < groupSize s o.group) (missing : ∀ a ∈ o.agreed, a.1 ≠ m) :
    agreementDone s o = false := by
  rw [agreementDone, List.all_eq_false]
  refine ⟨m, List.mem_range.mpr small, ?_⟩
  simp only [List.any_eq_true, decide_eq_true_eq, not_exists, not_and]
  exact missing

/-- An operation that has begun and has nothing to do stays. -/
theorem cleStage_idle {s : State} {q : Nat} {idx : W32} {o : CleOp} (opened : opOf s q idx = some o) (begun : o.begun = true)
    (fine : o.failFrom = []) (idle : agreementDone s o = false ∨ (o.sentData = true ∧ o.wrote = false ∧
      ∀ it, findItem s q idx = some it →
        ∃ r ∈ neededRanks o it.cmd (getGroup s o.group).rank.toNat (groupSize s o.group), r ∉ o.ended)) : cleStage s q idx = s := by
  rw [cleStage, opened]
  cases found : findItem s q idx with
  | none => rfl
  | some it =>
    dsimp only
    split
    · rfl
    · rw [if_neg (by simp [begun]), if_neg (by simp [fine])]
      rcases idle with waits | ⟨sent, wrote, needs⟩
      · exact if_pos (by rw [waits]; rfl)
      · obtain ⟨r, need, notEnded⟩ := needs it found
        split
        · rfl
        · rw [if_neg (by simp [sent]), if_pos (by simp [wrote]), if_neg]
          rw [List.all_eq_true]
          exact fun all => notEnded (List.contains_iff_mem.mp (all r need))

theorem cleAdvance_idle {s : State} {q : Nat} {idx : W32} (h : cleStage s q idx = s) : cleAdvance s q idx = s := by
  simp only [cleAdvance, h]

theorem judgeStreams_none {s : State} {q : Nat} {idx : W32} {o : CleOp} (opened : opOf s q idx = some o)
    (none_ : o.markers.find? (fun m => streamHere s o m.1 m.2.1) = none) : judgeStreams s q idx = s := by
  rw [judgeStreams, opened]
  dsimp only
  rw [none_]

section
variable {s : State} {g : UnitTag} {o : CleOp} (opened : opByTag s g = some o)
include opened

theorem agreementArrives_again {r : Agreement} (held : ∃ a ∈ o.agreed, a.1 = g.rank) : agreementArrives s g r = s := by
  rw [agreementArrives, opened]
  exact if_pos (by simpa using held)

/-- The operation with a member's record. -/
theorem agreementArrives_waits {r : Agreement} {m : Nat} (fresh : ∀ a ∈ o.agreed, a.1 ≠ g.rank) (begun : o.begun = true)
    (fine : o.failFrom = []) (small : m < groupSize s o.group) (other : m ≠ g.rank) (missing : ∀ a ∈ o.agreed, a.1 ≠ m) :
    agreementArrives s g r = setOp s { o with agreed := o.agreed ++ [(g.rank, r)] } := by
  have here := opOf_setOp (s := s) (o' := { o with agreed := o.agreed ++ [(g.rank, r)] }) (listed_of_opByTag opened) ⟨rfl, rfl⟩
  rw [agreementArrives, opened]
  dsimp only
  rw [if_neg (by simpa only [List.any_eq_true, decide_eq_true_eq, not_exists, not_and] using fresh)]
  refine cleAdvance_idle (cleStage_idle here begun fine (.inl (agreementDone_missing (m := m) small fun a mem => ?_)))
  rcases List.mem_append.mp mem with old | new
  · exact missing a old
  · rw [List.mem_singleton.mp new]
    exact other.symm

/-- The operation with a chunk (R291). -/
def withChunk (o : CleOp) (g : UnitTag) (i : Nat) (data : List Byte) : CleOp :=
  { o with chunks := o.chunks.filter (fun x => x.1 ≠ (g.rank, g.piece.toNat, i)) ++ [((g.rank, g.piece.toNat, i), data)] }

theorem chunkArrives_good {i : Nat} {crc : W32} {data : List Byte} (good : crc32c data = crc.toNat) (none_ : o.markers = []) :
    chunkArrives s g i crc data = if passes s o g then sendChunk (setOp s (withChunk o g i data)) o g i crc data
      else setOp s (withChunk o g i data) := by
  have here := opOf_setOp (s := s) (o' := withChunk o g i data) (listed_of_opByTag opened) ⟨rfl, rfl⟩
  have judged : ∀ t, opOf t o.q o.idx = some (withChunk o g i data) → judgeStreams t o.q o.idx = t := fun t h =>
    judgeStreams_none h (by rw [show (withChunk o g i data).markers = [] from none_]; rfl)
  rw [chunkArrives, opened]
  dsimp only
  rw [if_neg (by simp [good])]
  split
  · exact judged _ ((opOf_of_portSide ((portSide_send ..).trans (portSide_toNext ..)) o.q o.idx).trans here)
  · exact judged _ here

theorem chunkArrives_bad {i : Nat} {crc : W32} {data : List Byte} (bad : crc32c data ≠ crc.toNat) :
    chunkArrives s g i crc data = chunkBad s o g i := by
  rw [chunkArrives, opened]
  exact if_pos bad

/-- The operation with a stream's end marker. -/
def withMarker (o : CleOp) (g : UnitTag) (kept : W32) (crc : W64) : CleOp := { o with markers := o.markers ++ [(g.rank, g.piece.toNat, kept, crc)] }

theorem streamEnds_judges (kept : W32) (crc : W64) : streamEnds s g kept crc =
    judgeStreams (if passes s o g then sendMarker (setOp s (withMarker o g kept crc)) o g kept crc
      else setOp s (withMarker o g kept crc)) o.q o.idx := by
  rw [streamEnds, opened]
  rfl

/-- The operation with a member's DONE. -/
def withPeerDone (o : CleOp) (g : UnitTag) : CleOp := { o with doneFrom := o.doneFrom ++ [g.rank] }

/-- The operation with a member's FAIL. -/
def withPeerFail (o : CleOp) (g : UnitTag) (st : Byte) (d : W64) : CleOp := { o with failFrom := o.failFrom ++ [(g.rank, st, d)] }

theorem doneArrives_open : doneArrives s g = if o.heldFor.isSome then setOp s (withPeerDone o g)
    else settleOp (setOp s (withPeerDone o g)) o.q o.idx := by
  rw [doneArrives, opened]
  rfl

theorem failArrives_open (st : Byte) (d : W64) : failArrives s g st d = if o.heldFor.isSome then setOp s (withPeerFail o g st d)
    else settleOp (yieldFail (setOp s (withPeerFail o g st d)) o.q o.idx) o.q o.idx := by
  rw [failArrives, opened]
  rfl

section
variable {m : Nat} (small : m < groupSize s o.group) (other : m ≠ g.rank) (notDone : m ∉ o.doneFrom) (notFailed : ∀ f ∈ o.failFrom, f.1 ≠ m)
include small other notDone notFailed

theorem doneArrives_waits : doneArrives s g = setOp s (withPeerDone o g) := by
  rw [doneArrives_open opened]
  split
  · rfl
  · refine settleOp_waits (opOf_setOp (listed_of_opByTag opened) ⟨rfl, rfl⟩) fun all => ?_
    rcases all m small with done | ⟨f, mem, failed⟩
    · rcases List.mem_append.mp done with old | new
      · exact notDone old
      · exact other (List.mem_singleton.mp new)
    · exact notFailed f mem failed

theorem failArrives_waits (settled : o.sentDone = true ∨ o.begun = false) (st : Byte) (d : W64) :
    failArrives s g st d = setOp s (withPeerFail o g st d) := by
  rw [failArrives_open opened]
  have here := opOf_setOp (s := s) (o' := withPeerFail o g st d) (listed_of_opByTag opened) ⟨rfl, rfl⟩
  split
  · rfl
  · have yields : yieldFail (setOp s (withPeerFail o g st d)) o.q o.idx = setOp s (withPeerFail o g st d) := by
      rw [yieldFail_eq here]
      refine if_pos ?_
      have same : (withPeerFail o g st d).sentDone = o.sentDone ∧ (withPeerFail o g st d).begun = o.begun := ⟨rfl, rfl⟩
      rcases settled with h | h <;> simp [same, h]
    rw [yields]
    refine settleOp_waits here fun all => ?_
    rcases all m small with done | ⟨f, mem, failed⟩
    · exact notDone done
    · rcases List.mem_append.mp mem with old | new
      · exact notFailed f old failed
      · rw [List.mem_singleton.mp new] at failed
        exact other failed.symm

end

/-- Every other member's DONE is here. -/
theorem allReported_done (others : ∀ m, m < groupSize s o.group → m ≠ g.rank → m ∈ o.doneFrom) :
    allReported (setOp s (withPeerDone o g)) (withPeerDone o g) := by
  intro m small
  by_cases same : m = g.rank
  · exact .inl (List.mem_append_right _ (List.mem_singleton.mpr same))
  · exact .inl (List.mem_append_left _ (others m small same))

theorem allReported_fail (others : ∀ m, m < groupSize s o.group → m ≠ g.rank → m ∈ o.doneFrom) (st : Byte) (d : W64) :
    allReported (setOp s (withPeerFail o g st d)) (withPeerFail o g st d) := by
  intro m small
  by_cases same : m = g.rank
  · exact .inr ⟨_, List.mem_append_right _ (List.mem_singleton.mpr rfl), same.symm⟩
  · exact .inl (others m small same)

/-- A healthy member that meets a FAIL sends its DONE (R297). -/
theorem sent_failArrives (begun : o.begun = true) (quiet : o.sentDone = false) (joined : o.rejoining = false) (free : o.heldFor = none)
    (healthy : ∀ f ∈ o.failFrom, f.1 ≠ (getGroup s o.group).rank.toNat) (peer : g.rank ≠ (getGroup s o.group).rank.toNat)
    (written : outputsLeft s o.q o.idx = 0) (st : Byte) (d : W64) :
    ∃ more, (failArrives s g st d).sent = s.sent ++ .done (o.tag (getGroup s o.group).rank.toNat) :: more := by
  have here := opOf_setOp (s := s) (o' := withPeerFail o g st d) (listed_of_opByTag opened) ⟨rfl, rfl⟩
  have rank : (getGroup (setOp s (withPeerFail o g st d)) o.group).rank = (getGroup s o.group).rank := rfl
  have fresh : failedHere (setOp s (withPeerFail o g st d)) (withPeerFail o g st d) = false := by
    rw [failedHere, List.any_eq_false]
    intro f mem named
    rcases List.mem_append.mp mem with old | new
    · exact healthy f old (of_decide_eq_true named)
    · rw [List.mem_singleton.mp new] at named
      exact peer (of_decide_eq_true named)
  have due : (!(withPeerFail o g st d).begun || (withPeerFail o g st d).failFrom.isEmpty || (withPeerFail o g st d).sentDone ||
      failedHere (setOp s (withPeerFail o g st d)) (withPeerFail o g st d) || (withPeerFail o g st d).rejoining ||
      (withPeerFail o g st d).heldFor.isSome) = false := by
    rw [fresh]
    simp [withPeerFail, begun, quiet, joined, free]
  rw [failArrives_open opened, free, yieldFail_eq here, due]
  obtain ⟨cle, sent, mem⟩ := workDropped_keeps (setOp s (withPeerFail o g st d)) o.q o.idx
  generalize workDropped (setOp s (withPeerFail o g st d)) o.q o.idx = u at *
  have left : outputsLeft u o.q o.idx = 0 := by
    rw [outputsLeft, mem]
    exact written
  have group : (getGroup u o.group).rank = (getGroup s o.group).rank := by rw [getGroup, cle]; rfl
  obtain ⟨more, sends⟩ := sent_sendDone u (withPeerFail o g st d)
  refine ⟨more, ?_⟩
  simp only [Option.isSome_none, Bool.false_eq_true, if_false]
  rw [if_pos left, sent_settleOp, sends, sent]
  exact congrArg (fun r : Byte => s.sent ++ .done (o.tag r.toNat) :: more) group

end

/-! ### A chunk whose CRC fails (R291) -/

/-- How often a chunk has come with a bad CRC, this time included. -/
def timesBad (o : CleOp) (g : UnitTag) (i : Nat) : Nat :=
  (match o.mismatches.find? (fun m => m.1 = (g.rank, g.piece.toNat, i)) with
    | some m => m.2
    | none => 0) + 1

/-- The operation with a bad chunk counted. -/
def withBadChunk (o : CleOp) (g : UnitTag) (i : Nat) : CleOp :=
  { o with mismatches := o.mismatches.filter (fun m => m.1 ≠ (g.rank, g.piece.toNat, i)) ++ [((g.rank, g.piece.toNat, i), timesBad o g i)] }

/-- s with a chunk asked for again. -/
def againCounted (s : State) (o : CleOp) (g : UnitTag) (i : Nat) : State :=
  { setOp s (withBadChunk o g i) with
    cle := { (setOp s (withBadChunk o g i)).cle with chunkResend := satInc32 (setOp s (withBadChunk o g i)).cle.chunkResend } }

theorem chunkBad_again {s : State} {o : CleOp} {g : UnitTag} {i : Nat} (few : timesBad o g i < 4) :
    chunkBad s o g i = toRank (send (againCounted s o g i) (.chunkAgain g i)) o g.rank g (toLE 4 i) := if_pos few

theorem timesBad_few {o : CleOp} {g : UnitTag} {i : Nat} (h : ∀ m ∈ o.mismatches, m.1 = (g.rank, g.piece.toNat, i) → m.2 < 3) :
    timesBad o g i < 4 := by
  rw [timesBad]
  cases found : o.mismatches.find? (fun m => m.1 = (g.rank, g.piece.toNat, i)) with
  | none => decide
  | some m => exact Nat.succ_lt_succ (h m (List.mem_of_find?_eq_some found) (of_decide_eq_true (List.find?_some found :)))

theorem timesBad_many {o : CleOp} {g : UnitTag} {i : Nat} {m : (Nat × Nat × Nat) × Nat}
    (found : o.mismatches.find? (fun m => m.1 = (g.rank, g.piece.toNat, i)) = some m) (many : 3 ≤ m.2) : ¬ timesBad o g i < 4 := by
  rw [timesBad, found]
  exact Nat.not_lt.mpr (Nat.succ_le_succ many)

/-- s with a chunk that failed for good counted. -/
def chunkFailed (s : State) (o : CleOp) (g : UnitTag) (i : Nat) : State :=
  { setOp s (withBadChunk o g i) with
    cle := { (setOp s (withBadChunk o g i)).cle with chunkFail := satAdd (setOp s (withBadChunk o g i)).cle.chunkFail 1 } }

/-- The context of an operation's item. -/
def opCtx (s : State) (o : CleOp) : CtxId :=
  match findItem s o.q o.idx with
  | some i => i.ctx
  | none => 0

theorem chunkBad_fails {s : State} {o : CleOp} {g : UnitTag} {i : Nat} (many : ¬ timesBad o g i < 4) : chunkBad s o g i =
    endItem (bellRaise (chunkFailed s o g i) 0x0032 0 (opCtx s o) 0 (chunkDst s o g i)) o.q o.idx 0x22 (chunkDst s o g i) := if_neg many

theorem chunkBad_fails_holds {s : State} {o : CleOp} {g : UnitTag} {i : Nat} (many : ¬ timesBad o g i < 4) :
    (chunkBad s o g i).cle.chunkFail = satAdd s.cle.chunkFail 1 ∧ (chunkBad s o g i).mem = s.mem := by
  rw [chunkBad_fails many]
  have side := bellSide_bellRaise (chunkFailed s o g i) 0x0032 0 (opCtx s o) 0 (chunkDst s o g i)
  generalize bellRaise (chunkFailed s o g i) 0x0032 0 (opCtx s o) 0 (chunkDst s o g i) = u at side ⊢
  have counts := failCounts_endItem u o.q o.idx 0x22 (chunkDst s o g i)
  have item := itemSide_endItem u o.q o.idx 0x22 (chunkDst s o g i)
  refine ⟨counts.chunkFail.trans ?_, item.mem.trans ?_⟩
  · rw [side]
    rfl
  · rw [side]
    rfl

/-! ### A stream's end (R291) -/

theorem streamHere_congr {s t : State} (h : t.items = s.items) (o : CleOp) (r p : Nat) : streamHere t o r p = streamHere s o r p := by
  have cmd : cmdOf t o = cmdOf s o := by rw [cmdOf, findItem_congr h, cmdOf]
  rw [streamHere, cmd, streamHere]

/-- The one marker is judged, and none is left. -/
theorem marker_here {u : State} {o : CleOp} {r p : Nat} {kept : W32} {crc : W64} (only : o.markers = [(r, p, kept, crc)])
    (here : streamHere u o r p = true) : o.markers.find? (fun m => streamHere u o m.1 m.2.1) = some (r, p, kept, crc) ∧
      o.markers.filter (fun m => !(m.1 = r && m.2.1 = p)) = [] := by
  constructor
  · have first : ([(r, p, kept, crc)] : List (Nat × Nat × W32 × W64)).find? (fun m => streamHere u o m.1 m.2.1) = some (r, p, kept, crc) := by
      rw [List.find?_singleton, here]
      rfl
    rwa [← only] at first
  · simp [only]

section
variable {u : State} {o : CleOp} {r p : Nat} {kept : W32} {crc : W64} (opened : opOf u o.q o.idx = some o)
  (only : o.markers = [(r, p, kept, crc)])
include opened only

theorem judgeStreams_early (early : streamHere u o r p = false) : judgeStreams u o.q o.idx = u :=
  judgeStreams_none opened (by rw [only, List.find?_singleton, early]; rfl)

variable (here : streamHere u o r p = true) (command : o.kind = false)
include here command

/-- The operation once a stream has ended and verified. -/
def streamEnded (o : CleOp) (r : Nat) (kept : W32) : CleOp := { o with markers := [], ended := o.ended ++ [r], kept := o.kept ++ [(r, kept)] }

theorem judgeStreams_good (good : crc64 (streamBytes o r) = crc.toNat) :
    judgeStreams u o.q o.idx = cleAdvance (setOp u (streamEnded o r kept)) o.q o.idx := by
  obtain ⟨found, rest⟩ := marker_here only here
  have bytes : (if o.kind = true then pieceBytes o r p else streamBytes o r) = streamBytes o r := if_neg (by simp [command])
  have entry : (if o.kind = true then r + 256 * p else r) = r := if_neg (by simp [command])
  rw [judgeStreams, opened]
  dsimp only
  rw [found]
  dsimp only
  rw [rest, bytes, if_pos good, entry]
  rfl

/-- s with a stream that failed its check counted. -/
def streamFailed (u : State) (o : CleOp) : State :=
  { setOp u { o with markers := [] } with cle := { (setOp u { o with markers := [] }).cle with digestFail := satAdd u.cle.digestFail 1 } }

theorem judgeStreams_bad (bad : crc64 (streamBytes o r) ≠ crc.toNat) :
    judgeStreams u o.q o.idx = endItem (streamFailed u o) o.q o.idx 0x23 r := by
  obtain ⟨found, rest⟩ := marker_here only here
  have bytes : (if o.kind = true then pieceBytes o r p else streamBytes o r) = streamBytes o r := if_neg (by simp [command])
  rw [judgeStreams, opened]
  dsimp only
  rw [found]
  dsimp only
  rw [rest, bytes, if_neg bad]
  rfl

theorem judgeStreams_bad_holds (bad : crc64 (streamBytes o r) ≠ crc.toNat) :
    (judgeStreams u o.q o.idx).cle.digestFail = satAdd u.cle.digestFail 1 ∧ (judgeStreams u o.q o.idx).mem = u.mem := by
  rw [judgeStreams_bad opened only here command bad]
  have counts := failCounts_endItem (streamFailed u o) o.q o.idx 0x23 r
  have item := itemSide_endItem (streamFailed u o) o.q o.idx 0x23 r
  exact ⟨counts.digestFail, item.mem⟩

end

/-! ### The wait for buffer ends (R289) -/

theorem bufferExpiry_none {s : State} {g : Nat}
    (h : ∀ o ∈ s.cle.ops, o.group = g → o.kind = true ∨ o.begun = true ∨ o.waiting < 5) : bufferExpiry s g = s := by
  have none_ : s.cle.ops.find? (fun o => o.group = g && !o.kind && !o.begun && decide (5 ≤ o.waiting)) = none := by
    rw [List.find?_eq_none]
    intro o mem due
    simp only [Bool.and_eq_true, decide_eq_true_eq, Bool.not_eq_true'] at due
    obtain ⟨⟨⟨group, kind⟩, begun⟩, long⟩ := due
    rcases h o mem group with h | h | h
    · rw [kind] at h; cases h
    · rw [begun] at h; cases h
    · omega
  rw [bufferExpiry, none_]

/-- An operation as it begins, with the record of its member. -/
def begunWith (o : CleOp) (rank : Nat) (r : Agreement) : CleOp := { o with begun := true, record := r, agreed := o.agreed ++ [(rank, r)] }

/-- s with a member's record sent to every other member (R285). -/
def agreementSent (s : State) (o : CleOp) (r : Agreement) : State :=
  toOthers (send s (.agreement (o.tag (getGroup s o.group).rank.toNat) r)) o (o.tag (getGroup s o.group).rank.toNat) (agreementBytes r)

theorem sendAgreement_eq (s : State) (o : CleOp) (r : Agreement) : sendAgreement s o r =
    takeEarly (agreementSent s o r) (begunWith o (getGroup s o.group).rank.toNat r) := rfl

/-- The operation with what its peers had sent before it began. -/
def withEarly (s : State) (o : CleOp) : CleOp :=
  { o with
    agreed := o.agreed ++ (s.cle.earlyAgree.filter (fun a => tagMatches o a.1)).map (fun a => (a.1.rank, a.2))
    doneFrom := o.doneFrom ++ (s.cle.earlyDone.filter (tagMatches o)).map (fun t => t.rank)
    failFrom := o.failFrom ++ (s.cle.earlyFail.filter (fun f => tagMatches o f.1)).map (fun f => (f.1.rank, f.2.1, f.2.2)) }

theorem takeEarly_ops (s : State) (o : CleOp) : (takeEarly s o).cle.ops = (setOp s (withEarly s o)).cle.ops := rfl

theorem takeEarly_keeps (s : State) (o : CleOp) : (takeEarly s o).sent = s.sent ∧ (takeEarly s o).items = s.items ∧
    (takeEarly s o).mem = s.mem ∧ (takeEarly s o).cle.groups = s.cle.groups := by
  unfold takeEarly
  exact ⟨rfl, rfl, rfl, rfl⟩

/-- What the sending of a member's record leaves (R285). -/
theorem sendAgreement_holds (s : State) {o : CleOp} (listed : ∃ x ∈ s.cle.ops, o.q = x.q ∧ o.idx = x.idx) (r : Agreement) :
    opOf (sendAgreement s o r) o.q o.idx = some (withEarly s (begunWith o (getGroup s o.group).rank.toNat r)) ∧
    (∃ more, (sendAgreement s o r).sent = s.sent ++ .agreement (o.tag (getGroup s o.group).rank.toNat) r :: more) ∧
    (sendAgreement s o r).items = s.items ∧ (sendAgreement s o r).mem = s.mem ∧
    (∀ g, getGroup (sendAgreement s o r) g = getGroup s g) := by
  obtain ⟨x, mem, q, idx⟩ := listed
  have port : PortSide (send s (.agreement (o.tag (getGroup s o.group).rank.toNat) r)) (agreementSent s o r) := portSide_toOthers ..
  rw [sendAgreement_eq]
  generalize getGroup s o.group = g at *
  generalize agreementSent s o r = u at *
  obtain ⟨sent, items, mem_, groups⟩ := takeEarly_keeps u (begunWith o g.rank.toNat r)
  have ops : u.cle.ops = s.cle.ops := by rw [port.1.1]; rfl
  have early : withEarly u (begunWith o g.rank.toNat r) = withEarly s (begunWith o g.rank.toNat r) := by
    have a : u.cle.earlyAgree = s.cle.earlyAgree := by rw [port.1.1]; rfl
    have b : u.cle.earlyDone = s.cle.earlyDone := by rw [port.1.1]; rfl
    have c : u.cle.earlyFail = s.cle.earlyFail := by rw [port.1.1]; rfl
    rw [withEarly, a, b, c, withEarly]
  refine ⟨?_, ?_, items.trans (port.items.trans rfl), mem_.trans ((mem_of_portSide port).trans rfl), fun n => ?_⟩
  · refine (opOf_of_ops (takeEarly_ops ..) _ _).trans ?_
    rw [early]
    have found := opOf_setOp (s := u) (o := x) (o' := withEarly s (begunWith o g.rank.toNat r)) (ops ▸ mem) ⟨q, idx⟩
    rwa [← q, ← idx] at found
  · obtain ⟨more, sends⟩ := sends_of_portSide port
    exact ⟨more, sent.trans sends⟩
  · rw [getGroup, groups]
    exact getGroup_of_portSide port n

/-- What the begin of an operation leaves, which keeps an earlier attempt's record if it has one (R289). -/
theorem beginOp_holds {s : State} {o : CleOp} (listed : o ∈ s.cle.ops) (first : o.record.opcode = 0) (quiet : s.cle.earlyAgree = [])
    (well : s.cle.earlyFail = []) (new : o.agreed = []) (fine : o.failFrom = []) :
    let g := getGroup s o.group
    let r := agreementOf g (cmdOf s o) false (cleOffer g (cmdOf s o))
    ∃ o' more, opOf (beginOp s o) o.q o.idx = some o' ∧ (o'.begun = true ∧ o'.agreed = [(g.rank.toNat, r)] ∧ o'.record = r ∧
        o'.mode = g.mode ∧ o'.vc = g.vc ∧ o'.group = o.group ∧ o'.failFrom = []) ∧
      getGroup (beginOp s o) o.group = { g with st := 2 } ∧ (beginOp s o).items = s.items ∧ (beginOp s o).mem = s.mem ∧
      (beginOp s o).sent = s.sent ++ .agreement (o.tag g.rank.toNat) r :: more := by
  intro g r
  have eq : beginOp s o = sendAgreement (setGroup s o.group { g with st := 2 }) { o with mode := g.mode, vc := g.vc } r :=
    if_neg (not_not.mpr first)
  have group : getGroup (setGroup s o.group { g with st := 2 }) o.group = { g with st := 2 } := tget_tput_same ..
  obtain ⟨found, ⟨more, sends⟩, items, mem, groups⟩ := sendAgreement_holds (setGroup s o.group { g with st := 2 })
    (o := { o with mode := g.mode, vc := g.vc }) ⟨o, listed, rfl, rfl⟩ r
  rw [show getGroup (setGroup s o.group { g with st := 2 }) ({ o with mode := g.mode, vc := g.vc } : CleOp).group = { g with st := 2 }
    from group] at found sends
  rw [eq]
  refine ⟨_, more, found, ⟨rfl, ?_, rfl, rfl, rfl, rfl, ?_⟩, (groups o.group).trans group, items, mem, sends⟩
  · show (o.agreed ++ [(g.rank.toNat, r)]) ++ (s.cle.earlyAgree.filter _).map _ = _
    rw [new, quiet]
    rfl
  · show o.failFrom ++ (s.cle.earlyFail.filter _).map _ = []
    rw [fine, well]
    rfl

/-- An operation that has waited its last boundary begins, and waits for its peers' records. -/
theorem bufferExpiry_begins {s : State} {g : Nat} {o : CleOp} {it : Item} (only : s.cle.ops = [o]) (group : o.group = g)
    (command : o.kind = false) (closed : o.begun = false) (long : 5 ≤ o.waiting) (joined : o.rejoining = false) (free : o.heldFor = none)
    (fine : o.failFrom = []) (found : findItem s o.q o.idx = some it) (runs : mayRun s it = true) (peers : 2 ≤ groupSize s o.group)
    {rank : Nat} {r : Agreement} {o' : CleOp} (opened : opOf (beginOp s o) o.q o.idx = some o') (begun : o'.begun = true)
    (agreed : o'.agreed = [(rank, r)]) (same : o'.group = o.group) (fine' : o'.failFrom = [])
    (size : groupSize (beginOp s o) o.group = groupSize s o.group) : bufferExpiry s g = beginOp s o := by
  have picked : s.cle.ops.find? (fun o => o.group = g && !o.kind && !o.begun && decide (5 ≤ o.waiting)) = some o := by
    rw [only, List.find?_singleton]
    simp [group, command, closed, long]
  have here : opOf s o.q o.idx = some o := by
    rw [opOf, only, List.find?_singleton]
    simp
  have failed : failedHere s o = false := by rw [failedHere, fine]; rfl
  have first : cleStage s o.q o.idx = beginOp s o := by
    rw [cleStage, here, found]
    dsimp only
    rw [if_neg (by simp [command, runs, joined, free, failed]), if_pos (by simp [closed]), if_pos (by simp [long])]
  have waits : cleStage (beginOp s o) o.q o.idx = beginOp s o := by
    refine cleStage_idle opened begun fine' (.inl ?_)
    refine agreementDone_missing (m := if rank = 0 then 1 else 0) ?_ fun a mem => ?_
    · rw [same, size]
      split <;> omega
    · rw [agreed] at mem
      rw [List.mem_singleton.mp mem]
      show rank ≠ _
      split <;> omega
  rw [bufferExpiry, picked]
  simp only [cleAdvance, first, waits]

/-! ### A unit that goes on along the ring (R290) -/

theorem sent_holds {s t : State} {x : Sent} (port : PortSide (send s x) t) :
    ∃ more, t.sent = s.sent ++ x :: more ∧ t.items = s.items ∧ t.mem = s.mem ∧ t.cle.ops = s.cle.ops ∧
      t.cle.chunkResend = s.cle.chunkResend ∧ t.cle.digestFail = s.cle.digestFail := by
  obtain ⟨more, sends⟩ := sends_of_portSide port
  refine ⟨more, sends, port.items.trans rfl, (mem_of_portSide port).trans rfl, ?_⟩
  rw [port.1.1]
  exact ⟨rfl, rfl, rfl⟩

theorem sendChunk_holds (s : State) (o : CleOp) (g : UnitTag) (i : Nat) (crc : W32) (data : List Byte) : ∃ more,
    (sendChunk s o g i crc data).sent = s.sent ++ .chunk g i crc data :: more ∧ (sendChunk s o g i crc data).items = s.items ∧
    (sendChunk s o g i crc data).mem = s.mem ∧ (sendChunk s o g i crc data).cle.ops = s.cle.ops ∧
    (sendChunk s o g i crc data).cle.chunkResend = s.cle.chunkResend ∧ (sendChunk s o g i crc data).cle.digestFail = s.cle.digestFail := sent_holds (portSide_toNext ..)

theorem sendMarker_holds (s : State) (o : CleOp) (g : UnitTag) (kept : W32) (crc : W64) : ∃ more,
    (sendMarker s o g kept crc).sent = s.sent ++ .streamEnd g kept crc :: more ∧ (sendMarker s o g kept crc).items = s.items ∧
    (sendMarker s o g kept crc).mem = s.mem ∧ (sendMarker s o g kept crc).cle.ops = s.cle.ops ∧
    (sendMarker s o g kept crc).cle.chunkResend = s.cle.chunkResend ∧ (sendMarker s o g kept crc).cle.digestFail = s.cle.digestFail := sent_holds (portSide_toNext ..)

theorem chunkBad_again_holds {s : State} {o : CleOp} {g : UnitTag} {i : Nat} (few : timesBad o g i < 4) : ∃ more,
    (chunkBad s o g i).sent = s.sent ++ .chunkAgain g i :: more ∧ (chunkBad s o g i).items = s.items ∧
    (chunkBad s o g i).mem = s.mem ∧ (chunkBad s o g i).cle.chunkResend = satAdd s.cle.chunkResend 1 := by
  rw [chunkBad_again few]
  obtain ⟨more, sends, items, mem, -, count, -⟩ := sent_holds (portSide_toRank (send (againCounted s o g i) (.chunkAgain g i)) o g.rank g (toLE 4 i))
  generalize toRank (send (againCounted s o g i) (.chunkAgain g i)) o g.rank g (toLE 4 i) = u at *
  exact ⟨more, sends, items, mem, count.trans rfl⟩

/-! ### The commands of the exchange units -/

theorem inner_earlyOr (s : State) (g : UnitTag) (c : Cle) : keepOuter s (earlyOr (inBreath s) g c) = earlyOr (inBreath s) g c := by
  unfold earlyOr
  split <;> rfl

section
variable {s : State} {g : UnitTag} (hup : up s)
include hup

theorem exec_agreementRecord (r : Agreement) :
    exec (.agreementRecord g r) s = .next (keepOuter s (agreementArrives (inBreath s) g r)) :=
  live_up (f := fun s => agreementArrives (inBreath s) g r) hup

theorem exec_pieceChunk (i : Nat) (crc : W32) (data : List Byte) :
    exec (.pieceChunk g i crc data) s = .next (keepOuter s (chunkArrives (inBreath s) g i crc data)) :=
  live_up (f := fun s => chunkArrives (inBreath s) g i crc data) hup

theorem exec_streamEndMarker (kept : W32) (crc : W64) :
    exec (.streamEndMarker g kept crc) s = .next (keepOuter s (streamEnds (inBreath s) g kept crc)) :=
  live_up (f := fun s => streamEnds (inBreath s) g kept crc) hup

theorem exec_doneMsg : exec (.doneMsg g) s = .next (keepOuter s (doneArrives (inBreath s) g)) :=
  live_up (f := fun s => doneArrives (inBreath s) g) hup

theorem exec_failMsg (st : Byte) (d : W64) : exec (.failMsg g st d) s = .next (keepOuter s (failArrives (inBreath s) g st d)) :=
  live_up (f := fun s => failArrives (inBreath s) g st d) hup

theorem exec_bufferWaitExpiry (n : Nat) : exec (.bufferWaitExpiry n) s = .next (keepOuter s (bufferExpiry (inBreath s) n)) :=
  live_up (f := fun s => bufferExpiry (inBreath s) n) hup

end

section
variable {s : State} {g : UnitTag} (hup : up s)
include hup

theorem exec_pieceChunk_relay {o : CleOp} {a : Agreement} (none_ : opByTag s g = none) (relay : relayOp s g = some (o, a)) (i : Nat)
    (crc : W32) (data : List Byte) :
    (goesOn s g a.opcode.toNat a.root.toNat = true → ∃ t more, exec (.pieceChunk g i crc data) s = .next t ∧
      t.sent = s.sent ++ .chunk g i crc data :: more ∧ t.items = s.items ∧ t.mem = s.mem) ∧
    (goesOn s g a.opcode.toNat a.root.toNat = false → exec (.pieceChunk g i crc data) s = .next (inBreath s)) := by
  have effect := chunkArrives_relay (s := inBreath s) none_ relay i crc data
  rw [exec_pieceChunk hup]
  refine ⟨fun on => ?_, fun off => ?_⟩
  · obtain ⟨more, sends, items, mem, -⟩ := sendChunk_holds (inBreath s) o g i crc data
    rw [effect, if_pos (show goesOn (inBreath s) g a.opcode.toNat a.root.toNat = true from on)]
    exact ⟨_, more, rfl, sends, items, mem⟩
  · rw [effect]
    exact congrArg (fun t => Host.Outcome.next (keepOuter s t)) (if_neg (by rw [show goesOn (inBreath s) g _ _ = _ from off]; decide))

theorem exec_streamEndMarker_relay {o : CleOp} {a : Agreement} (none_ : opByTag s g = none) (relay : relayOp s g = some (o, a))
    (kept : W32) (crc : W64) :
    (goesOn s g a.opcode.toNat a.root.toNat = true → ∃ t more, exec (.streamEndMarker g kept crc) s = .next t ∧
      t.sent = s.sent ++ .streamEnd g kept crc :: more ∧ t.items = s.items ∧ t.mem = s.mem) ∧
    (goesOn s g a.opcode.toNat a.root.toNat = false → exec (.streamEndMarker g kept crc) s = .next (inBreath s)) := by
  have effect := streamEnds_relay (s := inBreath s) none_ relay kept crc
  rw [exec_streamEndMarker hup]
  refine ⟨fun on => ?_, fun off => ?_⟩
  · obtain ⟨more, sends, items, mem, -⟩ := sendMarker_holds (inBreath s) o g kept crc
    rw [effect, if_pos (show goesOn (inBreath s) g a.opcode.toNat a.root.toNat = true from on)]
    exact ⟨_, more, rfl, sends, items, mem⟩
  · rw [effect]
    exact congrArg (fun t => Host.Outcome.next (keepOuter s t)) (if_neg (by rw [show goesOn (inBreath s) g _ _ = _ from off]; decide))

section
variable {o : CleOp} (opened : opByTag s g = some o)
include opened

theorem exec_pieceChunk_good {i : Nat} {crc : W32} {data : List Byte} (good : crc32c data = crc.toNat) (none_ : o.markers = []) :
    (passes s o g = false → exec (.pieceChunk g i crc data) s = .next (setOp (inBreath s) (withChunk o g i data))) ∧
    (passes s o g = true → ∃ t more, exec (.pieceChunk g i crc data) s = .next t ∧ t.sent = s.sent ++ .chunk g i crc data :: more ∧
      t.cle.ops = (setOp s (withChunk o g i data)).cle.ops ∧ t.items = s.items ∧ t.mem = s.mem) := by
  have effect := chunkArrives_good (s := inBreath s) opened (i := i) good none_
  rw [exec_pieceChunk hup, effect]
  refine ⟨fun off => ?_, fun on => ?_⟩
  · rw [if_neg (by rw [show passes (inBreath s) o g = _ from off]; decide)]
    rfl
  · obtain ⟨more, sends, items, mem, ops, -, -⟩ := sendChunk_holds (setOp (inBreath s) (withChunk o g i data)) o g i crc data
    rw [if_pos (show passes (inBreath s) o g = true from on)]
    exact ⟨_, more, rfl, sends, ops, items, mem⟩

theorem exec_pieceChunk_bad {i : Nat} {crc : W32} {data : List Byte} (bad : crc32c data ≠ crc.toNat) :
    ((∀ m ∈ o.mismatches, m.1 = (g.rank, g.piece.toNat, i) → m.2 < 3) →
      ∃ t more, exec (.pieceChunk g i crc data) s = .next t ∧ t.sent = s.sent ++ .chunkAgain g i :: more ∧
        t.cle.chunkResend = satAdd s.cle.chunkResend 1 ∧ t.items = s.items ∧ t.mem = s.mem) ∧
    (∀ m, o.mismatches.find? (fun x => x.1 = (g.rank, g.piece.toNat, i)) = some m → 3 ≤ m.2 →
      ∃ t, exec (.pieceChunk g i crc data) s = .next t ∧ t.cle.chunkFail = satAdd s.cle.chunkFail 1 ∧ t.mem = s.mem) := by
  have effect := chunkArrives_bad (s := inBreath s) opened (i := i) bad
  rw [exec_pieceChunk hup, effect]
  refine ⟨fun few => ?_, fun m found many => ?_⟩
  · obtain ⟨more, sends, items, mem, count⟩ := chunkBad_again_holds (s := inBreath s) (timesBad_few few)
    exact ⟨_, more, rfl, sends, count, items, mem⟩
  · obtain ⟨count, mem⟩ := chunkBad_fails_holds (s := inBreath s) (timesBad_many found many)
    exact ⟨_, rfl, count, mem⟩

theorem exec_streamEndMarker_early {kept : W32} {crc : W64} (none_ : o.markers = [])
    (early : streamHere s (withMarker o g kept crc) g.rank g.piece.toNat = false) (stays : passes s o g = false) :
    exec (.streamEndMarker g kept crc) s = .next (setOp (inBreath s) (withMarker o g kept crc)) := by
  have here := opOf_setOp (s := inBreath s) (o' := withMarker o g kept crc) (listed_of_opByTag opened) ⟨rfl, rfl⟩
  rw [exec_streamEndMarker hup, streamEnds_judges (s := inBreath s) opened,
    if_neg (by rw [show passes (inBreath s) o g = _ from stays]; decide)]
  have judged := judgeStreams_early (o := withMarker o g kept crc) here (by rw [withMarker, none_]; rfl) early
  exact congrArg (fun t => Host.Outcome.next (keepOuter s t)) judged

theorem exec_streamEndMarker_good {kept : W32} {crc : W64} {it : Item} {r : Nat} (none_ : o.markers = [])
    (whole : streamHere s (withMarker o g kept crc) g.rank g.piece.toNat = true) (stays : passes s o g = false) (command : o.kind = false)
    (begun : o.begun = true) (sent : o.sentData = true) (unwritten : o.wrote = false) (fine : o.failFrom = [])
    (found : findItem s o.q o.idx = some it)
    (need : r ∈ neededRanks o it.cmd (getGroup s o.group).rank.toNat (groupSize s o.group)) (other : r ≠ g.rank) (missing : r ∉ o.ended)
    (good : crc64 (streamBytes o g.rank) = crc.toNat) : exec (.streamEndMarker g kept crc) s =
      .next (setOp (inBreath s) { o with ended := o.ended ++ [g.rank], kept := o.kept ++ [(g.rank, kept)] }) := by
  have listed := listed_of_opByTag opened
  have here := opOf_setOp (s := inBreath s) (o' := withMarker o g kept crc) listed ⟨rfl, rfl⟩
  have last : streamEnded (withMarker o g kept crc) g.rank kept =
      { o with ended := o.ended ++ [g.rank], kept := o.kept ++ [(g.rank, kept)] } := by
    rw [streamEnded, ← none_]
    rfl
  rw [exec_streamEndMarker hup, streamEnds_judges (s := inBreath s) opened,
    if_neg (by rw [show passes (inBreath s) o g = _ from stays]; decide)]
  have judged := judgeStreams_good (o := withMarker o g kept crc) here (by rw [withMarker, none_]; rfl) whole command good
  rw [last, setOp_setOp (by exact ⟨rfl, rfl⟩)] at judged
  have here' := opOf_setOp (s := inBreath s) (o' := { o with ended := o.ended ++ [g.rank], kept := o.kept ++ [(g.rank, kept)] }) listed
    ⟨rfl, rfl⟩
  refine congrArg (fun t => Host.Outcome.next (keepOuter s t)) (judged.trans (cleAdvance_idle (cleStage_idle here' begun fine (.inr ⟨sent, unwritten, ?_⟩))))
  intro it' found'
  obtain rfl : it = it' := Option.some.inj (found.symm.trans found')
  refine ⟨r, need, fun mem => ?_⟩
  rcases List.mem_append.mp mem with old | new
  · exact missing old
  · exact other (List.mem_singleton.mp new)

theorem exec_streamEndMarker_bad {kept : W32} {crc : W64} (none_ : o.markers = [])
    (whole : streamHere s (withMarker o g kept crc) g.rank g.piece.toNat = true) (command : o.kind = false)
    (bad : crc64 (streamBytes o g.rank) ≠ crc.toNat) : ∃ t, exec (.streamEndMarker g kept crc) s = .next t ∧
      t.cle.digestFail = satAdd s.cle.digestFail 1 ∧ t.mem.bytes = s.mem.bytes := by
  have here := opOf_setOp (s := inBreath s) (o' := withMarker o g kept crc) (listed_of_opByTag opened) ⟨rfl, rfl⟩
  have only : (withMarker o g kept crc).markers = [(g.rank, g.piece.toNat, kept, crc)] := by rw [withMarker, none_]; rfl
  rw [exec_streamEndMarker hup, streamEnds_judges (s := inBreath s) opened]
  refine ⟨_, rfl, ?_⟩
  split
  · obtain ⟨-, -, items, mem', ops, -, fails⟩ := sendMarker_holds (setOp (inBreath s) (withMarker o g kept crc)) o g kept crc
    generalize sendMarker (setOp (inBreath s) (withMarker o g kept crc)) o g kept crc = u at *
    obtain ⟨count, mem⟩ := judgeStreams_bad_holds (o := withMarker o g kept crc) ((opOf_of_ops ops o.q o.idx).trans here) only
      ((streamHere_congr (s := s) items ..).trans whole) command bad
    exact ⟨count.trans (by rw [fails]; rfl), congrArg (·.bytes) (mem.trans mem')⟩
  · obtain ⟨count, mem⟩ := judgeStreams_bad_holds (o := withMarker o g kept crc) here only whole command bad
    exact ⟨count, congrArg (·.bytes) mem⟩

theorem exec_doneMsg_commits {it : Item} (free : o.heldFor = none) (fine : o.failFrom = [])
    (others : ∀ m, m < groupSize s o.group → m ≠ g.rank → m ∈ o.doneFrom) (found : findItem s o.q o.idx = some it) :
    ∃ t, exec (.doneMsg g) s = .next t ∧ committed t o.q o.idx it.status it.detail := by
  have here := opOf_setOp (s := inBreath s) (o' := withPeerDone o g) (listed_of_opByTag opened) ⟨rfl, rfl⟩
  refine ⟨_, exec_doneMsg hup, ?_⟩
  rw [doneArrives_open (s := inBreath s) opened, free, if_neg (by decide),
    settleOp_commits here (allReported_done (s := inBreath s) opened others) fine]
  exact committed_commitNow (s := setOp (inBreath s) (withPeerDone o g)) found

theorem exec_failMsg_ends {it : Item} (free : o.heldFor = none) (fine : o.failFrom = [])
    (others : ∀ m, m < groupSize s o.group → m ≠ g.rank → m ∈ o.doneFrom) (found : findItem s o.q o.idx = some it) (st : Byte) (d : W64) :
    ∃ t, exec (.failMsg g st d) s = .next t ∧ ended t o.q o.idx st d := by
  have here := opOf_setOp (s := inBreath s) (o' := withPeerFail o g st d) (listed_of_opByTag opened) ⟨rfl, rfl⟩
  refine ⟨_, exec_failMsg hup st d, ?_⟩
  rw [failArrives_open (s := inBreath s) opened, free, if_neg (by decide)]
  exact ended_yieldFail (s := setOp (inBreath s) (withPeerFail o g st d)) here (allReported_fail (s := inBreath s) opened others st d)
    (by rw [withPeerFail, fine]; rfl) found

end

theorem exec_bufferWaitExpiry_begins {o : CleOp} {it : Item} (only : s.cle.ops = [o]) (group : o.group = g.group)
    (command : o.kind = false) (closed : o.begun = false) (long : 5 ≤ o.waiting) (joined : o.rejoining = false) (free : o.heldFor = none)
    (fine : o.failFrom = []) (new : o.agreed = []) (first : o.record.opcode = 0) (found : findItem s o.q o.idx = some it)
    (runs : mayRun s it = true) (peers : 2 ≤ groupSize s o.group) (quiet : s.cle.earlyAgree = []) (well : s.cle.earlyFail = []) :
    let me := getGroup s o.group
    let r := agreementOf me it.cmd false (cleOffer me it.cmd)
    ∃ t o' more, exec (.bufferWaitExpiry g.group) s = .next t ∧ opOf t o.q o.idx = some o' ∧ o'.begun = true ∧
      o'.agreed = [(me.rank.toNat, r)] ∧ o'.record = r ∧ o'.mode = me.mode ∧ o'.vc = me.vc ∧ (getGroup t o.group).st = 2 ∧
      t.sent = s.sent ++ .agreement (o.tag me.rank.toNat) r :: more := by
  have listed : o ∈ (inBreath s).cle.ops := show o ∈ s.cle.ops by rw [only]; exact List.mem_singleton_self o
  have cmd : cmdOf (inBreath s) o = it.cmd := by rw [cmdOf, show findItem (inBreath s) o.q o.idx = _ from found]
  have begins := beginOp_holds (s := inBreath s) listed first quiet well new fine
  rw [cmd] at begins
  obtain ⟨o', more, opened, ⟨begun, agreed, record, mode, vc, same, fine'⟩, set, -, -, sends⟩ := begins
  have size : groupSize (beginOp (inBreath s) o) o.group = groupSize (inBreath s) o.group := by rw [groupSize, set]; rfl
  have effect := bufferExpiry_begins (s := inBreath s) only group command closed long joined free fine found runs peers opened begun agreed
    same fine' size
  rw [exec_bufferWaitExpiry hup, effect]
  refine ⟨_, o', more, rfl, opened, begun, agreed, record, mode, vc, ?_, sends⟩
  exact (congrArg Group.st (show getGroup (keepOuter s (beginOp (inBreath s) o)) o.group = _ from set))

end

/-- Settles O59: a unit that names no operation is relayed, kept or a duplicate; one that names an operation joins it, and the operation goes
on, commits or ends with the last report. -/
theorem exchangeUnitsJoinTheirOperation : Obligations.ExchangeUnitsJoinTheirOperation := by
  unfold Obligations.ExchangeUnitsJoinTheirOperation
  intro s g hup b dup early sends
  refine ⟨fun none_ => ⟨fun noRelay => ⟨?_, ?_, ?_, ?_⟩, fun o a relay => ⟨?_, ?_, ?_, ?_⟩, ?_⟩, fun o opened => ⟨?_, ?_, ?_, ?_, ?_, ?_, ?_, ?_⟩, ?_, ?_⟩
  · intro i crc data
    rw [exec_pieceChunk hup, chunkArrives_duplicate (s := inBreath s) none_ noRelay]
    rfl
  · intro kept crc
    rw [exec_streamEndMarker hup, streamEnds_duplicate (s := inBreath s) none_ noRelay]
    rfl
  · rw [exec_doneMsg hup, doneArrives_none (s := inBreath s) none_ noRelay, inner_earlyOr]
    rfl
  · intro st d
    rw [exec_failMsg hup, failArrives_none (s := inBreath s) none_ noRelay, inner_earlyOr]
    rfl
  · exact exec_pieceChunk_relay hup none_ relay
  · exact exec_streamEndMarker_relay hup none_ relay
  · rw [exec_doneMsg hup, doneArrives_relay (s := inBreath s) none_ relay]
    rfl
  · intro st d
    rw [exec_failMsg hup, failArrives_relay (s := inBreath s) none_ relay]
    rfl
  · intro r
    rw [exec_agreementRecord hup, agreementArrives_none (s := inBreath s) none_, inner_earlyOr]
    rfl
  · intro r held
    rw [exec_agreementRecord hup, agreementArrives_again (s := inBreath s) opened held]
    rfl
  · intro r m fresh _ begun fine small other missing
    rw [exec_agreementRecord hup, agreementArrives_waits (s := inBreath s) opened fresh begun fine small other missing]
    rfl
  · exact fun i crc data good none_ => exec_pieceChunk_good hup opened good none_
  · exact fun i crc data bad => exec_pieceChunk_bad hup opened bad
  · intro kept crc none_ o'
    have same : o' = withMarker o g kept crc := by rw [withMarker, none_]; rfl
    rw [same]
    exact ⟨exec_streamEndMarker_early hup opened none_,
      fun it r whole stays command begun sent unwritten fine found need other missing good =>
        exec_streamEndMarker_good hup opened none_ whole stays command begun sent unwritten fine found need other missing good,
      exec_streamEndMarker_bad hup opened none_⟩
  · intro m small other notDone notFailed
    refine ⟨?_, fun settled st d => ?_⟩
    · rw [exec_doneMsg hup, doneArrives_waits (s := inBreath s) opened small other notDone notFailed]
      rfl
    · rw [exec_failMsg hup, failArrives_waits (s := inBreath s) opened small other notDone notFailed settled]
      rfl
  · intro begun quiet joined free healthy peer written _ st d
    obtain ⟨more, sent⟩ := sent_failArrives (s := inBreath s) opened begun quiet joined free healthy peer written st d
    exact ⟨_, more, exec_failMsg hup st d, sent⟩
  · intro it free fine others _ found
    exact ⟨exec_doneMsg_commits hup opened free fine others found, exec_failMsg_ends hup opened free fine others found⟩
  · intro h
    rw [exec_bufferWaitExpiry hup, bufferExpiry_none (s := inBreath s) h]
    rfl
  · intro o it only group command closed long joined free fine new first found runs peers quiet well
    exact exec_bufferWaitExpiry_begins hup only group command closed long joined free fine new first found runs peers quiet well

end Sys2Proof.Proofs.ExchangeUnits

/-! A rejoining operation commits, ends or runs again, and so do its peers (R282, R284, R287, R357). -/

namespace Sys2Proof.Proofs.Rejoining

open Sys2Proof Sys2Proof.Machine Sys2Proof.Safety Sys2Proof.Laws Sys2Proof.Proofs.RegisterWrites Sys2Proof.Proofs.LinkPort
  Sys2Proof.Proofs.BellRecord Sys2Proof.Proofs.ItemLaws Sys2Proof.Proofs.ItemLists Sys2Proof.Proofs.Aborts Sys2Proof.Proofs.Operations
  Sys2Proof.Proofs.ExchangeUnits

/-! ### An operation that runs again (R284) -/

/-- s with the group of an operation in its next attempt. -/
def nextAttempt (s : State) (o : CleOp) : State :=
  if o.kind then s else setGroup s o.group { getGroup s o.group with attempt := o.attempt + 1 }

/-- s with an operation set back for its next attempt. -/
def againSet (s : State) (o : CleOp) : State :=
  let s3 := modItem (setOp (nextAttempt (abortItemTasks s o.q o.idx) o) o.again) o.q o.idx dropResults
  { s3 with mem := { s3.mem with reqs := s3.mem.reqs.filter (fun r => !(r.owner = .output o.q o.idx && r.tag.isNone)) } }

theorem restartOp_eq (s : State) (o : CleOp) : restartOp s o =
    if o.kind then sendAgreement (againSet s o) o.again o.record else cleAdvance (againSet s o) o.q o.idx := rfl

theorem nextAttempt_keeps (s : State) (o : CleOp) : (nextAttempt s o).cle.ops = s.cle.ops ∧ (nextAttempt s o).sent = s.sent ∧
    ((nextAttempt s o).cle.earlyAgree = s.cle.earlyAgree ∧ (nextAttempt s o).cle.earlyDone = s.cle.earlyDone ∧
      (nextAttempt s o).cle.earlyFail = s.cle.earlyFail) ∧
    (getGroup (nextAttempt s o) o.group).rank = (getGroup s o.group).rank ∧
    (getGroup (nextAttempt s o) o.group).nm1 = (getGroup s o.group).nm1 ∧
    (o.kind = false → (getGroup (nextAttempt s o) o.group).attempt = o.attempt + 1) := by
  unfold nextAttempt
  split
  · next kind => exact ⟨rfl, rfl, ⟨rfl, rfl, rfl⟩, rfl, rfl, fun h => absurd (kind.symm.trans h) (by decide)⟩
  · rw [show getGroup (setGroup s o.group { getGroup s o.group with attempt := o.attempt + 1 }) o.group = _ from tget_tput_same ..]
    exact ⟨rfl, rfl, ⟨rfl, rfl, rfl⟩, rfl, rfl, fun _ => rfl⟩

theorem againSet_keeps {s : State} {o : CleOp} (listed : ∃ x ∈ s.cle.ops, o.q = x.q ∧ o.idx = x.idx) :
    opOf (againSet s o) o.q o.idx = some o.again ∧ (againSet s o).sent = s.sent ∧
    ((againSet s o).cle.earlyAgree = s.cle.earlyAgree ∧ (againSet s o).cle.earlyDone = s.cle.earlyDone ∧
      (againSet s o).cle.earlyFail = s.cle.earlyFail) ∧
    (getGroup (againSet s o) o.group).rank = (getGroup s o.group).rank ∧
    (getGroup (againSet s o) o.group).nm1 = (getGroup s o.group).nm1 ∧
    (o.kind = false → (getGroup (againSet s o) o.group).attempt = o.attempt + 1) := by
  obtain ⟨x, mem, q, idx⟩ := listed
  have cle : (abortItemTasks s o.q o.idx).cle = s.cle := (taskSide_abortItemTasks s o.q o.idx).cle
  have sent := sent_abortItemTasks s o.q o.idx
  rw [againSet]
  generalize abortItemTasks s o.q o.idx = u at *
  have groups : getGroup u o.group = getGroup s o.group := by rw [getGroup, cle, getGroup]
  obtain ⟨ops', sent', early', group'⟩ := nextAttempt_keeps u o
  rw [sent, cle, groups] at *
  generalize nextAttempt u o = v at *
  have found := opOf_setOp (s := v) (o := x) (o' := o.again) (ops' ▸ mem) ⟨q, idx⟩
  rw [← q, ← idx] at found
  exact ⟨found, sent', early', group'⟩

theorem beginOp_sends (s : State) (o : CleOp) : ∃ mode vc r, beginOp s o =
    sendAgreement (setGroup s o.group { getGroup s o.group with st := 2 }) { o with mode := mode, vc := vc } r := by
  rw [beginOp]
  split
  · exact ⟨o.mode, o.vc, o.record, rfl⟩
  · exact ⟨_, _, _, rfl⟩

theorem cleStage_closed {s : State} {o : CleOp} (opened : opOf s o.q o.idx = some o) (closed : o.begun = false) :
    cleStage s o.q o.idx = s ∨ cleStage s o.q o.idx = beginOp s o := by
  rw [cleStage, opened]
  cases findItem s o.q o.idx with
  | none => exact .inl rfl
  | some it =>
    dsimp only
    split
    · exact .inl rfl
    · rw [if_pos (by simp [closed])]
      split
      · exact .inr rfl
      · exact .inl rfl

/-- An operation runs again: its next attempt begins with nothing of the one before (R284). -/
structure RunsAgain (t : State) (o : CleOp) (noDones : Prop) : Prop where
  holds : ∃ o', opOf t o.q o.idx = some o' ∧ o'.attempt = o.attempt + 1 ∧ o'.chunks = [] ∧ (noDones → o'.doneFrom = []) ∧
    (o.kind = false → (getGroup t o.group).attempt = o.attempt + 1)

/-- An operation that has sent its record, its group's attempt set, runs again. -/
theorem runsAgain_sendAgreement {u v : State} {o : CleOp} {mode : Bool} {vc : BitVec 3} (opened : opOf u o.q o.idx = some o.again)
    (ops : v.cle.ops = u.cle.ops) (early : v.cle.earlyDone = u.cle.earlyDone)
    (attempt : o.kind = false → (getGroup v o.group).attempt = o.attempt + 1) (r : Agreement) :
    RunsAgain (sendAgreement v { o.again with mode := mode, vc := vc } r) o (u.cle.earlyDone = []) := by
  have listed : o.again ∈ v.cle.ops := ops ▸ listed_of_opOf opened
  obtain ⟨found, -, -, -, groups⟩ := sendAgreement_holds v (o := { o.again with mode := mode, vc := vc }) ⟨_, listed, rfl, rfl⟩ r
  refine ⟨_, found, rfl, rfl, fun none_ => ?_, fun command => (congrArg Group.attempt (groups o.group)).trans (attempt command)⟩
  show ([] : List Nat) ++ (v.cle.earlyDone.filter _).map _ = []
  rw [early, none_]
  rfl

theorem runsAgain_cleAdvance {u : State} {o : CleOp} (opened : opOf u o.q o.idx = some o.again)
    (attempt : o.kind = false → (getGroup u o.group).attempt = o.attempt + 1) (peers : 2 ≤ groupSize u o.group)
    (agree : u.cle.earlyAgree = []) (done : u.cle.earlyDone = []) (fail : u.cle.earlyFail = []) :
    RunsAgain (cleAdvance u o.q o.idx) o (u.cle.earlyDone = []) := by
  rcases cleStage_closed (o := o.again) opened rfl with stays | begins
  · rw [cleAdvance_idle (q := o.q) (idx := o.idx) stays]
    exact ⟨_, opened, rfl, rfl, fun _ => rfl, attempt⟩
  · obtain ⟨mode, vc, r, sends⟩ := beginOp_sends u o.again
    rw [sends] at begins
    have group : getGroup (setGroup u o.group { getGroup u o.group with st := 2 }) o.group = { getGroup u o.group with st := 2 } :=
      tget_tput_same ..
    obtain ⟨found, -, -, -, groups⟩ := sendAgreement_holds (setGroup u o.group { getGroup u o.group with st := 2 })
      (o := { o.again with mode := mode, vc := vc }) ⟨_, listed_of_opOf opened, rfl, rfl⟩ r
    have again := runsAgain_sendAgreement (v := setGroup u o.group { getGroup u o.group with st := 2 }) (mode := mode) (vc := vc) opened rfl rfl
      (fun command => by rw [group]; exact attempt command) r
    have size := congrArg (fun g : Group => g.nm1.toNat + 1) ((groups o.group).trans group)
    have begins : cleStage u o.q o.idx = sendAgreement (setGroup u o.group { getGroup u o.group with st := 2 })
      { o.again with mode := mode, vc := vc } r := begins
    generalize sendAgreement (setGroup u o.group { getGroup u o.group with st := 2 }) { o.again with mode := mode, vc := vc } r = v at *
    have idle : cleStage v o.q o.idx = v := by
      refine cleStage_idle found rfl ?_ (.inl ?_)
      · show ([] : List (Nat × Byte × W64)) ++ (u.cle.earlyFail.filter _).map _ = []
        rw [fail]
        rfl
      · generalize ((getGroup (setGroup u o.group { getGroup u o.group with st := 2 })
          ({ o.again with mode := mode, vc := vc } : CleOp).group).rank.toNat) = rank
        refine agreementDone_missing (m := if rank = 0 then 1 else 0) ?_ fun a mem => ?_
        · show _ < groupSize v o.group
          rw [show groupSize v o.group = groupSize u o.group from size]
          split <;> omega
        · have mem : a ∈ ([] ++ [(rank, r)]) ++ (u.cle.earlyAgree.filter _).map _ := mem
          rw [agree] at mem
          rw [List.mem_singleton.mp mem]
          show rank ≠ _
          split <;> omega
    simp only [cleAdvance, begins, idle]
    exact again

section
variable {s : State} {o : CleOp} (listed : ∃ x ∈ s.cle.ops, o.q = x.q ∧ o.idx = x.idx)
include listed

/-- A sequence-parallel operation sends its record for its next attempt. -/
theorem restartOp_parallel (kind : o.kind = true) : RunsAgain (restartOp s o) o (s.cle.earlyDone = []) ∧
    ∃ more, (restartOp s o).sent =
      s.sent ++ .agreement { o.tag (getGroup s o.group).rank.toNat with attempt := o.attempt + 1 } o.record :: more := by
  obtain ⟨opened, sent, ⟨-, done, -⟩, rank, -, attempt⟩ := againSet_keeps listed
  rw [restartOp_eq, if_pos kind]
  constructor
  · rw [← done]
    exact runsAgain_sendAgreement (mode := o.mode) (vc := o.vc) opened rfl rfl attempt o.record
  · obtain ⟨-, ⟨more, sends⟩, -⟩ := sendAgreement_holds (againSet s o) (o := o.again) ⟨_, listed_of_opOf opened, rfl, rfl⟩ o.record
    rw [sent, show getGroup (againSet s o) o.again.group = getGroup (againSet s o) o.group from rfl, rank] at sends
    exact ⟨more, sends⟩

theorem restartOp_command (command : o.kind = false) (peers : 2 ≤ groupSize s o.group) (agree : s.cle.earlyAgree = [])
    (done : s.cle.earlyDone = []) (fail : s.cle.earlyFail = []) : RunsAgain (restartOp s o) o (s.cle.earlyDone = []) := by
  obtain ⟨opened, -, ⟨agree', done', fail'⟩, -, nm1, attempt⟩ := againSet_keeps listed
  rw [restartOp_eq, if_neg (by simp [command]), ← done']
  exact runsAgain_cleAdvance opened attempt (by rwa [groupSize, nm1]) (agree'.trans agree) (done'.trans done) (fail'.trans fail)

end

/-! ### A peer that rejoins (R287) -/

theorem sendReply_holds (s : State) (g : UnitTag) (vc : BitVec 3) (a : RejoinAnswer) : ∃ more,
    (sendReply s g vc a).sent = s.sent ++ .rejoinReply g a :: more ∧ (sendReply s g vc a).items = s.items ∧
    (sendReply s g vc a).mem = s.mem ∧ (sendReply s g vc a).cle.ops = s.cle.ops := by
  obtain ⟨more, sends, items, mem, ops, -, -⟩ := sent_holds (s := s) (x := .rejoinReply g a) (t := sendReply s g vc a) (portSide_toRank ..)
  exact ⟨more, sends, items, mem, ops⟩

theorem rejoinArrives_none {s : State} {g : UnitTag} (h : opBySn s g = none) (none_ : endedByTag s g = none) :
    rejoinArrives s g = sendReply s g (getGroup s g.group).vc .notAll := by
  rw [rejoinArrives, h]
  dsimp only
  rw [none_]

/-- The answer about an operation that has ended. -/
def outcomeOf (e : CleEnded) : RejoinAnswer :=
  if e.zero.isSome then .notAll else if isFailure e.status.toNat then .failed e.status e.detail else .holdsAllDone

theorem rejoinArrives_ended {s : State} {g : UnitTag} {e : CleEnded} (h : opBySn s g = none) (closed : endedByTag s g = some e) :
    rejoinArrives s g = sendReply s g (getGroup s g.group).vc (outcomeOf e) := by
  rw [rejoinArrives, h]
  dsimp only
  rw [closed, outcomeOf]
  dsimp only
  rw [apply_ite (sendReply s g (getGroup s g.group).vc), apply_ite (sendReply s g (getGroup s g.group).vc)]

theorem rejoinArrives_open {s : State} {g : UnitTag} {o : CleOp} (h : opBySn s g = some o) : rejoinArrives s g =
    sendReply (setOp s { o with heldFor := some g.rank }) g o.vc
      (if (List.range (groupSize s o.group)).all (fun r => o.doneFrom.contains r) then .holdsAllDone else .notAll) := by
  rw [rejoinArrives, h]

theorem allDone_iff {n : Nat} {l : List Nat} : (List.range n).all (fun r => l.contains r) = true ↔ ∀ r, r < n → r ∈ l := by
  simp only [List.all_eq_true, List.mem_range, List.contains_iff_mem]

section
variable {s : State} {g : UnitTag} (hup : up s)
include hup

theorem exec_rejoin : exec (.rejoin g) s = .next (keepOuter s (rejoinArrives (inBreath s) g)) :=
  live_up (f := fun s => rejoinArrives (inBreath s) g) hup

theorem exec_rejoinReply (a : RejoinAnswer) : exec (.rejoinReply g a) s = .next (keepOuter s (rejoinReply (inBreath s) g a)) :=
  live_up (f := fun s => rejoinReply (inBreath s) g a) hup

theorem exec_commitMsg : exec (.commitMsg g) s = .next (keepOuter s (commitArrives (inBreath s) g)) :=
  live_up (f := fun s => commitArrives (inBreath s) g) hup

theorem exec_restartMsg : exec (.restartMsg g) s = .next (keepOuter s (restartArrives (inBreath s) g)) :=
  live_up (f := fun s => restartArrives (inBreath s) g) hup

theorem exec_rejoin_none (h : opBySn s g = none) :
    (endedByTag s g = none → ∃ t more, exec (.rejoin g) s = .next t ∧ t.sent = s.sent ++ .rejoinReply g .notAll :: more ∧
      t.cle.ops = s.cle.ops ∧ t.items = s.items ∧ t.mem = s.mem) ∧
    ∀ e, endedByTag s g = some e → ∃ t more, exec (.rejoin g) s = .next t ∧ t.sent = s.sent ++ .rejoinReply g (outcomeOf e) :: more ∧
      t.cle.ops = s.cle.ops ∧ t.items = s.items ∧ t.mem = s.mem := by
  rw [exec_rejoin hup]
  refine ⟨fun none_ => ?_, fun e closed => ?_⟩
  · rw [rejoinArrives_none (s := inBreath s) h none_]
    obtain ⟨more, sends, items, mem, ops⟩ := sendReply_holds (inBreath s) g (getGroup (inBreath s) g.group).vc .notAll
    exact ⟨_, more, rfl, sends, ops, items, mem⟩
  · rw [rejoinArrives_ended (s := inBreath s) h closed]
    obtain ⟨more, sends, items, mem, ops⟩ := sendReply_holds (inBreath s) g (getGroup (inBreath s) g.group).vc (outcomeOf e)
    exact ⟨_, more, rfl, sends, ops, items, mem⟩

theorem exec_rejoin_open {o : CleOp} (h : opBySn s g = some o) :
    ∃ t, exec (.rejoin g) s = .next t ∧ t.cle.ops = (setOp s { o with heldFor := some g.rank }).cle.ops ∧ t.items = s.items ∧
      ((∀ r, r < groupSize s o.group → r ∈ o.doneFrom) → ∃ more, t.sent = s.sent ++ .rejoinReply g .holdsAllDone :: more) ∧
      ((∃ r, r < groupSize s o.group ∧ r ∉ o.doneFrom) → ∃ more, t.sent = s.sent ++ .rejoinReply g .notAll :: more) := by
  rw [exec_rejoin hup, rejoinArrives_open (s := inBreath s) h]
  refine ⟨_, rfl, ?_⟩
  by_cases all : ∀ r, r < groupSize s o.group → r ∈ o.doneFrom
  · rw [if_pos ((allDone_iff (n := groupSize (inBreath s) o.group)).mpr all)]
    obtain ⟨more, sends, items, -, ops⟩ := sendReply_holds (setOp (inBreath s) { o with heldFor := some g.rank }) g o.vc .holdsAllDone
    exact ⟨ops, items, fun _ => ⟨more, sends⟩, fun ⟨r, small, missing⟩ => absurd (all r small) missing⟩
  · rw [if_neg (mt (allDone_iff (n := groupSize (inBreath s) o.group)).mp all)]
    obtain ⟨more, sends, items, -, ops⟩ := sendReply_holds (setOp (inBreath s) { o with heldFor := some g.rank }) g o.vc .notAll
    exact ⟨ops, items, fun h => absurd h all, fun _ => ⟨more, sends⟩⟩

end

/-! ### The peers' answers, COMMIT and RESTART -/

theorem rejoinReply_none {s : State} {g : UnitTag} (h : opByTag s g = none) (a : RejoinAnswer) : rejoinReply s g a = countDup s := by
  rw [rejoinReply, h]

theorem commitArrives_none {s : State} {g : UnitTag} (h : opByTag s g = none) :
    commitArrives s g = if (relayOp s g).isSome then s else countDup s := by
  rw [commitArrives, h]

theorem restartArrives_duplicate {s : State} {g : UnitTag} (h : opByTag s g = none) (noRelay : relayOp s g = none)
    (behind : ahead s g = false) : restartArrives s g = countDup s := by
  rw [restartArrives, h]
  dsimp only
  rw [noRelay]
  exact if_pos (by rw [behind]; rfl)

theorem restartArrives_relay {s : State} {g : UnitTag} {o : CleOp} {r : Agreement} (h : opByTag s g = none)
    (relay : relayOp s g = some (o, r)) : restartArrives s g = zeroShapeJoins s o.group r o.sn (o.attempt + 1) := by
  rw [restartArrives, h]
  dsimp only
  rw [relay]

theorem restartArrives_open {s : State} {g : UnitTag} {o : CleOp} (h : opByTag s g = some o) : restartArrives s g = restartOp s o := by
  rw [restartArrives, h]

/-- A zero-shape member's place in a group's next attempt. -/
def zeroShapeOp (s : State) (group : Nat) (sn : W32) (attempt : Byte) : CleOp :=
  { group := group, kind := false, sn := sn, attempt := attempt, q := 0, idx := 0, vc := (getGroup s group).vc }

/-- A zero-shape member sends its record, then its DONE (R282). -/
theorem zeroShapeJoins_holds (s : State) (group : Nat) (a : Agreement) (sn : W32) (attempt : Byte) : ∃ more,
    (zeroShapeJoins s group a sn attempt).sent =
      s.sent ++ .agreement ((zeroShapeOp s group sn attempt).tag (getGroup s group).rank.toNat) a :: more ∧
    (zeroShapeJoins s group a sn attempt).items = s.items ∧ (zeroShapeJoins s group a sn attempt).mem = s.mem := by
  rw [zeroShapeJoins]
  dsimp only
  generalize s.cle.ended.filter (fun x => !(x.group = group && !x.kind && x.sn = sn)) ++ _ = ended
  generalize ho : ({ group := group, kind := false, sn := sn, attempt := attempt, q := 0, idx := 0, vc := (getGroup s group).vc } : CleOp) = o
  obtain rfl : o = zeroShapeOp s group sn attempt := ho.symm
  generalize (zeroShapeOp s group sn attempt).tag (getGroup s group).rank.toNat = t
  have first := portSide_toOthers (send (send { s with cle := { s.cle with ended := ended } } (.agreement t a)) (.done t))
    (zeroShapeOp s group sn attempt) t (agreementBytes a)
  have both := first.trans (portSide_toOthers _ (zeroShapeOp s group sn attempt) t [])
  obtain ⟨more, sends, items, mem, -⟩ := sent_holds both
  refine ⟨.done t :: more, ?_, items, mem⟩
  rw [sends]
  simp [send]

section
variable {s : State} {g : UnitTag} {o : CleOp} (opened : opByTag s g = some o)
include opened

theorem rejoinReply_still (still : o.rejoining = false) (a : RejoinAnswer) : rejoinReply s g a = s := by
  rw [rejoinReply, opened]
  exact if_pos (by rw [still]; rfl)

variable (joins : o.rejoining = true)

section
include joins

theorem rejoinReply_failed (st : Byte) (d : W64) :
    rejoinReply s g (.failed st d) = endNow (setOp s { o with rejoining := false }) o.q o.idx st.toNat d.toNat := by
  rw [rejoinReply, opened]
  exact if_neg (by simp [joins])

theorem rejoinReply_waits (few : o.replies + 2 < groupSize s o.group) :
    rejoinReply s g .notAll = setOp s { o with replies := o.replies + 1 } := by
  rw [rejoinReply, opened]
  dsimp only
  rw [if_neg (by simp [joins])]
  exact if_pos few

/-- s with RESTART sent to every other member (R287). -/
def restartSent (s : State) (o : CleOp) : State :=
  let tag := o.tag (getGroup s o.group).rank.toNat
  modItem (toOthers (send (setOp s { o with replies := o.replies + 1 }) (.restart tag)) o tag []) o.q o.idx (fun i => { i with replayed := true })

omit joins in
omit opened in
theorem restartSent_holds (s : State) (o : CleOp) :
    (∃ more, (restartSent s o).sent = s.sent ++ .restart (o.tag (getGroup s o.group).rank.toNat) :: more) ∧
    (restartSent s o).cle.ops = (setOp s { o with replies := o.replies + 1 }).cle.ops ∧
    (restartSent s o).cle.earlyDone = s.cle.earlyDone := by
  rw [restartSent]
  have before : (setOp s { o with replies := o.replies + 1 }).sent = s.sent ∧
    (setOp s { o with replies := o.replies + 1 }).cle.earlyDone = s.cle.earlyDone ∧
    getGroup (setOp s { o with replies := o.replies + 1 }) o.group = getGroup s o.group := ⟨rfl, rfl, rfl⟩
  obtain ⟨sent, early, group⟩ := before
  rw [← sent, ← early, ← group]
  generalize setOp s { o with replies := o.replies + 1 } = v
  have port := portSide_toOthers (send v (.restart (o.tag (getGroup v o.group).rank.toNat))) o (o.tag (getGroup v o.group).rank.toNat) []
  obtain ⟨more, sends, -, -, ops, -⟩ := sent_holds port
  have done : (toOthers (send v (.restart (o.tag (getGroup v o.group).rank.toNat))) o (o.tag (getGroup v o.group).rank.toNat)
    []).cle.earlyDone = v.cle.earlyDone := by rw [port.1.1]; rfl
  generalize toOthers (send v (.restart (o.tag (getGroup v o.group).rank.toNat))) o (o.tag (getGroup v o.group).rank.toNat) [] = u at *
  exact ⟨⟨more, sends⟩, ops, done⟩

theorem rejoinReply_restarts (last : groupSize s o.group ≤ o.replies + 2) :
    rejoinReply s g .notAll = restartOp (restartSent s o) { o with replies := o.replies + 1 } := by
  rw [rejoinReply, opened]
  dsimp only
  rw [if_neg (by simp [joins])]
  exact if_neg (Nat.not_lt.mpr last)

/-- An item that commits with its replayed operation, nothing of it dropped. -/
def replayedOk (i : Item) : Item := { i with replayed := true, issued := true, drops := false, status := 0x00, detail := 0 }

/-- s with COMMIT sent to every other member (R287). -/
def commitSent (s : State) (o : CleOp) : State :=
  let tag := o.tag (getGroup s o.group).rank.toNat
  toOthers (send (modItem s o.q o.idx replayedOk) (.commit tag)) o tag []

theorem rejoinReply_commits (command : o.kind = false) (whole : cmdAt (cmdOf s o) 32 4 ≤ cmdAt (cmdOf s o) 36 4) :
    rejoinReply s g .holdsAllDone = commitNow (commitSent s o) o.q o.idx := by
  have none_ : (!o.kind && contributes (cmdOf s o) (o.tag (getGroup s o.group).rank.toNat).rank &&
      decide (0 < cmdAt (cmdOf s o) 32 4 - cmdAt (cmdOf s o) 36 4)) = false := by
    rw [Nat.sub_eq_zero_of_le whole]
    exact Bool.and_false _
  rw [rejoinReply, opened]
  dsimp only
  rw [if_neg (by simp [joins]), none_]
  simp only [Bool.false_eq_true, if_false, command]
  rfl

end

theorem commitArrives_commits (fine : o.failFrom = []) (others : ∀ m, m < groupSize s o.group → m ≠ g.rank → m ∈ o.doneFrom) :
    commitArrives s g =
      commitNow (setOp s { o with heldFor := none, doneFrom := o.doneFrom ++ [g.rank] }) o.q o.idx := by
  have here := opOf_setOp (s := s) (o' := { o with heldFor := none, doneFrom := o.doneFrom ++ [g.rank] }) (listed_of_opByTag opened) ⟨rfl, rfl⟩
  rw [commitArrives, opened]
  exact settleOp_commits here (allReported_done (s := s) opened others) fine

end

/-! ### The commands of a rejoining operation -/

section
variable {s : State} {g : UnitTag} (hup : up s)
include hup

theorem exec_restartMsg_relay {o : CleOp} {r : Agreement} (h : opByTag s g = none) (relay : relayOp s g = some (o, r)) :
    ∃ t more, exec (.restartMsg g) s = .next t ∧ t.items = s.items ∧ t.mem = s.mem ∧
      t.sent = s.sent ++ .agreement { o.tag (getGroup s o.group).rank.toNat with kind := false, attempt := o.attempt + 1 } r :: more := by
  rw [exec_restartMsg hup, restartArrives_relay (s := inBreath s) h relay]
  obtain ⟨more, sends, items, mem⟩ := zeroShapeJoins_holds (inBreath s) o.group r o.sn (o.attempt + 1)
  generalize zeroShapeJoins (inBreath s) o.group r o.sn (o.attempt + 1) = u at *
  exact ⟨_, more, rfl, items, mem, sends⟩

section
variable {o : CleOp} {it : Item} (opened : opByTag s g = some o)
include opened

theorem exec_rejoinReply_failed (joins : o.rejoining = true) (found : findItem s o.q o.idx = some it) (st : Byte) (d : W64) :
    ∃ t, exec (.rejoinReply g (.failed st d)) s = .next t ∧ ended t o.q o.idx st d := by
  refine ⟨_, exec_rejoinReply hup _, ?_⟩
  rw [rejoinReply_failed (s := inBreath s) opened joins]
  have done := ended_endNow (s := setOp (inBreath s) { o with rejoining := false }) found st.toNat d.toNat
  rwa [BitVec.ofNat_toNat, BitVec.ofNat_toNat, BitVec.setWidth_eq, BitVec.setWidth_eq] at done

theorem exec_rejoinReply_commits (joins : o.rejoining = true) (found : findItem s o.q o.idx = some it) (command : o.kind = false)
    (whole : cmdAt it.cmd 32 4 ≤ cmdAt it.cmd 36 4) : ∃ t more, exec (.rejoinReply g .holdsAllDone) s = .next t ∧
      committed t o.q o.idx 0 0 ∧ t.sent = s.sent ++ .commit (o.tag (getGroup s o.group).rank.toNat) :: more := by
  have cmd : cmdOf (inBreath s) o = it.cmd := by rw [cmdOf, show findItem (inBreath s) o.q o.idx = _ from found]
  rw [exec_rejoinReply hup, rejoinReply_commits (s := inBreath s) opened joins command (by rwa [cmd])]
  obtain ⟨more, sends, items, -⟩ := sent_holds (s := modItem (inBreath s) o.q o.idx replayedOk)
    (x := .commit (o.tag (getGroup s o.group).rank.toNat)) (t := commitSent (inBreath s) o) (portSide_toOthers ..)
  have found' : findItem (commitSent (inBreath s) o) o.q o.idx = some (replayedOk it) := by
    rw [findItem_congr items, findItem_modItem _ o.q o.idx (f := replayedOk) (h := fun _ h => h),
      show findItem (inBreath s) o.q o.idx = _ from found]
    rfl
  generalize commitSent (inBreath s) o = u at *
  have done := committed_commitNow found'
  have sent := (sent_commitNow u o.q o.idx).trans sends
  generalize commitNow u o.q o.idx = t at *
  exact ⟨_, more, rfl, done, sent⟩

theorem exec_rejoinReply_restarts (joins : o.rejoining = true) (kind : o.kind = true) (last : groupSize s o.group ≤ o.replies + 2) :
    ∃ t more, exec (.rejoinReply g .notAll) s = .next t ∧ RunsAgain t o (s.cle.earlyDone = []) ∧
      t.sent = s.sent ++ .restart (o.tag (getGroup s o.group).rank.toNat) :: more := by
  rw [exec_rejoinReply hup, rejoinReply_restarts (s := inBreath s) opened joins last]
  obtain ⟨⟨more, sent⟩, ops, early⟩ := restartSent_holds (inBreath s) o
  have listed : { o with replies := o.replies + 1 } ∈ (restartSent (inBreath s) o).cle.ops :=
    ops ▸ mem_ops_setOp (s := inBreath s) (listed_of_opByTag opened) ⟨rfl, rfl⟩
  generalize restartSent (inBreath s) o = u at *
  obtain ⟨⟨again⟩, more', sends'⟩ := restartOp_parallel (s := u) (o := { o with replies := o.replies + 1 }) ⟨_, listed, rfl, rfl⟩ kind
  rw [early] at again
  rw [sent, List.append_assoc, List.cons_append] at sends'
  generalize restartOp u { o with replies := o.replies + 1 } = t at *
  exact ⟨_, _, rfl, ⟨again⟩, sends'⟩

theorem exec_restartMsg_parallel (kind : o.kind = true) : ∃ t more, exec (.restartMsg g) s = .next t ∧
    RunsAgain t o (s.cle.earlyDone = []) ∧
    t.sent = s.sent ++ .agreement { o.tag (getGroup s o.group).rank.toNat with attempt := o.attempt + 1 } o.record :: more := by
  rw [exec_restartMsg hup, restartArrives_open (s := inBreath s) opened]
  obtain ⟨⟨again⟩, more, sends⟩ := restartOp_parallel (s := inBreath s) (o := o) ⟨_, listed_of_opByTag opened, rfl, rfl⟩ kind
  exact ⟨_, more, rfl, ⟨again⟩, sends⟩

theorem exec_restartMsg_command (command : o.kind = false) (peers : 2 ≤ groupSize s o.group) (agree : s.cle.earlyAgree = [])
    (done : s.cle.earlyDone = []) (fail : s.cle.earlyFail = []) :
    ∃ t, exec (.restartMsg g) s = .next t ∧ RunsAgain t o (s.cle.earlyDone = []) := by
  rw [exec_restartMsg hup, restartArrives_open (s := inBreath s) opened]
  obtain ⟨again⟩ := restartOp_command (s := inBreath s) (o := o) ⟨_, listed_of_opByTag opened, rfl, rfl⟩ command peers agree done fail
  exact ⟨_, rfl, ⟨again⟩⟩

theorem exec_commitMsg_commits (found : findItem s o.q o.idx = some it) (fine : o.failFrom = [])
    (others : ∀ m, m < groupSize s o.group → m ≠ g.rank → m ∈ o.doneFrom) :
    ∃ t, exec (.commitMsg g) s = .next t ∧ committed t o.q o.idx it.status it.detail := by
  refine ⟨_, exec_commitMsg hup, ?_⟩
  rw [commitArrives_commits (s := inBreath s) opened fine others]
  exact committed_commitNow (s := setOp (inBreath s) { o with heldFor := none, doneFrom := o.doneFrom ++ [g.rank] }) found

end
end

/-- Settles O60: a peer answers with what became of the operation, and the operation commits, ends or runs again by its peers' answers. -/
theorem rejoiningCommitsOrRunsAgain : Obligations.RejoiningCommitsOrRunsAgain := by
  unfold Obligations.RejoiningCommitsOrRunsAgain
  intro s g hup b dup replies
  refine ⟨exec_rejoin_none hup, fun o h => exec_rejoin_open hup h, fun none_ => ⟨fun a => ?_, fun noRelay => ?_, fun noRelay behind => ?_,
    fun o r relay => ⟨?_, exec_restartMsg_relay hup none_ relay⟩⟩, fun o opened still a => ?_, ?_⟩
  · rw [exec_rejoinReply hup, rejoinReply_none (s := inBreath s) none_]
    rfl
  · rw [exec_commitMsg hup, commitArrives_none (s := inBreath s) none_, if_neg (by rw [show relayOp (inBreath s) g = none from noRelay]; decide)]
    rfl
  · rw [exec_restartMsg hup, restartArrives_duplicate (s := inBreath s) none_ noRelay behind]
    rfl
  · rw [exec_commitMsg hup, commitArrives_none (s := inBreath s) none_,
      if_pos (by rw [show relayOp (inBreath s) g = some (o, r) from relay]; rfl)]
    rfl
  · rw [exec_rejoinReply hup, rejoinReply_still (s := inBreath s) opened still]
    rfl
  · intro o it opened _ found me again
    refine ⟨fun joins => ⟨exec_rejoinReply_failed hup opened joins found, exec_rejoinReply_commits hup opened joins found, fun few => ?_,
      fun kind last => ?_⟩, fun kind => ?_, fun command peers agree done fail => ?_, exec_commitMsg_commits hup opened found⟩
    · rw [exec_rejoinReply hup, rejoinReply_waits (s := inBreath s) opened joins few]
      rfl
    · obtain ⟨t, more, step, ⟨runs⟩, sends⟩ := exec_rejoinReply_restarts hup opened joins kind last
      exact ⟨t, more, step, runs, sends⟩
    · obtain ⟨t, more, step, ⟨runs⟩, sends⟩ := exec_restartMsg_parallel hup opened kind
      exact ⟨t, more, step, runs, sends⟩
    · obtain ⟨t, step, ⟨runs⟩⟩ := exec_restartMsg_command hup opened command peers agree done fail
      exact ⟨t, step, runs⟩

end Sys2Proof.Proofs.Rejoining

/-! Collectives wait for buffer or send their agreement, and GROUP_SET sets a group (chapter 13, R276, R277, R285, R289). -/

namespace Sys2Proof.Proofs.Collectives

open Sys2Proof Sys2Proof.Machine Sys2Proof.Safety Sys2Proof.Laws Sys2Proof.Proofs.RegisterWrites Sys2Proof.Proofs.LinkPort
  Sys2Proof.Proofs.BellRecord Sys2Proof.Proofs.ItemLaws Sys2Proof.Proofs.ItemLists Sys2Proof.Proofs.Aborts Sys2Proof.Proofs.Operations
  Sys2Proof.Proofs.ExchangeUnits Sys2Proof.Proofs.Accesses Sys2Proof.Proofs.PagingBegin

/-! ### What an operation's progress keeps -/

/-- j goes on from i: it does not fall back to ACCEPTED, and no output of it has reached memory meanwhile. -/
def Onward (i j : Item) : Prop := (i.stage ≠ .accepted → j.stage ≠ .accepted) ∧ j.landed = i.landed

theorem tracks_onward : Tracks Onward where
  trans a b := ⟨fun h => b.1 (a.1 h), b.2.trans a.2⟩
  marks _ _ := ⟨id, rfl⟩

/-- No output of an item has reached memory. -/
def NothingLanded (q : Nat) (idx : W32) (s : State) : Prop := ∀ i, findItem s q idx = some i → i.landed = []

/-- An item's work from s to t: it sends on, the item goes on, and no byte of memory changes while none of its outputs has reached it. -/
structure Works (q : Nat) (idx : W32) (s t : State) : Prop where
  sent : ∃ more, t.sent = s.sent ++ more
  item : FoundAs Onward q idx s t
  bytes : NothingLanded q idx s → t.mem.bytes = s.mem.bytes

section
variable {q : Nat} {idx : W32}

theorem Works.refl (s : State) : Works q idx s s := ⟨⟨[], (List.append_nil _).symm⟩, .refl tracks_onward s, fun _ => rfl⟩

theorem nothingLanded_of_foundAs {s t : State} (h : FoundAs Onward q idx s t) (none_ : NothingLanded q idx s) : NothingLanded q idx t := by
  intro j found
  cases before : findItem s q idx with
  | none => rw [h.none before] at found; cases found
  | some i =>
    obtain ⟨k, found', -, landed⟩ := h.some before
    obtain rfl := Option.some.inj (found.symm.trans found')
    exact landed.trans (none_ i before)

theorem Works.trans {s t u : State} (a : Works q idx s t) (b : Works q idx t u) : Works q idx s u := by
  obtain ⟨x, hx⟩ := a.sent
  obtain ⟨y, hy⟩ := b.sent
  exact ⟨⟨x ++ y, by rw [hy, hx, List.append_assoc]⟩, .trans tracks_onward a.item b.item,
    fun h => (b.bytes (nothingLanded_of_foundAs a.item h)).trans (a.bytes h)⟩

theorem Works.foldl {α : Type} {f : State → α → State} (h : ∀ s a, Works q idx s (f s a)) (l : List α) (s : State) :
    Works q idx s (l.foldl f s) := by
  induction l generalizing s with
  | nil => exact .refl s
  | cons a l ih => exact (h s a).trans (ih _)

theorem Works.quiet {s t : State} (sent : t.sent = s.sent) (items : t.items = s.items) (bytes : t.mem.bytes = s.mem.bytes) : Works q idx s t :=
  ⟨⟨[], by rw [sent, List.append_nil]⟩, .of_items tracks_onward items, fun _ => bytes⟩

theorem works_of_portSide {s t : State} (h : PortSide s t) : Works q idx s t :=
  ⟨h.2, .of_items tracks_onward h.items, fun _ => by rw [mem_of_portSide h]⟩

theorem works_send (s : State) (x : Sent) : Works q idx s (send s x) := ⟨⟨[x], rfl⟩, .of_items tracks_onward rfl, fun _ => rfl⟩

theorem works_setOp (s : State) (o : CleOp) : Works q idx s (setOp s o) := .quiet rfl rfl rfl

theorem works_setGroup (s : State) (g : Nat) (v : Group) : Works q idx s (setGroup s g v) := .quiet rfl rfl rfl

theorem works_modItem (s : State) {f : Item → Item} (named : ∀ i, isItem q idx i = true → isItem q idx (f i) = true)
    (keeps : ∀ i, Onward i (f i)) : Works q idx s (modItem s q idx f) :=
  ⟨⟨[], (List.append_nil _).symm⟩, .modItem_same s named keeps, fun _ => rfl⟩

theorem works_setOp_modItem (s : State) (o : CleOp) {f : Item → Item} (named : ∀ i, isItem q idx i = true → isItem q idx (f i) = true)
    (keeps : ∀ i, Onward i (f i)) : Works q idx s (setOp (modItem s q idx f) o) := (works_modItem s named keeps).trans (works_setOp ..)

theorem works_endNow (s : State) (st d : Nat) : Works q idx s (endNow s q idx st d) where
  sent := ⟨[], by rw [sent_endNow, List.append_nil]⟩
  item := .endNow_same tracks_onward s st d (fun _ _ => ⟨fun _ => Stage.noConfusion, rfl⟩)
  bytes _ := by rw [(itemSide_endNow s q idx st d).mem]

theorem works_commitNow (s : State) : Works q idx s (commitNow s q idx) where
  sent := ⟨[], by rw [sent_commitNow, List.append_nil]⟩
  bytes _ := by rw [(itemSide_commitNow s q idx).mem]
  item := by
    rw [commitNow]
    cases findItem s q idx with
    | none => exact .refl tracks_onward s
    | some i =>
      exact .trans tracks_onward (.of_sameItems tracks_onward (sameItems_closeOp s q idx i.status i.detail))
        (.modItem_same _ (f := fun x => { x with stage := .committed, breath := lowBreath s }) (fun _ h => h) (fun _ => ⟨fun _ => Stage.noConfusion, rfl⟩))

theorem works_settleOp (s : State) : Works q idx s (settleOp s q idx) := by
  unfold settleOp
  split
  · exact .refl s
  · dsimp only
    split
    · split
      · exact works_endNow ..
      · exact works_commitNow s
    · exact .refl s

theorem works_abortItemTasks (s : State) : Works q idx s (abortItemTasks s q idx) where
  sent := ⟨[], by rw [sent_abortItemTasks, List.append_nil]⟩
  item := .of_sameItems tracks_onward (sameItems_abortItemTasks s q idx)
  bytes _ := by rw [(taskSide_abortItemTasks s q idx).mem]

theorem works_failReported (s : State) (o : CleOp) (st d : Nat) : Works q idx s (failReported s q idx o st d) := by
  have aborted := works_abortItemTasks (q := q) (idx := idx) s
  rw [failReported]
  generalize abortItemTasks s q idx = u at aborted
  refine .trans (.trans aborted ?_) (works_modItem _ (f := fun i => { i with holdKeys := [], retryFull := false, ready := none })
    (fun _ h => h) (fun _ => ⟨id, rfl⟩))
  exact (works_setOp u _).trans ((works_send _ _).trans (works_of_portSide (portSide_toOthers ..)))

theorem works_endItem (s : State) (st d : Nat) : Works q idx s (endItem s q idx st d) := by
  cases opened : opOf s q idx with
  | none => rw [endItem_alone opened]; exact works_endNow ..
  | some o =>
    cases failed : failedHere s o with
    | true => rw [endItem_failed opened failed]; exact .refl s
    | false =>
      rw [endItem_reports opened failed]
      exact (works_failReported s o st d).trans (works_settleOp _)

theorem works_of_bellSide {s t : State} (h : BellSide s t) : Works q idx s t := .quiet (by rw [h]) (by rw [h]) (by rw [h])

theorem works_openFault (s : State) (e q' : Nat) (idx' : W32) (ctx : CtxId) (a : W64) (w : Bool) (r l : Nat) (p : W64) :
    Works q idx s (openFault s e q' idx' ctx a w r l p).1 := by
  unfold openFault
  dsimp only
  split
  · exact .quiet rfl rfl rfl
  · split <;> exact .quiet rfl rfl rfl

theorem sent_spoilOutputs (s : State) (it : Item) : (spoilOutputs s it).sent = s.sent := by
  rw [spoilOutputs]
  generalize it.landed = l
  induction l generalizing s with
  | nil => rfl
  | cons r l ih => exact (ih (storeAny s r.1 r.2)).trans rfl

theorem works_spoilOutputs {s : State} {it : Item} (found : findItem s q idx = some it) : Works q idx s (spoilOutputs s it) where
  sent := ⟨[], by rw [sent_spoilOutputs, List.append_nil]⟩
  item := .of_items tracks_onward (items_spoilOutputs s it)
  bytes none_ := by
    rw [spoilOutputs, none_ it found]
    rfl

theorem works_itemErr (s : State) (e : MErr) : Works q idx s (itemErr s q idx e) := by
  rw [itemErr]
  cases found : findItem s q idx with
  | none => exact .refl s
  | some it =>
    cases e with
    | bad addr r =>
      dsimp only
      have bell := bellSide_bellRaise s (if r = .poison then 0x0030 else 0x0031) 0 it.ctx 0 (addrKey addr)
      generalize bellRaise s (if r = .poison then 0x0030 else 0x0031) 0 it.ctx 0 (addrKey addr) = u at bell
      have found' : findItem u q idx = some it := (findItem_congr (by rw [bell]) q idx).trans found
      exact ((works_of_bellSide bell).trans (works_spoilOutputs found')).trans (works_endItem ..)
    | noCtx addr => exact works_endItem ..
    | fault addr write reason level pte => exact (works_openFault ..).trans (works_modItem _ (fun _ h => h) (fun _ => ⟨id, rfl⟩))

theorem works_countVerified (s : State) (n : Nat) : Works q idx s (countVerified s n) := .quiet rfl rfl rfl

theorem works_blockMismatch (s : State) (ctx : CtxId) (b : W64) (n : Nat) : Works q idx s (blockMismatch s q idx ctx b n) := by
  unfold blockMismatch
  refine .trans (.trans ?_ (works_of_bellSide (bellSide_bellRaise ..))) (works_endItem ..)
  exact .quiet rfl rfl rfl

theorem works_issueReq (s : State) (r : Req) : Works q idx s (issueReq s r) := .quiet rfl rfl rfl

theorem works_issueOuts {s t : State} {q' : Nat} {idx' : W32} {pool : Nat} {ctx : CtxId} {outs : List Out}
    (h : issueOuts s q' idx' pool ctx outs = .ok t) : Works q idx s t := by
  unfold issueOuts at h
  split at h
  · cases h
  · cases h
    exact Works.foldl (fun _ _ => works_issueReq ..) _ _

/-! ### The stages of an operation -/

theorem works_sendAgreement (s : State) (o : CleOp) (r : Agreement) : Works q idx s (sendAgreement s o r) := by
  have sends : Works q idx s (agreementSent s o r) := .trans (works_send s _) (works_of_portSide (portSide_toOthers ..))
  rw [sendAgreement_eq]
  generalize agreementSent s o r = u at sends
  obtain ⟨sent, items, mem, -⟩ := takeEarly_keeps u (begunWith o (getGroup s o.group).rank.toNat r)
  exact sends.trans (.quiet sent items (by rw [mem]))

theorem works_beginOp (s : State) (o : CleOp) : Works q idx s (beginOp s o) := by
  unfold beginOp
  dsimp only
  split <;> exact (works_setGroup ..).trans (works_sendAgreement ..)

theorem works_sendChunks (s : State) (o : CleOp) (us : List (Nat × Nat × List Byte)) : Works q idx s (sendChunks s o us) :=
  Works.trans (works_setOp s _) (Works.foldl (fun _ _ => (works_send ..).trans (works_of_portSide (portSide_toNext ..))) _ _)

theorem works_sendParts (x : Source) (l : List Nat) (s : State) : Works q idx s (sendParts x q idx l s) := by
  induction l generalizing s with
  | nil => exact .refl s
  | cons off l ih =>
    unfold sendParts
    dsimp only
    split
    · exact .refl s
    · split
      · exact ih s
      · split
        · exact works_itemErr ..
        · exact works_blockMismatch ..
        · split
          · exact works_itemErr ..
          · exact ((works_countVerified ..).trans (works_sendChunks ..)).trans (ih _)

theorem works_endSource (s : State) (o : CleOp) (k : Nat) : Works q idx s (endSource s o k) :=
  (works_setOp ..).trans ((works_send ..).trans (works_of_portSide (portSide_toNext ..)))

section
variable {o : CleOp} (named : o.q = q ∧ o.idx = idx)
include named

theorem works_sendContribution (s : State) : Works q idx s (sendContribution s o) := by
  obtain ⟨rfl, rfl⟩ := named
  unfold sendContribution
  dsimp only
  split
  · exact .refl s
  · split
    · exact works_setOp ..
    · split
      · exact works_sendParts ..
      · split
        · exact (works_sendParts ..).trans (works_endSource ..)
        · exact works_sendParts ..

theorem works_writeResult (s : State) : Works q idx s (writeResult s o) := by
  obtain ⟨rfl, rfl⟩ := named
  unfold writeResult
  dsimp only
  split
  · exact .refl s
  · split
    · exact works_itemErr ..
    · next h1 =>
      split
      · exact works_itemErr ..
      · next h2 =>
        exact ((works_issueOuts h1).trans (works_issueOuts h2)).trans
          (works_setOp_modItem _ _ (fun _ h => h) (fun _ => ⟨id, rfl⟩))

theorem works_sendDone (s : State) : Works q idx s (sendDone s o) := by
  obtain ⟨rfl, rfl⟩ := named
  rw [sendDone_eq]
  exact ((works_setOp s (withDone s o)).trans ((works_send ..).trans (works_of_portSide (portSide_doneSent s o)))).trans (works_settleOp _)

end

theorem works_yieldFail (s : State) : Works q idx s (yieldFail s q idx) := by
  cases opened : opOf s q idx with
  | none => rw [yieldFail, opened]; exact .refl s
  | some o =>
    rw [yieldFail_eq opened]
    have dropped : Works q idx s (workDropped s q idx) :=
      (works_abortItemTasks s).trans (works_modItem _ (fun _ h => h) (fun _ => ⟨id, rfl⟩))
    split
    · exact .refl s
    · split
      · exact dropped.trans (works_sendDone (name_of_opOf opened) _)
      · exact dropped

theorem works_cleStage (s : State) : Works q idx s (cleStage s q idx) := by
  unfold cleStage
  dsimp only
  split
  · next opened _ =>
    have named := name_of_opOf opened
    split
    · exact .refl s
    · split
      · split
        · exact works_beginOp ..
        · exact .refl s
      · split
        · exact works_yieldFail s
        · split
          · exact .refl s
          · split
            · split
              · exact works_endItem ..
              · exact works_sendContribution named s
            · split
              · split
                · exact works_writeResult named s
                · exact .refl s
              · split
                · exact works_sendDone named s
                · exact .refl s
  · exact .refl s

end

/-! ### A collective begins (R277, R289) -/

/-- The operation that a collective's item opens. -/
def newOp (s : State) (q : Nat) (idx : W32) (i : Item) : CleOp :=
  { group := q - 96, kind := false, sn := (getGroup s (q - 96)).epoch, attempt := (getGroup s (q - 96)).attempt, q := q, idx := idx,
    want := cleWant (getGroup s (q - 96)) i.cmd }

/-- s with an item that executes and its operation. -/
def opened (s : State) (q : Nat) (idx : W32) (i : Item) : State :=
  let s1 := modItem s q idx (fun x => { x with stage := .executing, begun := true })
  setGroup { s1 with cle := { s1.cle with ops := s1.cle.ops ++ [newOp s q idx i] } } (q - 96)
    { getGroup s (q - 96) with st := if cleWant (getGroup s (q - 96)) i.cmd = 0 then 2 else 3 }

/-- An operation that has not begun does so once it holds its units, or at the end of its wait. -/
theorem cleStage_closed_eq {s : State} {q : Nat} {idx : W32} {o : CleOp} {it : Item} (opened : opOf s q idx = some o)
    (found : findItem s q idx = some it) (runs : mayRun s it = true) (command : o.kind = false) (closed : o.begun = false)
    (joined : o.rejoining = false) (free : o.heldFor = none) (fine : o.failFrom = []) : cleStage s q idx =
    if (decide ((getGroup s o.group).grant ≥ o.want) || decide (5 ≤ o.waiting)) = true then beginOp s o else s := by
  have failed : failedHere s o = false := by rw [failedHere, fine]; rfl
  rw [cleStage, opened, found]
  dsimp only
  rw [if_neg (by simp [command, runs, joined, free, failed]), if_pos (by simp [closed])]

/-- The begin of an operation sends this member's record. -/
theorem sent_beginOp {s : State} {o : CleOp} (listed : o ∈ s.cle.ops) (first : o.record.opcode = 0) : ∃ more, (beginOp s o).sent =
    s.sent ++ .agreement (o.tag (getGroup s o.group).rank.toNat)
      (agreementOf (getGroup s o.group) (cmdOf s o) false (cleOffer (getGroup s o.group) (cmdOf s o))) :: more := by
  have eq : beginOp s o = sendAgreement (setGroup s o.group { getGroup s o.group with st := 2 })
    { o with mode := (getGroup s o.group).mode, vc := (getGroup s o.group).vc } _ := if_neg (not_not.mpr first)
  have group : getGroup (setGroup s o.group { getGroup s o.group with st := 2 }) o.group = { getGroup s o.group with st := 2 } :=
    tget_tput_same ..
  rw [eq]
  generalize agreementOf (getGroup s o.group) (cmdOf s o) false (cleOffer (getGroup s o.group) (cmdOf s o)) = r
  obtain ⟨-, ⟨more, sends⟩, -⟩ := sendAgreement_holds (setGroup s o.group { getGroup s o.group with st := 2 })
    (o := { o with mode := (getGroup s o.group).mode, vc := (getGroup s o.group).vc }) ⟨o, listed, rfl, rfl⟩ r
  rw [show getGroup (setGroup s o.group { getGroup s o.group with st := 2 })
    ({ o with mode := (getGroup s o.group).mode, vc := (getGroup s o.group).vc } : CleOp).group = { getGroup s o.group with st := 2 }
    from group] at sends
  exact ⟨more, sends⟩

section
variable {s : State} {q : Nat} {idx : W32} {op : Nat} {i : Item} (begins : itemBegins s q idx op i)
include begins

theorem cleRun_begins : cleRun s q idx op = cleAdvance (opened s q idx i) q idx := by
  obtain ⟨found, code, may, -⟩ := begins
  have accepted := stage_of_mayBegin may
  rw [cleRun, found]
  dsimp only
  rw [if_neg (not_not.mpr code), if_neg (by rw [accepted]; exact Stage.noConfusion), if_neg (by rw [may]; decide)]
  rfl

theorem findItem_opened : findItem (opened s q idx i) q idx = some { i with stage := .executing, begun := true } := by
  obtain ⟨found, -⟩ := begins
  refine (findItem_modItem s q idx (f := fun x => { x with stage := .executing, begun := true }) (h := fun _ h => h)).trans ?_
  rw [found]
  rfl

theorem mayRun_opened : mayRun (opened s q idx i) { i with stage := .executing, begun := true } = true := by
  obtain ⟨-, -, may, keys, retry, ready⟩ := begins
  simp only [mayBegin, Bool.and_eq_true] at may
  have run : running (opened s q idx i) = true := may.2
  simp [mayRun, keys, retry, ready, run]

omit begins in
theorem getGroup_opened : getGroup (opened s q idx i) (q - 96) =
    { getGroup s (q - 96) with st := if cleWant (getGroup s (q - 96)) i.cmd = 0 then 2 else 3 } := tget_tput_same ..

omit begins in
theorem opOf_opened (new : opOf s q idx = none) : opOf (opened s q idx i) q idx = some (newOp s q idx i) := by
  show (s.cle.ops ++ [newOp s q idx i]).find? (opNamed q idx) = _
  rw [List.find?_append, show s.cle.ops.find? (opNamed q idx) = none from new, Option.none_or, List.find?_singleton,
    if_pos (show opNamed q idx (newOp s q idx i) = true from opNamed_iff.mpr ⟨rfl, rfl⟩)]

theorem cleStage_opened (new : opOf s q idx = none) : cleStage (opened s q idx i) q idx =
    if cleWant (getGroup s (q - 96)) i.cmd ≤ (getGroup s (q - 96)).grant then beginOp (opened s q idx i) (newOp s q idx i)
    else opened s q idx i := by
  rw [cleStage_closed_eq (opOf_opened new) (findItem_opened begins) (mayRun_opened begins) rfl rfl rfl rfl rfl,
    show (newOp s q idx i).group = q - 96 from rfl, getGroup_opened]
  refine if_congr ?_ rfl rfl
  simp [newOp]

/-- With too few units granted the operation waits. -/
theorem cleRun_waits (new : opOf s q idx = none) (short : (getGroup s (q - 96)).grant < cleWant (getGroup s (q - 96)) i.cmd) :
    cleRun s q idx op = opened s q idx i := by
  rw [cleRun_begins begins]
  exact cleAdvance_idle ((cleStage_opened begins new).trans (if_neg (Nat.not_le.mpr short)))

/-- An operation that wants no buffer sends its record first. -/
theorem cleRun_agrees (new : opOf s q idx = none) (free : cleWant (getGroup s (q - 96)) i.cmd = 0) :
    (∃ more, (cleRun s q idx op).sent = s.sent ++ Sent.agreement ((newOp s q idx i).tag (getGroup s (q - 96)).rank.toNat)
      (agreementOf { getGroup s (q - 96) with st := 2 } i.cmd false (cleOffer { getGroup s (q - 96) with st := 2 } i.cmd)) :: more) ∧
    Works q idx (opened s q idx i) (cleRun s q idx op) := by
  have group : getGroup (opened s q idx i) (q - 96) = { getGroup s (q - 96) with st := 2 } := by rw [getGroup_opened, if_pos free]
  have cmd : cmdOf (opened s q idx i) (newOp s q idx i) = i.cmd := by
    rw [cmdOf, show (newOp s q idx i).q = q from rfl, show (newOp s q idx i).idx = idx from rfl, findItem_opened begins]
  obtain ⟨more, sends⟩ := sent_beginOp (listed_of_opOf (opOf_opened (i := i) new)) rfl
  have first : cleStage (opened s q idx i) q idx = beginOp (opened s q idx i) (newOp s q idx i) :=
    (cleStage_opened begins new).trans (if_pos (free ▸ Nat.zero_le _))
  rw [cmd, show (newOp s q idx i).group = q - 96 from rfl, group] at sends
  have begun : Works q idx (opened s q idx i) (beginOp (opened s q idx i) (newOp s q idx i)) := works_beginOp ..
  rw [cleRun_begins begins, cleAdvance]
  dsimp only
  rw [first]
  generalize beginOp (opened s q idx i) (newOp s q idx i) = u at *
  have rest : Works q idx u (cleStage (cleStage (cleStage u q idx) q idx) q idx) :=
    ((works_cleStage u).trans (works_cleStage _)).trans (works_cleStage _)
  refine ⟨?_, begun.trans rest⟩
  obtain ⟨later, sent⟩ := rest.sent
  exact ⟨more ++ later, by rw [sent, sends, List.append_assoc, List.cons_append]; rfl⟩

end

section
variable {s : State} {q : Nat} {idx : W32} {op : Nat} {i : Item} {c : Instr} (hup : up s) (new : opOf s q idx = none)
  (begins : itemBegins s q idx op i) (step : exec c s = .next (keepOuter s (cleRun (inBreath s) q idx op)))
include hup new begins step

theorem exec_collective_waits (short : (getGroup s (q - 96)).grant < cleWant (getGroup s (q - 96)) i.cmd) :
    ∃ t j, exec c s = .next t ∧ findItem t q idx = some j ∧ j.stage = .executing ∧ t.cle.ops = s.cle.ops ++ [newOp s q idx i] ∧
      getGroup t (q - 96) = { getGroup s (q - 96) with st := 3 } ∧ t.sent = s.sent ∧ t.mem = s.mem := by
  have begins' : itemBegins (inBreath s) q idx op i := begins
  have found := findItem_opened begins'
  have group := (getGroup_opened (s := inBreath s) (q := q) (idx := idx) (i := i)).trans
    (congrArg (fun st => { getGroup s (q - 96) with st := st })
      (if_neg (show ¬ cleWant (getGroup s (q - 96)) i.cmd = 0 by omega) : _ = (3 : BitVec 2)))
  have same : (opened (inBreath s) q idx i).cle.ops = s.cle.ops ++ [newOp s q idx i] ∧ (opened (inBreath s) q idx i).sent = s.sent ∧
    (opened (inBreath s) q idx i).mem = s.mem := ⟨rfl, rfl, rfl⟩
  obtain ⟨ops, sent, mem⟩ := same
  rw [step, cleRun_waits begins' new short]
  generalize opened (inBreath s) q idx i = u at *
  exact ⟨_, _, rfl, found, rfl, ops, group, sent, mem⟩

theorem exec_collective_agrees (clean : i.landed = []) (free : cleWant (getGroup s (q - 96)) i.cmd = 0) :
    ∃ t j more, exec c s = .next t ∧ findItem t q idx = some j ∧ j.stage ≠ .accepted ∧
      t.sent = s.sent ++ Sent.agreement ((newOp s q idx i).tag (getGroup s (q - 96)).rank.toNat)
        (agreementOf { getGroup s (q - 96) with st := 2 } i.cmd false (cleOffer { getGroup s (q - 96) with st := 2 } i.cmd)) :: more ∧
      t.mem.bytes = s.mem.bytes := by
  have begins' : itemBegins (inBreath s) q idx op i := begins
  obtain ⟨⟨more, sends⟩, works⟩ := cleRun_agrees begins' new free
  obtain ⟨j, found, stage, -⟩ := works.item.some (findItem_opened begins')
  have bytes := works.bytes fun k hk => by
    obtain rfl := Option.some.inj ((findItem_opened begins').symm.trans hk)
    exact clean
  rw [step]
  generalize cleRun (inBreath s) q idx op = t at *
  exact ⟨_, j, more, rfl, found, stage Stage.noConfusion, sends, bytes⟩

end

/-! ### GROUP_SET (R276) -/

theorem noDup_iff (ms : List Member) : noDup ms = true ↔ ms.Nodup := by
  induction ms with
  | nil => simp [noDup]
  | cons m ms ih => simp [noDup, ih, List.nodup_cons]

/-- The group that a legal descriptor describes. -/
def describedGroup (old : Group) (c : BitVec 512) (bs : List Byte) (n : Nat) : Group :=
  { old with
    epoch := BitVec.ofNat 32 (cmdAt c 44 4), spSn := 0, spAttempt := 0, rank := BitVec.ofNat 8 (leAt bs 2 1), nm1 := BitVec.ofNat 8 (n - 1)
    ovl := decide (leAt bs 3 1 % 2 = 1), members := parseMembers bs n, st := 1, attempt := 0 }

/-- s with a group set, and the outcomes kept under numbers that come again forgotten. -/
def groupDescribed (s : State) (g : Nat) (v : Group) : State :=
  { setGroup s g v with cle := { (setGroup s g v).cle with ended := s.cle.ended.filter (fun e => !comesAgain g v.epoch e) } }

section
variable {s : State} {q : Nat} {idx : W32} {i : Item} {hd bs : List Byte} (begins : itemBegins s q idx 0x36 i)
  (alone : spOpen s (q - 96) = false) (named : cmd64 i.cmd 48 ≠ 0) (head : readVa s i.ctx (cmd64 i.cmd 48) 64 = .ok hd)
  (whole : readVa s i.ctx (cmd64 i.cmd 48) (64 + 4 * (leAt hd 1 1 + 1)) = .ok bs)
  (flags : leAt bs 3 1 / 2 = 0) (rest : leAt bs 4 60 = 0) (ids : ∀ r, r < leAt hd 1 1 + 1 → leAt bs (64 + 4 * r) 4 / 2 ^ 18 = 0)
include begins alone named head whole flags rest ids

/-- A descriptor without a reserved bit sets its group when it names each member once, this die at RANK and reachable nodes alone. -/
theorem groupSet_judges : groupSet s q idx =
    if leAt hd 1 1 + 1 ≤ leAt bs 2 1 ∨ (parseMembers bs (leAt hd 1 1 + 1))[leAt bs 2 1]? ≠ some { node := s.link.node, die := s.cascId } ∨
      ¬(parseMembers bs (leAt hd 1 1 + 1)).Nodup ∨ (parseMembers bs (leAt hd 1 1 + 1)).any (fun m => unreachable s m.node) = true
    then endItem (begun s q idx) q idx 0x15 0
    else commitNow (groupDescribed (begun s q idx) (q - 96)
      (describedGroup (getGroup s (q - 96)) i.cmd bs (leAt hd 1 1 + 1))) q idx := by
  obtain ⟨found, code, may, -⟩ := begins
  have alike : ReadsAlike s (begun s q idx) := readsAlike_modItem ..
  have reserved : (decide (leAt bs 3 1 / 2 ≠ 0) || decide (leAt bs 4 60 ≠ 0) ||
      (List.range (leAt hd 1 1 + 1)).any (fun r => decide (leAt bs (64 + 4 * r) 4 / 2 ^ 18 ≠ 0))) = false := by
    simp only [flags, rest, ne_eq, not_true_eq_false, decide_false, Bool.false_or, List.any_eq_false, List.mem_range, decide_eq_true_eq, not_not]
    exact ids
  rw [groupSet, found]
  dsimp only
  rw [if_neg (by simp [code, may, alone]), if_neg named]
  rw [show modItem s q idx (fun x => { x with stage := .executing, begun := true }) = begun s q idx from rfl, alike.readVa, head]
  dsimp only
  rw [alike.readVa, whole]
  dsimp only
  rw [if_neg (by rw [reserved]; decide)]
  refine if_congr ?_ rfl rfl
  simp only [Bool.or_eq_true, decide_eq_true_eq, Bool.not_eq_true', ← Bool.not_eq_true, noDup_iff, or_assoc]

end

section
variable {s : State} {q : Nat} {idx : W32} {i : Item} (new : opOf s q idx = none)
include new

theorem committed_groupDescribed (found : findItem s q idx = some i) (g : Nat) (v : Group) :
    ∃ j, findItem (commitNow (groupDescribed s g v) q idx) q idx = some j ∧ j.stage = .committed ∧
      getGroup (commitNow (groupDescribed s g v) q idx) g = v ∧
      (∀ n, n ≠ g → getGroup (commitNow (groupDescribed s g v) q idx) n = getGroup s n) ∧
      (commitNow (groupDescribed s g v) q idx).cle.ops = s.cle.ops ∧ (commitNow (groupDescribed s g v) q idx).mem = s.mem := by
  have found' : findItem (groupDescribed s g v) q idx = some i := found
  obtain ⟨j, here, stage, -⟩ := committed_commitNow found'
  refine ⟨j, here, stage, ?_⟩
  have closed : closeOp (groupDescribed s g v) q idx i.status i.detail = groupDescribed s g v := closeOp_alone (s := groupDescribed s g v) new ..
  rw [commitNow, found']
  dsimp only
  rw [closed]
  exact ⟨tget_tput_same .., fun n other => tget_tput_other _ _ _ _ _ other, rfl, rfl⟩

theorem endItem_keepsGroups (found : findItem s q idx = some i) (st d : Nat) :
    ended (endItem s q idx st d) q idx (BitVec.ofNat 8 st) (BitVec.ofNat 64 d) ∧ (endItem s q idx st d).cle.groups = s.cle.groups ∧
      (endItem s q idx st d).mem = s.mem := by
  rw [endItem_alone new]
  refine ⟨ended_endNow found st d, ?_, (itemSide_endNow s q idx st d).mem⟩
  have cle := (taskSide_abortItemTasks s q idx).cle
  rw [endNow]
  generalize abortItemTasks s q idx = u at *
  have closed : closeOp u q idx (BitVec.ofNat 8 st) (BitVec.ofNat 64 d) = u := closeOp_alone ((opOf_congr cle q idx).trans new) ..
  show (closeOp u q idx (BitVec.ofNat 8 st) (BitVec.ofNat 64 d)).cle.groups = _
  rw [closed, cle]

end

section
variable {s : State} {q : Nat} {idx : W32} {i : Item} {hd bs : List Byte} (hup : up s) (begins : itemBegins s q idx 0x36 i)
  (new : opOf s q idx = none) (alone : spOpen s (q - 96) = false) (named : cmd64 i.cmd 48 ≠ 0)
  (head : readVa s i.ctx (cmd64 i.cmd 48) 64 = .ok hd)
  (whole : readVa s i.ctx (cmd64 i.cmd 48) (64 + 4 * (leAt hd 1 1 + 1)) = .ok bs)
  (flags : leAt bs 3 1 / 2 = 0) (rest : leAt bs 4 60 = 0) (ids : ∀ r, r < leAt hd 1 1 + 1 → leAt bs (64 + 4 * r) 4 / 2 ^ 18 = 0)
include hup begins new alone named head whole flags rest ids

theorem exec_groupSet_sets (member : leAt bs 2 1 < leAt hd 1 1 + 1)
    (self : (parseMembers bs (leAt hd 1 1 + 1))[leAt bs 2 1]? = some { node := s.link.node, die := s.cascId })
    (once : (parseMembers bs (leAt hd 1 1 + 1)).Nodup)
    (near : ∀ m ∈ parseMembers bs (leAt hd 1 1 + 1), unreachable s m.node = false) :
    ∃ t j, exec (.groupSet q idx) s = .next t ∧ findItem t q idx = some j ∧ j.stage = .committed ∧
      getGroup t (q - 96) = describedGroup (getGroup s (q - 96)) i.cmd bs (leAt hd 1 1 + 1) ∧
      (∀ g, g ≠ q - 96 → getGroup t g = getGroup s g) ∧ t.cle.ops = s.cle.ops ∧ t.mem = s.mem := by
  have alike := readsAlike_inBreath s
  have judged := groupSet_judges (s := inBreath s) begins alone named ((alike.readVa ..).trans head) ((alike.readVa ..).trans whole) flags rest ids
  rw [if_neg] at judged
  · obtain ⟨j, found, stage, set, others, ops, mem⟩ := committed_groupDescribed (s := begun (inBreath s) q idx) new
      (findItem_begun begins.1) (q - 96) (describedGroup (getGroup s (q - 96)) i.cmd bs (leAt hd 1 1 + 1))
    have step : exec (.groupSet q idx) s = .next (keepOuter s (groupSet (inBreath s) q idx)) :=
      live_up (f := fun s => groupSet (inBreath s) q idx) hup
    rw [show getGroup (inBreath s) (q - 96) = getGroup s (q - 96) from rfl] at judged
    rw [step, judged]
    generalize commitNow (groupDescribed (begun (inBreath s) q idx) (q - 96)
      (describedGroup (getGroup s (q - 96)) i.cmd bs (leAt hd 1 1 + 1))) q idx = t at *
    exact ⟨_, j, rfl, found, stage, set, others, ops, mem⟩
  · rintro (far | other | twice | gone)
    · exact Nat.not_lt.mpr far member
    · exact other self
    · exact twice once
    · obtain ⟨m, mem, gone⟩ := List.any_eq_true.mp gone
      exact Bool.false_ne_true ((near m mem).symm.trans gone)

theorem exec_groupSet_fails (wrong : leAt hd 1 1 + 1 ≤ leAt bs 2 1 ∨
      (parseMembers bs (leAt hd 1 1 + 1))[leAt bs 2 1]? ≠ some { node := s.link.node, die := s.cascId } ∨
      ¬(parseMembers bs (leAt hd 1 1 + 1)).Nodup) :
    ∃ t, exec (.groupSet q idx) s = .next t ∧ ended t q idx 0x15 0 ∧ t.cle.groups = s.cle.groups ∧ t.mem = s.mem := by
  have alike := readsAlike_inBreath s
  have judged := (groupSet_judges (s := inBreath s) begins alone named ((alike.readVa ..).trans head) ((alike.readVa ..).trans whole) flags
    rest ids).trans (if_pos (wrong.imp_right (Or.imp_right .inl)))
  obtain ⟨done, groups, mem⟩ := endItem_keepsGroups (s := begun (inBreath s) q idx) new (findItem_begun begins.1) 0x15 0
  refine ⟨_, live_up (f := fun s => groupSet (inBreath s) q idx) hup, ?_⟩
  rw [judged]
  exact ⟨done, groups, mem⟩

end

/-- Settles O30: a collective waits for its buffer or sends its agreement record first, and GROUP_SET sets the group that its descriptor
describes. -/
theorem collectivesWaitAgreeOrSetTheirGroup : Obligations.CollectivesWaitAgreeOrSetTheirGroup := by
  unfold Obligations.CollectivesWaitAgreeOrSetTheirGroup
  refine ⟨?_, ?_⟩
  · intro s q idx i hup new clean p mem begins g want o
    have step : exec p.2 s = .next (keepOuter s (cleRun (inBreath s) q idx p.1)) := by
      simp only [List.mem_cons, List.not_mem_nil, or_false] at mem
      rcases mem with rfl | rfl | rfl | rfl | rfl | rfl
      · exact live_up (f := fun s => cleRun (inBreath s) q idx 0x30) hup
      · exact live_up (f := fun s => cleRun (inBreath s) q idx 0x31) hup
      · exact live_up (f := fun s => cleRun (inBreath s) q idx 0x32) hup
      · exact live_up (f := fun s => cleRun (inBreath s) q idx 0x33) hup
      · exact live_up (f := fun s => cleRun (inBreath s) q idx 0x34) hup
      · exact live_up (f := fun s => cleRun (inBreath s) q idx 0x35) hup
    exact ⟨exec_collective_waits hup new begins step, exec_collective_agrees hup new begins step clean⟩
  · intro s q idx i hd bs hup begins new alone named head n whole rank ms flags rest ids
    exact ⟨exec_groupSet_sets hup begins new alone named head whole flags rest ids,
      exec_groupSet_fails hup begins new alone named head whole flags rest ids⟩

end Sys2Proof.Proofs.Collectives

/-! The exchange of part tasks (R152, R160): what it can change of a die. -/

namespace Sys2Proof.Proofs.PartTasks

open Sys2Proof Sys2Proof.Machine Sys2Proof.Safety Sys2Proof.Laws Sys2Proof.Proofs.LinkPort Sys2Proof.Proofs.BellRecord
  Sys2Proof.Proofs.ItemLaws Sys2Proof.Proofs.ItemLists Sys2Proof.Proofs.Aborts Sys2Proof.Proofs.Operations Sys2Proof.Proofs.WindowsOpen

/-- j is i, with the same rows drained. -/
def SameDrain (i j : Item) : Prop := j.q = i.q ∧ j.idx = i.idx ∧ j.drained = i.drained

theorem SameDrain.refl (i : Item) : SameDrain i i := ⟨rfl, rfl, rfl⟩

theorem SameDrain.trans {i j k : Item} (a : SameDrain i j) (b : SameDrain j k) : SameDrain i k := by
  obtain ⟨aq, ai, ad⟩ := a
  obtain ⟨bq, bi, bd⟩ := b
  exact ⟨bq.trans aq, bi.trans ai, bd.trans ad⟩

/-- From s to t no request goes out, no row drains, no thread takes a task, none is dispatched and no queue changes. -/
structure Exchanged (s t : State) : Prop where
  gone : ∀ core thread, findTask s core thread = none → findTask t core thread = none
  queues : t.queues = s.queues
  dispatches : t.dispatches = s.dispatches
  reqs : t.mem.reqs = s.mem.reqs
  items : ItemsBy SameDrain s t

theorem Exchanged.trans {s t u : State} (a : Exchanged s t) (b : Exchanged t u) : Exchanged s u where
  gone core thread h := b.gone core thread (a.gone core thread h)
  queues := b.queues.trans a.queues
  dispatches := b.dispatches.trans a.dispatches
  reqs := b.reqs.trans a.reqs
  items := ItemsBy.trans (R := SameDrain) (fun _ _ _ x y => SameDrain.trans x y) a.items b.items

/-- Nothing of these changes, whatever else does. -/
theorem Exchanged.quiet {s t : State} (tasks : t.tasks = s.tasks) (queues : t.queues = s.queues) (dispatches : t.dispatches = s.dispatches)
    (reqs : t.mem.reqs = s.mem.reqs) (items : t.items = s.items) : Exchanged s t :=
  ⟨fun _ _ h => by rw [findTask, tasks]; exact h, queues, dispatches, reqs, .of_items .refl items⟩

theorem Exchanged.refl (s : State) : Exchanged s s := .quiet rfl rfl rfl rfl rfl

theorem Exchanged.foldl {α : Type} {f : State → α → State} (h : ∀ s a, Exchanged s (f s a)) (l : List α) (s : State) :
    Exchanged s (l.foldl f s) := by
  induction l generalizing s with
  | nil => exact .refl s
  | cons a l ih => exact (h s a).trans (ih _)

theorem findTask_none_of_sublist {s t : State} (fewer : t.tasks.Sublist s.tasks) {core thread : Nat} (h : findTask s core thread = none) :
    findTask t core thread = none := by
  rw [findTask, List.find?_eq_none] at *
  exact fun k mem => h k (fewer.subset mem)

theorem exchanged_of_itemSide {s t : State} (h : ItemSide s t) (items : ItemsBy SameDrain s t) (fewer : t.tasks.Sublist s.tasks) :
    Exchanged s t where
  gone _ _ none_ := findTask_none_of_sublist fewer none_
  queues := by rw [h]; rfl
  dispatches := by rw [h]; rfl
  reqs := by rw [h.mem]
  items := items

theorem sameDrain_of_sameItems {s t : State} (h : SameItems s t) : ItemsBy SameDrain s t := by
  obtain ⟨g, same⟩ := h
  exact .of_map same (fun i => ⟨rfl, rfl, rfl⟩)

theorem sameDrain_modItem (s : State) (q : Nat) (idx : W32) {f : Item → Item} (h : ∀ i, SameDrain i (f i)) : ItemsBy SameDrain s (modItem s q idx f) := by
  refine .of_map (f := fun i => if isItem q idx i then f i else i) rfl fun i => ?_
  split
  · exact h i
  · exact .refl i

theorem drained_of_itemsBy {s t : State} (h : ItemsBy SameDrain s t) {q : Nat} {idx : W32} {j : Item} (found : findItem t q idx = some j) :
    ∃ i, findItem s q idx = some i ∧ j.drained = i.drained := by
  have key : ∀ l m : List Item, List.Forall₂ SameDrain l m → m.find? (isItem q idx) = some j →
      ∃ i, l.find? (isItem q idx) = some i ∧ j.drained = i.drained := by
    intro l m both
    induction both with
    | nil => intro none_; cases none_
    | cons same _ ih =>
      obtain ⟨hq, hi, hd⟩ := same
      rename_i i k l m _
      have named : isItem q idx k = isItem q idx i := by rw [isItem, hq, hi, isItem]
      intro hit
      rw [List.find?_cons, named] at hit
      rw [List.find?_cons]
      split at hit
      · exact ⟨i, rfl, by rw [← Option.some.inj hit, hd]⟩
      · exact ih hit
  exact key _ _ h found

/-! ### Items and tasks -/

theorem exchanged_modItem (s : State) (q : Nat) (idx : W32) {f : Item → Item} (h : ∀ i, SameDrain i (f i)) : Exchanged s (modItem s q idx f) :=
  exchanged_of_itemSide (itemSide_modItem ..) (sameDrain_modItem s q idx h) (.refl _)

theorem exchanged_modCore (s : State) (core : Nat) (f : Core → Core) : Exchanged s (modCore s core f) := .quiet rfl rfl rfl rfl rfl

theorem exchanged_abortTask (s : State) (core thread : Nat) : Exchanged s (abortTask s core thread) :=
  exchanged_of_itemSide (itemSide_abortTask ..) (sameDrain_of_sameItems (sameItems_abortThreads ..)) (aborting_abortThreads ..).tasks

theorem tasks_abortItemTasks (s : State) (q : Nat) (idx : W32) : (abortItemTasks s q idx).tasks.Sublist s.tasks := by
  have fold : ∀ {α : Type} {f : State → α → State}, (∀ s a, (f s a).tasks.Sublist s.tasks) → ∀ (l : List α) s, (l.foldl f s).tasks.Sublist s.tasks := by
    intro α f h l
    induction l with
    | nil => exact fun s => .refl _
    | cons a l ih => exact fun s => (ih _).trans (h s a)
  unfold abortItemTasks
  refine .trans (fold (fun s (p : Nat × Nat) => ?_) _ _) (fold (fun s (k : Task) => (aborting_abortThreads ..).tasks) _ _)
  rw [dropHalo_eq]
  exact (aborting_closeWindow ..).tasks

theorem tasks_closeOp (s : State) (q : Nat) (idx : W32) (st : Byte) (d : W64) : (closeOp s q idx st d).tasks = s.tasks := by
  unfold closeOp
  split
  · rfl
  · dsimp only
    split <;> rfl

theorem exchanged_abortItemTasks (s : State) (q : Nat) (idx : W32) : Exchanged s (abortItemTasks s q idx) :=
  exchanged_of_itemSide (itemSide_abortItemTasks ..) (sameDrain_of_sameItems (sameItems_abortItemTasks ..)) (tasks_abortItemTasks ..)

theorem exchanged_closeWindow (s : State) (core w : Nat) : Exchanged s (closeWindow s core w) :=
  exchanged_of_itemSide (itemSide_closeWindow ..) (sameDrain_of_sameItems (sameItems_closeWindow ..)) (aborting_closeWindow ..).tasks

theorem exchanged_dropHalo (s : State) (core w : Nat) : Exchanged s (dropHalo s core w) := (exchanged_closeWindow ..).trans (exchanged_modCore ..)

theorem exchanged_closeOp (s : State) (q : Nat) (idx : W32) (st : Byte) (d : W64) : Exchanged s (closeOp s q idx st d) :=
  exchanged_of_itemSide (itemSide_closeOp ..) (sameDrain_of_sameItems (sameItems_closeOp ..)) (by rw [tasks_closeOp])

theorem exchanged_endNow (s : State) (q : Nat) (idx : W32) (st d : Nat) : Exchanged s (endNow s q idx st d) :=
  (((exchanged_abortItemTasks s q idx).trans (exchanged_closeOp _ q idx (BitVec.ofNat 8 st) (BitVec.ofNat 64 d))).trans
    (exchanged_modItem _ q idx (f := fun i => i.endWith st d (lowBreath s)) (fun _ => ⟨rfl, rfl, rfl⟩))).trans (.quiet rfl rfl rfl rfl rfl)

theorem exchanged_commitNow (s : State) (q : Nat) (idx : W32) : Exchanged s (commitNow s q idx) := by
  unfold commitNow
  split
  · exact .refl s
  · exact (exchanged_closeOp ..).trans (exchanged_modItem _ _ _ (fun _ => ⟨rfl, rfl, rfl⟩))

theorem exchanged_settleOp (s : State) (q : Nat) (idx : W32) : Exchanged s (settleOp s q idx) := by
  unfold settleOp
  split
  · exact .refl s
  · dsimp only
    split
    · split
      · exact exchanged_endNow ..
      · exact exchanged_commitNow ..
    · exact .refl s

theorem exchanged_of_portSide {s t : State} (h : PortSide s t) : Exchanged s t :=
  .quiet (by rw [h.1.1]) (by rw [h.1.1]) (by rw [h.1.1]) (by rw [h.1.1]) h.items

theorem exchanged_endItem (s : State) (q : Nat) (idx : W32) (st d : Nat) : Exchanged s (endItem s q idx st d) := by
  unfold endItem
  split
  · exact exchanged_endNow ..
  · dsimp only
    split
    · exact .refl s
    · refine .trans ?_ (exchanged_settleOp ..)
      refine .trans ?_ (exchanged_modItem _ _ _ (fun _ => ⟨rfl, rfl, rfl⟩))
      refine .trans ?_ (exchanged_of_portSide (portSide_toOthers ..))
      exact (exchanged_abortItemTasks ..).trans (.quiet rfl rfl rfl rfl rfl)

theorem exchanged_bellRaise (s : State) (code : Nat) (u : W16) (ctx : CtxId) (src arg : Nat) :
    Exchanged s (bellRaise s code u ctx src arg) := by
  have h := bellSide_bellRaise s code u ctx src arg
  exact .quiet (by rw [h]) (by rw [h]) (by rw [h]) (by rw [h]) (by rw [h])

theorem exchanged_openFault (s : State) (e q : Nat) (idx : W32) (ctx : CtxId) (a : W64) (w : Bool) (r l : Nat) (p : W64) :
    Exchanged s (openFault s e q idx ctx a w r l p).1 := by
  unfold openFault
  dsimp only
  split
  · exact .quiet rfl rfl rfl rfl rfl
  · split <;> exact .quiet rfl rfl rfl rfl rfl

theorem exchanged_spoilOutputs (s : State) (it : Item) : Exchanged s (spoilOutputs s it) :=
  Exchanged.foldl (f := fun st (r : Nat × Nat) => storeAny st r.1 r.2) (fun _ _ => .quiet rfl rfl rfl rfl rfl) _ _

theorem exchanged_itemErr (s : State) (q : Nat) (idx : W32) (e : MErr) : Exchanged s (itemErr s q idx e) := by
  unfold itemErr
  split
  · exact .refl s
  · split
    · exact ((exchanged_bellRaise ..).trans (exchanged_spoilOutputs ..)).trans (exchanged_endItem ..)
    · exact exchanged_endItem ..
    · exact (exchanged_openFault ..).trans (exchanged_modItem _ _ _ (fun _ => ⟨rfl, rfl, rfl⟩))

theorem exchanged_blockMismatch (s : State) (q : Nat) (idx : W32) (ctx : CtxId) (b : W64) (n : Nat) :
    Exchanged s (blockMismatch s q idx ctx b n) := by
  unfold blockMismatch
  refine .trans (.trans ?_ (exchanged_bellRaise ..)) (exchanged_endItem ..)
  exact .quiet rfl rfl rfl rfl rfl

theorem exchanged_endTask (s : State) (core thread : Nat) : Exchanged s (endTask s core thread) :=
  ⟨fun _ _ h => findTask_none_of_sublist List.filter_sublist h, rfl, rfl, rfl, .of_items .refl rfl⟩

/-- s with a task gone, kept for its reissue under what it waits for. -/
def keptForReissue (s : State) (t : Task) (keys : List PageKey) (full : Bool) : State :=
  let s1 := modCore (abortTask s t.core t.thread) t.core (fun c => { c with aborts := satAdd c.aborts 1 })
  { s1 with reissues := s1.reissues ++ [{ task := t, keys := keys, full := full }] }

theorem taskErr_fault (s : State) (t : Task) (addr : W64) (write : Bool) (reason level : Nat) (pte : W64) :
    taskErr s t (.fault addr write reason level pte) =
      modItem (keptForReissue (openFault s (engineOf t.q) t.q t.idx t.ctx addr write reason level pte).1 t
        (if (openFault s (engineOf t.q) t.q t.idx t.ctx addr write reason level pte).2 then [keyOf t.ctx addr] else [])
        (!(openFault s (engineOf t.q) t.q t.idx t.ctx addr write reason level pte).2)) t.q t.idx
        (fun i => { i with firstFault := i.firstAt addr }) := by
  unfold taskErr keptForReissue
  rfl

theorem exchanged_keptForReissue (s : State) (t : Task) (keys : List PageKey) (full : Bool) : Exchanged s (keptForReissue s t keys full) := by
  have aborted := exchanged_abortTask s t.core t.thread
  rw [keptForReissue]
  generalize abortTask s t.core t.thread = u at aborted ⊢
  exact aborted.trans (.quiet rfl rfl rfl rfl rfl)

theorem exchanged_taskErr (s : State) (t : Task) (e : MErr) : Exchanged s (taskErr s t e) := by
  cases e with
  | bad addr r => unfold taskErr; exact exchanged_itemErr ..
  | noCtx addr => unfold taskErr; exact exchanged_itemErr ..
  | fault addr write reason level pte =>
    rw [taskErr_fault]
    exact ((exchanged_openFault ..).trans (exchanged_keptForReissue ..)).trans (exchanged_modItem _ _ _ (fun _ => ⟨rfl, rfl, rfl⟩))

theorem exchanged_taskMismatch (s : State) (t : Task) (b : W64) (n : Nat) : Exchanged s (taskMismatch s t b n) :=
  (exchanged_modCore ..).trans (exchanged_blockMismatch ..)

/-! ### Windows -/

/-- A task after its core's sleepers have woken. -/
def wokenTask (s : State) (core : Nat) (t : Task) : Task :=
  if t.core = core then
    match t.wait with
    | some w => if waitMet (getCore s core) w then { t with wait := none } else t
    | none => t
  else t

theorem wokenTask_named (s : State) (core : Nat) (t : Task) :
    (wokenTask s core t).core = t.core ∧ (wokenTask s core t).thread = t.thread := by
  unfold wokenTask
  split
  · split
    · split <;> exact ⟨rfl, rfl⟩
    · exact ⟨rfl, rfl⟩
  · exact ⟨rfl, rfl⟩

theorem exchanged_wakeCore (s : State) (core : Nat) : Exchanged s (wakeCore s core) := by
  refine ⟨fun c th none_ => ?_, rfl, rfl, rfl, .of_items .refl rfl⟩
  rw [findTask, List.find?_eq_none] at none_ ⊢
  intro k mem
  obtain ⟨x, old, rfl⟩ := List.mem_map.mp (show k ∈ s.tasks.map (wokenTask s core) from mem)
  obtain ⟨core_, thread_⟩ := wokenTask_named s core x
  rw [core_, thread_]
  exact none_ x old

theorem exchanged_scratchWrite (s : State) (core a : Nat) (bs : List Byte) : Exchanged s (scratchWrite s core a bs) := by
  unfold scratchWrite
  split
  · exact .refl s
  · exact .quiet rfl rfl rfl rfl rfl

theorem exchanged_lateWrite (s : State) (core w : Nat) (gen : Byte) (writer : Nat) : Exchanged s (lateWrite s core w gen writer) := by
  unfold lateWrite
  dsimp only
  split
  · exact (exchanged_modCore ..).trans (exchanged_bellRaise ..)
  · exact exchanged_modCore ..

theorem exchanged_windowWrite (s : State) (core w : Nat) (gen : Byte) (u : Nat) (ctx : CtxId) (writer : Nat) (bs : List Byte) :
    Exchanged s (windowWrite s core w gen u ctx writer bs) := by
  unfold windowWrite
  dsimp only
  split
  · exact .refl s
  · split
    · exact ((exchanged_scratchWrite ..).trans (exchanged_modCore ..)).trans (exchanged_wakeCore ..)
    · exact exchanged_lateWrite ..

theorem exchanged_sendRecord (s : State) (t : Task) (core w u units : Nat) (v : Window) (bs : List Byte) :
    Exchanged s (sendRecord s t core w u units v bs) := Exchanged.foldl (fun _ _ => exchanged_windowWrite ..) _ _

theorem exchanged_modGroup (s : State) (q : Nat) (idx : W32) (t : TaskShape) (f : RowGroup → RowGroup) : Exchanged s (modGroup s q idx t f) :=
  exchanged_modItem _ _ _ (fun _ => ⟨rfl, rfl, rfl⟩)

/-! ### The exchange of bounds (R161) -/

theorem exchanged_raiseBound (s : State) (it : Item) (g : RowGroup) (t : Task) (bs : Unit → Except MErr (List W32)) :
    Exchanged s (raiseBound s it g t bs) := by
  unfold raiseBound
  split
  · exact .refl s
  · split
    · exact .refl s
    · split
      · exact .refl s
      · dsimp only
        split
        · exact .refl s
        · split
          · exact exchanged_taskErr ..
          · exact (exchanged_modGroup ..).trans (exchanged_sendRecord ..)

theorem exchanged_lowerBound (s : State) (g : RowGroup) (t : Task) : Exchanged s (lowerBound s g t) := by
  unfold lowerBound
  dsimp only
  split
  · exact .refl s
  · split
    · exact .refl s
    · exact exchanged_sendRecord ..

theorem exchanged_boundStep (s : State) (t : Task) : Exchanged s (boundStep s t) := by
  unfold boundStep
  dsimp only
  split
  · exact .refl s
  · split
    · exact .refl s
    · split
      · exact .refl s
      · split
        · exact (exchanged_raiseBound ..).trans (exchanged_lowerBound ..)
        · split
          · exact .refl s
          · split
            · exact exchanged_raiseBound ..
            · split
              · exact .refl s
              · exact exchanged_modGroup ..

theorem exchanged_boundExchange (f : Nat) (s : State) : Exchanged s (boundExchange f s) := by
  induction f generalizing s with
  | zero => exact .refl s
  | succ f ih =>
    unfold boundExchange
    dsimp only
    split
    · exact .refl s
    · exact (Exchanged.foldl (fun _ _ => exchanged_boundStep ..) _ _).trans (ih _)

/-! ### A part task's drain -/

theorem exchanged_setCluster (s : State) (n : Nat) (c : Cluster) : Exchanged s (setCluster s n c) := .quiet rfl rfl rfl rfl rfl

theorem exchanged_fillLine (s : State) (core : Nat) (a : W64) (ctx : CtxId) : Exchanged s (fillLine s core a ctx) := by
  unfold fillLine
  dsimp only
  split
  · exact .refl s
  · split
    · exact .refl s
    · split
      · exact .refl s
      · split
        · exact .quiet rfl rfl rfl rfl rfl
        · exact .quiet rfl rfl rfl rfl rfl

theorem exchanged_cacheReads (s : State) (core : Nat) (ctx : CtxId) (rs : List (W64 × Nat)) : Exchanged s (cacheReads s core ctx rs) := by
  refine Exchanged.foldl (fun s a => ?_) _ _
  unfold cacheRead
  dsimp only
  split
  · exact .quiet rfl rfl rfl rfl rfl
  · split
    · exact (exchanged_setCluster ..).trans (exchanged_fillLine ..)
    · exact .refl s

theorem exchanged_wantPromotion (s : State) (it : Item) (keys : List (RowId × List Nat)) : Exchanged s (wantPromotion s it keys) := by
  unfold wantPromotion
  split
  · exact .refl s
  · exact .quiet rfl rfl rfl rfl rfl

theorem exchanged_taskRead (s : State) (t : Task) (it : Item) (rd : Reads) {go : State → State} (h : ∀ u, Exchanged u (go u)) :
    Exchanged s (taskRead s t it rd go) := by
  unfold taskRead
  dsimp only
  split
  · exact exchanged_taskErr ..
  · split
    · exact exchanged_taskErr ..
    · exact exchanged_taskMismatch ..
    · refine .trans (.trans ?_ (exchanged_wantPromotion ..)) (.trans (exchanged_cacheReads ..) (h _))
      exact .quiet rfl rfl rfl rfl rfl

theorem exchanged_sendNode (s : State) (t : Task) (it : Item) (g : RowGroup) (ns : List NodeRow) : Exchanged s (sendNode s t it g ns) := by
  unfold sendNode
  split
  · exact .refl s
  · split
    · exact .refl s
    · dsimp only
      split
      · exact .refl s
      · exact ((exchanged_modGroup ..).trans (exchanged_sendRecord ..)).trans (exchanged_endTask ..)

theorem exchanged_drainPart (s : State) (t : Task) (it : Item) (g : RowGroup) : Exchanged s (drainPart s t it g) := by
  unfold drainPart
  dsimp only
  split
  · exact .refl s
  · split
    · exact exchanged_sendNode ..
    · split
      · split
        · exact exchanged_taskErr ..
        · split
          · exact exchanged_taskErr ..
          · exact exchanged_taskRead _ _ _ _ (fun _ => exchanged_sendNode ..)
      · split
        · exact exchanged_taskErr ..
        · split
          · exact exchanged_taskErr ..
          · exact exchanged_taskRead _ _ _ _ (fun _ => exchanged_sendNode ..)

theorem exchanged_haloDone (s : State) (it : Item) (e : StageEntry) (core : Nat) : Exchanged s (haloDone s it e core) := by
  unfold haloDone
  dsimp only
  split
  · exact .refl s
  · split
    · exact .refl s
    · exact Exchanged.foldl (fun _ (p : Nat × Nat) => exchanged_dropHalo _ p.1 p.2) _ _

end Sys2Proof.Proofs.PartTasks

/-! A dispatched task holds its thread until it drains, is overdue or times out (R67, R68, R155 to R159, R182, R192). -/

namespace Sys2Proof.Proofs.Dispatches

open Sys2Proof Sys2Proof.Machine Sys2Proof.Safety Sys2Proof.Laws Sys2Proof.Proofs.RegisterWrites Sys2Proof.Proofs.LinkPort
  Sys2Proof.Proofs.BellRecord Sys2Proof.Proofs.ItemLaws Sys2Proof.Proofs.ItemLists Sys2Proof.Proofs.Aborts Sys2Proof.Proofs.Accesses
  Sys2Proof.Proofs.WindowWrites Sys2Proof.Proofs.WindowsOpen Sys2Proof.Proofs.PartTasks

/-! ### TASK_DISPATCH -/

section
variable {s : State} {q : Nat} {idx : W32} {it : Item} {core thread : Nat} {k : TaskShape} (found : findItem s q idx = some it)
include found

theorem dispatch_refused (h : coreAccepts s core it.ctx = false ∨ placeTask s it core thread k = none) : dispatch s q idx core thread k = s := by
  rw [dispatch, found]
  dsimp only
  split
  · rfl
  · next may =>
    rcases h with refused | nowhere
    · exact absurd (by simp [refused]) may
    · rw [nowhere]

/-- The task of a dispatch. -/
def taskOf (s : State) (q : Nat) (idx : W32) (it : Item) (core thread : Nat) (k : TaskShape) : Task :=
  { core := core, thread := thread, q := q, idx := idx, ctx := it.ctx, shape := k, dispatched := s.breath.num, serial := s.dispatches }

omit found in
/-- s with a task on its thread and its pipe time spent. -/
def threadTaken (s : State) (q : Nat) (idx : W32) (it : Item) (core thread : Nat) (k : TaskShape) (p : Placing) : State :=
  modCore { s with tasks := s.tasks ++ [taskOf s q idx it core thread k], dispatches := s.dispatches + 1 } core
    (fun c => { c with budget := c.budget + p.time, tse := c.tse || decide (k.kind = .test) })

omit found in
/-- s with a task on its thread, and its item's record of the dispatch. -/
def onThread (s : State) (q : Nat) (idx : W32) (it : Item) (core thread : Nat) (k : TaskShape) (p : Placing) : State :=
  modItem (threadTaken s q idx it core thread k p) q idx (placeOn p)

omit found in
theorem soil_frame (s : State) (core : Nat) (acc : Bool) : ∃ ph, soil s core acc = { s with phys := ph } := by
  unfold soil
  split
  · exact ⟨_, rfl⟩
  · exact ⟨s.phys, rfl⟩

omit found in
theorem promoteAhead_frame (s : State) (it : Item) (core : Nat) (t : TaskShape) :
    ∃ w, promoteAhead s it core t = { s with pg := { s.pg with promoWanted := w } } := by
  unfold promoteAhead
  split
  · exact ⟨s.pg.promoWanted, rfl⟩
  · dsimp only
    split
    · exact ⟨s.pg.promoWanted, rfl⟩
    · split
      · exact ⟨s.pg.promoWanted, rfl⟩
      · exact ⟨_, rfl⟩

theorem dispatch_placed (runs : mayRun s it = true) (fresh : taskOpen s it k = true) (accepts : coreAccepts s core it.ctx = true)
    (small : thread < 32) (free : findTask s core thread = none) {p : Placing} (place : placeTask s it core thread k = some p) :
    ∃ ph w, dispatch s q idx core thread k =
      { onThread s q idx it core thread k p with phys := ph, pg := { s.pg with promoWanted := w } } := by
  rw [dispatch, found]
  dsimp only
  rw [if_neg (by simp [runs, fresh, accepts, small, free]), place]
  dsimp only
  show ∃ ph w, promoteAhead (modItem (soil (threadTaken s q idx it core thread k p) core (k.kind ≠ .rowEngine)) q idx (placeOn p)) it core k = _
  obtain ⟨ph, soiled⟩ := soil_frame (threadTaken s q idx it core thread k p) core (k.kind ≠ .rowEngine)
  rw [soiled]
  exact ⟨ph, promoteAhead_frame _ it core k⟩

end

section
variable (s : State) (q : Nat) (idx : W32) (it : Item) (core thread : Nat) (k : TaskShape) (p : Placing)

theorem findTask_onThread (free : findTask s core thread = none) :
    findTask (onThread s q idx it core thread k p) core thread = some (taskOf s q idx it core thread k) := by
  show (s.tasks ++ [taskOf s q idx it core thread k]).find? _ = _
  have free : s.tasks.find? (fun t => t.core = core && t.thread = thread) = none := free
  rw [List.find?_append, free, Option.none_or, List.find?_singleton]
  simp [taskOf]

theorem budget_onThread : (getCore (onThread s q idx it core thread k p) core).budget = (getCore s core).budget + p.time :=
  congrArg Core.budget (getCore_modCore_same (s := { s with
    tasks := s.tasks ++ [taskOf s q idx it core thread k]
    dispatches := s.dispatches + 1 }) core (fun c => { c with budget := c.budget + p.time, tse := c.tse || decide (k.kind = .test) }))

theorem findItem_onThread (found : findItem s q idx = some it) : findItem (onThread s q idx it core thread k p) q idx = some (placeOn p it) := by
  refine (findItem_modItem _ q idx (f := placeOn p) (h := fun _ h => h)).trans ?_
  rw [show findItem (threadTaken s q idx it core thread k p) q idx = findItem s q idx from rfl, found]
  rfl

variable {s k}

theorem noParts_onThread (parts : noParts s) (notPart : k.kind ≠ .part) (notMerge : k.kind ≠ .merge) :
    noParts (onThread s q idx it core thread k p) := by
  intro x mem
  rcases List.mem_append.mp (show x ∈ s.tasks ++ [taskOf s q idx it core thread k] from mem) with old | new
  · exact parts x old
  · rw [List.mem_singleton.mp new]
    exact ⟨notPart, notMerge⟩

end

section
variable {s : State} {q : Nat} {idx : W32} {core thread : Nat} {k : TaskShape} {it : Item} (hup : up s) (found : findItem s q idx = some it)
include hup

theorem exec_taskDispatch : exec (.taskDispatch q idx core thread k) s =
    .next (keepOuter s (boundExchange 20 (dispatch (inBreath s) q idx core thread k))) :=
  live_up (f := fun s => boundExchange 20 (dispatch (inBreath s) q idx core thread k)) hup

include found

theorem exec_taskDispatch_refused (parts : noParts s)
    (h : coreAccepts s core it.ctx = false ∨ placeTask (inBreath s) it core thread k = none) :
    exec (.taskDispatch q idx core thread k) s = .next (inBreath s) := by
  rw [exec_taskDispatch hup, dispatch_refused (s := inBreath s) found h, boundExchange_noParts (s := inBreath s) parts]
  rfl

theorem exec_taskDispatch_placed (runs : mayRun s it = true) (fresh : taskOpen s it k = true) (accepts : coreAccepts s core it.ctx = true)
    (small : thread < 32) (free : findTask s core thread = none) {p : Placing} (place : placeTask (inBreath s) it core thread k = some p) :
    ∃ t, exec (.taskDispatch q idx core thread k) s = .next t ∧ t.dispatches = s.dispatches + 1 ∧ t.queues = s.queues ∧
      (noParts s → k.kind ≠ .part → k.kind ≠ .merge →
        findTask t core thread = some (taskOf s q idx it core thread k) ∧
        (getCore t core).budget = (getCore s core).budget + p.time ∧ findItem t q idx = some (placeOn p it) ∧
        t = { inBreath s with
          tasks := t.tasks, dispatches := t.dispatches, cores := t.cores, phys := t.phys, items := t.items
          pg := { s.pg with promoWanted := t.pg.promoWanted } }) := by
  obtain ⟨ph, w, placed⟩ := dispatch_placed (s := inBreath s) found runs fresh accepts small free place
  rw [exec_taskDispatch hup, placed]
  have on : (onThread (inBreath s) q idx it core thread k p).dispatches = s.dispatches + 1 ∧
    (onThread (inBreath s) q idx it core thread k p).queues = s.queues := ⟨rfl, rfl⟩
  have task := findTask_onThread (inBreath s) q idx it core thread k p free
  have budget := budget_onThread (inBreath s) q idx it core thread k p
  have item := findItem_onThread (inBreath s) q idx it core thread k p found
  have frame : onThread (inBreath s) q idx it core thread k p = { inBreath s with
    tasks := (onThread (inBreath s) q idx it core thread k p).tasks
    dispatches := (onThread (inBreath s) q idx it core thread k p).dispatches
    cores := (onThread (inBreath s) q idx it core thread k p).cores
    items := (onThread (inBreath s) q idx it core thread k p).items } := rfl
  have parts' := noParts_onThread (s := inBreath s) (k := k) q idx it core thread p
  generalize onThread (inBreath s) q idx it core thread k p = u at *
  have swaps := exchanged_boundExchange 20 { u with phys := ph, pg := { s.pg with promoWanted := w } }
  refine ⟨_, rfl, swaps.dispatches.trans on.1, swaps.queues.trans on.2, fun parts notPart notMerge => ?_⟩
  have still := boundExchange_noParts (s := { u with phys := ph, pg := { s.pg with promoWanted := w } }) (parts' parts notPart notMerge) 20
  rw [show (inBreath s).pg = s.pg from rfl, still]
  refine ⟨task, budget, item, ?_⟩
  rw [frame]
  rfl

end

/-! ### Which task is long (R68) -/

/-- j is i but for marks: its row blocks, its cuts and whether its halo exchange restarts. -/
def Marked (i j : Item) : Prop := ∃ g c, j = { i.rid g with cuts := c }

theorem tracks_marked : Tracks Marked where
  trans := by
    rintro i j k ⟨g, c, rfl⟩ ⟨g', c', rfl⟩
    exact ⟨g', c', rfl⟩
  marks i g := ⟨g, i.cuts, rfl⟩

theorem marked_cutTask (t : TaskShape) (i : Item) : Marked i (cutTask t i) := ⟨(i.haloHit, i.groups.filter (fun g => !g.shapes.contains t)),
  if i.cuts.contains t then i.cuts else i.cuts ++ [t], rfl⟩

section
variable {s t : State} (h : ReadsAlike s t)
include h

/-- The bitmap is read through addresses alone. (The equation that defines one step of the recursion is used as it stands: the two sides
differ in the state, and no comparison of them may unfold it.) -/
theorem sparseBlocks_alike : sparseBlocks t = sparseBlocks s := by
  have reads : readVa t = readVa s := funext fun ctx => funext fun a => funext fun n => h.readVa ctx a n
  funext it g qpos l
  have step : sparseBlocks._f t it g qpos = sparseBlocks._f s it g qpos := by
    unfold sparseBlocks._f
    rw [reads]
  delta sparseBlocks
  exact congrArg (fun f => List.brecOn (motive := fun _ => Except MErr (List Nat)) l f) step

theorem rowKeys_alike (it : Item) (r : RowId) : rowKeys t it r = rowKeys s it r := by
  simp only [rowKeys, rowKeysOf, h.readVa, sparseBlocks_alike h]

theorem isLong_alike : isLong t = isLong s := by
  have keys : rowKeys t = rowKeys s := funext fun it => funext fun r => rowKeys_alike h it r
  have all : taskKeys t = taskKeys s := by
    funext it k
    unfold taskKeys
    rw [keys]
  funext it k
  unfold isLong
  rw [all]

end

theorem sparseBlocks_congr {i j : Item} (ctx : j.ctx = i.ctx) (field : ∀ off n, dF j off n = dF i off n)
    (bitmap : bitmapField j = bitmapField i) (s : State) : sparseBlocks s j = sparseBlocks s i := by
  have field : dF j = dF i := funext fun a => funext fun b => field a b
  funext g qpos l
  have step : sparseBlocks._f s j g qpos = sparseBlocks._f s i g qpos := by
    unfold sparseBlocks._f
    rw [field, bitmap, ctx]
  delta sparseBlocks
  exact congrArg (fun f => List.brecOn (motive := fun _ => Except MErr (List Nat)) l f) step

section
variable {i j : Item} (same : Marked i j)
include same

theorem sparseBlocks_marked (s : State) : Machine.sparseBlocks s j = Machine.sparseBlocks s i := by
  obtain ⟨marks, c, rfl⟩ := same
  exact sparseBlocks_congr (i := i) (j := { i.rid marks with cuts := c }) rfl (fun _ _ => rfl) rfl s

theorem rowKeys_marked (s : State) : rowKeys s j = rowKeys s i := by
  have sparse := sparseBlocks_marked same s
  obtain ⟨marks, c, rfl⟩ := same
  funext r
  unfold rowKeys rowKeysOf
  rw [sparse]
  rfl

theorem isLong_marked (s : State) : isLong s j = isLong s i := by
  have keys := rowKeys_marked same s
  have all : taskKeys s j = taskKeys s i := by
    obtain ⟨marks, c, rfl⟩ := same
    funext k
    unfold taskKeys
    rw [keys]
    rfl
  funext k
  unfold isLong
  rw [all]

end

/-! ### What an overrun leaves -/

/-- From s to t tasks end: the queues, memory and what long tasks are stay, no thread takes a task, and an overrun stays noted. -/
structure TasksEnd (s t : State) : Prop where
  queues : t.queues = s.queues
  alike : ReadsAlike s t
  num : t.breath.num = s.breath.num
  found : ∀ q idx, FoundAs Marked q idx s t
  gone : ∀ core thread, findTask s core thread = none → findTask t core thread = none
  noted : s.breath.overrun = true → t.breath.overrun = true

theorem TasksEnd.refl (s : State) : TasksEnd s s :=
  ⟨rfl, ⟨rfl, rfl, rfl, rfl, rfl, rfl⟩, rfl, fun _ _ => .refl tracks_marked s, fun _ _ h => h, fun h => h⟩

theorem TasksEnd.trans {s t u : State} (a : TasksEnd s t) (b : TasksEnd t u) : TasksEnd s u where
  queues := b.queues.trans a.queues
  alike := a.alike.trans b.alike
  num := b.num.trans a.num
  found q idx := .trans tracks_marked (a.found q idx) (b.found q idx)
  gone core thread h := b.gone core thread (a.gone core thread h)
  noted h := b.noted (a.noted h)

theorem TasksEnd.foldl {α : Type} {f : State → α → State} (h : ∀ s a, TasksEnd s (f s a)) (l : List α) (s : State) :
    TasksEnd s (l.foldl f s) := by
  induction l generalizing s with
  | nil => exact .refl s
  | cons a l ih => exact (h s a).trans (ih _)

theorem alike_of_taskSide {s t : State} (h : TaskSide s t) : ReadsAlike s t :=
  ⟨h.mem, h.tr, by rw [h], by rw [h], by rw [h], by rw [h]⟩

theorem tasksEnd_abortTask (s : State) (core thread : Nat) : TasksEnd s (abortTask s core thread) := by
  have side := taskSide_abortTask s core thread
  exact ⟨side.queues, alike_of_taskSide side, by rw [side.breath], fun _ _ => .of_sameItems tracks_marked (sameItems_abortThreads ..),
    fun _ _ h => findTask_none_of_sublist (aborting_abortThreads ..).tasks h, fun h => by rwa [side.breath]⟩

theorem tasksEnd_modItem (s : State) (q : Nat) (idx : W32) {f : Item → Item} (h : ∀ i, Marked i (f i)) : TasksEnd s (modItem s q idx f) := by
  refine ⟨rfl, readsAlike_modItem .., rfl, fun q' idx' => ?_, fun _ _ h => h, fun h => h⟩
  have named : ∀ i, (f i).q = i.q ∧ (f i).idx = i.idx := fun i => by
    obtain ⟨g, c, same⟩ := h i
    rw [same]
    exact ⟨rfl, rfl⟩
  by_cases same : q' = q ∧ idx' = idx
  · obtain ⟨rfl, rfl⟩ := same
    refine .modItem_same s (fun i is => ?_) h
    rwa [isItem, (named i).1, (named i).2]
  · exact .modItem_other tracks_marked s named same

theorem tasksEnd_bellRaise (s : State) (code : Nat) (u : W16) (ctx : CtxId) (src arg : Nat) : TasksEnd s (bellRaise s code u ctx src arg) := by
  have h := bellSide_bellRaise s code u ctx src arg
  exact ⟨by rw [h], ⟨by rw [h], by rw [h], by rw [h], by rw [h], by rw [h], by rw [h]⟩, by rw [h],
    fun _ _ => .of_items tracks_marked (by rw [h]), fun _ _ none_ => by rw [h]; exact none_, fun o => by rw [h]; exact o⟩

section
variable {s t : State} (h : TasksEnd s t)
include h

theorem TasksEnd.longTask (k : Task) : Machine.longTask t k = Machine.longTask s k := by
  rw [Machine.longTask, Machine.longTask]
  cases before : findItem s k.q k.idx with
  | none => rw [(h.found k.q k.idx).none before]
  | some i =>
    obtain ⟨j, after, same⟩ := (h.found k.q k.idx).some before
    rw [after]
    exact (congrFun (isLong_marked same t) k.shape).trans (congrFun (congrFun (isLong_alike h.alike) i) k.shape)

theorem TasksEnd.pastDeadline (k : Task) : Machine.pastDeadline t k = Machine.pastDeadline s k := by
  rw [Machine.pastDeadline, h.num, Machine.pastDeadline]

end

/-! ### TASK_OVERRUN (R67, R68) -/

/-- From s to t tasks end, and either an overrun is noted or every thread that had a task has one. -/
structure Overruns (s t : State) : Prop where
  ends : TasksEnd s t
  kept : t.breath.overrun = true ∨ ∀ core thread, (findTask s core thread).isSome = true → (findTask t core thread).isSome = true

theorem Overruns.refl (s : State) : Overruns s s := ⟨.refl s, .inr fun _ _ h => h⟩

theorem Overruns.trans {s t u : State} (a : Overruns s t) (b : Overruns t u) : Overruns s u where
  ends := a.ends.trans b.ends
  kept := by
    rcases a.kept with noted | before
    · exact .inl (b.ends.noted noted)
    · exact b.kept.imp_right fun after core thread h => after core thread (before core thread h)

/-- s with a long task counted that runs past its deadline. -/
def longCounted (s : State) (k : Task) : State :=
  modTask { s with breath := { s.breath with long := satAdd s.breath.long 1 } } k.core k.thread (fun x => { x with counted := true })

/-- s with a task that overran aborted and cut. -/
def overrunAborted (s : State) (k : Task) : State :=
  let s1 := modItem (abortTask s k.core k.thread) k.q k.idx (cutTask k.shape)
  bellRaise { s1 with breath := { s1.breath with overrun := true, overrunCnt := satAdd s1.breath.overrunCnt 1 } } 0x0012 0 k.ctx 0 (taskArg k)

theorem overrunOne_eq (s : State) (k : Task) : overrunOne s k =
    if (findTask s k.core k.thread).isNone || !pastDeadline s k then s
    else if longTask s k then (if k.counted then s else longCounted s k) else overrunAborted s k := rfl

theorem isSome_findTask_modTask (s : State) (c th core thread : Nat) {f : Task → Task}
    (named : ∀ k, (f k).core = k.core ∧ (f k).thread = k.thread) :
    (findTask (modTask s c th f) core thread).isSome = (findTask s core thread).isSome := by
  have same : (fun k : Task => decide (k.core = core) && decide (k.thread = thread)) ∘ (fun k => if k.core = c && k.thread = th then f k else k) =
      fun k => decide (k.core = core) && decide (k.thread = thread) := by
    funext k
    simp only [Function.comp]
    split
    · rw [(named k).1, (named k).2]
    · rfl
  show ((s.tasks.map (fun k => if k.core = c && k.thread = th then f k else k)).find?
    (fun k => decide (k.core = core) && decide (k.thread = thread))).isSome = _
  rw [List.find?_map, same, Option.isSome_map, findTask]

theorem overruns_longCounted (s : State) (k : Task) : Overruns s (longCounted s k) := by
  have some_ := fun core thread => isSome_findTask_modTask { s with breath := { s.breath with long := satAdd s.breath.long 1 } } k.core k.thread
    core thread (f := fun x => { x with counted := true }) (fun _ => ⟨rfl, rfl⟩)
  refine ⟨⟨rfl, ⟨rfl, rfl, rfl, rfl, rfl, rfl⟩, rfl, fun _ _ => .of_items tracks_marked rfl, fun core thread none_ => ?_, fun h => h⟩,
    .inr fun core thread h => (some_ core thread).trans h⟩
  have none_ : findTask { s with breath := { s.breath with long := satAdd s.breath.long 1 } } core thread = none := none_
  exact Option.not_isSome_iff_eq_none.mp (by rw [longCounted, some_, none_]; decide)

theorem overrunAborted_holds (s : State) (k : Task) : Overruns s (overrunAborted s k) ∧ (overrunAborted s k).breath.overrun = true ∧
    findTask (overrunAborted s k) k.core k.thread = none := by
  have ends := (tasksEnd_abortTask s k.core k.thread).trans (tasksEnd_modItem _ k.q k.idx (marked_cutTask k.shape))
  have none_ : findTask (modItem (abortTask s k.core k.thread) k.q k.idx (cutTask k.shape)) k.core k.thread = none :=
    findTask_abortThreads (by decide) s k.core (List.mem_singleton_self _)
  rw [overrunAborted]
  generalize modItem (abortTask s k.core k.thread) k.q k.idx (cutTask k.shape) = u at *
  have noted : TasksEnd u { u with breath := { u.breath with overrun := true, overrunCnt := satAdd u.breath.overrunCnt 1 } } :=
    ⟨rfl, ⟨rfl, rfl, rfl, rfl, rfl, rfl⟩, rfl, fun _ _ => .of_items tracks_marked rfl, fun _ _ h => h, fun _ => rfl⟩
  have rings := tasksEnd_bellRaise { u with breath := { u.breath with overrun := true, overrunCnt := satAdd u.breath.overrunCnt 1 } } 0x0012 0
    k.ctx 0 (taskArg k)
  exact ⟨⟨(ends.trans noted).trans rings, .inl (rings.noted rfl)⟩, rings.noted rfl, (noted.trans rings).gone _ _ none_⟩

theorem overruns_overrunOne (s : State) (k : Task) : Overruns s (overrunOne s k) := by
  rw [overrunOne_eq]
  split
  · exact .refl s
  · split
    · split
      · exact .refl s
      · exact overruns_longCounted s k
    · exact (overrunAborted_holds s k).1

/-- A task that is overdue and not long, still on its thread or gone with an overrun noted. -/
structure Overdue (s : State) (k : Task) : Prop where
  past : pastDeadline s k = true
  short : longTask s k = false
  here : s.breath.overrun = true ∨ (findTask s k.core k.thread).isSome = true

theorem Overdue.after {s t : State} {k : Task} (h : Overdue s k) (o : Overruns s t) : Overdue t k where
  past := (o.ends.pastDeadline k).trans h.past
  short := (o.ends.longTask k).trans h.short
  here := by
    rcases h.here with noted | on
    · exact .inl (o.ends.noted noted)
    · exact o.kept.imp_right fun kept => kept _ _ on

/-- An overdue task is gone, and its overrun noted. -/
def OverrunGone (s : State) (k : Task) : Prop := findTask s k.core k.thread = none ∧ s.breath.overrun = true

theorem OverrunGone.after {s t : State} {k : Task} (h : OverrunGone s k) (e : TasksEnd s t) : OverrunGone t k :=
  ⟨e.gone _ _ h.1, e.noted h.2⟩

theorem overrunGone_overrunOne {s : State} {k : Task} (h : Overdue s k) : OverrunGone (overrunOne s k) k := by
  rw [overrunOne_eq]
  cases on : findTask s k.core k.thread with
  | none =>
    rw [Option.isNone_none, Bool.true_or, if_pos rfl]
    exact ⟨on, h.here.resolve_right (by rw [on]; decide)⟩
  | some x =>
    rw [if_neg (by simp [h.past]), if_neg (by rw [h.short]; decide)]
    exact ⟨(overrunAborted_holds s k).2.2, (overrunAborted_holds s k).2.1⟩

theorem overrunGone_foldl (l : List Task) : ∀ s : State, (∀ k ∈ l, pastDeadline s k = true → longTask s k = false → Overdue s k) →
    ∀ k ∈ l, pastDeadline s k = true → longTask s k = false → OverrunGone (l.foldl overrunOne s) k := by
  induction l with
  | nil => exact fun _ _ k mem => absurd mem List.not_mem_nil
  | cons a l ih =>
    intro s due k mem past short
    have step := overruns_overrunOne s a
    have rest : TasksEnd (overrunOne s a) (l.foldl overrunOne (overrunOne s a)) :=
      .foldl (fun s k => (overruns_overrunOne s k).ends) _ _
    rcases List.mem_cons.mp mem with rfl | mem
    · exact (overrunGone_overrunOne (due k mem past short)).after rest
    · refine ih _ (fun x hx past' short' => ?_) k mem ((step.ends.pastDeadline k).trans past) ((step.ends.longTask k).trans short)
      exact (due x (List.mem_cons_of_mem a hx) ((step.ends.pastDeadline x).symm.trans past') ((step.ends.longTask x).symm.trans short')).after step

theorem tasksEnd_overrun (s : State) : TasksEnd s (overrun s) :=
  .trans (.foldl (fun s k => (overruns_overrunOne s k).ends) _ _) (.foldl (fun _ _ => tasksEnd_abortTask ..) _ _)

theorem overrunGone_overrun {s : State} {k : Task} (mem : k ∈ s.tasks) (past : pastDeadline s k = true) (short : longTask s k = false) :
    OverrunGone (overrun s) k := by
  refine (overrunGone_foldl s.tasks s (fun x hx past short => ⟨past, short, .inr ?_⟩) k mem past short).after
    (.foldl (fun _ _ => tasksEnd_abortTask ..) _ _)
  exact List.find?_isSome.mpr ⟨x, hx, by simp⟩

theorem strayPart_whole {s : State} {k : Task} (h : k.shape.kind ≠ .part ∧ k.shape.kind ≠ .merge) : strayPart s k = false := by
  simp [strayPart, h.1, h.2]

/-- No task of part kind is left without its row block where there is none. -/
theorem overrun_noParts {s : State} (h : noParts (s.tasks.foldl overrunOne s)) : overrun s = s.tasks.foldl overrunOne s := by
  have none_ : (s.tasks.foldl overrunOne s).tasks.filter (strayPart (s.tasks.foldl overrunOne s)) = [] := by
    rw [List.filter_eq_nil_iff]
    intro k mem
    rw [strayPart_whole (h k mem)]
    decide
  unfold overrun
  dsimp only
  rw [none_]
  rfl

theorem foldl_overrunOne_early (l : List Task) {s : State} (h : ∀ k ∈ l, pastDeadline s k = false) : l.foldl overrunOne s = s := by
  induction l with
  | nil => rfl
  | cons a l ih =>
    rw [List.foldl_cons, overrunOne_eq, if_pos (by simp [h a (List.mem_cons_self ..)])]
    exact ih fun k mem => h k (List.mem_cons_of_mem _ mem)

theorem overrun_early {s : State} (parts : noParts s) (early : ∀ k ∈ s.tasks, pastDeadline s k = false) : overrun s = s := by
  have same := foldl_overrunOne_early s.tasks early
  rw [overrun_noParts (by rw [same]; exact parts), same]

/-- A single long task past its deadline: counted once. -/
theorem overrun_long {s : State} {k : Task} (only : s.tasks = [k]) (whole : k.shape.kind = .wholeRow) (long : longTask s k = true)
    (past : pastDeadline s k = true) : overrun s = if k.counted then s else
      { s with tasks := [{ k with counted := true }], breath := { s.breath with long := satAdd s.breath.long 1 } } := by
  have found : findTask s k.core k.thread = some k := by
    rw [findTask, only, List.find?_singleton]
    simp
  have counted : longCounted s k = { s with
    tasks := [{ k with counted := true }]
    breath := { s.breath with long := satAdd s.breath.long 1 } } := by
    rw [longCounted, modTask]
    simp [only]
  have one : s.tasks.foldl overrunOne s = if k.counted then s else { s with
    tasks := [{ k with counted := true }]
    breath := { s.breath with long := satAdd s.breath.long 1 } } := by
    rw [only, List.foldl_cons, List.foldl_nil, overrunOne_eq, if_neg (by simp [found, past]), if_pos long, counted]
  have parts : noParts (s.tasks.foldl overrunOne s) := by
    rw [one]
    intro x mem
    have kind : x.shape = k.shape := by
      split at mem
      · rw [only] at mem
        rw [List.mem_singleton.mp mem]
      · rw [List.mem_singleton.mp mem]
    rw [kind, whole]
    exact ⟨by decide, by decide⟩
  rw [overrun_noParts parts, one]

/-! ### WAIT_TIMEOUT (R192) -/

theorem waitTmo_shutAll (ws : List Nat) (c : Core) : (ws.foldl shutWindow c).waitTmo = c.waitTmo := by
  induction ws generalizing c with
  | nil => rfl
  | cons w ws ih =>
    refine (ih _).trans ?_
    unfold shutWindow
    dsimp only
    split <;> rfl

theorem waitTmo_modCore (s : State) (core x : Nat) {f : Core → Core} (h : ∀ c, (f c).waitTmo = c.waitTmo) :
    (getCore (modCore s core f) x).waitTmo = (getCore s x).waitTmo := by
  by_cases same : x = core
  · rw [same, getCore_modCore_same, h]
  · rw [getCore_modCore_other s f same]

theorem waitTmo_foldl {α : Type} {f : State → α → State} {x : Nat} (h : ∀ s a, (getCore (f s a) x).waitTmo = (getCore s x).waitTmo)
    (l : List α) (s : State) : (getCore (l.foldl f s) x).waitTmo = (getCore s x).waitTmo := by
  induction l generalizing s with
  | nil => rfl
  | cons a l ih => exact (ih _).trans (h s a)

theorem waitTmo_abortThreads (x f : Nat) (s : State) (core : Nat) (ts : List Nat) :
    (getCore (abortThreads f s core ts) x).waitTmo = (getCore s x).waitTmo := by
  induction f generalizing s ts with
  | zero => rfl
  | succ f ih =>
    cases ts with
    | nil => rfl
    | cons a ts =>
      simp only [abortThreads]
      refine (ih _ _).trans ((waitTmo_modCore _ _ _ (fun c => waitTmo_shutAll _ c)).trans ?_)
      refine (waitTmo_foldl (fun s t => ?_) _ _).trans rfl
      unfold cancelSlots
      exact waitTmo_modCore _ _ _ (fun _ => rfl)

section
variable {s : State} {core thread : Nat} {k : Task} {w : Wait} (found : findTask s core thread = some k) (sleeps : k.wait = some w)
include found sleeps

theorem waitTimeout_waits (h : longTask s k = false ∨ w.boundaries < 4) : waitTimeout s core thread = s := by
  rw [waitTimeout, found]
  dsimp only
  rw [sleeps]
  refine if_pos ?_
  rcases h with short | few
  · rw [short]; rfl
  · simp [few]

theorem waitTimeout_aborts (long : longTask s k = true) (due : 4 ≤ w.boundaries) :
    findTask (waitTimeout s core thread) core thread = none ∧ (waitTimeout s core thread).mem = s.mem ∧
      (getCore (waitTimeout s core thread) core).waitTmo = satAdd (getCore s core).waitTmo 1 := by
  have eq : waitTimeout s core thread = bellRaise (modCore (abortTask s core thread) core (fun c => { c with waitTmo := satAdd c.waitTmo 1 }))
      0x0013 0 k.ctx 0 (taskArg k) := by
    rw [waitTimeout, found]
    dsimp only
    rw [sleeps]
    exact if_neg (by simp [long, due])
  have none_ : findTask (abortTask s core thread) core thread = none := findTask_abortThreads (by decide) s core (List.mem_singleton_self _)
  have mem := (taskSide_abortTask s core thread).mem
  have count := waitTmo_abortThreads core 33 s core [thread]
  have abort : abortTask s core thread = abortThreads 33 s core [thread] := rfl
  rw [eq]
  rw [← abort] at count
  generalize abortTask s core thread = u at *
  have here := getCore_modCore_same u core (fun c => { c with waitTmo := satAdd c.waitTmo 1 })
  have none' : findTask (modCore u core (fun c => { c with waitTmo := satAdd c.waitTmo 1 })) core thread = none := none_
  have bell := bellSide_bellRaise (modCore u core (fun c => { c with waitTmo := satAdd c.waitTmo 1 })) 0x0013 0 k.ctx 0 (taskArg k)
  obtain ⟨-, tasks, cores⟩ := kept_of_bellSide bell
  refine ⟨?_, ?_, ?_⟩
  · rw [findTask, tasks]
    exact none'
  · rw [bell]
    exact mem
  · rw [getCore_congr cores, here, ← count]

end

/-- Settles O33: a planned task takes its thread, and holds it until it is overdue or has slept too long. -/
theorem dispatchedTasksHoldTheirThreadUntilLate : Obligations.DispatchedTasksHoldTheirThreadUntilLate := by
  unfold Obligations.DispatchedTasksHoldTheirThreadUntilLate
  refine ⟨?_, ?_⟩
  · intro s q idx core thread k it hup found
    exact ⟨exec_taskDispatch_refused hup found, fun runs fresh accepts small free p place =>
      exec_taskDispatch_placed hup found runs fresh accepts small free place⟩
  · intro s hup
    refine ⟨fun core thread inside => ⟨atEdge_late (f := overrun) hup inside, atEdge_late (f := fun s => waitTimeout s core thread) hup inside⟩,
      fun edge => ?_⟩
    have overrunStep : exec .taskOverrun s = .next (keepOuter s (overrun s)) := atEdge_up (f := overrun) hup edge
    have timeoutStep : ∀ core thread, exec (.waitTimeout core thread) s = .next (keepOuter s (waitTimeout s core thread)) :=
      fun core thread => atEdge_up (f := fun s => waitTimeout s core thread) hup edge
    have longOf : ∀ k it, findItem s k.q k.idx = some it → longTask s k = isLong s it k.shape := fun k it found => by
      rw [longTask, found]
    refine ⟨fun parts early => ?_, ?_, fun k it only whole found long past => ?_, fun core thread k it w found sleeps item => ⟨?_, ?_⟩⟩
    · rw [overrunStep, overrun_early parts early]
      rfl
    · have ends := tasksEnd_overrun s
      refine ⟨_, overrunStep, sameMemory_of_mem ends.alike.mem, ends.queues, fun k mem past short => ?_⟩
      refine overrunGone_overrun mem past ?_
      unfold longTask
      split
      · next it found => exact short it found
      · rfl
    · have effect := overrun_long only whole ((longOf k it found).trans long) past
      refine ⟨fun fresh => ?_, fun counted => ?_⟩
      · rw [overrunStep, effect, if_neg (by rw [fresh]; decide)]
        rfl
      · rw [overrunStep, effect, if_pos counted]
        rfl
    · intro h
      rw [timeoutStep, waitTimeout_waits found sleeps (h.imp_left (longOf k it item).trans)]
      rfl
    · intro long due
      obtain ⟨gone, mem, count⟩ := waitTimeout_aborts found sleeps ((longOf k it item).trans long) due
      exact ⟨_, timeoutStep core thread, gone, sameMemory_of_mem (s := s) (t := keepOuter s (waitTimeout s core thread)) mem, count⟩

end Sys2Proof.Proofs.Dispatches

/-! A drain waits for its streams and its deadline, issues all of its writes or none, and a part task sends its node alone
(R67, R152, R163, R171, R253, R264). -/

namespace Sys2Proof.Proofs.Drains

open Sys2Proof Sys2Proof.Machine Sys2Proof.Safety Sys2Proof.Laws Sys2Proof.Proofs.RegisterWrites Sys2Proof.Proofs.LinkPort
  Sys2Proof.Proofs.BellRecord Sys2Proof.Proofs.ItemLaws Sys2Proof.Proofs.ItemLists Sys2Proof.Proofs.Aborts Sys2Proof.Proofs.Accesses
  Sys2Proof.Proofs.WindowsOpen Sys2Proof.Proofs.PartTasks Sys2Proof.Proofs.Dispatches

/-! ### What the plans of a die read does not change between boundaries -/

theorem taskKeys_inBreath (s : State) : taskKeys (inBreath s) = taskKeys s := by
  have keys : rowKeys (inBreath s) = rowKeys s := funext fun it => funext fun r => rowKeys_alike (readsAlike_inBreath s) it r
  funext it k
  unfold taskKeys
  rw [keys]

theorem chooseTr_inBreath (s : State) : chooseTr (inBreath s) = chooseTr s := by
  have longest : longestStack (inBreath s) = longestStack s := by
    funext it
    unfold longestStack
    rw [taskKeys_inBreath]
  funext it e
  unfold chooseTr
  rw [longest]

theorem haloPlan_inBreath (s : State) : haloPlan (inBreath s) = haloPlan s := by
  have band : bandKeys (inBreath s) = bandKeys s := by
    funext it first rows
    unfold bandKeys
    rw [taskKeys_inBreath]
  have segs : bandSegs (inBreath s) = bandSegs s := by
    funext it e
    unfold bandSegs
    rw [chooseTr_inBreath, band]
  have slots : haloSlots (inBreath s) = haloSlots s := by
    funext it e
    unfold haloSlots
    rw [segs]
    rfl
  funext it e
  unfold haloPlan
  rw [slots]
  rfl

theorem haloReady_inBreath (s : State) : haloReady (inBreath s) = haloReady s := by
  funext it e core k
  unfold haloReady
  rw [haloPlan_inBreath, taskKeys_inBreath]
  rfl

theorem mayDrain_inBreath (s : State) : mayDrain (inBreath s) = mayDrain s := by
  funext k it
  unfold mayDrain
  rw [haloReady_inBreath, isLong_alike (readsAlike_inBreath s)]
  rfl

/-! ### TASK_DRAIN -/

theorem mayDrain_refused {s : State} {k : Task} {it : Item}
    (h : k.wait.isSome = true ∨ streamsOpen s k = true ∨ (pastDeadline s k = true ∧ isLong s it k.shape = false)) : mayDrain s k it = false := by
  unfold mayDrain
  rcases h with sleeps | open_ | ⟨past, short⟩
  · have awake : k.wait.isNone = false := by
      cases hw : k.wait with
      | none => rw [hw] at sleeps; cases sleeps
      | some w => rfl
    simp only [awake, Bool.and_false, Bool.false_and]
  · simp only [open_, Bool.not_true, Bool.and_false, Bool.false_and]
  · simp only [past, short, Bool.not_true, Bool.or_self, Bool.and_false, Bool.false_and]

section
variable {s : State} {core thread : Nat} {k : Task} {it : Item} (found : findTask s core thread = some k) (item : findItem s k.q k.idx = some it)
include found item

theorem drainTask_refused (may : mayDrain s k it = false) : drainTask s core thread = s := by
  rw [drainTask, found]
  dsimp only
  rw [item]
  exact if_pos (by rw [may]; rfl)

/-- s after the drain of a task of an item, once the exchange of its core may end. -/
def haloEnded (s : State) (k : Task) (core : Nat) : State :=
  match layoutOf s core, findItem s k.q k.idx with
  | some e, some i => haloDone s i e core
  | _, _ => s

theorem drainTask_drains (may : mayDrain s k it = true) :
    drainTask s core thread = haloEnded (boundExchange 20 (drainKind s k it)) k core := by
  rw [drainTask, found]
  dsimp only
  rw [item]
  dsimp only
  rw [if_neg (by rw [may]; decide)]
  rfl

end

theorem exchanged_countVerified (s : State) (n : Nat) : Exchanged s (countVerified s n) := .quiet rfl rfl rfl rfl rfl

theorem exchanged_haloEnded (s : State) (k : Task) (core : Nat) : Exchanged s (haloEnded s k core) := by
  unfold haloEnded
  split
  · exact exchanged_haloDone ..
  · exact .refl s

/-! ### A part task (R152) -/

theorem drainKind_part {s : State} {k : Task} {it : Item} (part : k.shape.kind = .part) : drainKind s k it =
    match findGroup it k.shape with
    | some g => if (opOf s k.q k.idx).isSome && !sharedReady s it then s else drainPart s k it g
    | none => s := by
  rw [drainKind, part] <;> rfl

theorem exchanged_drainTask_part {s : State} {core thread : Nat} {k : Task} {it : Item} (found : findTask s core thread = some k)
    (item : findItem s k.q k.idx = some it) (part : k.shape.kind = .part) : Exchanged s (drainTask s core thread) := by
  cases may : mayDrain s k it with
  | false => rw [drainTask_refused found item may]; exact .refl s
  | true =>
    rw [drainTask_drains found item may, drainKind_part part]
    refine .trans (.trans ?_ (exchanged_boundExchange ..)) (exchanged_haloEnded ..)
    split
    · split
      · exact .refl s
      · exact exchanged_drainPart ..
    · exact .refl s

theorem findTask_endTask (s : State) (core thread : Nat) : findTask (endTask s core thread) core thread = none := by
  rw [findTask, List.find?_eq_none]
  intro k mem
  obtain ⟨-, other⟩ := List.mem_filter.mp mem
  intro named
  have named : (decide (k.core = core) && decide (k.thread = thread)) = true := named
  rw [named] at other
  cases other

section
variable {s : State} {core thread : Nat} {k : Task} {it : Item}

theorem name_of_findTask (found : findTask s core thread = some k) : k.core = core ∧ k.thread = thread := by
  have named := List.find?_some found
  simp only [Bool.and_eq_true, decide_eq_true_eq] at named
  exact named

/-- A shared part task's node record goes into its window and its thread is free. -/
theorem findTask_drainPart_shared {g : RowGroup} {m : TaskShape} {v : Task} {w : Nat} {x : Window} (shared : (opOf s k.q k.idx).isSome = true)
    (merge : mergeOf g k.shape = some m) (runner : runnerOf s it m = some v)
    (window : exchangeWindow s v ((feeders g m).length * nodeUnits it k.shape.rows) = some (w, x)) :
    findTask (drainPart s k it g) k.core k.thread = none := by
  have here : boundHere s it g k = true := by simp [boundHere, shared]
  rw [drainPart]
  dsimp only
  rw [if_neg (by rw [here]; decide), if_pos shared, sendNode, merge]
  dsimp only
  rw [runner]
  dsimp only
  rw [window]
  exact findTask_endTask ..

end

/-! ### A drain whose writes do not translate (R264) -/

theorem drainWrites_fails {s : State} {k : Task} {it : Item} {outs : List Out} {step : Item → Item} {e : MErr}
    (fails : drainFails s k it outs (decide (it.nRows ≤ (step it).drained.length)) e) : drainWrites s k it outs step = taskErr s k e := by
  rw [drainWrites]
  dsimp only
  rcases fails with checks | ⟨⟨cs, checks⟩, blocks⟩
  · rw [checks]
  · rw [checks]
    have blocks : drainBlocks s k.ctx (outs.map (fun o => ({ owner := .output k.q k.idx, pool := k.core, out := o } : DrainOut)) ++ streamOuts s k ++
        (if decide (it.nRows ≤ (step it).drained.length) = true then (checkOuts s (it.written ++ drainAll s k outs)).map
          (fun o => ({ owner := .output k.q k.idx, pool := 67, out := o } : DrainOut)) else [])) = .error e := blocks
    rw [blocks]

theorem reissues_abortThreads (f : Nat) (s : State) (core : Nat) (ts : List Nat) : (abortThreads f s core ts).reissues = s.reissues := by
  have fold : ∀ (l : List Nat) (s : State), (l.foldl (fun st t => cancelSlots st core t [0, 1, 2, 3]) s).reissues = s.reissues := by
    intro l
    induction l with
    | nil => exact fun _ => rfl
    | cons a l ih => exact fun s => (ih _).trans rfl
  induction f generalizing s ts with
  | zero => rfl
  | succ f ih =>
    cases ts with
    | nil => rfl
    | cons a ts =>
      simp only [abortThreads]
      exact (ih _ _).trans ((fold _ _).trans rfl)

theorem reissues_closeWindow (s : State) (core w : Nat) : (closeWindow s core w).reissues = s.reissues := by
  by_cases opened : (getWin (getCore s core) w).st = 1
  · rw [closeWindow_open opened]
    exact reissues_abortThreads ..
  · rw [closeWindow_closed opened]

/-- The end of an exchange leaves memory and the tasks to be reissued. -/
theorem haloEnded_keeps (s : State) (k : Task) (core : Nat) : (haloEnded s k core).mem = s.mem ∧ (haloEnded s k core).reissues = s.reissues := by
  have drop : ∀ (l : List (Nat × Nat)) (s : State), (l.foldl (fun st p => dropHalo st p.1 p.2) s).mem = s.mem ∧
      (l.foldl (fun st p => dropHalo st p.1 p.2) s).reissues = s.reissues := by
    intro l
    induction l with
    | nil => exact fun _ => ⟨rfl, rfl⟩
    | cons p l ih =>
      intro s
      obtain ⟨mem, reissues⟩ := ih (dropHalo s p.1 p.2)
      refine ⟨mem.trans (taskSide_dropHalo s p.1 p.2).mem, reissues.trans ?_⟩
      rw [dropHalo_eq]
      exact reissues_closeWindow ..
  unfold haloEnded
  split
  · unfold haloDone
    dsimp only
    split
    · exact ⟨rfl, rfl⟩
    · split
      · exact ⟨rfl, rfl⟩
      · exact drop _ _
  · exact ⟨rfl, rfl⟩

theorem openFault_frame (s : State) (e q : Nat) (idx : W32) (ctx : CtxId) (a : W64) (w : Bool) (r l : Nat) (p : W64) :
    ∃ tr, (openFault s e q idx ctx a w r l p).1 = { s with tr := tr } := by
  unfold openFault
  dsimp only
  split
  · exact ⟨_, rfl⟩
  · split
    · exact ⟨_, rfl⟩
    · exact ⟨s.tr, rfl⟩

/-- A task whose access faults leaves its thread and is kept for its reissue (R244, R263). -/
theorem taskErr_fault_holds (s : State) (k : Task) (addr : W64) (write : Bool) (reason level : Nat) (pte : W64) :
    findTask (taskErr s k (.fault addr write reason level pte)) k.core k.thread = none ∧
    (taskErr s k (.fault addr write reason level pte)).mem = s.mem ∧
    (∃ r ∈ (taskErr s k (.fault addr write reason level pte)).reissues, r.task = k) ∧
    (taskErr s k (.fault addr write reason level pte)).tasks.Sublist s.tasks := by
  rw [taskErr_fault]
  obtain ⟨tr, frame⟩ := openFault_frame s (engineOf k.q) k.q k.idx k.ctx addr write reason level pte
  generalize (if (openFault s (engineOf k.q) k.q k.idx k.ctx addr write reason level pte).2 then [keyOf k.ctx addr] else []) = keys
  generalize (!(openFault s (engineOf k.q) k.q k.idx k.ctx addr write reason level pte).2) = full
  rw [frame, keptForReissue]
  have none_ : findTask (abortTask { s with tr := tr } k.core k.thread) k.core k.thread = none :=
    findTask_abortThreads (by decide) _ k.core (List.mem_singleton_self _)
  have mem := (taskSide_abortTask { s with tr := tr } k.core k.thread).mem
  have fewer : (abortTask { s with tr := tr } k.core k.thread).tasks.Sublist s.tasks :=
    (aborting_abortThreads 33 { s with tr := tr } k.core [k.thread]).tasks
  generalize abortTask { s with tr := tr } k.core k.thread = u at *
  exact ⟨none_, mem, ⟨_, List.mem_append_right _ (List.mem_singleton.mpr rfl), rfl⟩, fewer⟩

section
variable {s : State} {core thread : Nat} {k : Task} {it : Item} (found : findTask s core thread = some k)
  (item : findItem s k.q k.idx = some it)
include found item

theorem drainTask_roe_fails {n : Nat} {outs : List Out} {a : W64} {wr : Bool} {reason level : Nat} {pte : W64} (parts : noParts s)
    (roe : k.shape.kind = .rowEngine) (may : mayDrain s k it = true) (reads : roeTask s it k.shape = .ok (.fine n, outs))
    (fails : drainFails (countVerified s n) k it outs (decide (it.nRows ≤ (roeDone k.shape it).drained.length)) (.fault a wr reason level pte)) :
    findTask (drainTask s core thread) core thread = none ∧ (drainTask s core thread).mem = s.mem ∧
    (∃ r ∈ (drainTask s core thread).reissues, r.task = k) ∧
    ∀ j, findItem (drainTask s core thread) k.q k.idx = some j → j.drained = it.drained := by
  have drains : drainKind s k it = taskErr (countVerified s n) k (.fault a wr reason level pte) := by
    rw [drainKind, roe]
    show drainRoe s k it = _
    rw [drainRoe, reads]
    exact drainWrites_fails fails
  obtain ⟨none_, mem, ⟨r, listed, mine⟩, fewer⟩ := taskErr_fault_holds (countVerified s n) k a wr reason level pte
  have same : Exchanged s (taskErr (countVerified s n) k (.fault a wr reason level pte)) :=
    (exchanged_countVerified s n).trans (exchanged_taskErr ..)
  rw [drainTask_drains found item may, drains]
  generalize taskErr (countVerified s n) k (.fault a wr reason level pte) = u at *
  rw [boundExchange_noParts (noParts_of_sublist parts fewer)]
  obtain ⟨mem', reissues⟩ := haloEnded_keeps u k core
  have ends := exchanged_haloEnded u k core
  obtain ⟨rfl, rfl⟩ := name_of_findTask found
  refine ⟨ends.gone _ _ none_, mem'.trans mem, ⟨r, reissues ▸ listed, mine⟩, fun j foundj => ?_⟩
  obtain ⟨i, before, drained⟩ := drained_of_itemsBy (same.trans ends).items foundj
  rw [drained, ← Option.some.inj (before.symm.trans item)]

end

/-- Settles O34: a drain waits for its streams and its deadline; a part task sends its node alone; a drain whose writes do not all translate
issues none. -/
theorem drainsIssueTheirRows : Obligations.DrainsIssueTheirRows := by
  unfold Obligations.DrainsIssueTheirRows
  intro s core thread k it hup found item
  have step : exec (.taskDrain core thread) s = .next (keepOuter s (drainTask (inBreath s) core thread)) :=
    live_up (f := fun s => drainTask (inBreath s) core thread) hup
  have found' : findTask (inBreath s) core thread = some k := found
  have item' : findItem (inBreath s) k.q k.idx = some it := item
  have may_ : mayDrain (inBreath s) k it = mayDrain s k it := by rw [mayDrain_inBreath]
  refine ⟨fun may => ?_, mayDrain_refused, fun part => ⟨⟨_, step, ?_, fun j foundj => ?_⟩, ?_⟩, ?_⟩
  · rw [step, drainTask_refused found' item' (may_.trans may)]
    rfl
  · exact (exchanged_drainTask_part found' item' part).reqs
  · obtain ⟨i, before, drained⟩ := drained_of_itemsBy (exchanged_drainTask_part found' item' part).items foundj
    rw [drained, ← Option.some.inj (before.symm.trans item')]
  · intro g m v w x may shared ready group merge runner window
    refine ⟨_, step, ?_⟩
    have shared' : (opOf (inBreath s) k.q k.idx).isSome = true := shared
    have none_ := findTask_drainPart_shared (s := inBreath s) (it := it) (g := g) shared' merge runner window
    show findTask (drainTask (inBreath s) core thread) core thread = none
    rw [drainTask_drains found' item' (may_.trans may), drainKind_part part, group]
    dsimp only
    rw [if_neg (by rw [show sharedReady (inBreath s) it = true from ready]; simp)]
    obtain ⟨rfl, rfl⟩ := name_of_findTask found
    exact ((exchanged_boundExchange 20 _).trans (exchanged_haloEnded ..)).gone _ _ none_
  · intro n outs a wr reason level pte parts roe may reads fails
    obtain ⟨none_, mem, ⟨r, listed, mine⟩, drained⟩ := drainTask_roe_fails found' item' parts roe (may_.trans may) reads fails
    exact ⟨_, r, step, none_, mem, listed, mine, drained⟩

end Sys2Proof.Proofs.Drains

/-! What the streams of a core's slots can change of a die (chapter 12, R250 to R264). -/

namespace Sys2Proof.Proofs.StreamFeeds

open Sys2Proof Sys2Proof.Machine Sys2Proof.Safety Sys2Proof.Laws Sys2Proof.Proofs.LinkPort Sys2Proof.Proofs.BellRecord
  Sys2Proof.Proofs.ItemLaws Sys2Proof.Proofs.ItemLists Sys2Proof.Proofs.Aborts Sys2Proof.Proofs.Operations Sys2Proof.Proofs.WindowsOpen
  Sys2Proof.Proofs.WindowWrites Sys2Proof.Proofs.WriteAnswers Sys2Proof.Proofs.Collectives Sys2Proof.Proofs.PartTasks

/-! ### Slots keep their arming, threads their item -/

/-- The item for which the task on a thread works. -/
def jobOn (s : State) (core thread : Nat) : Option (Nat × W32) := (findTask s core thread).map (fun k => (k.q, k.idx))

/-- A slot that is not armed anew. -/
def SameArm (v w : StreamSlot) : Prop := w.gen = v.gen ∧ w.desc = v.desc

theorem SameArm.refl (v : StreamSlot) : SameArm v v := ⟨rfl, rfl⟩

theorem SameArm.trans {v w x : StreamSlot} (a : SameArm v w) (b : SameArm w x) : SameArm v x := ⟨b.1.trans a.1, b.2.trans a.2⟩

/-- From s to t no slot is armed, and no thread takes a task of another item. -/
structure SlotsStay (s t : State) : Prop where
  arm : ∀ core i, SameArm (getSlot (getCore s core) i) (getSlot (getCore t core) i)
  job : ∀ core thread, jobOn t core thread = none ∨ jobOn t core thread = jobOn s core thread

theorem SlotsStay.refl (s : State) : SlotsStay s s := ⟨fun _ _ => .refl _, fun _ _ => .inr rfl⟩

theorem SlotsStay.trans {s t u : State} (a : SlotsStay s t) (b : SlotsStay t u) : SlotsStay s u where
  arm core i := (a.arm core i).trans (b.arm core i)
  job core thread := by
    rcases b.job core thread with gone | same
    · exact .inl gone
    · rw [same]; exact a.job core thread

theorem SlotsStay.foldl {α : Type} {f : State → α → State} (h : ∀ s a, SlotsStay s (f s a)) (l : List α) (s : State) :
    SlotsStay s (l.foldl f s) := by
  induction l generalizing s with
  | nil => exact .refl s
  | cons a l ih => exact (h s a).trans (ih _)

theorem SlotsStay.quiet {s t : State} (cores : t.cores = s.cores) (tasks : t.tasks = s.tasks) : SlotsStay s t where
  arm core i := by rw [getCore_congr cores]; exact .refl _
  job core thread := by rw [jobOn, findTask, tasks]; exact .inr rfl

theorem slotsStay_of_bellSide {s t : State} (h : BellSide s t) : SlotsStay s t := .quiet (by rw [h]) (by rw [h])

theorem slotsStay_of_portSide {s t : State} (h : PortSide s t) : SlotsStay s t := .quiet (by rw [h.1.1]) (by rw [h.1.1])

theorem slotsStay_modCore_at (s : State) (k : Nat) {f : Core → Core}
    (h : ∀ i, SameArm (getSlot (getCore s k) i) (getSlot (f (getCore s k)) i)) : SlotsStay s (modCore s k f) where
  arm core i := by
    by_cases here : core = k
    · subst here
      rw [getCore_modCore_same]
      exact h i
    · rw [getCore_modCore_other _ _ here]
      exact .refl _
  job _ _ := .inr rfl

theorem slotsStay_modCore (s : State) (k : Nat) {f : Core → Core} (h : ∀ c i, SameArm (getSlot c i) (getSlot (f c) i)) :
    SlotsStay s (modCore s k f) := slotsStay_modCore_at s k (h _)

theorem slotsStay_modSlot_at (s : State) (core i : Nat) {f : StreamSlot → StreamSlot}
    (h : SameArm (getSlot (getCore s core) i) (f (getSlot (getCore s core) i))) : SlotsStay s (modSlot s core i f) := by
  refine slotsStay_modCore_at s core fun j => ?_
  show SameArm (tget {} (getCore s core).slots j) (tget {} (tmod {} (getCore s core).slots i f) j)
  by_cases here : j = i
  · subst here
    rw [tget_tmod_same]
    exact h
  · rw [tget_tmod_other _ _ _ here]
    exact .refl _

theorem slotsStay_modSlot (s : State) (core i : Nat) {f : StreamSlot → StreamSlot} (h : ∀ v, SameArm v (f v)) :
    SlotsStay s (modSlot s core i f) := slotsStay_modSlot_at s core i (h _)

theorem sameArm_slotCancelled (thread : Nat) (ks : List Nat) (l : List Nat) (t : Tab StreamSlot) (i : Nat) :
    SameArm (tget {} t i) (tget {} (l.foldl (slotCancelled thread ks) t) i) := by
  induction l generalizing t with
  | nil => exact .refl _
  | cons j l ih =>
    refine .trans ?_ (ih (slotCancelled thread ks t j))
    unfold slotCancelled
    split
    · by_cases here : i = 4 * thread + j
      · subst here
        rw [tget_tput_same]
        exact ⟨rfl, rfl⟩
      · rw [tget_tput_other _ _ _ _ _ here]
        exact .refl _
    · exact .refl _

theorem slotsStay_cancelSlots (s : State) (core thread : Nat) (ks : List Nat) : SlotsStay s (cancelSlots s core thread ks) := by
  rw [cancelSlots_eq]
  generalize List.range 4 = l
  exact slotsStay_modCore s core fun c i => sameArm_slotCancelled thread ks l c.slots i

theorem named_of_on {k : Task} {core thread : Nat} (on : (decide (k.core = core) && decide (k.thread = thread)) = true) :
    k.core = core ∧ k.thread = thread := (Bool.and_eq_true_iff.mp on).imp of_decide_eq_true of_decide_eq_true

/-- Threads whose tasks all go keep none, the others keep theirs. -/
theorem jobOn_filter {s t : State} (gone : Nat → Nat → Bool) (h : t.tasks = s.tasks.filter (fun k => !gone k.core k.thread))
    (core thread : Nat) : jobOn t core thread = none ∨ jobOn t core thread = jobOn s core thread := by
  rw [jobOn, findTask, h, jobOn, findTask]
  generalize s.tasks = l
  cases g : gone core thread with
  | true =>
    refine .inl ?_
    rw [List.find?_eq_none.mpr]
    · rfl
    · intro k mem on
      obtain ⟨rfl, rfl⟩ := named_of_on on
      obtain ⟨-, stays⟩ := List.mem_filter.mp mem
      rw [g] at stays
      cases stays
  | false =>
    refine .inr (congrArg _ ?_)
    induction l with
    | nil => rfl
    | cons k l ih =>
      rw [List.filter_cons]
      split
      · rw [List.find?_cons, List.find?_cons, ih]
      · next away =>
        rw [List.find?_cons, ih]
        split
        · next on =>
          obtain ⟨rfl, rfl⟩ := named_of_on on
          rw [g] at away
          exact absurd rfl away
        · rfl

theorem slotsStay_filter {s t : State} (gone : Nat → Nat → Bool) (h : t.tasks = s.tasks.filter (fun k => !gone k.core k.thread))
    (cores : t.cores = s.cores) : SlotsStay s t :=
  ⟨(SlotsStay.quiet (t := { s with cores := t.cores }) cores rfl).arm, jobOn_filter gone h⟩

theorem slotsStay_shutWindow (s : State) (core w : Nat) : SlotsStay s (modCore s core (fun c => shutWindow c w)) :=
  slotsStay_modCore s core fun c i => by rw [getSlot, getSlot, show (shutWindow c w).slots = c.slots from (shutAll_keeps [w] c).1]; exact .refl _

theorem slotsStay_abortThreads (f : Nat) (s : State) (core : Nat) (ts : List Nat) : SlotsStay s (abortThreads f s core ts) := by
  induction f generalizing s ts with
  | zero => exact .refl s
  | succ f ih =>
    cases ts with
    | nil => exact .refl s
    | cons a ts =>
      simp only [abortThreads]
      refine .trans ?_ (ih _ _)
      refine .trans ?_ (slotsStay_modCore _ core fun c i => by rw [getSlot, getSlot, (shutAll_keeps _ c).1]; exact .refl _)
      refine .trans ?_ (SlotsStay.foldl (fun s t => slotsStay_cancelSlots s core t _) _ _)
      exact slotsStay_filter (fun c th => decide (c = core) && ((a :: ts).filter fun t => (findTask s core t).isSome).contains th) rfl rfl

theorem slotsStay_closeWindow (s : State) (core w : Nat) : SlotsStay s (closeWindow s core w) := by
  rw [closeWindow]
  split
  · exact .refl s
  · exact (slotsStay_shutWindow ..).trans (slotsStay_abortThreads ..)

theorem slotsStay_dropHalo (s : State) (core w : Nat) : SlotsStay s (dropHalo s core w) :=
  (slotsStay_closeWindow s core w).trans (slotsStay_modCore _ core fun _ _ => .refl _)

theorem slotsStay_abortItemTasks (s : State) (q : Nat) (idx : W32) : SlotsStay s (abortItemTasks s q idx) :=
  ((SlotsStay.foldl (fun _ _ => slotsStay_abortThreads ..) _ _).trans
    (SlotsStay.foldl (fun _ (p : Nat × Nat) => slotsStay_dropHalo _ p.1 p.2) _ _)).trans (.quiet rfl rfl)

theorem slotsStay_modItem (s : State) (q : Nat) (idx : W32) (f : Item → Item) : SlotsStay s (modItem s q idx f) := .quiet rfl rfl

theorem slotsStay_closeOp (s : State) (q : Nat) (idx : W32) (st : Byte) (d : W64) : SlotsStay s (closeOp s q idx st d) :=
  .quiet (cores_closeOp ..) (tasks_closeOp ..)

theorem slotsStay_endNow (s : State) (q : Nat) (idx : W32) (st d : Nat) : SlotsStay s (endNow s q idx st d) :=
  (((slotsStay_abortItemTasks s q idx).trans (slotsStay_closeOp _ q idx (BitVec.ofNat 8 st) (BitVec.ofNat 64 d))).trans
    (slotsStay_modItem _ q idx (fun i => i.endWith st d (lowBreath s)))).trans (.quiet rfl rfl)

theorem slotsStay_commitNow (s : State) (q : Nat) (idx : W32) : SlotsStay s (commitNow s q idx) := by
  unfold commitNow
  split
  · exact .refl s
  · exact (slotsStay_closeOp ..).trans (slotsStay_modItem ..)

theorem slotsStay_settleOp (s : State) (q : Nat) (idx : W32) : SlotsStay s (settleOp s q idx) := by
  unfold settleOp
  split
  · exact .refl s
  · dsimp only
    split
    · split
      · exact slotsStay_endNow ..
      · exact slotsStay_commitNow ..
    · exact .refl s

theorem slotsStay_report (s : State) (o : CleOp) (x : Sent) : SlotsStay s (send (setOp s o) x) := .quiet rfl rfl

theorem slotsStay_failReported (s : State) (q : Nat) (idx : W32) (o : CleOp) (st d : Nat) : SlotsStay s (failReported s q idx o st d) := by
  have aborted := slotsStay_abortItemTasks s q idx
  rw [failReported]
  generalize abortItemTasks s q idx = u at aborted
  refine .trans (.trans aborted ?_) (slotsStay_modItem ..)
  exact .trans (slotsStay_report u _ _) (slotsStay_of_portSide (portSide_toOthers ..))

theorem slotsStay_endItem (s : State) (q : Nat) (idx : W32) (st d : Nat) : SlotsStay s (endItem s q idx st d) := by
  cases opened : opOf s q idx with
  | none => rw [endItem_alone opened]; exact slotsStay_endNow ..
  | some o =>
    cases failed : failedHere s o with
    | true => rw [endItem_failed opened failed]; exact .refl s
    | false =>
      rw [endItem_reports opened failed]
      exact (slotsStay_failReported ..).trans (slotsStay_settleOp ..)

theorem slotsStay_openFault (s : State) (e q : Nat) (idx : W32) (ctx : CtxId) (a : W64) (w : Bool) (r l : Nat) (p : W64) :
    SlotsStay s (openFault s e q idx ctx a w r l p).1 := by
  unfold openFault
  dsimp only
  split
  · exact .quiet rfl rfl
  · split <;> exact .quiet rfl rfl

theorem slotsStay_spoilOutputs (s : State) (it : Item) : SlotsStay s (spoilOutputs s it) :=
  SlotsStay.foldl (f := fun st (r : Nat × Nat) => storeAny st r.1 r.2) (fun _ _ => .quiet rfl rfl) _ _

theorem slotsStay_itemErr (s : State) (q : Nat) (idx : W32) (e : MErr) : SlotsStay s (itemErr s q idx e) := by
  unfold itemErr
  split
  · exact .refl s
  · split
    · exact ((slotsStay_of_bellSide (bellSide_bellRaise ..)).trans (slotsStay_spoilOutputs ..)).trans (slotsStay_endItem ..)
    · exact slotsStay_endItem ..
    · exact (slotsStay_openFault ..).trans (slotsStay_modItem ..)

theorem slotsStay_keptForReissue (s : State) (t : Task) (keys : List PageKey) (full : Bool) : SlotsStay s (keptForReissue s t keys full) := by
  have aborted := slotsStay_abortThreads 33 s t.core [t.thread]
  rw [keptForReissue, abortTask]
  generalize abortThreads 33 s t.core [t.thread] = u at aborted ⊢
  exact (aborted.trans (slotsStay_modCore u t.core (f := fun c => { c with aborts := satAdd c.aborts 1 }) fun _ _ => .refl _)).trans (.quiet rfl rfl)

theorem slotsStay_taskErr (s : State) (t : Task) (e : MErr) : SlotsStay s (taskErr s t e) := by
  cases e with
  | bad addr r => unfold taskErr; exact slotsStay_itemErr ..
  | noCtx addr => unfold taskErr; exact slotsStay_itemErr ..
  | fault addr write reason level pte =>
    rw [taskErr_fault]
    exact ((slotsStay_openFault ..).trans (slotsStay_keptForReissue ..)).trans (slotsStay_modItem ..)

theorem slotsStay_blockMismatch (s : State) (q : Nat) (idx : W32) (ctx : CtxId) (b : W64) (n : Nat) :
    SlotsStay s (blockMismatch s q idx ctx b n) := by
  unfold blockMismatch
  refine .trans (.trans ?_ (slotsStay_of_bellSide (bellSide_bellRaise ..))) (slotsStay_endItem ..)
  exact .quiet rfl rfl

theorem slotsStay_taskMismatch (s : State) (t : Task) (b : W64) (n : Nat) : SlotsStay s (taskMismatch s t b n) :=
  (slotsStay_modCore s t.core (f := fun c => { c with aborts := satAdd c.aborts 1 }) fun _ _ => .refl _).trans (slotsStay_blockMismatch ..)

theorem wokenTask_job (s : State) (core : Nat) (t : Task) :
    (wokenTask s core t).q = t.q ∧ (wokenTask s core t).idx = t.idx := by
  unfold wokenTask
  split
  · split
    · split <;> exact ⟨rfl, rfl⟩
    · exact ⟨rfl, rfl⟩
  · exact ⟨rfl, rfl⟩

theorem slotsStay_wakeCore (s : State) (core : Nat) : SlotsStay s (wakeCore s core) where
  arm _ _ := .refl _
  job c th := by
    refine .inr ?_
    rw [jobOn, findTask, show (wakeCore s core).tasks = s.tasks.map (wokenTask s core) from rfl, List.find?_map, Option.map_map, jobOn, findTask]
    have names : ((fun k : Task => decide (k.core = c) && decide (k.thread = th)) ∘ wokenTask s core) = fun k : Task => decide (k.core = c) && decide (k.thread = th) := by
      funext k
      obtain ⟨core_, thread_⟩ := wokenTask_named s core k
      show (decide ((wokenTask s core k).core = c) && decide ((wokenTask s core k).thread = th)) = _
      rw [core_, thread_]
    have jobs : ((fun k : Task => (k.q, k.idx)) ∘ wokenTask s core) = fun k : Task => (k.q, k.idx) := by
      funext k
      obtain ⟨q_, idx_⟩ := wokenTask_job s core k
      show ((wokenTask s core k).q, (wokenTask s core k).idx) = _
      rw [q_, idx_]
    rw [jobs]
    exact congrArg (fun p => (List.find? p s.tasks).map _) names

theorem slotsStay_scratchWrite (s : State) (core a : Nat) (bs : List Byte) : SlotsStay s (scratchWrite s core a bs) := by
  unfold scratchWrite
  split
  · exact .refl s
  · exact .quiet rfl rfl

theorem slotsStay_lateWrite (s : State) (core w : Nat) (gen : Byte) (writer : Nat) : SlotsStay s (lateWrite s core w gen writer) := by
  unfold lateWrite
  dsimp only
  split
  · refine .trans (slotsStay_modCore s core ?_) (slotsStay_of_bellSide (bellSide_bellRaise ..))
    exact fun _ _ => .refl _
  · exact slotsStay_modCore s core fun _ _ => .refl _

/-! ### An item's streams -/

/-- An item's streams go on: the item's work does, and no slot is armed. -/
structure Feeding (q : Nat) (idx : W32) (s t : State) : Prop where
  works : Works q idx s t
  stay : SlotsStay s t

/-- The task on a thread, if there is one, works for the item. -/
def Serves (s : State) (core thread q : Nat) (idx : W32) : Prop := jobOn s core thread = none ∨ jobOn s core thread = some (q, idx)

theorem serves_of_slotsStay {s t : State} (h : SlotsStay s t) {core thread q : Nat} {idx : W32} (serves : Serves s core thread q idx) :
    Serves t core thread q idx := by
  rcases h.job core thread with gone | same
  · exact .inl gone
  · rw [Serves, same]; exact serves

theorem item_of_serves {s : State} {core thread q : Nat} {idx : W32} (serves : Serves s core thread q idx) {k : Task}
    (on : findTask s core thread = some k) : k.q = q ∧ k.idx = idx := by
  rw [Serves, jobOn, on] at serves
  rcases serves with none_ | same
  · cases none_
  · exact Prod.mk.inj (Option.some.inj same)

section
variable {q : Nat} {idx : W32}

theorem Feeding.refl (s : State) : Feeding q idx s s := ⟨.refl s, .refl s⟩

theorem Feeding.trans {s t u : State} (a : Feeding q idx s t) (b : Feeding q idx t u) : Feeding q idx s u :=
  ⟨a.works.trans b.works, a.stay.trans b.stay⟩

theorem Feeding.foldl {α : Type} {f : State → α → State} (h : ∀ s a, Feeding q idx s (f s a)) (l : List α) (s : State) :
    Feeding q idx s (l.foldl f s) := by
  induction l generalizing s with
  | nil => exact .refl s
  | cons a l ih => exact (h s a).trans (ih _)

theorem Feeding.quiet {s t : State} (sent : t.sent = s.sent) (items : t.items = s.items) (bytes : t.mem.bytes = s.mem.bytes)
    (cores : t.cores = s.cores) (tasks : t.tasks = s.tasks) : Feeding q idx s t := ⟨.quiet sent items bytes, .quiet cores tasks⟩

theorem works_modCore (s : State) (k : Nat) (f : Core → Core) : Works q idx s (modCore s k f) := .quiet rfl rfl rfl

theorem feeding_modCore (s : State) (k : Nat) {f : Core → Core} (h : ∀ c i, SameArm (getSlot c i) (getSlot (f c) i)) :
    Feeding q idx s (modCore s k f) := ⟨.quiet rfl rfl rfl, slotsStay_modCore s k h⟩

theorem feeding_modSlot (s : State) (core i : Nat) {f : StreamSlot → StreamSlot} (h : ∀ v, SameArm v (f v)) :
    Feeding q idx s (modSlot s core i f) := ⟨.quiet rfl rfl rfl, slotsStay_modSlot s core i h⟩

theorem feeding_setCluster (s : State) (k : Nat) (c : Cluster) : Feeding q idx s (setCluster s k c) := .quiet rfl rfl rfl rfl rfl

theorem feeding_countPfDrop (s : State) : Feeding q idx s (countPfDrop s) := .quiet rfl rfl rfl rfl rfl

theorem feeding_countPfDiscard (s : State) : Feeding q idx s (countPfDiscard s) := .quiet rfl rfl rfl rfl rfl

theorem feeding_countVerified (s : State) (n : Nat) : Feeding q idx s (countVerified s n) := .quiet rfl rfl rfl rfl rfl

theorem feeding_issueReq (s : State) (r : Req) : Feeding q idx s (issueReq s r) := .quiet rfl rfl rfl rfl rfl

theorem feeding_scratchWrite (s : State) (core a : Nat) (bs : List Byte) : Feeding q idx s (scratchWrite s core a bs) := by
  unfold scratchWrite
  split
  · exact .refl s
  · exact .quiet rfl rfl rfl rfl rfl

theorem cores_scratchWrite (s : State) (core a : Nat) (bs : List Byte) : (scratchWrite s core a bs).cores = s.cores := by
  unfold scratchWrite
  split <;> rfl

theorem feeding_wakeCore (s : State) (core : Nat) : Feeding q idx s (wakeCore s core) := ⟨.quiet rfl rfl rfl, slotsStay_wakeCore s core⟩

theorem feeding_lateWrite (s : State) (core w : Nat) (gen : Byte) (writer : Nat) : Feeding q idx s (lateWrite s core w gen writer) := by
  refine ⟨?_, slotsStay_lateWrite ..⟩
  unfold lateWrite
  dsimp only
  split
  · exact (works_modCore ..).trans (works_of_bellSide (bellSide_bellRaise ..))
  · exact works_modCore ..

theorem feeding_settleSlot (s : State) (core i : Nat) : Feeding q idx s (settleSlot s core i) :=
  feeding_modSlot s core i fun v => by split <;> exact ⟨rfl, rfl⟩

theorem works_keptForReissue (s : State) (t : Task) (keys : List PageKey) (full : Bool) : Works q idx s (keptForReissue s t keys full) := by
  have aborted : Works q idx s (abortThreads 33 s t.core [t.thread]) :=
    ⟨⟨[], by rw [taskSide_abortThreads]; exact (List.append_nil _).symm⟩, .of_sameItems tracks_onward (sameItems_abortThreads ..), fun _ => by rw [(taskSide_abortThreads ..).mem]⟩
  rw [keptForReissue, abortTask]
  generalize abortThreads 33 s t.core [t.thread] = u at aborted ⊢
  exact aborted.trans (.quiet rfl rfl rfl)

theorem works_taskErr (s : State) {t : Task} (hq : t.q = q) (hi : t.idx = idx) (e : MErr) : Works q idx s (taskErr s t e) := by
  subst hq hi
  cases e with
  | bad addr r => unfold taskErr; exact works_itemErr ..
  | noCtx addr => unfold taskErr; exact works_itemErr ..
  | fault addr write reason level pte =>
    rw [taskErr_fault]
    refine .trans (.trans (works_openFault ..) (works_keptForReissue ..)) (works_modItem _ (fun _ h => h) (fun _ => ⟨id, rfl⟩))

theorem feeding_taskErr (s : State) {t : Task} (hq : t.q = q) (hi : t.idx = idx) (e : MErr) : Feeding q idx s (taskErr s t e) :=
  ⟨works_taskErr s hq hi e, slotsStay_taskErr s t e⟩

theorem feeding_taskMismatch (s : State) {t : Task} (hq : t.q = q) (hi : t.idx = idx) (b : W64) (n : Nat) :
    Feeding q idx s (taskMismatch s t b n) := by
  refine ⟨?_, slotsStay_taskMismatch ..⟩
  subst hq hi
  exact (works_modCore ..).trans (works_blockMismatch ..)

theorem feeding_landCut (core i : Nat) (ctx : CtxId) (s : State) (x : Nat × Nat × List Byte) : Feeding q idx s (landCut core i ctx s x) := by
  unfold landCut
  extract_lets v d c w k ok range v' s1 a
  have slot : SameArm v v' := by
    show SameArm v (if ok then { v with got := v.got ++ [range] } else { v with lost := v.lost ++ [range] })
    split <;> exact ⟨rfl, rfl⟩
  have landed : Feeding q idx s s1 := by
    show Feeding q idx s (modSlot (if ok then scratchWrite s core x.2.1 x.2.2 else s) core i (fun _ => v'))
    have written : Feeding q idx s (if ok then scratchWrite s core x.2.1 x.2.2 else s) := by
      split
      · exact feeding_scratchWrite ..
      · exact .refl s
    have cores : (if ok then scratchWrite s core x.2.1 x.2.2 else s).cores = s.cores := by
      split
      · exact cores_scratchWrite ..
      · rfl
    generalize (if ok then scratchWrite s core x.2.1 x.2.2 else s) = u at written cores ⊢
    refine written.trans ⟨.quiet rfl rfl rfl, slotsStay_modSlot_at u core i ?_⟩
    rw [getCore_congr cores]
    exact slot
  split
  · exact landed
  · split
    · exact (landed.trans (feeding_modCore s1 core (f := fun c => countUnit c w k) fun _ _ => .refl _)).trans (feeding_wakeCore ..)
    · exact landed.trans (feeding_lateWrite ..)

theorem feeding_streamVerify {s : State} {core i : Nat} (serves : Serves s core (i / 4) q idx) :
    Feeding q idx s (streamVerify s core i) := by
  unfold streamVerify
  extract_lets v
  split
  · exact .refl s
  · rw [slotTask]
    split
    · exact .refl s
    · next t on =>
      obtain ⟨hq, hi⟩ := item_of_serves serves on
      split
      · exact feeding_countVerified ..
      · split
        · exact (feeding_countVerified ..).trans (feeding_countPfDiscard ..)
        · exact feeding_taskMismatch s hq hi _ _
      · split
        · exact feeding_countPfDiscard ..
        · exact feeding_taskErr s hq hi _

theorem feeding_landPart {s : State} {core i : Nat} (serves : Serves s core (i / 4) q idx) (ctx : CtxId) (sp : Nat) (bs : List Byte) :
    Feeding q idx s (landPart s core i ctx sp bs) := by
  unfold landPart
  extract_lets d full s1
  have cuts : Feeding q idx s s1 := Feeding.foldl (fun _ _ => feeding_landCut ..) _ _
  have counted := cuts.trans (feeding_modSlot s1 core i (f := fun x => { x with landed := x.landed + 1, left := x.left - 1 }) fun _ => ⟨rfl, rfl⟩)
  have settled := counted.trans (feeding_settleSlot _ core i)
  exact settled.trans (feeding_streamVerify (serves_of_slotsStay settled.stay serves))

theorem feeding_readFaults {s : State} {t : Task} (hq : t.q = q) (hi : t.idx = idx) (core i : Nat) (e : MErr) :
    Feeding q idx s (readFaults s core i t e) := by
  subst hq hi
  unfold readFaults
  extract_lets v s1
  have hit : Feeding t.q t.idx s s1 := by
    show Feeding t.q t.idx s (if _ then modItem s t.q t.idx (fun x => { x with haloHit := true }) else s)
    split
    · exact ⟨works_modItem s (fun _ h => h) (fun _ => ⟨id, rfl⟩), slotsStay_modItem ..⟩
    · exact .refl s
  split
  · split
    · exact hit.trans (feeding_countPfDiscard ..)
    · exact hit.trans (feeding_countPfDrop ..)
  · exact hit.trans (feeding_taskErr s1 rfl rfl e)

theorem feeding_issuePart {s : State} {core i : Nat} (serves : Serves s core (i / 4) q idx) {t : Task} (hq : t.q = q) (hi : t.idx = idx)
    (p : StreamPart) : Feeding q idx s (issuePart s core i t p) := by
  unfold issuePart
  extract_lets v pf
  split
  · exact feeding_countPfDrop ..
  · split
    · exact feeding_readFaults hq hi ..
    · have asked : ∀ u, Feeding q idx s u → Feeding q idx s (modSlot u core i (fun x => { x with left := x.left + 1 })) :=
        fun u h => h.trans (feeding_modSlot u core i fun _ => ⟨rfl, rfl⟩)
      split
      · have hit := asked _ (feeding_setCluster s (core / 8) { getCluster s (core / 8) with hits := satInc32 (getCluster s (core / 8)).hits })
        exact hit.trans (feeding_landPart (serves_of_slotsStay hit.stay serves) ..)
      · refine .trans (asked _ ?_) (feeding_issueReq ..)
        show Feeding q idx s (if inArenas s p.addr then setCluster s (core / 8) _ else s)
        split
        · exact feeding_setCluster ..
        · exact .refl s

theorem feeding_feedParts (l : List StreamPart) {s : State} {core i : Nat} (serves : Serves s core (i / 4) q idx) :
    Feeding q idx s (feedParts l s core i) := by
  induction l generalizing s with
  | nil => exact feeding_settleSlot ..
  | cons p l ih =>
    unfold feedParts
    extract_lets v
    rw [slotTask]
    split
    · exact .refl s
    · next k on =>
      obtain ⟨hq, hi⟩ := item_of_serves serves on
      split
      · exact .refl s
      · split
        · exact .refl s
        · have popped : Feeding q idx s (modSlot s core i (fun x => { x with todo := l })) := feeding_modSlot s core i fun _ => ⟨rfl, rfl⟩
          have issued := popped.trans (feeding_issuePart (serves_of_slotsStay popped.stay serves) hq hi p)
          exact issued.trans (ih (serves_of_slotsStay issued.stay serves))

theorem feeding_feedSlot {s : State} {core i : Nat} (serves : Serves s core (i / 4) q idx) : Feeding q idx s (feedSlot s core i) :=
  feeding_feedParts _ serves

end

end Sys2Proof.Proofs.StreamFeeds

/-! The arming of streams and the answers of their reads (chapter 12, R250 to R254, R258, R268). -/

namespace Sys2Proof.Proofs.StreamArms

open Sys2Proof Sys2Proof.Machine Sys2Proof.Safety Sys2Proof.Laws Sys2Proof.Proofs.RegisterWrites Sys2Proof.Proofs.LinkPort
  Sys2Proof.Proofs.BellRecord Sys2Proof.Proofs.ItemLaws Sys2Proof.Proofs.ItemLists Sys2Proof.Proofs.Aborts Sys2Proof.Proofs.Operations
  Sys2Proof.Proofs.WindowsOpen Sys2Proof.Proofs.WindowWrites Sys2Proof.Proofs.WriteAnswers Sys2Proof.Proofs.Collectives
  Sys2Proof.Proofs.StreamFeeds Sys2Proof.Proofs.Accesses

/-! ### Arming -/

section
variable {s : State} {core i : Nat} {d : BitVec 256} {k : Task}

theorem streamArm_noTask (none_ : findTask s core (i / 4) = none) : streamArm s core i d = s := by
  rw [streamArm, slotTask, none_]

/-- s with a stream armed, none of its requests issued. -/
def armedAt (s : State) (core i : Nat) (d : BitVec 256) : State := modSlot s core i (fun x => armedSlot (getCore s core) x d)

theorem getCore_modSlot (s : State) (core i : Nat) (f : StreamSlot → StreamSlot) :
    getCore (modSlot s core i f) core = { getCore s core with slots := tmod {} (getCore s core).slots i f } := getCore_modCore_same ..

theorem getSlot_modSlot (s : State) (core i : Nat) (f : StreamSlot → StreamSlot) :
    getSlot (getCore (modSlot s core i f) core) i = f (getSlot (getCore s core) i) := by
  rw [modSlot, getCore_modCore_same]
  exact tget_tmod_same {} _ i f

theorem getSlot_modSlot_other (s : State) (core : Nat) {i k : Nat} (f : StreamSlot → StreamSlot) (h : k ≠ i) :
    getSlot (getCore (modSlot s core i f) core) k = getSlot (getCore s core) k := by
  rw [modSlot, getCore_modCore_same]
  exact tget_tmod_other {} _ f h

theorem getSlot_armedAt (s : State) (core i : Nat) (d : BitVec 256) :
    getSlot (getCore (armedAt s core i d) core) i = armedSlot (getCore s core) (getSlot (getCore s core) i) d := getSlot_modSlot ..

section
variable (on : findTask s core (i / 4) = some k) (small : i < 128)
include on small

theorem streamArm_undefined (h : (getSlot (getCore s core) i).st = 1 ∨ sdReserved d = true) : streamArm s core i d = undefinedStream s k := by
  have bad : ((getSlot (getCore s core) i).st = 1 || sdReserved d) = true := by simpa using h
  simp only [streamArm, slotTask, on, small, decide_true, Bool.not_true, Bool.false_eq_true, if_false, bad, if_true]

variable (idle : (getSlot (getCore s core) i).st ≠ 1) (clean : sdReserved d = false)
include idle clean

theorem streamArm_refused (h : sdLegal d = false ∨ armable s core k d = false) : streamArm s core i d = s := by
  have bad : (!sdLegal d || !armable s core k d) = true := by rcases h with h | h <;> simp [h]
  simp only [streamArm, slotTask, on, small, decide_true, Bool.not_true, Bool.false_eq_true, if_false, idle, clean, decide_false,
    Bool.or_false, bad, if_true]

theorem streamArm_armed (legal : sdLegal d = true) (may : armable s core k d = true) :
    streamArm s core i d = feedSlot (armedAt s core i d) core i := by
  simp only [streamArm, slotTask, on, small, decide_true, Bool.not_true, Bool.false_eq_true, if_false, idle, clean, decide_false,
    Bool.or_false, legal, may]
  rfl

end

theorem kind_eq (v : StreamSlot) : v.kind = sdKind v.desc := (Nat.mod_mod_of_dvd _ (by decide)).symm

theorem streamParts_cons (legal : sdLegal d = true) : ∃ p l, streamParts d = p :: l := by
  simp only [sdLegal, Bool.and_eq_true, decide_eq_true_eq] at legal
  obtain ⟨⟨⟨⟨⟨bytes, -⟩, rows⟩, -⟩, -⟩, -⟩ := legal
  obtain ⟨n, hn⟩ : ∃ n, sdRows d = n + 1 := ⟨sdRows d - 1, by omega⟩
  have first : ∃ p l, rowParts (sdRowBytes d / 256 + 2) (addrAdd (sdAddr d) (0 * sdStride d)) (sdRowBytes d) (sdSp d + 0 * sdPacked d) = p :: l := by
    rw [rowParts, if_neg (by omega)]
    exact ⟨_, _, rfl⟩
  obtain ⟨p, l, row⟩ := first
  rw [streamParts, hn, List.range_succ_eq_map, List.flatMap_cons, row]
  exact ⟨p, _, rfl⟩

/-- A write stream, and one that finds no tag, waits with all its requests. -/
theorem feedSlot_armedAt (on : findTask s core (i / 4) = some k) (legal : sdLegal d = true)
    (waits : sdKind d = 2 ∨ tagFree s core (decide (sdKind d = 1)) = false) : feedSlot (armedAt s core i d) core i = armedAt s core i d := by
  obtain ⟨p, l, parts⟩ := streamParts_cons legal
  have slot := getSlot_armedAt s core i d
  rw [feedSlot, show (getSlot (getCore (armedAt s core i d) core) i).todo = p :: l from (congrArg StreamSlot.todo slot).trans parts]
  unfold feedParts
  rw [slotTask, show findTask (armedAt s core i d) core (i / 4) = some k from on, slot]
  dsimp only
  split
  · rfl
  · next h =>
    rcases waits with write | full
    · have kind : (armedSlot (getCore s core) (getSlot (getCore s core) i) d).kind = 2 := (kind_eq _).trans write
      rw [kind] at h
      exact absurd rfl h
    · have taken : tagFree (armedAt s core i d) core (decide (sdKind (armedSlot (getCore s core) (getSlot (getCore s core) i) d).desc = 1)) = false := full
      rw [taken]
      rfl

end

section
variable {s : State} (hup : up s)
include hup

theorem exec_streamArm (core i : Nat) (d : BitVec 256) : exec (.streamArm core i d) s = .next (keepOuter s (streamArm (inBreath s) core i d)) :=
  live_up (f := fun s => streamArm (inBreath s) core i d) hup

theorem exec_memoryReadResponse (tag : W16) (data : BitVec 2048) : exec (.memoryReadResponse tag .ok .ok data) s =
    .next (keepOuter s (readResponse (inBreath s) tag.toNat .ok .ok (toLE 256 data.toNat))) :=
  live_up (f := fun s => readResponse (inBreath s) tag.toNat .ok .ok (toLE 256 data.toNat)) hup

variable {core i : Nat} {d : BitVec 256} {k : Task} (on : findTask s core (i / 4) = some k) (small : i < 128)
include on small

theorem exec_streamArm_arms (idle : (getSlot (getCore s core) i).st ≠ 1) (clean : sdReserved d = false) (legal : sdLegal d = true)
    (may : armable (inBreath s) core k d = true) : ∃ t, exec (.streamArm core i d) s = .next t ∧
      ((∀ it, findItem s k.q k.idx = some it → it.landed = []) → sameMemory s t) ∧
      (getSlot (getCore t core) i).gen = (getSlot (getCore s core) i).gen + 1 ∧ (getSlot (getCore t core) i).desc = d := by
  have armed := getSlot_armedAt (inBreath s) core i d
  have serves : Serves (armedAt (inBreath s) core i d) core (i / 4) k.q k.idx :=
    .inr (congrArg (Option.map fun k : Task => (k.q, k.idx)) on)
  obtain ⟨works, stay⟩ := feeding_feedSlot serves
  obtain ⟨gen, desc⟩ := stay.arm core i
  rw [exec_streamArm hup, streamArm_armed (s := inBreath s) on small idle clean legal may]
  generalize feedSlot (armedAt (inBreath s) core i d) core i = t at works gen desc
  rw [armed] at gen desc
  refine ⟨keepOuter s t, rfl, fun none_ a => ?_, gen, desc⟩
  exact congrArg (tget 0 · a) (works.bytes none_)

theorem exec_streamArm_waits (idle : (getSlot (getCore s core) i).st ≠ 1) (clean : sdReserved d = false) (legal : sdLegal d = true)
    (may : armable (inBreath s) core k d = true) (waits : sdKind d = 2 ∨ tagFree s core (decide (sdKind d = 1)) = false) :
    exec (.streamArm core i d) s = .next (armedAt (inBreath s) core i d) := by
  rw [exec_streamArm hup, streamArm_armed (s := inBreath s) on small idle clean legal may, feedSlot_armedAt (s := inBreath s) on legal waits]
  rfl

theorem exec_streamArm_undefined (h : (getSlot (getCore s core) i).st = 1 ∨ sdReserved d = true) (alone : opOf s k.q k.idx = none) {it : Item}
    (found : findItem s k.q k.idx = some it) : ∃ t j, exec (.streamArm core i d) s = .next t ∧ findItem t k.q k.idx = some j ∧
      j.stage = .ended ∧ 0x10 ≤ j.status.toNat ∧ j.status.toNat < 0x40 := by
  have alone' : opOf (drawFree (inBreath s)).2 k.q k.idx = none := alone
  have found' : findItem (drawFree (inBreath s)).2 k.q k.idx = some it := found
  obtain ⟨j, ended, stage, status⟩ := ended_endNow found' (0x10 + (drawFree (inBreath s)).1.toNat % 0x30) 0
  have fails : undefinedStream (inBreath s) k = endNow (drawFree (inBreath s)).2 k.q k.idx (0x10 + (drawFree (inBreath s)).1.toNat % 0x30) 0 :=
    endItem_alone alone' ..
  rw [exec_streamArm hup, streamArm_undefined (s := inBreath s) on small h, fails]
  have byte : j.status.toNat = 0x10 + (drawFree (inBreath s)).1.toNat % 0x30 := by
    rw [status.1, BitVec.toNat_ofNat, Nat.mod_eq_of_lt (by omega)]
  generalize (drawFree (inBreath s)).1.toNat = f at *
  generalize endNow (drawFree (inBreath s)).2 k.q k.idx (0x10 + f % 0x30) 0 = u at *
  refine ⟨_, j, rfl, ended, stage, ?_, ?_⟩ <;> omega

end

/-! ### What a read of blocks depends on -/

/-- s with other requests outstanding. -/
def withReqs (s : State) (rs : List Req) : State := { s with mem := { s.mem with reqs := rs } }

section
variable (s : State) (rs : List Req)

theorem translate_withReqs : translate (withReqs s rs) = translate s := rfl

theorem piecesOf_withReqs (ctx : CtxId) (write : Bool) (f : Nat) : ∀ a n, piecesOf (withReqs s rs) ctx write f a n = piecesOf s ctx write f a n := by
  induction f with
  | zero => intro a n; rfl
  | succ f ih => intro a n; simp only [piecesOf, translate_withReqs, ih]

theorem badBlock_withReqs (ctx : CtxId) (pa n : Nat) (f : Nat) : ∀ off, badBlock (withReqs s rs).mem ctx pa n f off = badBlock s.mem ctx pa n f off := by
  have check : memCheck (withReqs s rs).mem = memCheck s.mem := rfl
  induction f with
  | zero => intro off; rfl
  | succ f ih => intro off; simp only [badBlock, check, ih]

theorem readPieces_withReqs (ctx : CtxId) (l : List (W64 × Nat × Nat)) : readPieces (withReqs s rs) ctx l = readPieces s ctx l := by
  have check : memCheck (withReqs s rs).mem = memCheck s.mem := rfl
  have bytes : (withReqs s rs).mem.bytes = s.mem.bytes := rfl
  induction l with
  | nil => rfl
  | cons p l ih => simp only [readPieces, check, bytes, badBlock_withReqs, ih]

theorem readVa_withReqs (ctx : CtxId) (a : W64) (n : Nat) : readVa (withReqs s rs) ctx a n = readVa s ctx a n := by
  simp only [readVa, pagesOf, piecesOf_withReqs, readPieces_withReqs]

theorem verifyGo_withReqs (ctx : CtxId) (l : List (W64 × List Byte)) : ∀ n, verifyGo (withReqs s rs) ctx l n = verifyGo s ctx l n := by
  have entry : entryAddr (withReqs s rs) = entryAddr s := rfl
  induction l with
  | nil => intro n; rfl
  | cons b l ih => intro n; simp only [verifyGo, entry, readVa_withReqs, ih]

theorem verifyBlocks_withReqs (ctx : CtxId) (parts : List (W64 × Nat)) (l : List W64) :
    ∀ n, verifyBlocks (withReqs s rs) ctx parts l n = verifyBlocks s ctx parts l n := by
  induction l with
  | nil => intro n; rfl
  | cons b l ih => intro n; simp only [verifyBlocks, readVa_withReqs, verifyGo_withReqs, ih]

end

theorem verifyBlocks_alike {s t : State} (h : ReadsAlike s t) (ctx : CtxId) (parts : List (W64 × Nat)) (l : List W64) :
    ∀ n, verifyBlocks t ctx parts l n = verifyBlocks s ctx parts l n := by
  induction l with
  | nil => intro n; rfl
  | cons b l ih => intro n; simp only [verifyBlocks, h.readVa, h.verifyGo, ih]

/-- The blocks that ranges bring in verify alike whatever requests are outstanding. -/
theorem verifyMixed_alike {s t : State} (rs : List Req) (h : ReadsAlike (withReqs s rs) t) (pg : t.pg = s.pg) (ctx : CtxId)
    (parts : List (W64 × Nat)) : verifyMixed t ctx parts = verifyMixed s ctx parts := by
  have arenas : ∀ a, inArenas t a = inArenas s a := fun a => by rw [inArenas, pg, inArenas]
  have verify : ∀ ctx l, verifyParts t ctx l = verifyParts s ctx l := fun ctx l => by
    have on : ∀ c, chkOn t c = chkOn s c := h.chkOn
    simp only [verifyParts, verifyBlocks_alike h, verifyBlocks_withReqs, on]
  simp only [verifyMixed, arenas, verify]

/-! ### Landing (R251, R253) -/

/-- The cuts reach the end of `n` bytes from a scratchpad byte on. -/
def CutsReach (d : BitVec 256) : Nat → Nat → Nat → Prop
  | 0, _, n => n = 0
  | f + 1, sp, n => n = 0 ∨ CutsReach d f (sp + min (256 - (sp - sdSp d) % 256) n) (n - min (256 - (sp - sdSp d) % 256) n)

/-- Four cuts are enough for a block and the zeros that end a word. -/
theorem cutsReach_block (d : BitVec 256) (sp : Nat) {n : Nat} (h : n ≤ 259) : CutsReach d 4 sp n := by
  simp only [CutsReach]
  omega

/-- A scratchpad after some cuts have landed. -/
def landed (t : Tab Byte) (cuts : List (Nat × Nat × List Byte)) : Tab Byte := cuts.foldl (fun t x => writeBytes t x.2.1 x.2.2) t

theorem tget_landed_before (d : BitVec 256) (f : Nat) : ∀ (sp : Nat) (bs : List Byte) (t : Tab Byte) (a : Nat), a < sp →
    tget 0 (landed t (unitCuts d f sp bs)) a = tget 0 t a := by
  induction f with
  | zero => intro sp bs t a h; rfl
  | succ f ih =>
    intro sp bs t a h
    rw [unitCuts]
    split
    · rfl
    · exact (ih _ _ _ a (by omega)).trans (tget_writeBytes_outside _ _ _ _ (.inl h))

theorem tget_landed (d : BitVec 256) (f : Nat) : ∀ (sp : Nat) (bs : List Byte) (t : Tab Byte), CutsReach d f sp bs.length →
    ∀ k, k < bs.length → tget 0 (landed t (unitCuts d f sp bs)) (sp + k) = bs.getD k 0 := by
  induction f with
  | zero => intro sp bs t reach k h; rw [CutsReach] at reach; omega
  | succ f ih =>
    intro sp bs t reach k h
    rcases reach with none_ | reach
    · omega
    · have some_ : bs.isEmpty = false := by
        cases bs with
        | nil => exact absurd h (Nat.not_lt_zero _)
        | cons _ _ => rfl
      rw [unitCuts, some_]
      generalize cut : min (256 - (sp - sdSp d) % 256) bs.length = j at reach
      show tget 0 (landed (writeBytes t sp (bs.take j)) (unitCuts d f (sp + j) (bs.drop j))) (sp + k) = _
      by_cases near : k < j
      · rw [tget_landed_before d f _ _ _ _ (by omega), tget_writeBytes_inside _ _ _ _ (by rw [List.length_take]; omega)]
        simp only [List.getD_eq_getElem?_getD, List.getElem?_take, near, if_true]
      · have rest := ih (sp + j) (bs.drop j) (writeBytes t sp (bs.take j)) (by rw [List.length_drop]; exact reach) (k - j)
          (by rw [List.length_drop]; omega)
        rw [show sp + j + (k - j) = sp + k by omega] at rest
        rw [rest]
        simp only [List.getD_eq_getElem?_getD, List.getElem?_drop]
        rw [show j + (k - j) = k by omega]

/-- No stream of a core's slots waits for a tag. -/
def NoneWaits (s : State) (core : Nat) : Prop := ∀ k, (getSlot (getCore s core) k).todo = []

theorem noneWaits_modSlot {s : State} {core : Nat} (idle : NoneWaits s core) (i : Nat) {f : StreamSlot → StreamSlot}
    (h : ∀ v, (f v).todo = v.todo) : NoneWaits (modSlot s core i f) core := by
  intro k
  by_cases here : k = i
  · subst here
    rw [getSlot_modSlot, h]
    exact idle k
  · rw [getSlot_modSlot_other _ _ _ here]
    exact idle k

/-- Bytes of a stream land on a core: its slots and a scratchpad change, and of the slot what landed. -/
structure Lands (core i p : Nat) (cuts : List (Nat × Nat × List Byte)) (s t : State) : Prop where
  frame : t = { s with cores := t.cores, phys := t.phys }
  slot : ∃ got, getSlot (getCore t core) i = { getSlot (getCore s core) i with got := got }
  waits : NoneWaits s core → NoneWaits t core
  scratch : (tget {} t.phys p).scratch = landed (tget {} s.phys p).scratch cuts

/-- One cut of a stream that does not count has landed. -/
def cutAt (s : State) (core i : Nat) (x : Nat × Nat × List Byte) : State :=
  modSlot (scratchWrite s core x.2.1 x.2.2) core i (fun _ => { getSlot (getCore s core) i with
    got := (getSlot (getCore s core) i).got ++ [(x.2.1, x.2.2.length)] })

theorem landCut_plain {s : State} {core i : Nat} (plain : sdCount (getSlot (getCore s core) i).desc = false) (ctx : CtxId)
    (x : Nat × Nat × List Byte) : landCut core i ctx s x = cutAt s core i x := by
  simp only [landCut, plain, Bool.not_false, Bool.true_or, if_true]
  rfl

theorem lands_cutAt {s : State} {core p : Nat} (served : physOf s core = some p) (i : Nat) (x : Nat × Nat × List Byte) :
    Lands core i p [x] s (cutAt s core i x) := by
  have written : scratchWrite s core x.2.1 x.2.2 =
      { s with phys := tmod {} s.phys p (fun m => { m with scratch := writeBytes m.scratch x.2.1 x.2.2 }) } := by
    rw [scratchWrite, served]
  rw [cutAt, written]
  refine ⟨rfl, ⟨_, getSlot_modSlot ..⟩, fun idle k => ?_, ?_⟩
  · by_cases here : k = i
    · subst here
      rw [getSlot_modSlot]
      exact idle k
    · rw [getSlot_modSlot_other _ _ _ here]
      exact idle k
  · exact congrArg PhysCore.scratch (tget_tmod_same {} s.phys p (fun m => { m with scratch := writeBytes m.scratch x.2.1 x.2.2 }))

theorem lands_landCuts {core i p : Nat} (ctx : CtxId) (cuts : List (Nat × Nat × List Byte)) : ∀ {s : State}, physOf s core = some p →
    sdCount (getSlot (getCore s core) i).desc = false → Lands core i p cuts s (cuts.foldl (landCut core i ctx) s) := by
  induction cuts with
  | nil => exact fun _ _ => ⟨rfl, ⟨_, rfl⟩, fun h => h, rfl⟩
  | cons x cuts ih =>
    intro s served plain
    have one := lands_cutAt served i x
    rw [List.foldl_cons, landCut_plain plain]
    generalize cutAt s core i x = u at one ⊢
    obtain ⟨frame, ⟨got, slot⟩, waits, scratch⟩ := one
    have served' : physOf u core = some p := by rw [frame]; exact served
    obtain ⟨frame', ⟨got', slot'⟩, waits', scratch'⟩ := ih served' (by rw [slot]; exact plain)
    refine ⟨?_, ⟨got', by rw [slot', slot]⟩, fun h => waits' (waits h), by rw [scratch', scratch]; rfl⟩
    rw [frame', frame]

/-- A slot with nothing left is DONE. -/
def settled (v : StreamSlot) : StreamSlot := if v.st = 1 && v.todo.isEmpty && v.left = 0 then { v with st := 2 } else v

theorem settleSlot_eq (s : State) (core i : Nat) : settleSlot s core i = modSlot s core i settled := rfl

theorem settled_todo (v : StreamSlot) : (settled v).todo = v.todo := by
  unfold settled
  split <;> rfl

/-- One more part of a slot has landed. -/
def counted (v : StreamSlot) : StreamSlot := { v with landed := v.landed + 1, left := v.left - 1 }

theorem landPart_eq (s : State) (core i : Nat) (ctx : CtxId) (sp : Nat) (bs : List Byte) : landPart s core i ctx sp bs =
    streamVerify (modSlot (modSlot ((unitCuts (getSlot (getCore s core) i).desc 4 sp (bs ++ List.replicate (padAfter (getSlot (getCore s core) i).desc
      sp bs.length) 0)).foldl (landCut core i ctx) s) core i counted) core i settled) core i := rfl

theorem padAfter_le (d : BitVec 256) (sp n : Nat) : padAfter d sp n ≤ 3 := by
  unfold padAfter
  split
  · rw [sdPacked, roundUp]
    omega
  · exact Nat.zero_le _

/-- A stream whose blocks verify counts them at most. -/
theorem streamVerify_fine {s : State} {core i : Nat} (h : ∀ k, findTask s core (i / 4) = some k → (getSlot (getCore s core) i).st = 2 →
    ∃ n, verifyMixed s k.ctx (getSlot (getCore s core) i).cold = .ok (.fine n)) : ∃ str, streamVerify s core i = { s with str := str } := by
  unfold streamVerify
  extract_lets v
  split
  · exact ⟨s.str, rfl⟩
  · next due =>
    have finished : v.st = 2 := by
      by_contra other
      rw [decide_eq_true other] at due
      exact due rfl
    rw [slotTask]
    split
    · exact ⟨s.str, rfl⟩
    · next k on =>
      obtain ⟨n, fine⟩ := h k on finished
      rw [fine]
      exact ⟨_, rfl⟩

/-! ### The answer of a demand read (R251, R253) -/

/-- The request of an answer is gone, and its line may be in the cluster cache. -/
structure Answered (core : Nat) (s t : State) : Prop where
  frame : t = { s with mem := { s.mem with reqs := t.mem.reqs }, clusters := t.clusters, free := t.free }
  place : physOf t core = physOf s core

theorem physOf_setCluster {s : State} {core : Nat} {c : Cluster} (h : c = { getCluster s (core / 8) with lines := c.lines }) :
    physOf (setCluster s (core / 8) c) core = physOf s core := by
  rw [physOf, show getCluster (setCluster s (core / 8) c) (core / 8) = c from tget_tput_same .., h]
  rfl

theorem answered_fillLine {s t : State} {core : Nat} (h : Answered core s t) (a : W64) (ctx : CtxId) : Answered core s (fillLine t core a ctx) := by
  obtain ⟨frame, place⟩ := h
  have keeps : fillLine t core a ctx = { t with clusters := (fillLine t core a ctx).clusters, free := (fillLine t core a ctx).free } ∧
      physOf (fillLine t core a ctx) core = physOf t core := by
    unfold fillLine
    dsimp only
    split
    · exact ⟨rfl, rfl⟩
    · split
      · exact ⟨rfl, rfl⟩
      · split
        · exact ⟨rfl, rfl⟩
        · split
          · exact ⟨rfl, physOf_setCluster rfl⟩
          · exact ⟨rfl, physOf_setCluster (s := (drawFree t).2) rfl⟩
  generalize fillLine t core a ctx = u at keeps ⊢
  refine ⟨?_, keeps.2.trans place⟩
  rw [keeps.1, frame]

theorem answered_releaseReq (s : State) (core tag : Nat) : Answered core s (releaseReq s tag) := by
  have side := reqSide_releaseReq s tag
  rw [ReqSide] at side
  generalize releaseReq s tag = u at side ⊢
  exact ⟨by rw [side], by rw [side]; rfl⟩

/-- A core whose streams wait for no tag takes freed tags: no byte of memory and of a scratchpad changes, and no slot that has nothing
to settle. -/
structure FedIdle (core : Nat) (s t : State) : Prop where
  bytes : t.mem.bytes = s.mem.bytes
  phys : t.phys = s.phys
  cancelled : (getCore t core).cancelled = (getCore s core).cancelled
  waits : NoneWaits s core → NoneWaits t core
  slots : ∀ k, ¬((getSlot (getCore s core) k).st = 1 ∧ (getSlot (getCore s core) k).left = 0) →
    getSlot (getCore t core) k = getSlot (getCore s core) k

theorem FedIdle.refl (core : Nat) (s : State) : FedIdle core s s := ⟨rfl, rfl, rfl, fun h => h, fun _ _ => rfl⟩

theorem FedIdle.trans {core : Nat} {s t u : State} (a : FedIdle core s t) (b : FedIdle core t u) : FedIdle core s u where
  bytes := b.bytes.trans a.bytes
  phys := b.phys.trans a.phys
  cancelled := b.cancelled.trans a.cancelled
  waits h := b.waits (a.waits h)
  slots k h := by
    have same := a.slots k h
    exact (b.slots k (by rw [same]; exact h)).trans same

theorem fedIdle_of_reqSide {core : Nat} {s t : State} (h : ReqSide s t) : FedIdle core s t := by
  have cores : t.cores = s.cores := by rw [h]
  have same : getCore t core = getCore s core := getCore_congr cores core
  exact ⟨h.bytes, by rw [h], by rw [same], fun idle k => by rw [same]; exact idle k, fun k _ => by rw [same]⟩

theorem fedIdle_settleSlot (s : State) (core i : Nat) : FedIdle core s (settleSlot s core i) := by
  rw [settleSlot_eq]
  refine ⟨rfl, rfl, by rw [getCore_modSlot], fun idle => noneWaits_modSlot idle i settled_todo, fun k busy => ?_⟩
  by_cases here : k = i
  · subst here
    rw [getSlot_modSlot, settled]
    refine if_neg fun due => busy ?_
    simp only [Bool.and_eq_true, decide_eq_true_eq] at due
    exact ⟨due.1.1, due.2⟩
  · exact getSlot_modSlot_other _ _ _ here

theorem fedIdle_foldl {core : Nat} {α : Type} {f : State → α → State} (h : ∀ s a, NoneWaits s core → FedIdle core s (f s a)) (l : List α) :
    ∀ {s : State}, NoneWaits s core → FedIdle core s (l.foldl f s) := by
  induction l with
  | nil => exact fun _ => .refl core _
  | cons a l ih =>
    intro s idle
    have one := h s a idle
    rw [List.foldl_cons]
    generalize f s a = u at one ⊢
    exact one.trans (ih (one.waits idle))

theorem fedIdle_feedThread {core : Nat} (s : State) (th : Nat) (idle : NoneWaits s core) : FedIdle core s (feedThread core s th) := by
  have tags : FedIdle core s _ := fedIdle_of_reqSide (reqSide_grantTags (fun r => r.pool = core && r.thread = some th) s)
  rw [feedThread]
  generalize grantTags (fun r => r.pool = core && r.thread = some th) s = u at tags ⊢
  refine tags.trans (fedIdle_foldl (f := fun st k => feedSlot st core (4 * th + k)) (fun t k waits => ?_) _ (tags.waits idle))
  rw [feedSlot_idle (waits _)]
  exact fedIdle_settleSlot ..

theorem fedIdle_feedCore {core : Nat} {s : State} (idle : NoneWaits s core) : FedIdle core s (feedCore s core) := by
  rw [feedCore]
  split
  · exact fedIdle_foldl fedIdle_feedThread _ idle
  · exact .refl core s

section
variable {s : State} {r : Req} {core i sp : Nat} {gen : Byte} {ctx : CtxId} {data : List Byte}

theorem readLands_stale (stale : (getSlot (getCore s core) i).gen ≠ gen) :
    readLands s r core i gen sp false ctx .ok data = countDiscarded (fillLine s core r.addr ctx) core := by
  have old : staleSlot s core i gen = true := by rw [staleSlot, decide_eq_true stale, Bool.or_true]
  unfold readLands
  exact if_pos old

/-- A slot whose stream brings in one more range. -/
def warmed (r : Req) (v : StreamSlot) : StreamSlot := { v with cold := v.cold ++ [(r.addr, r.len)] }

theorem readLands_lands (active : (getSlot (getCore s core) i).st = 1) (current : (getSlot (getCore s core) i).gen = gen) :
    readLands s r core i gen sp false ctx .ok data =
      landPart (modSlot (fillLine s core r.addr ctx) core i (warmed r)) core i ctx sp ((data.drop (r.pa % 256)).take r.len) := by
  have fresh : staleSlot s core i gen = false := by rw [staleSlot, active, current]; simp
  unfold readLands
  exact if_neg (by rw [fresh]; decide)

/-- The part of a demand read has landed on its core, but for the verification of its blocks. -/
structure PartLanded (s t : State) (r : Req) (core i p sp : Nat) (bs : List Byte) : Prop where
  reads : ReadsAlike (withReqs s t.mem.reqs) t
  pg : t.pg = s.pg
  tasks : t.tasks = s.tasks
  waits : NoneWaits s core → NoneWaits t core
  slot : ∃ got, getSlot (getCore t core) i = settled (counted { warmed r (getSlot (getCore s core) i) with got := got })
  bytes : ∀ k, k < bs.length → tget 0 (tget {} t.phys p).scratch (sp + k) = bs.getD k 0

theorem landPart_lands {u : State} {p : Nat} (answered : Answered core s u) (served : physOf s core = some p)
    (plain : sdCount (getSlot (getCore s core) i).desc = false) {bs : List Byte} (short : bs.length ≤ 256) :
    ∃ t, PartLanded s t r core i p sp bs ∧ landPart (modSlot u core i (warmed r)) core i ctx sp bs = streamVerify t core i := by
  obtain ⟨frame, place⟩ := answered
  have cores : u.cores = s.cores := by rw [frame]
  have slot : getSlot (getCore (modSlot u core i (warmed r)) core) i = warmed r (getSlot (getCore s core) i) := by
    rw [getSlot_modSlot, getCore_congr cores]
  have idle : NoneWaits s core → NoneWaits (modSlot u core i (warmed r)) core := fun h =>
    noneWaits_modSlot (fun k => by rw [getCore_congr cores]; exact h k) i (fun _ => rfl)
  generalize hd : (getSlot (getCore s core) i).desc = d at plain
  have pad := padAfter_le d sp bs.length
  generalize hf : bs ++ List.replicate (padAfter d sp bs.length) 0 = full
  have long : full.length ≤ 259 := by rw [← hf, List.length_append, List.length_replicate]; omega
  have lands := lands_landCuts (i := i) (p := p) ctx (unitCuts d 4 sp full) (s := modSlot u core i (warmed r)) (place.trans served)
    (by rw [slot]; exact (congrArg sdCount hd).trans plain)
  have eq := landPart_eq (modSlot u core i (warmed r)) core i ctx sp bs
  rw [slot, show (warmed r (getSlot (getCore s core) i)).desc = d from hd, hf] at eq
  rw [eq]
  generalize (unitCuts d 4 sp full).foldl (landCut core i ctx) (modSlot u core i (warmed r)) = w at lands
  obtain ⟨wframe, ⟨got, wslot⟩, wwaits, scratch⟩ := lands
  have scratch_ : (tget {} w.phys p).scratch = landed (tget {} s.phys p).scratch (unitCuts d 4 sp full) := by
    rw [scratch]
    exact congrArg (fun ph => landed (tget {} ph p).scratch _) (show (modSlot u core i (warmed r)).phys = s.phys by rw [frame]; rfl)
  have mem : w.mem = { s.mem with reqs := w.mem.reqs } := by rw [wframe, frame]; rfl
  refine ⟨modSlot (modSlot w core i counted) core i settled, ⟨⟨mem, ?_, ?_, ?_, ?_, ?_⟩, ?_, ?_, ?_, ⟨got, ?_⟩, fun k h => ?_⟩, rfl⟩
  · show w.tr = s.tr
    rw [wframe, frame]; rfl
  · show w.str.chkDEn = s.str.chkDEn
    rw [wframe, frame]; rfl
  · show w.str.chkHEn = s.str.chkHEn
    rw [wframe, frame]; rfl
  · show w.str.chkD = s.str.chkD
    rw [wframe, frame]; rfl
  · show w.str.chkH = s.str.chkH
    rw [wframe, frame]; rfl
  · show w.pg = s.pg
    rw [wframe, frame]; rfl
  · show w.tasks = s.tasks
    rw [wframe, frame]; rfl
  · exact fun h => noneWaits_modSlot (noneWaits_modSlot (wwaits (idle h)) i (f := counted) (fun _ => rfl)) i settled_todo
  · rw [getSlot_modSlot, getSlot_modSlot, wslot, slot]
  · show tget 0 (tget {} w.phys p).scratch (sp + k) = _
    have inside : k < full.length := by rw [← hf, List.length_append]; omega
    rw [scratch_, tget_landed d 4 sp full _ (cutsReach_block d sp long) k inside, ← hf]
    simp only [List.getD_eq_getElem?_getD, List.getElem?_append_left h]

theorem readResponse_stream {tag : Nat} (req : reqOf s tag = some r) (read : r.write = false) (owner : r.owner = .stream core i gen sp false ctx) :
    readResponse s tag .ok .ok data = feedCore (readLands (releaseReq s tag) r core i gen sp false ctx .ok data) core := by
  unfold readResponse
  rw [req]
  dsimp only
  rw [read, owner]
  rfl

end

section
variable {s : State} {tag : W16} {r : Req} {core i sp : Nat} {gen : Byte} {ctx : CtxId} {data : BitVec 2048} (hup : up s)
  (req : reqOf s tag.toNat = some r) (read : r.write = false) (owner : r.owner = .stream core i gen sp false ctx) (idle : NoneWaits s core)
include hup req read owner idle

/-- The data of a read for a slot that was armed anew is counted and discarded. -/
theorem exec_read_stale (stale : (getSlot (getCore s core) i).gen ≠ gen) : ∃ t, exec (.memoryReadResponse tag .ok .ok data) s = .next t ∧
    sameMemory s t ∧ t.phys = s.phys ∧ (getCore t core).cancelled = satAdd (getCore s core).cancelled 1 := by
  have answered := answered_releaseReq (inBreath s) core tag.toNat
  have cores := congrArg State.cores answered.frame
  rw [exec_memoryReadResponse hup, readResponse_stream (s := inBreath s) req read owner,
    readLands_stale (s := releaseReq (inBreath s) tag.toNat) (by rw [getCore_congr cores]; exact stale)]
  have filled := answered_fillLine answered r.addr ctx
  generalize fillLine (releaseReq (inBreath s) tag.toNat) core r.addr ctx = u at filled
  obtain ⟨frame, -⟩ := filled
  have core_ : getCore u core = getCore s core := getCore_congr (congrArg State.cores frame) core
  have counted_ : getCore (countDiscarded u core) core = { getCore s core with cancelled := satAdd (getCore s core).cancelled 1 } := by
    rw [countDiscarded, getCore_modCore_same, core_]
  have fed := fedIdle_feedCore (s := countDiscarded u core) (fun k => by rw [counted_]; exact idle k)
  generalize feedCore (countDiscarded u core) core = t at fed
  refine ⟨keepOuter s t, rfl, fun a => ?_, ?_, ?_⟩
  · have bytes : t.mem.bytes = s.mem.bytes := fed.bytes.trans (congrArg (fun u => u.mem.bytes) frame)
    exact congrArg (tget 0 · a) bytes
  · exact fed.phys.trans (show u.phys = s.phys from (congrArg State.phys frame).trans rfl)
  · exact fed.cancelled.trans (congrArg Core.cancelled counted_)

/-- The data of a demand read lands; with its last part the slot is DONE. -/
theorem exec_read_lands {p : Nat} (active : (getSlot (getCore s core) i).st = 1) (current : (getSlot (getCore s core) i).gen = gen)
    (plain : sdCount (getSlot (getCore s core) i).desc = false) (served : physOf s core = some p) (fits : r.pa % 256 + r.len ≤ 256)
    (verifies : (getSlot (getCore s core) i).left ≤ 1 → ∀ k, findTask s core (i / 4) = some k →
      ∃ n, verifyMixed (inBreath s) k.ctx ((getSlot (getCore s core) i).cold ++ [(r.addr, r.len)]) = .ok (.fine n)) :
    ∃ t, exec (.memoryReadResponse tag .ok .ok data) s = .next t ∧ sameMemory s t ∧
      (getSlot (getCore t core) i).landed = (getSlot (getCore s core) i).landed + 1 ∧
      (getSlot (getCore t core) i).left = (getSlot (getCore s core) i).left - 1 ∧
      (getSlot (getCore t core) i).st = (if (getSlot (getCore s core) i).left ≤ 1 then 2 else 1) ∧
      ∀ k, k < r.len → (tget 0 (tget {} t.phys p).scratch (sp + k)).toNat = data.toNat / 2 ^ (8 * (r.pa % 256 + k)) % 256 := by
  have answered := answered_releaseReq (inBreath s) core tag.toNat
  have cores := congrArg State.cores answered.frame
  have slot_ : getSlot (getCore (releaseReq (inBreath s) tag.toNat) core) i = getSlot (getCore s core) i := by rw [getCore_congr cores]; rfl
  rw [exec_memoryReadResponse hup, readResponse_stream (s := inBreath s) req read owner,
    readLands_lands (s := releaseReq (inBreath s) tag.toNat) ((congrArg StreamSlot.st slot_).trans active)
      ((congrArg StreamSlot.gen slot_).trans current)]
  have filled := answered_fillLine answered r.addr ctx
  generalize fillLine (releaseReq (inBreath s) tag.toNat) core r.addr ctx = u at filled
  have len : (toLE 256 data.toNat).length = 256 := SequenceSelect.length_toLE ..
  have bsLen : (((toLE 256 data.toNat).drop (r.pa % 256)).take r.len).length = r.len := by rw [List.length_take, List.length_drop, len]; omega
  obtain ⟨w, part, lands⟩ := landPart_lands (r := r) (sp := sp) (ctx := ctx) filled served plain
    (bs := ((toLE 256 data.toNat).drop (r.pa % 256)).take r.len) (by rw [bsLen]; omega)
  rw [lands]
  obtain ⟨reads, pg, tasks, waits, ⟨got, slot⟩, bytes⟩ := part
  have todo : (getSlot (getCore s core) i).todo = [] := idle i
  generalize hv : getSlot (getCore s core) i = v at *
  change getSlot (getCore w core) i = settled (counted { warmed r (getSlot (getCore s core) i) with got := got }) at slot
  rw [hv] at slot
  have done : (getSlot (getCore w core) i).left = v.left - 1 ∧ (getSlot (getCore w core) i).landed = v.landed + 1 ∧
      (getSlot (getCore w core) i).cold = v.cold ++ [(r.addr, r.len)] ∧ (getSlot (getCore w core) i).st = (if v.left ≤ 1 then 2 else 1) := by
    rw [slot, settled]
    have cond : ((counted { warmed r v with got := got }).st = 1 && (counted { warmed r v with got := got }).todo.isEmpty &&
        (counted { warmed r v with got := got }).left = 0) = decide (v.left ≤ 1) := by
      show (decide (v.st = 1) && v.todo.isEmpty && decide (v.left - 1 = 0)) = _
      rw [active, todo]
      simp only [decide_true, List.isEmpty_nil, Bool.true_and]
      exact decide_eq_decide.mpr (by omega)
    rw [cond]
    by_cases last : v.left ≤ 1
    · rw [if_pos (decide_eq_true last), if_pos last]
      exact ⟨rfl, rfl, rfl, rfl⟩
    · rw [if_neg (by rw [decide_eq_false last]; decide), if_neg last]
      exact ⟨rfl, rfl, rfl, active⟩
  obtain ⟨left, landed_, cold, st⟩ := done
  obtain ⟨str, verified⟩ := streamVerify_fine (s := w) (core := core) (i := i) fun k on finished => by
    rw [cold, verifyMixed_alike _ reads pg]
    refine verifies ?_ k ?_
    · by_contra more
      rw [st, if_neg more] at finished
      cases finished
    · rw [findTask, ← show w.tasks = s.tasks from tasks]
      exact on
  rw [verified]
  have fed := fedIdle_feedCore (core := core) (s := { w with str := str }) (waits idle)
  have same := fed.slots i fun due => by
    obtain ⟨act, none_⟩ := due
    have act' : (getSlot (getCore w core) i).st = 1 := act
    have none' : (getSlot (getCore w core) i).left = 0 := none_
    rw [left] at none'
    rw [st, if_pos (by omega)] at act'
    cases act'
  change getSlot (getCore (feedCore { w with str := str } core) core) i = getSlot (getCore w core) i at same
  have phys := fed.phys
  have memBytes := fed.bytes
  generalize feedCore { w with str := str } core = t at same phys memBytes
  refine ⟨keepOuter s t, rfl, fun a => ?_, ?_, ?_, ?_, fun k h => ?_⟩
  · have kept : t.mem.bytes = s.mem.bytes := memBytes.trans (show w.mem.bytes = s.mem.bytes from (congrArg MemSide.bytes reads.mem).trans rfl)
    exact congrArg (tget 0 · a) kept
  · exact (congrArg StreamSlot.landed same).trans landed_
  · exact (congrArg StreamSlot.left same).trans left
  · exact (congrArg StreamSlot.st same).trans st
  · have here := bytes k (by rw [bsLen]; exact h)
    show (tget 0 (tget {} t.phys p).scratch (sp + k)).toNat = _
    rw [phys]
    refine (congrArg BitVec.toNat here).trans ?_
    rw [← getD_toLE 256 data.toNat (k := r.pa % 256 + k) (by omega)]
    simp only [List.getD_eq_getElem?_getD, List.getElem?_take, h, if_true, List.getElem?_drop]

end

/-- Settles O37: an arming is refused, undefined, or issues what it can (`exec_streamArm_arms`); an answer lands or is discarded. -/
theorem streamsAreArmedAndAnswered : Obligations.StreamsAreArmedAndAnswered := by
  refine ⟨fun s core i d hup small => ⟨fun none_ => ?_, fun k on idle clean => ⟨fun refused => ?_, fun legal may => ⟨?_, fun waits => ?_⟩⟩,
    fun k on bad alone it found => exec_streamArm_undefined hup on small bad alone found⟩,
    fun s tag r core i sp p gen ctx data hup _ _ req read owner idle => ⟨fun active current plain served fits verifies => ?_, fun stale => ?_⟩⟩
  · rw [exec_streamArm hup, streamArm_noTask (s := inBreath s) none_]
    rfl
  · rw [exec_streamArm hup, streamArm_refused (s := inBreath s) on small idle clean refused]
    rfl
  · exact exec_streamArm_arms hup on small idle clean legal may
  · have slot := getSlot_armedAt (inBreath s) core i d
    exact ⟨_, exec_streamArm_waits hup on small idle clean legal may waits, rfl, congrArg StreamSlot.st slot, congrArg StreamSlot.todo slot,
      congrArg StreamSlot.landed slot⟩
  · exact exec_read_lands hup req read owner idle active current plain served fits verifies
  · exact exec_read_stale hup req read owner idle stale

end Sys2Proof.Proofs.StreamArms

/-! The drain of a task that writes its rows, and the items of the Row Engine (chapters 6 and 12, R125 to R136, R163, R264). -/

namespace Sys2Proof.Proofs.RowDrains

open Sys2Proof Sys2Proof.Machine Sys2Proof.Safety Sys2Proof.Laws Sys2Proof.Proofs.RegisterWrites Sys2Proof.Proofs.LinkPort
  Sys2Proof.Proofs.BellRecord Sys2Proof.Proofs.ItemLaws Sys2Proof.Proofs.ItemLists Sys2Proof.Proofs.Aborts Sys2Proof.Proofs.Accesses
  Sys2Proof.Proofs.WindowsOpen Sys2Proof.Proofs.PartTasks Sys2Proof.Proofs.Dispatches Sys2Proof.Proofs.Drains

/-! ### The requests of a drain -/

/-- Requests, whatever tags they hold. -/
def untagged (rs : List Req) : List Req := rs.map (fun r => { r with tag := none })

/-- The requests of a drain's blocks. -/
def drainReqs (k : Task) (bs : List (DrainOut × W64 × Nat × List Byte)) : List Req :=
  bs.map (fun b => writeReq b.1.owner b.1.pool (some k.thread) k.ctx b.2)

theorem issueReqs_frame (l : List Req) (s : State) : ∃ rs, l.foldl issueReq s = { s with mem := { s.mem with reqs := rs } } ∧
    untagged rs = untagged s.mem.reqs ++ untagged l := by
  induction l generalizing s with
  | nil => exact ⟨s.mem.reqs, rfl, (List.append_nil _).symm⟩
  | cons r l ih =>
    obtain ⟨rs, frame, reqs⟩ := ih (issueReq s r)
    refine ⟨rs, frame, reqs.trans ?_⟩
    show untagged (s.mem.reqs ++ [{ r with tag := freeTag s r }]) ++ untagged l = untagged s.mem.reqs ++ untagged (r :: l)
    simp only [untagged, List.map_append, List.map_cons, List.map_nil, List.append_assoc, List.singleton_append]

/-- A slot whose write stream has issued its requests. -/
def slotIssued (bs : List (DrainOut × W64 × Nat × List Byte)) (j : Nat) (v : StreamSlot) : StreamSlot :=
  if v.st = 1 && v.kind = 2 then
    { v with todo := [], left := v.left + (bs.filter (fun b => match b.1.owner with
        | .drain _ i _ _ _ => i = j
        | _ => false)).length }
  else v

theorem modSlots_frame (k : Task) (f : Nat → StreamSlot → StreamSlot) (l : List Nat) (s : State) : ∃ cores,
    l.foldl (fun st j => modSlot st k.core (4 * k.thread + j) (f (4 * k.thread + j))) s = { s with cores := cores } := by
  induction l generalizing s with
  | nil => exact ⟨s.cores, rfl⟩
  | cons j l ih =>
    obtain ⟨cores, frame⟩ := ih (modSlot s k.core (4 * k.thread + j) (f (4 * k.thread + j)))
    exact ⟨cores, frame⟩

theorem drainIssue_frame (s : State) (k : Task) (bs : List (DrainOut × W64 × Nat × List Byte)) :
    ∃ cores rs, drainIssue s k bs = { s with cores := cores, mem := { s.mem with reqs := rs } } ∧
      untagged rs = untagged s.mem.reqs ++ drainReqs k bs := by
  have fold : ∀ u : State, bs.foldl (fun st b => issueReq st (writeReq b.1.owner b.1.pool (some k.thread) k.ctx b.2)) u =
      (drainReqs k bs).foldl issueReq u := fun u => by rw [drainReqs, List.foldl_map]
  have same : untagged (drainReqs k bs) = drainReqs k bs := by
    rw [untagged, drainReqs, List.map_map]
    rfl
  have eq : drainIssue s k bs = (drainReqs k bs).foldl issueReq
      ((List.range 4).foldl (fun st j => modSlot st k.core (4 * k.thread + j) (slotIssued bs (4 * k.thread + j))) s) := fold _
  obtain ⟨cores, frame⟩ := modSlots_frame k (slotIssued bs) (List.range 4) s
  rw [eq, frame]
  obtain ⟨rs, issued, reqs⟩ := issueReqs_frame (drainReqs k bs) { s with cores := cores }
  exact ⟨cores, rs, issued, reqs.trans (by rw [same])⟩

/-! ### A drain whose writes all translate (R264) -/

/-- The item after its drain. -/
def afterDrain (s : State) (k : Task) (outs : List Out) (step : Item → Item) (last : Bool) (i : Item) : Item :=
  { step i with written := (step i).written ++ drainAll s k outs, issued := last }

/-- s with a drain's requests out and its task gone. -/
def drainGone (s : State) (k : Task) (outs : List Out) (step : Item → Item) (last : Bool) (bs : List (DrainOut × W64 × Nat × List Byte)) : State :=
  modItem (endTask (drainIssue s k bs) k.core k.thread) k.q k.idx (afterDrain s k outs step last)

theorem drainWrites_sends {s : State} {k : Task} {it : Item} {outs : List Out} {step : Item → Item} {bs : List (DrainOut × W64 × Nat × List Byte)}
    (sends : drainSends s k it outs (decide (it.nRows ≤ (step it).drained.length)) bs) :
    drainWrites s k it outs step = tryCommit (drainGone s k outs step (decide (it.nRows ≤ (step it).drained.length)) bs) k.q k.idx := by
  obtain ⟨⟨cs, checks⟩, blocks⟩ := sends
  have blocks : drainBlocks s k.ctx (outs.map (fun o => ({ owner := .output k.q k.idx, pool := k.core, out := o } : DrainOut)) ++ streamOuts s k ++
      (if decide (it.nRows ≤ (step it).drained.length) = true then (checkOuts s (it.written ++ drainAll s k outs)).map
        (fun o => ({ owner := .output k.q k.idx, pool := 67, out := o } : DrainOut)) else [])) = .ok bs := blocks
  rw [drainWrites]
  dsimp only
  rw [checks, blocks]
  rfl

theorem taskSide_endTask (s : State) (core thread : Nat) : TaskSide s (endTask s core thread) := rfl

theorem items_endTask (s : State) (core thread : Nat) : (endTask s core thread).items = s.items := rfl

theorem tasks_endTask (s : State) (core thread : Nat) : (endTask s core thread).tasks.Sublist s.tasks := List.filter_sublist

/-- An item of a tiling engine, on one die, commits once its effect is issued and acknowledged. -/
theorem tryCommit_alone {s : State} {q : Nat} {idx : W32} {i : Item} (found : findItem s q idx = some i) (runs : i.stage = .executing)
    (alone : opOf s q idx = none) (engine : engineOf q ≠ 1) :
    tryCommit s q idx = if outputsLeft s q idx = 0 ∧ i.issued = true then commitNow s q idx else s := by
  rw [tryCommit, found]
  dsimp only
  rw [runs, alone]
  by_cases left : outputsLeft s q idx = 0
  · cases issued : i.issued with
    | true => simp [left, engine]
    | false => simp [left]
  · simp [left]

theorem taskSide_haloEnded (s : State) (k : Task) (core : Nat) : TaskSide s (haloEnded s k core) := by
  unfold haloEnded
  split
  · unfold haloDone
    dsimp only
    split
    · exact .refl s
    · split
      · exact .refl s
      · exact TaskSide.foldl (f := fun st (p : Nat × Nat) => dropHalo st p.1 p.2) (fun _ _ => taskSide_dropHalo ..) _ _
  · exact .refl s

/-- j has done the work of i. -/
def SameWork (i j : Item) : Prop := j.drained = i.drained ∧ j.written = i.written ∧ j.stage = i.stage

theorem tracks_sameWork : Tracks SameWork where
  trans a b := ⟨b.1.trans a.1, b.2.1.trans a.2.1, b.2.2.trans a.2.2⟩
  marks _ _ := ⟨rfl, rfl, rfl⟩

theorem foundAs_haloEnded (s : State) (k : Task) (core q : Nat) (idx : W32) : FoundAs SameWork q idx s (haloEnded s k core) := by
  unfold haloEnded
  split
  · unfold haloDone
    dsimp only
    split
    · exact .refl tracks_sameWork s
    · split
      · exact .refl tracks_sameWork s
      · exact .foldl tracks_sameWork (fun _ _ s => .of_sameItems tracks_sameWork (sameItems_dropHalo ..)) s
  · exact .refl tracks_sameWork s

section
variable {s : State} {k : Task} {it : Item} {outs : List Out} {step : Item → Item} {bs : List (DrainOut × W64 × Nat × List Byte)}

/-- What a drain whose writes all translate leaves. -/
theorem drained_drainWrites (item : findItem s k.q k.idx = some it) (runs : it.stage = .executing) (alone : opOf s k.q k.idx = none)
    (engine : engineOf k.q ≠ 1) (named : ∀ i, isItem k.q k.idx i = true → isItem k.q k.idx (step i) = true)
    (work : (step it).written = it.written ∧ (step it).stage = it.stage)
    (sends : drainSends s k it outs (decide (it.nRows ≤ (step it).drained.length)) bs) :
    drained s (haloEnded (drainWrites s k it outs step) k k.core) k it (step it).drained outs bs ∧
    TaskSide (drainIssue s k bs) (haloEnded (drainWrites s k it outs step) k k.core) ∧
    (drainWrites s k it outs step).tasks.Sublist s.tasks := by
  obtain ⟨cores, rs, issued, reqs⟩ := drainIssue_frame s k bs
  rw [drainWrites_sends sends]
  generalize hl : decide (it.nRows ≤ (step it).drained.length) = last
  have gone : TaskSide (drainIssue s k bs) (drainGone s k outs step last bs) :=
    (taskSide_endTask ..).trans (taskSide_modItem ..)
  have found : findItem (drainGone s k outs step last bs) k.q k.idx = some (afterDrain s k outs step last it) := by
    have items : (endTask (drainIssue s k bs) k.core k.thread).items = s.items := (items_endTask ..).trans (by rw [issued])
    rw [drainGone, findItem_modItem _ _ _ (afterDrain s k outs step last) named, findItem_congr items, item]
    rfl
  have free : findTask (drainGone s k outs step last bs) k.core k.thread = none := findTask_endTask ..
  have fewer : (drainGone s k outs step last bs).tasks.Sublist s.tasks := by
    have tasks : (drainIssue s k bs).tasks = s.tasks := by rw [issued]
    exact tasks ▸ tasks_endTask (drainIssue s k bs) k.core k.thread
  have alone' : opOf (drainGone s k outs step last bs) k.q k.idx = none := by
    rw [opOf_congr (t := drainGone s k outs step last bs) (s := s) (gone.cle.trans (by rw [issued]))]
    exact alone
  have runs' : (afterDrain s k outs step last it).stage = .executing := work.2.trans runs
  generalize drainGone s k outs step last bs = u at *
  have settles := tryCommit_alone found runs' alone' engine
  have after : TaskSide u (tryCommit u k.q k.idx) ∧ (tryCommit u k.q k.idx).tasks = u.tasks ∧ ∃ j, findItem (tryCommit u k.q k.idx) k.q k.idx = some j ∧
      j.drained = (step it).drained ∧ j.written = it.written ++ drainAll s k outs ∧
      j.stage = if it.nRows ≤ (step it).drained.length ∧ outputsLeft u k.q k.idx = 0 then .committed else .executing := by
    rw [settles]
    split
    · next done =>
      obtain ⟨left, issued_⟩ := done
      have all : it.nRows ≤ (step it).drained.length := of_decide_eq_true (hl.trans issued_)
      exact ⟨taskSide_commitNow alone', by rw [commitNow_alone found alone']; rfl, _, findItem_commitNow found alone', rfl,
        congrArg (· ++ _) work.1, (if_pos ⟨all, left⟩).symm⟩
    · next open_ =>
      refine ⟨.refl u, rfl, _, found, rfl, congrArg (· ++ _) work.1, runs'.trans (if_neg fun done => open_ ?_).symm⟩
      exact ⟨done.2, hl.symm.trans (decide_eq_true done.1)⟩
  generalize tryCommit u k.q k.idx = v at after
  obtain ⟨side, tasks, j, foundj, drainedj, written, stage⟩ := after
  have ends := taskSide_haloEnded v k k.core
  have all : TaskSide (drainIssue s k bs) (haloEnded v k k.core) := (gone.trans side).trans ends
  have work_ := foundAs_haloEnded v k k.core k.q k.idx
  have free_ := (exchanged_haloEnded v k k.core).gone k.core k.thread (by rw [findTask, tasks]; exact free)
  obtain ⟨j', foundj', drained', written', stage'⟩ := work_.some foundj
  have mem : (haloEnded v k k.core).mem = { s.mem with reqs := rs } := all.mem.trans (by rw [issued])
  have left : outputsLeft (haloEnded v k k.core) k.q k.idx = outputsLeft u k.q k.idx := by
    rw [outputsLeft, (side.trans ends).mem, outputsLeft]
  refine ⟨⟨free_, fun a => ?_, all.queues.trans (by rw [issued]), ⟨j', foundj', drained'.trans drainedj, written'.trans written, ?_⟩, ?_⟩, all,
    tasks ▸ fewer⟩
  · rw [mem]
  · rw [left]
    exact stage'.trans stage
  · rw [mem]
    exact reqs

end

/-! ### The Row Engine (R125, R173) -/

theorem roeDone_keeps (t : TaskShape) (i : Item) : (roeDone t i).q = i.q ∧ (roeDone t i).idx = i.idx ∧ (roeDone t i).written = i.written ∧
    (roeDone t i).stage = i.stage := by
  unfold roeDone
  split <;> exact ⟨rfl, rfl, rfl, rfl⟩

theorem isItem_congr {i j : Item} (hq : j.q = i.q) (hi : j.idx = i.idx) (q : Nat) (idx : W32) : isItem q idx j = isItem q idx i := by
  rw [isItem, hq, hi, isItem]

theorem stage_of_mayDrain {s : State} {k : Task} {it : Item} (h : mayDrain s k it = true) : it.stage = .executing := by
  simp only [mayDrain, Bool.and_eq_true, decide_eq_true_eq] at h
  obtain ⟨⟨⟨⟨⟨runs, -⟩, -⟩, -⟩, -⟩, -⟩ := h
  exact runs

section
variable {s : State} {q : Nat} {idx : W32} {op : Nat} {i : Item} (found : findItem s q idx = some i)
include found

theorem roe_begins (ready : i.opcode = op ∧ (mayBegin s i = true ∨ mayRun s i = true)) (new : i.begun = false) : roe s q idx op =
    modItem s q idx (fun x => { x with stage := .executing, begun := true, nRows := rRows i, status := 0, detail := 0, count := 0 }) := by
  obtain ⟨rfl, may⟩ := ready
  have goes : (mayBegin s i || mayRun s i) = true := by simpa using may
  rw [roe, found]
  exact if_neg (by rw [goes, new]; simp)

theorem roe_begun (old : i.begun = true) : roe s q idx op = s := by
  rw [roe, found]
  exact if_pos (by rw [old, Bool.or_true])

end

/-- What a Row Engine command's step does. -/
theorem exec_roe {s : State} (hup : up s) {q : Nat} {idx : W32} {p : Nat × Instr}
    (h : p ∈ [(0x40, Instr.softmax q idx), (0x41, Instr.rmsNorm q idx), (0x42, Instr.func q idx)]) :
    exec p.2 s = .next (keepOuter s (roe (inBreath s) q idx p.1)) := by
  simp only [List.mem_cons, List.not_mem_nil, or_false] at h
  rcases h with rfl | rfl | rfl
  · exact live_up (f := fun s => roe (inBreath s) q idx 0x40) hup
  · exact live_up (f := fun s => roe (inBreath s) q idx 0x41) hup
  · exact live_up (f := fun s => roe (inBreath s) q idx 0x42) hup

theorem exec_taskDrain {s : State} (hup : up s) (core thread : Nat) :
    exec (.taskDrain core thread) s = .next (keepOuter s (drainTask (inBreath s) core thread)) :=
  live_up (f := fun s => drainTask (inBreath s) core thread) hup

/-- A drain that comes to its writes, on a die where no part task waits. -/
theorem drainTask_writes {s u : State} {core thread : Nat} {k : Task} {it : Item} {outs : List Out} {step : Item → Item}
    {bs : List (DrainOut × W64 × Nat × List Byte)} (parts : noParts s) (found : findTask s core thread = some k)
    (item : findItem s k.q k.idx = some it) (may : mayDrain s k it = true) (kind : drainKind s k it = drainWrites u k it outs step)
    (items : u.items = s.items) (tasks : u.tasks = s.tasks) (alone : opOf u k.q k.idx = none) (engine : engineOf k.q ≠ 1)
    (names : ∀ i, (step i).q = i.q ∧ (step i).idx = i.idx) (work : (step it).written = it.written ∧ (step it).stage = it.stage)
    (sends : drainSends u k it outs (decide (it.nRows ≤ (step it).drained.length)) bs) :
    drained u (drainTask s core thread) k it (step it).drained outs bs ∧ TaskSide (drainIssue u k bs) (drainTask s core thread) := by
  have named : ∀ i, isItem k.q k.idx i = true → isItem k.q k.idx (step i) = true := fun i h =>
    (isItem_congr (names i).1 (names i).2 _ _).trans h
  obtain ⟨done, side, fewer⟩ := drained_drainWrites ((findItem_congr items ..).trans item) (stage_of_mayDrain may) alone engine named work sends
  rw [drainTask_drains found item may, kind, boundExchange_noParts (noParts_of_sublist parts (tasks ▸ fewer))]
  obtain ⟨rfl, -⟩ := name_of_findTask found
  exact ⟨done, side⟩

section
variable {s : State} {core thread : Nat} {k : Task} {it : Item}

theorem exec_drain_roe (hup : up s) {n : Nat} {outs : List Out} {bs : List (DrainOut × W64 × Nat × List Byte)} (parts : noParts s)
    (begins : drainBegins s core thread k it) (engine : engineOf k.q = 3) (kind : k.shape.kind = .rowEngine)
    (reads : roeTask (inBreath s) it k.shape = .ok (.fine n, outs))
    (sends : drainSends (countVerified (inBreath s) n) k it outs (decide (it.nRows ≤ (roeDone k.shape it).drained.length)) bs) :
    ∃ t, exec (.taskDrain core thread) s = .next t ∧ drained (countVerified (inBreath s) n) t k it (roeDone k.shape it).drained outs bs ∧
      t.str = { s.str with chkVerified := satAdd s.str.chkVerified n } := by
  obtain ⟨found, item, may, alone⟩ := begins
  have may' : mayDrain (inBreath s) k it = true := by rw [mayDrain_inBreath]; exact may
  have writes : drainKind (inBreath s) k it = drainWrites (countVerified (inBreath s) n) k it outs (roeDone k.shape) := by
    rw [drainKind, kind]
    show drainRoe (inBreath s) k it = _
    rw [drainRoe, reads]
  have keeps := roeDone_keeps k.shape
  obtain ⟨done, side⟩ := drainTask_writes (s := inBreath s) (u := countVerified (inBreath s) n) parts found item may' writes rfl rfl alone
    (by rw [engine]; decide) (fun i => ⟨(keeps i).1, (keeps i).2.1⟩) ⟨(keeps it).2.2.1, (keeps it).2.2.2⟩ sends
  rw [exec_taskDrain hup]
  generalize drainTask (inBreath s) core thread = t at done side
  refine ⟨keepOuter s t, rfl, done, ?_⟩
  obtain ⟨cores, rs, issued, -⟩ := drainIssue_frame (countVerified (inBreath s) n) k bs
  have str : t.str = (drainIssue (countVerified (inBreath s) n) k bs).str := by rw [side]
  exact str.trans (by rw [issued]; rfl)

end

/-- Settles O23: an event begins an item once (`exec_roe`), and a task computes and writes its rows at its drain (`exec_drain_roe`). -/
theorem rowEngineItemsComputeTheirRows : Obligations.RowEngineItemsComputeTheirRows := by
  refine ⟨fun s q idx i hup p mem ready => ?_, fun s core thread k it n outs bs hup parts begins engine kind reads sends =>
    exec_drain_roe hup parts begins engine kind reads sends⟩
  obtain ⟨found, may⟩ := ready
  refine ⟨fun new => ?_, fun old => ?_⟩
  · rw [exec_roe hup mem, roe_begins (s := inBreath s) found may new]
    refine ⟨_, rfl, rfl, ?_⟩
    refine (findItem_modItem (inBreath s) q idx
      (fun x => { x with stage := .executing, begun := true, nRows := rRows i, status := 0, detail := 0, count := 0 }) fun _ h => h).trans ?_
    rw [show findItem (inBreath s) q idx = some i from found]
    rfl
  · rw [exec_roe hup mem, roe_begun (s := inBreath s) found old]
    rfl

end Sys2Proof.Proofs.RowDrains

/-! Attention items on one die: their begin, which reads and checks once, and the drain of whole rows (chapters 5, 7 and 10, R98 to R123,
R139 to R148, R198). -/

namespace Sys2Proof.Proofs.Attention

open Sys2Proof Sys2Proof.Machine Sys2Proof.Safety Sys2Proof.Laws Sys2Proof.Proofs.RegisterWrites Sys2Proof.Proofs.LinkPort
  Sys2Proof.Proofs.BellRecord Sys2Proof.Proofs.ItemLaws Sys2Proof.Proofs.ItemLists Sys2Proof.Proofs.Aborts Sys2Proof.Proofs.Accesses
  Sys2Proof.Proofs.WindowsOpen Sys2Proof.Proofs.PartTasks Sys2Proof.Proofs.Dispatches Sys2Proof.Proofs.Drains Sys2Proof.Proofs.RowDrains
  Sys2Proof.Proofs.Operations

/-! ### The event of an attention item -/

theorem fwdCompute_alone {s : State} {q : Nat} {idx : W32} (alone : opOf s q idx = none) : fwdCompute s q idx = s := by
  rw [fwdCompute, alone]
  cases findItem s q idx <;> rfl

theorem bwdCompute_alone {s : State} {q : Nat} {idx : W32} (alone : opOf s q idx = none) : bwdCompute s q idx = s := by
  rw [bwdCompute, alone]
  cases findItem s q idx <;> rfl

/-- The step of an attention event ends with the item's begin, where the item has no operation across dies. -/
theorem exec_att {s u : State} (hup : up s) {q : Nat} {idx : W32} {p : Nat × Instr} {go : Bool}
    (h : p ∈ [(0x10, Instr.attFwd q idx), (0x11, Instr.attBwd q idx)]) (enter : attEnter (inBreath s) q idx p.1 = (u, go))
    (alone : opOf u q idx = none) : exec p.2 s = .next (keepOuter s u) := by
  simp only [List.mem_cons, List.not_mem_nil, or_false] at h
  rcases h with rfl | rfl
  · have run : attFwd (inBreath s) q idx = u := by
      rw [attFwd, enter]
      cases go with
      | false => rfl
      | true => exact fwdCompute_alone alone
    exact (live_up (f := fun s => attFwd (inBreath s) q idx) hup).trans (by rw [run])
  · have run : attBwd (inBreath s) q idx = u := by
      rw [attBwd, enter]
      cases go with
      | false => rfl
      | true => exact bwdCompute_alone alone
    exact (live_up (f := fun s => attBwd (inBreath s) q idx) hup).trans (by rw [run])

/-- s with an item that executes. -/
def entered (s : State) (q : Nat) (idx : W32) : State := modItem s q idx (fun x => { x with stage := .executing })

theorem findItem_entered {s : State} {q : Nat} {idx : W32} {i : Item} (found : findItem s q idx = some i) :
    findItem (entered s q idx) q idx = some { i with stage := .executing } := by
  rw [entered, findItem_modItem s q idx (f := fun x => { x with stage := .executing }) (h := fun _ h => h), found]
  rfl

theorem attEnter_again {s : State} {q : Nat} {idx : W32} {op : Nat} {i : Item} (found : findItem s q idx = some i) (code : i.opcode = op)
    (runs : mayRun s i = true) (old : i.begun = true) : attEnter s q idx op = (entered s q idx, true) := by
  subst code
  rw [attEnter, found]
  dsimp only
  rw [if_neg (by rw [runs]; simp), if_pos old]
  rfl

theorem attEnter_new {s : State} {q : Nat} {idx : W32} {op : Nat} {i : Item} (found : findItem s q idx = some i) (code : i.opcode = op)
    (begins : mayBegin s i = true) (new : i.begun = false) : attEnter s q idx op = attBegin (entered s q idx) q idx := by
  subst code
  rw [attEnter, found]
  dsimp only
  rw [if_neg (by rw [begins]; simp), if_neg (by rw [new]; decide)]
  rfl

/-! ### The begin (R98, R100, R139, R198) -/

/-- s with an item whose descriptor is read. -/
def described (s : State) (q : Nat) (idx : W32) (bs : List Byte) : State :=
  { modItem s q idx (fun x => { x with desc := bs, begun := true, freeBase := s.free }) with free := s.free + 2 ^ 52 }

/-- The descriptor is legal (Tables 5.4 and 7.2). -/
def descLegal (i : Item) : Bool := if isBwd i then bwdDescLegal i else fwdDescLegal i

/-- s with an item's entries kept and used. -/
def entriesKept (s : State) (q : Nat) (idx : W32) (i : Item) (es : List SeqEntry) : State :=
  touchEntries (modItem s q idx (fun x => { x with entries := es, nRows := totalRows i })) i

section
variable {s : State} {q : Nat} {idx : W32} {i0 : Item} {bs : List Byte} (found : findItem s q idx = some i0)
  (read : readVa s i0.ctx (cmd64 i0.cmd 16) (descBytes i0) = .ok bs) (clean : descRsv { i0 with desc := bs } = false)
  (single : spEn { i0 with desc := bs } = false)
include found read clean single

theorem attBegin_illegal (bad : descLegal { i0 with desc := bs } = false) :
    attBegin s q idx = (endItem (described s q idx bs) q idx 0x15 0, false) := by
  rw [attBegin, found]
  dsimp only
  rw [read]
  dsimp only
  rw [if_neg (by rw [clean]; decide), single]
  simp only [Bool.false_and, Bool.false_eq_true, if_false]
  exact if_pos (by rw [show (if isBwd { i0 with desc := bs } = true then _ else _) = false from bad]; rfl)

theorem attBegin_entryFails (good : descLegal { i0 with desc := bs } = true) {st : Nat}
    (fails : ((itemEntries (described s q idx bs) { i0 with desc := bs }).filterMap (entryFails { i0 with desc := bs })).head? = some st) :
    attBegin s q idx = (endItem (described s q idx bs) q idx st 0, false) := by
  rw [attBegin, found]
  dsimp only
  rw [read]
  dsimp only
  rw [if_neg (by rw [clean]; decide), single]
  simp only [Bool.false_and, Bool.false_eq_true, if_false]
  rw [if_neg (by rw [show (if isBwd { i0 with desc := bs } = true then _ else _) = true from good, spLegal, single]; simp)]
  split
  · next found_ =>
    obtain rfl := Option.some.inj (found_.symm.trans fails)
    rfl
  · next none_ => exact absurd (none_.symm.trans fails) (by simp)

/-- An item whose descriptor and entries are legal keeps the entries; a backward one may end even so. -/
theorem attBegin_keeps (good : descLegal { i0 with desc := bs } = true)
    (fine : ((itemEntries (described s q idx bs) { i0 with desc := bs }).filterMap (entryFails { i0 with desc := bs })).head? = none) :
    attBegin s q idx = (entriesKept (described s q idx bs) q idx { i0 with desc := bs }
      (itemEntries (described s q idx bs) { i0 with desc := bs }), true) ∨
    ∃ st d, attBegin s q idx = (endItem (entriesKept (described s q idx bs) q idx { i0 with desc := bs }
      (itemEntries (described s q idx bs) { i0 with desc := bs })) q idx st d, false) := by
  rw [attBegin, found]
  dsimp only
  rw [read]
  dsimp only
  rw [if_neg (by rw [clean]; decide), single]
  simp only [Bool.false_and, Bool.false_eq_true, if_false]
  rw [if_neg (by rw [show (if isBwd { i0 with desc := bs } = true then _ else _) = true from good, spLegal, single]; simp)]
  split
  · next found_ => exact absurd (found_.symm.trans fine) (by simp)
  · split
    · split
      · exact .inr ⟨_, _, rfl⟩
      · split
        · exact .inr ⟨_, _, rfl⟩
        · exact .inl rfl
    · exact .inl rfl

end

theorem findItem_described {s : State} {q : Nat} {idx : W32} {i : Item} (found : findItem s q idx = some i) (bs : List Byte) :
    findItem (described s q idx bs) q idx = some { i with desc := bs, begun := true, freeBase := s.free } := by
  refine (findItem_modItem s q idx (fun x => { x with desc := bs, begun := true, freeBase := s.free }) (fun _ h => h)).trans ?_
  rw [found]
  rfl

theorem findItem_entriesKept {s : State} {q : Nat} {idx : W32} {j : Item} (found : findItem s q idx = some j) (i : Item) (es : List SeqEntry) :
    findItem (entriesKept s q idx i es) q idx = some { j with entries := es, nRows := totalRows i } := by
  refine (findItem_modItem s q idx (fun x => { x with entries := es, nRows := totalRows i }) (fun _ h => h)).trans ?_
  rw [found]
  rfl

theorem entriesKept_keeps (s : State) (q : Nat) (idx : W32) (i : Item) (es : List SeqEntry) : (entriesKept s q idx i es).cle = s.cle ∧
    (entriesKept s q idx i es).mem = s.mem ∧ (entriesKept s q idx i es).queues = s.queues := by
  unfold entriesKept
  exact ⟨rfl, rfl, rfl⟩

/-- The die after an attention item's begin has read its descriptor. -/
def begunAt (s : State) (q : Nat) (idx : W32) (bs : List Byte) : State := described (entered (inBreath s) q idx) q idx bs

theorem begunAt_keeps (s : State) (q : Nat) (idx : W32) (bs : List Byte) : (begunAt s q idx bs).cle = s.cle ∧ (begunAt s q idx bs).mem = s.mem ∧
    (begunAt s q idx bs).queues = s.queues ∧ lowBreath (begunAt s q idx bs) = lowBreath s := ⟨rfl, rfl, rfl, rfl⟩

theorem findItem_begunAt {s : State} {q : Nat} {idx : W32} {i : Item} (found : findItem s q idx = some i) (bs : List Byte) :
    findItem (begunAt s q idx bs) q idx = some { i with stage := .executing, desc := bs, begun := true, freeBase := s.free } :=
  findItem_described (findItem_entered (s := inBreath s) found) bs

/-- One entry used in a breath. -/
def used (b : W32) (first : Nat) (t : Tab SeqEntry) (k : Nat) : Tab SeqEntry :=
  tput {} t (first + k) { tget {} t (first + k) with lastUse := b }

theorem lastUse_used (b : W32) (first : Nat) (l : List Nat) (t : Tab SeqEntry) (k : Nat)
    (h : k ∈ l ∨ (tget {} t (first + k)).lastUse = b) : (tget {} (l.foldl (used b first) t) (first + k)).lastUse = b := by
  induction l generalizing t with
  | nil =>
    rcases h with mem | done
    · cases mem
    · exact done
  | cons j l ih =>
    refine ih (used b first t j) ?_
    by_cases here : k = j
    · subst here
      rw [used, tget_tput_same]
      exact .inr rfl
    · rcases h with mem | done
      · exact .inl ((List.mem_cons.mp mem).resolve_left here)
      · rw [used, tget_tput_other _ _ _ _ _ (by omega)]
        exact .inr done

theorem lastUse_entriesKept (s : State) (q : Nat) (idx : W32) (i : Item) (es : List SeqEntry) {k : Nat} (h : k < aCount i) :
    (getSeq (entriesKept s q idx i es) (aSeq i + k)).lastUse = lowBreath s :=
  lastUse_used (lowBreath s) (aSeq i) (List.range (aCount i)) s.pg.active k (.inl (List.mem_range.mpr h))

/-- j has begun as i has, over the same entries. -/
def SameBegin (i j : Item) : Prop := j.begun = i.begun ∧ j.desc = i.desc ∧ j.entries = i.entries ∧ j.nRows = i.nRows

theorem tracks_sameBegin : Tracks SameBegin where
  trans a b := ⟨b.1.trans a.1, b.2.1.trans a.2.1, b.2.2.1.trans a.2.2.1, b.2.2.2.trans a.2.2.2⟩
  marks _ _ := ⟨rfl, rfl, rfl, rfl⟩

/-- What the end of an item leaves of the die. -/
theorem endItem_keeps {s : State} {q : Nat} {idx : W32} (alone : opOf s q idx = none) (st d : Nat) :
    (endItem s q idx st d).mem = s.mem ∧ (endItem s q idx st d).queues = s.queues ∧ (endItem s q idx st d).pg = s.pg ∧
    FoundAs SameBegin q idx s (endItem s q idx st d) := by
  rw [endItem_alone alone]
  have side := itemSide_endNow s q idx st d
  exact ⟨side.mem, by rw [side]; rfl, by rw [side]; rfl, .endNow_same tracks_sameBegin s st d (fun _ _ => ⟨rfl, rfl, rfl, rfl⟩)⟩

theorem opOf_endItem {s : State} {q : Nat} {idx : W32} (alone : opOf s q idx = none) (st d : Nat) : opOf (endItem s q idx st d) q idx = none := by
  rw [endItem_alone alone]
  exact opOf_endNow ..

theorem entryFails_mismatch {i : Item} {e : SeqEntry} (other : e.live = false ∨ e.ctx ≠ i.ctx) : entryFails i e = some 0x13 := by
  refine if_pos ?_
  rcases other with dead | other
  · rw [dead]; rfl
  · rw [decide_eq_true other, Bool.or_true]

/-- A first entry of another context, or not LIVE, is the first to fail. -/
theorem first_of_mismatch {i : Item} {es : List SeqEntry} {e : SeqEntry} (head : e ∈ es.head?) (other : e.live = false ∨ e.ctx ≠ i.ctx) {st : Nat}
    (first : (es.filterMap (entryFails i)).head? = some st) : st = 0x13 := by
  have fails := entryFails_mismatch other
  cases es with
  | nil => cases head
  | cons a l =>
    obtain rfl := Option.some.inj head
    rw [List.filterMap_cons, fails] at first
    exact (Option.some.inj first).symm

theorem some_fails {i : Item} {es : List SeqEntry} {e : SeqEntry} (head : e ∈ es.head?) (other : e.live = false ∨ e.ctx ≠ i.ctx)
    (fine : (es.filterMap (entryFails i)).head? = none) : False := by
  have fails := entryFails_mismatch other
  cases es with
  | nil => cases head
  | cons a l =>
    obtain rfl := Option.some.inj head
    rw [List.filterMap_cons, fails] at fine
    cases fine

section
variable {s : State} (hup : up s) {q : Nat} {idx : W32} {i0 : Item} {p : Nat × Instr} {bs : List Byte}
  (mem : p ∈ [(0x10, Instr.attFwd q idx), (0x11, Instr.attBwd q idx)]) (alone : opOf s q idx = none) (new : i0.begun = false)
  (found : findItem s q idx = some i0) (code : i0.opcode = p.1) (begins : mayBegin s i0 = true)
  (read : readVa s i0.ctx (cmd64 i0.cmd 16) (descBytes i0) = .ok bs) (clean : descRsv { i0 with desc := bs } = false)
  (single : spEn { i0 with desc := bs } = false)
include hup mem alone new found code begins

theorem exec_att_begins {u : State} {go : Bool} (h : attBegin (entered (inBreath s) q idx) q idx = (u, go)) (free : opOf u q idx = none) :
    exec p.2 s = .next (keepOuter s u) :=
  exec_att hup mem ((attEnter_new (s := inBreath s) found code begins new).trans h) free

include read clean single

theorem read_entered : readVa (entered (inBreath s) q idx) i0.ctx (cmd64 i0.cmd 16) (descBytes i0) = .ok bs := by
  have alike : ReadsAlike s (entered (inBreath s) q idx) := (readsAlike_inBreath s).trans (readsAlike_modItem ..)
  rw [alike.readVa]
  exact read

/-- An attention item that fails at its begin ends with its status. -/
theorem exec_att_ends {st : Nat} (fails : attBegin (entered (inBreath s) q idx) q idx = (endItem (begunAt s q idx bs) q idx st 0, false)) :
    ∃ t, exec p.2 s = .next t ∧ t.mem = s.mem ∧ t.queues = s.queues ∧ ended t q idx (BitVec.ofNat 8 st) 0 := by
  obtain ⟨cle, mem_, queues_, -⟩ := begunAt_keeps s q idx bs
  have there := findItem_begunAt found bs
  have alone' := (opOf_congr cle q idx).trans alone
  have step := exec_att_begins hup mem alone new found code begins fails (opOf_endItem alone' ..)
  generalize begunAt s q idx bs = u at *
  obtain ⟨mem', queues', -⟩ := endItem_keeps alone' st 0
  have ends := ended_endNow there st 0
  rw [← endItem_alone alone'] at ends
  generalize endItem u q idx st 0 = t at *
  exact ⟨keepOuter s t, step, mem'.trans mem_, queues'.trans queues_, ends⟩

theorem exec_att_illegal (bad : descLegal { i0 with desc := bs } = false) :
    ∃ t, exec p.2 s = .next t ∧ t.mem = s.mem ∧ t.queues = s.queues ∧ ended t q idx 0x15 0 := by
  have read' := read_entered hup mem alone new found code begins read clean single
  exact exec_att_ends hup mem alone new found code begins read clean single
    (attBegin_illegal (findItem_entered (s := inBreath s) found) read' clean single bad)

theorem exec_att_entryFails (good : descLegal { i0 with desc := bs } = true) {st : Nat}
    (first : (((List.range (aCount i0)).map (fun k => getSeq s (aSeq i0 + k))).filterMap (entryFails { i0 with desc := bs })).head? = some st) :
    ∃ t, exec p.2 s = .next t ∧ t.mem = s.mem ∧ t.queues = s.queues ∧ ended t q idx (BitVec.ofNat 8 st) 0 := by
  have read' := read_entered hup mem alone new found code begins read clean single
  exact exec_att_ends hup mem alone new found code begins read clean single
    (attBegin_entryFails (findItem_entered (s := inBreath s) found) read' clean single good first)

/-- An attention item whose descriptor and entries are legal keeps its entries and uses them. -/
theorem exec_att_keeps (good : descLegal { i0 with desc := bs } = true) {es : List SeqEntry}
    (entries : es = (List.range (aCount i0)).map (fun k => getSeq s (aSeq i0 + k)))
    (fine : (es.filterMap (entryFails { i0 with desc := bs })).head? = none) :
    ∃ t, exec p.2 s = .next t ∧ t.mem = s.mem ∧ t.queues = s.queues ∧
      (∃ j, findItem t q idx = some j ∧ j.begun = true ∧ j.desc = bs ∧ j.entries = es ∧ j.nRows = totalRows { i0 with desc := bs }) ∧
      (∀ k, k < aCount i0 → (getSeq t (aSeq i0 + k)).lastUse = lowBreath s) := by
  have effect : attBegin (entered (inBreath s) q idx) q idx = (entriesKept (begunAt s q idx bs) q idx { i0 with desc := bs } es, true) ∨
      ∃ st d, attBegin (entered (inBreath s) q idx) q idx =
        (endItem (entriesKept (begunAt s q idx bs) q idx { i0 with desc := bs } es) q idx st d, false) := by
    rw [entries] at fine ⊢
    have read' := read_entered hup mem alone new found code begins read clean single
    have effect := attBegin_keeps (findItem_entered (s := inBreath s) found) read' clean single good fine
    exact effect
  obtain ⟨cle, mem_, queues_, breath⟩ := begunAt_keeps s q idx bs
  have kept := findItem_entriesKept (findItem_begunAt found bs) { i0 with desc := bs } es
  have used_ := fun k (h : k < aCount i0) => lastUse_entriesKept (begunAt s q idx bs) q idx { i0 with desc := bs } es h
  rw [breath] at used_
  obtain ⟨cle', mem', queues'⟩ := entriesKept_keeps (begunAt s q idx bs) q idx { i0 with desc := bs } es
  have alone' := (opOf_congr (cle'.trans cle) q idx).trans alone
  generalize entriesKept (begunAt s q idx bs) q idx { i0 with desc := bs } es = u at *
  rcases effect with goes | ⟨st, d, stops⟩
  · exact ⟨keepOuter s u, exec_att_begins hup mem alone new found code begins goes alone', mem'.trans mem_, queues'.trans queues_,
      ⟨_, kept, rfl, rfl, rfl, rfl⟩, used_⟩
  · have step := exec_att_begins hup mem alone new found code begins stops (opOf_endItem alone' ..)
    obtain ⟨mem3, queues3, pg, same⟩ := endItem_keeps alone' st d
    generalize endItem u q idx st d = t at *
    obtain ⟨j, foundj, begun, desc, entries_, rows⟩ := same.some kept
    refine ⟨keepOuter s t, step, (mem3.trans mem').trans mem_, (queues3.trans queues').trans queues_, ⟨j, foundj, begun, desc, entries_, rows⟩,
      fun k h => ?_⟩
    show (tget {} t.pg.active (aSeq i0 + k)).lastUse = _
    rw [pg]
    exact used_ k h

end

/-- The event of an item that has begun changes nothing but what an event may. -/
theorem exec_att_again {s : State} (hup : up s) {q : Nat} {idx : W32} {i : Item} {p : Nat × Instr}
    (mem : p ∈ [(0x10, Instr.attFwd q idx), (0x11, Instr.attBwd q idx)]) (alone : opOf s q idx = none) (found : findItem s q idx = some i)
    (old : i.begun = true) (runs : mayRun s i = true) (code : i.opcode = p.1) :
    ∃ t, exec p.2 s = .next t ∧ findItem t q idx = some i ∧ t = { inBreath s with items := t.items } := by
  have stage : i.stage = .executing := by
    simp only [mayRun, Bool.and_eq_true, decide_eq_true_eq] at runs
    exact runs.1.1.1.1
  have found' := findItem_entered (s := inBreath s) found
  have step := exec_att hup mem (attEnter_again (s := inBreath s) found code runs old) (alone : opOf (entered (inBreath s) q idx) q idx = none)
  exact ⟨_, step, found'.trans (by rw [← stage]), rfl⟩

/-! ### Drains of whole rows (R101 to R123, R141 to R148) -/

theorem map_of_mapE {α β γ : Type} {f : α → Except MErr β} {g : β → γ} {h : α → γ} (same : ∀ a b, f a = .ok b → g b = h a) :
    ∀ {l : List α} {r : List β}, mapE f l = .ok r → r.map g = l.map h := by
  intro l
  induction l with
  | nil =>
    intro r ok
    cases ok
    rfl
  | cons a l ih =>
    intro r ok
    rw [mapE] at ok
    split at ok
    · cases ok
    · next b one =>
      split at ok
      · cases ok
      · next bs rest =>
        cases ok
        rw [List.map_cons, List.map_cons, ih rest, same a b one]

theorem length_of_mapE {α β : Type} {f : α → Except MErr β} {l : List α} {r : List β} (ok : mapE f l = .ok r) : r.length = l.length := by
  have same := congrArg List.length (map_of_mapE (g := fun _ => ()) (h := fun _ => ()) (fun _ _ _ => rfl) ok)
  rwa [List.length_map, List.length_map] at same

theorem map_fst_zip {α β : Type} {l : List α} {m : List β} (h : m.length = l.length) : (l.zip m).map (fun p => p.1) = l :=
  List.map_fst_zip h.ge

theorem bwdHead_n {s : State} {it : Item} {sp : Bool} {n : Nat} {h : BwdHead} (ok : bwdHead s it sp n = .ok h) : h.n = n := by
  unfold bwdHead at ok
  dsimp only at ok
  split at ok
  · split at ok
    · cases ok; rfl
    · split at ok
      · cases ok
      · cases ok
        split <;> rfl
  · cases ok
  · cases ok

/-- What a task's reads leave but for what they count and fill. -/
theorem cacheReads_frame (s : State) (core : Nat) (ctx : CtxId) (rs : List (W64 × Nat)) :
    ∃ cl fr, cacheReads s core ctx rs = { s with clusters := cl, free := fr } := by
  have one : ∀ (s : State) (a : W64), ∃ cl fr, cacheRead core ctx s a = { s with clusters := cl, free := fr } := by
    intro s a
    unfold cacheRead
    dsimp only
    split
    · exact ⟨_, s.free, rfl⟩
    · split
      · unfold fillLine
        dsimp only
        split
        · exact ⟨_, s.free, rfl⟩
        · split
          · exact ⟨_, s.free, rfl⟩
          · split
            · exact ⟨_, s.free, rfl⟩
            · split
              · exact ⟨_, s.free, rfl⟩
              · exact ⟨_, _, rfl⟩
      · exact ⟨s.clusters, s.free, rfl⟩
  unfold cacheReads
  generalize (rs.flatMap (fun r => linesOf r.1 r.2)).eraseDups = l
  induction l generalizing s with
  | nil => exact ⟨s.clusters, s.free, rfl⟩
  | cons a l ih =>
    obtain ⟨cl, fr, first⟩ := one s a
    rw [List.foldl_cons, first]
    obtain ⟨cl', fr', rest⟩ := ih { s with clusters := cl, free := fr }
    exact ⟨cl', fr', rest⟩

theorem wantPromotion_frame (s : State) (it : Item) (keys : List (RowId × List Nat)) : ∃ pg, wantPromotion s it keys = { s with pg := pg } := by
  unfold wantPromotion
  split
  · exact ⟨s.pg, rfl⟩
  · exact ⟨_, rfl⟩

/-- The die after a task has read its operands. -/
def readDone (s : State) (it : Item) (core : Nat) (ctx : CtxId) (keys : List (RowId × List Nat)) (arena : List (W64 × Nat)) (n : Nat) : State :=
  cacheReads (wantPromotion (countVerified s n) it keys) core ctx arena

theorem readDone_keeps (s : State) (it : Item) (core : Nat) (ctx : CtxId) (keys : List (RowId × List Nat)) (arena : List (W64 × Nat)) (n : Nat) :
    (readDone s it core ctx keys arena n).items = s.items ∧ (readDone s it core ctx keys arena n).tasks = s.tasks ∧
    (readDone s it core ctx keys arena n).cle = s.cle := by
  obtain ⟨pg, want⟩ := wantPromotion_frame (countVerified s n) it keys
  rw [readDone, want]
  obtain ⟨cl, fr, reads⟩ := cacheReads_frame { countVerified s n with pg := pg } core ctx arena
  rw [reads]
  exact ⟨rfl, rfl, rfl⟩

theorem taskRead_goes {s : State} {k : Task} {it : Item} {rd : Reads} {arena : List (W64 × Nat)} {n : Nat}
    (bytes : keyBytesOf (pageView s it) it rd.keys = .ok arena)
    (fine : verifyMixed s k.ctx (coldRanges s k.core k.ctx arena ++ rd.others) = .ok (.fine n)) (go : State → State) :
    taskRead s k it rd go = go (readDone s it k.core k.ctx rd.keys arena n) := by
  rw [taskRead, bytes]
  dsimp only
  rw [fine]
  rfl

theorem drainKind_whole {s : State} {k : Task} {it : Item} (whole : k.shape.kind = .wholeRow) (alone : opOf s k.q k.idx = none) :
    drainKind s k it = drainRows s k it := by
  rw [drainKind, whole]
  show (if (opOf s k.q k.idx).isSome then (if sharedReady s it then drainShared s k it else s) else drainRows s k it) = _
  rw [alone]
  rfl

/-- What a forward item's record takes after rows have drained. -/
def fwdStep (accs : List (Nat × FwdAcc)) (i : Item) : Item :=
  let i1 := rowsDone (accs.map (fun p => (p.1, RowRes.fwd p.2))) i
  if decide (i.nRows ≤ i1.drained.length) then fwdReport i1 else i1

/-- What a backward item's record takes after rows have drained. -/
def bwdStep (accs : List (Nat × FwdAcc)) (i : Item) : Item := rowsDone (accs.map (fun p => (p.1, RowRes.fwd p.2))) i

/-- What a backward item's record takes after its last row has drained. -/
def bwdLast (it : Item) (accs : List (Nat × FwdAcc)) (rows : List BwdRow) (i : Item) : Item :=
  let i1 := bwdStep accs i
  bwdReport i1 (rows.filter (fun w => !w.inp.live)).length (max (tailGrads it rows).2
    (max (((List.range (totalRows i1)).map (fun n => (accOf i1 n).kx)).foldl max 0) ((rows.map rowStepsMax).foldl max 0)))

theorem drained_rowsDone (accs : List (Nat × FwdAcc)) (i : Item) :
    (rowsDone (accs.map (fun p => (p.1, RowRes.fwd p.2))) i).drained = (accs.map (fun p => p.1)).foldl insUp i.drained := by
  show ((accs.map (fun p => (p.1, RowRes.fwd p.2))).map (fun r => r.1)).foldl insUp i.drained = _
  rw [List.map_map]
  rfl

/-- A step of a drain keeps the item's name, and what was written and its stage. -/
def KeepsWork (step : Item → Item) : Prop :=
  ∀ i, (step i).q = i.q ∧ (step i).idx = i.idx ∧ (step i).written = i.written ∧ (step i).stage = i.stage

theorem keepsWork_fwdStep (accs : List (Nat × FwdAcc)) : KeepsWork (fwdStep accs) := by
  intro i
  unfold fwdStep
  dsimp only
  split <;> exact ⟨rfl, rfl, rfl, rfl⟩

theorem keepsWork_bwdStep (accs : List (Nat × FwdAcc)) : KeepsWork (bwdStep accs) := fun _ => ⟨rfl, rfl, rfl, rfl⟩

theorem keepsWork_bwdLast (it : Item) (accs : List (Nat × FwdAcc)) (rows : List BwdRow) : KeepsWork (bwdLast it accs rows) :=
  fun _ => ⟨rfl, rfl, rfl, rfl⟩

theorem drained_fwdStep (accs : List (Nat × FwdAcc)) (i : Item) : (fwdStep accs i).drained = (accs.map (fun p => p.1)).foldl insUp i.drained := by
  unfold fwdStep
  dsimp only
  split
  · exact drained_rowsDone accs i
  · exact drained_rowsDone accs i

section
variable {s : State} {core thread : Nat} {k : Task} {it : Item} (hup : up s) (parts : noParts s) (begins : drainBegins s core thread k it)
  (engine : engineOf k.q = 0) (whole : k.shape.kind = .wholeRow)
include hup parts begins engine whole

/-- The drain of a task of whole rows, as far as what it reads and computes. -/
theorem exec_drain_rows {keys : List (RowId × List Nat)} {arena : List (W64 × Nat)} {n : Nat} {outs : List Out} {step : Item → Item}
    {rows : List Nat} {bs : List (DrainOut × W64 × Nat × List Byte)}
    (writes : drainRows (inBreath s) k it = drainWrites (readDone (inBreath s) it core k.ctx keys arena n) k it outs step)
    (keeps : KeepsWork step) (done : (step it).drained = rows)
    (sends : drainSends (readDone (inBreath s) it core k.ctx keys arena n) k it outs (decide (it.nRows ≤ rows.length)) bs) :
    ∃ t, exec (.taskDrain core thread) s = .next t ∧ drained (readDone (inBreath s) it core k.ctx keys arena n) t k it rows outs bs := by
  obtain ⟨found, item, may, alone⟩ := begins
  have may' : mayDrain (inBreath s) k it = true := by rw [mayDrain_inBreath]; exact may
  obtain ⟨items, tasks, cle⟩ := readDone_keeps (inBreath s) it core k.ctx keys arena n
  have alone' := (opOf_congr cle k.q k.idx).trans alone
  have kind := (drainKind_whole (s := inBreath s) (it := it) whole alone).trans writes
  generalize readDone (inBreath s) it core k.ctx keys arena n = u at *
  subst done
  obtain ⟨-, -, written, stage⟩ := keeps it
  obtain ⟨done, -⟩ := drainTask_writes (s := inBreath s) (u := u) parts found item may' kind items tasks alone'
    (by rw [engine]; decide) (fun i => ⟨(keeps i).1, (keeps i).2.1⟩) ⟨written, stage⟩ sends
  rw [exec_taskDrain hup]
  generalize drainTask (inBreath s) core thread = t at done
  exact ⟨keepOuter s t, rfl, done⟩

theorem exec_drain_fwd {keys : List (RowId × List Nat)} {arena : List (W64 × Nat)} {n : Nat} {ins : List RowIn} {outs : List (List Out)}
    {bs : List (DrainOut × W64 × Nat × List Byte)} (forward : it.opcode = 0x10)
    (bytes : keyBytesOf (pageView (inBreath s) it) it keys = .ok arena)
    (rowKeys : taskRowKeys (pageView (inBreath s) it) it k.shape = .ok keys)
    (inputs : mapE (fun (p : RowId × List Nat) => fwdInputs (pageView (inBreath s) it) it p.1 p.2) keys = .ok ins)
    (verifies : verifyMixed (inBreath s) k.ctx (coldRanges (inBreath s) core k.ctx arena ++
      fwdOperands it ((keys.filter (fun p => !p.2.isEmpty)).map (fun p => p.1))) = .ok (.fine n))
    (computes : mapE (fun (p : Nat × FwdAcc) => fwdOuts (readDone (inBreath s) it core k.ctx keys arena n) it p.1 p.2)
      ((taskRows k.shape).zip (ins.map fwdRow)) = .ok outs)
    (sends : drainSends (readDone (inBreath s) it core k.ctx keys arena n) k it outs.flatten (completes it (taskRows k.shape)) bs) :
    ∃ t, exec (.taskDrain core thread) s = .next t ∧
      drained (readDone (inBreath s) it core k.ctx keys arena n) t k it ((taskRows k.shape).foldl insUp it.drained) outs.flatten bs := by
  have same := length_of_mapE rowKeys
  have many : (ins.map fwdRow).length = (taskRows k.shape).length := by rw [List.length_map, length_of_mapE inputs, same]
  have rows : ((taskRows k.shape).zip (ins.map fwdRow)).map (fun p => p.1) = taskRows k.shape := map_fst_zip many
  have fwd : isBwd it = false := by rw [isBwd, forward]; rfl
  obtain ⟨rfl, -⟩ := name_of_findTask begins.1
  refine exec_drain_rows hup parts begins engine whole (step := fwdStep ((taskRows k.shape).zip (ins.map fwdRow))) ?_
    (keepsWork_fwdStep _) (by rw [drained_fwdStep, rows]) sends
  rw [drainRows]
  dsimp only
  rw [if_neg (by rw [fwd]; decide), rowKeys]
  dsimp only
  rw [inputs]
  dsimp only
  rw [taskRead_goes (rd := { keys := keys, others := fwdOperands it ((keys.filter (fun p => !p.2.isEmpty)).map (fun p => p.1)) }) bytes verifies, drainFwd, computes]
  rfl

theorem exec_drain_bwd {keys : List (RowId × List Nat)} {arena : List (W64 × Nat)} {n : Nat} {hs : List BwdHead} {ins : List BwdIn}
    {bs : List (DrainOut × W64 × Nat × List Byte)} (backward : it.opcode = 0x11)
    (heads : mapE (bwdHead (pageView (inBreath s) it) it false) (taskRows k.shape) = .ok hs)
    (inputs : mapE (bwdInputs (pageView (inBreath s) it) it) hs = .ok ins) (keyed : keys = hs.map (fun h => (rowOf it h.n, h.keys)))
    (bytes : keyBytesOf (pageView (inBreath s) it) it keys = .ok arena)
    (verifies : verifyMixed (inBreath s) k.ctx (coldRanges (inBreath s) core k.ctx arena ++
      bwdOperands it ((hs.filter (fun h => h.live)).map (fun h => rowOf it h.n))) = .ok (.fine n)) :
    let u := readDone (inBreath s) it core k.ctx keys arena n
    let dQ := (hs.zip ins).map (fun p => let a := bwdAcc (bwdRow it p.1.n p.2 {})
                                         dqOut it p.1.n a.o a.kx)
    let gone := fun (outs : List Out) => ∃ t, exec (.taskDrain core thread) s = .next t ∧
      drained u t k it ((taskRows k.shape).foldl insUp it.drained) outs bs
    (completes it (taskRows k.shape) = false → drainSends u k it dQ false bs → gone dQ) ∧
    (∀ rows, completes it (taskRows k.shape) = true → bwdTail (pageView u it) it = .ok rows →
      drainSends u k it (dQ ++ (tailGrads it rows).1) true bs → gone (dQ ++ (tailGrads it rows).1)) := by
  intro u dQ gone
  have numbers : hs.map (fun h => h.n) = taskRows k.shape :=
    (map_of_mapE (h := fun n => n) (fun _ _ ok => bwdHead_n ok) heads).trans (List.map_id' _)
  have many := length_of_mapE inputs
  let accs : List (Nat × FwdAcc) := (hs.zip ins).map (fun p => (p.1.n, bwdAcc (bwdRow it p.1.n p.2 {})))
  have rows_ : accs.map (fun p => p.1) = taskRows k.shape := by
    rw [← numbers, ← map_fst_zip many, List.map_map, List.map_map]
    rfl
  have bwd : isBwd it = true := by rw [isBwd, backward]; rfl
  have drains : drainRows (inBreath s) k it = drainBwd u k it accs := by
    obtain ⟨rfl, -⟩ := name_of_findTask begins.1
    subst keyed
    rw [drainRows]
    dsimp only
    rw [if_pos bwd, heads]
    dsimp only
    rw [inputs]
    dsimp only
    rw [taskRead_goes (rd := { keys := hs.map (fun h => (rowOf it h.n, h.keys)), others := bwdOperands it ((hs.filter (fun h => h.live)).map (fun h => rowOf it h.n)) }) bytes verifies]
  have outs : accs.map (fun p => dqOut it p.1 p.2.o p.2.kx) = dQ := by
    rw [List.map_map]
    rfl
  have all : completes it (accs.map (fun p => p.1)) = completes it (taskRows k.shape) := by rw [rows_]
  refine ⟨fun some_ sends => ?_, fun rows last tail sends => ?_⟩
  · refine exec_drain_rows hup parts begins engine whole (step := bwdStep accs) ?_ (keepsWork_bwdStep accs)
      (by rw [bwdStep, drained_rowsDone, rows_]) (by rw [show decide (it.nRows ≤ _) = false from some_]; exact sends)
    rw [drains, drainBwd]
    dsimp only
    rw [all, some_, outs]
    rfl
  · refine exec_drain_rows hup parts begins engine whole (step := bwdLast it accs rows) ?_ (keepsWork_bwdLast it accs rows)
      ((drained_rowsDone ..).trans (by rw [rows_])) (by rw [show decide (it.nRows ≤ _) = true from last]; exact sends)
    rw [drains, drainBwd]
    dsimp only
    rw [all, last, tail, outs]
    rfl

end

/-- Settles O24: an attention item begins once (`exec_att_ends`, `exec_att_keeps`, `exec_att_again`); a task of whole rows writes at its drain. -/
theorem attentionItemsBeginOnceAndComputeTheirRows : Obligations.AttentionItemsBeginOnceAndComputeTheirRows := by
  refine ⟨?_,
    fun s q idx i hup alone found old runs p mem code => exec_att_again hup mem alone found old runs code,
    ?_⟩
  case refine_2 =>
    intro s core thread k it keys arena n bs hup parts begins engine whole b view bytes s1 gone last
    exact ⟨fun ins outs forward rowKeys inputs verifies computes sends =>
        exec_drain_fwd hup parts begins engine whole forward bytes rowKeys inputs verifies computes sends,
      fun hs ins backward heads inputs keyed verifies =>
        exec_drain_bwd hup parts begins engine whole backward heads inputs keyed bytes verifies⟩
  intro s q idx i0 bs hup alone new p mem ready read i legal es clean single
  obtain ⟨found, code, begins, -⟩ := ready
  have judged : legal = descLegal i := by
    show (if p.1 = 0x11 then bwdDescLegal i else fwdDescLegal i) = if decide (i0.opcode = 0x11) = true then bwdDescLegal i else fwdDescLegal i
    rw [code]
    simp only [decide_eq_true_eq]
  rw [judged]
  cases good : descLegal i with
  | false =>
    obtain ⟨t, step, mem_, queues, ends⟩ := exec_att_illegal hup mem alone new found code begins read clean single good
    refine ⟨t, step, mem_, queues, fun _ => ends, fun _ _ h => ?_, fun h => ?_⟩ <;> cases h
  | true =>
    cases first : (es.filterMap (entryFails i)).head? with
    | some st =>
      obtain ⟨t, step, mem_, queues, ends⟩ := exec_att_entryFails hup mem alone new found code begins read clean single good first
      refine ⟨t, step, mem_, queues, fun h => ?_, fun e head _ other => ?_, fun _ fine => ?_⟩
      · cases h
      · obtain rfl : st = 0x13 := first_of_mismatch head other first
        exact ends
      · rw [List.filterMap_eq_nil_iff.mpr fine] at first
        cases first
    | none =>
      obtain ⟨t, step, mem_, queues, kept, used_⟩ := exec_att_keeps hup mem alone new found code begins read clean single good (es := es) rfl first
      refine ⟨t, step, mem_, queues, fun h => ?_, fun e head _ other => (some_fails head other first).elim, fun _ _ => ⟨kept, used_⟩⟩
      cases h

end Sys2Proof.Proofs.Attention

/-! What the link port sends when it may: codewords, kept for retry (chapter 14, R299, R300, R303, R305). -/

namespace Sys2Proof.Proofs.Codewords

open Sys2Proof Sys2Proof.Machine Sys2Proof.Safety Sys2Proof.Laws Sys2Proof.Proofs.LinkPort

/-! ### What a port may change of its link -/

/-- A link with what sending changes taken from another. -/
def sendingFrom (x y : Link) : Link :=
  { x with txCtl := y.txCtl, txWait := y.txWait, vLast := y.vLast, creditTx := y.creditTx, txCarry := y.txCarry, txNext := y.txNext
           retryBuf := y.retryBuf }

/-- A codeword as it leaves a link. -/
def wordSent (l : Link) (w : Codeword) : Sent := .codeword w.seq (ackNow l) w.data (codewordLanes l w.seq (ackNow l) w.data)

theorem wordSent_sendingFrom (x y : Link) : wordSent (sendingFrom x y) = wordSent x := rfl

/-- From s to t the link port sends some codewords and keeps them for retry. -/
structure Sends (more : List Codeword) (s t : State) : Prop where
  frame : t = { s with sent := t.sent, link := t.link, cle := { s.cle with vctr := t.cle.vctr } }
  link : t.link = sendingFrom s.link t.link
  kept : t.link.retryBuf = s.link.retryBuf ++ more
  sent : t.sent = s.sent ++ more.map (wordSent s.link)
  next : more = [] → t.link.txNext = s.link.txNext

theorem Sends.refl (s : State) : Sends [] s s := ⟨rfl, rfl, (List.append_nil _).symm, (List.append_nil _).symm, fun _ => rfl⟩

theorem Sends.trans {a b : List Codeword} {s t u : State} (h : Sends a s t) (k : Sends b t u) : Sends (a ++ b) s u where
  frame := by rw [k.frame, h.frame]
  link := by
    rw [k.link, h.link]
    rfl
  kept := by rw [k.kept, h.kept, List.append_assoc]
  sent := by
    have words : wordSent t.link = wordSent s.link := by rw [h.link, wordSent_sendingFrom]
    rw [k.sent, h.sent, words, List.map_append, List.append_assoc]
  next none_ := by
    obtain ⟨first, second⟩ := List.append_eq_nil_iff.mp none_
    exact (k.next second).trans (h.next first)

/-- What changes of the link without a codeword. -/
theorem sends_modLink (s : State) {f : Link → Link} (link : f s.link = sendingFrom s.link (f s.link)) (kept : (f s.link).retryBuf = s.link.retryBuf)
    (next : (f s.link).txNext = s.link.txNext) : Sends [] s (modLink s f) :=
  ⟨rfl, link, kept.trans (List.append_nil _).symm, (List.append_nil _).symm, fun _ => next⟩

/-- The codeword that leaves next. -/
def nextWord (s : State) (w : List Byte × List Nat) : Codeword := { seq := s.link.txNext, data := w.1, marks := w.2 }

theorem sends_sendCodeword (s : State) (w : List Byte × List Nat) : Sends [nextWord s w] s (sendCodeword s w) :=
  ⟨rfl, rfl, rfl, rfl, fun h => nomatch h⟩

theorem sends_sendCodewords (ws : List (List Byte × List Nat)) (s : State) :
    ∃ more, Sends more s (ws.foldl sendCodeword s) ∧ more.length = ws.length := by
  induction ws generalizing s with
  | nil => exact ⟨[], .refl s, rfl⟩
  | cons w ws ih =>
    obtain ⟨more, sends, many⟩ := ih (sendCodeword s w)
    exact ⟨_, (sends_sendCodeword s w).trans sends, by rw [List.length_append, many, List.length_cons]; exact Nat.add_comm ..⟩

theorem sends_emit (s : State) (fs : List (List Byte)) (least : Nat) :
    ∃ more, Sends more s (emit s fs least) ∧ more.length = (layOut s.link.txCarry fs least).1.length := by
  obtain ⟨more, sends, many⟩ := sends_sendCodewords (layOut s.link.txCarry fs least).1
    (modLink s (fun l => { l with txCarry := (layOut s.link.txCarry fs least).2 }))
  exact ⟨more, (sends_modLink s rfl rfl rfl).trans sends, many⟩

theorem sends_takeFlit (s : State) (c : Nat) (x : Nat × Bool × List Byte) : Sends [] s (takeFlit s none c x) :=
  ⟨rfl, rfl, (List.append_nil _).symm, (List.append_nil _).symm, fun _ => rfl⟩

theorem sends_takeFlits (n : Nat) (s : State) : Sends [] s (takeFlits none n s).1 := by
  induction n generalizing s with
  | zero => exact .refl s
  | succ n ih =>
    unfold takeFlits
    split
    · exact .refl s
    · split
      · exact .refl s
      · exact (sends_takeFlit ..).trans (ih _)

theorem sends_pump (s : State) : ∃ more, Sends more s (pump s) := by
  by_cases h : s.link.st = 2
  · unfold pump
    rw [if_neg (not_not.mpr h)]
    extract_lets slots ctl r
    obtain ⟨more, sends, -⟩ := sends_emit r.1 (ctl ++ r.2) 0
    exact ⟨more, ((sends_modLink s rfl rfl rfl).trans (sends_takeFlits ..)).trans sends⟩
  · rw [pump_down h]
    exact ⟨[], .refl s⟩

theorem sends_sendControl (s : State) (order : Nat) (f : List Byte) : ∃ more, Sends more s (sendControl s order f) := by
  obtain ⟨more, sends⟩ := sends_pump (queueControl s order f)
  exact ⟨more, .trans (sends_modLink s rfl rfl rfl) sends⟩

/-! ### A port that holds no DATA flit -/

/-- Flits that a full retry buffer leaves room for. -/
def slotsOf (l : Link) : Nat := (640 * (768 - l.retryBuf.length) - l.txCarry) / 256

/-- Only control flits leave a link on which no DATA flit waits. -/
theorem pump_control {s : State} (h : s.link.st = 2) (quiet : s.link.txWait = []) : pump s =
    emit (modLink s (fun l => { l with txCtl := l.txCtl.drop (slotsOf s.link) })) ((s.link.txCtl.take (slotsOf s.link)).map (fun x => x.2)) 0 := by
  unfold pump
  rw [if_neg (not_not.mpr h), quiet]
  simp only [List.length_nil, Nat.min_zero, takeFlits, List.append_nil]
  rfl

/-- What `emit` keeps of the link besides. -/
theorem link_emit (s : State) (fs : List (List Byte)) (least : Nat) : (emit s fs least).link.creditTx = s.link.creditTx ∧
    (emit s fs least).link.txCtl = s.link.txCtl ∧ (emit s fs least).link.txWait = s.link.txWait ∧ (emit s fs least).cle = s.cle := by
  have words : ∀ (ws : List (List Byte × List Nat)) (s : State), (ws.foldl sendCodeword s).link.creditTx = s.link.creditTx ∧
      (ws.foldl sendCodeword s).link.txCtl = s.link.txCtl ∧ (ws.foldl sendCodeword s).link.txWait = s.link.txWait ∧
      (ws.foldl sendCodeword s).cle = s.cle := by
    intro ws
    induction ws with
    | nil => exact fun _ => ⟨rfl, rfl, rfl, rfl⟩
    | cons w ws ih => exact fun s => ih (sendCodeword s w)
  exact words _ _

theorem creditTx_pump {s : State} (quiet : s.link.txWait = []) : (pump s).link.creditTx = s.link.creditTx ∧ (pump s).cle = s.cle := by
  by_cases h : s.link.st = 2
  · rw [pump_control h quiet]
    exact ⟨(link_emit ..).1, (link_emit ..).2.2.2⟩
  · rw [pump_down h]
    exact ⟨rfl, rfl⟩

theorem layOut_nothing (carry : Nat) : layOut carry [] 0 = ([], carry) := by
  rw [layOut]
  simp [pieces, cutUp]

/-- With nothing to send the link port leaves all as it is. -/
theorem pump_nothing {s : State} (ctl : s.link.txCtl = []) (quiet : s.link.txWait = []) : pump s = s := by
  by_cases h : s.link.st = 2
  · rw [pump_control h quiet, ctl, List.take_nil, List.map_nil, emit]
    have same : modLink s (fun l => { l with txCtl := l.txCtl.drop (slotsOf s.link) }) = s := by
      rw [modLink, ctl, List.drop_nil, ← ctl]
    rw [same, layOut_nothing]
    rfl
  · exact pump_down h

/-! ### A control flit that leaves alone (R300, R303) -/

theorem length_flitOf (head : Nat) (body : List Byte) : (flitOf head body).length = 256 := by
  rw [flitOf, List.length_append, List.length_take, List.length_append, List.length_replicate]
  have two : (toLE 2 head).length = 2 := rfl
  omega

theorem not_marker_controlFlit {code : Nat} (small : code < 256) (other : code ≠ 3) (rest : List Byte) :
    flitIsMarker (controlFlit code rest) = false := by
  have sub : leAt (controlFlit code rest) 2 1 = code := by
    show (BitVec.ofNat 8 code).toNat + 256 * 0 = code
    rw [BitVec.toNat_ofNat]
    omega
  rw [flitIsMarker, sub, decide_eq_false other, Bool.and_false]

theorem pieces_one {α : Type} (l : List α) (n : Nat) (full : l.length = n + 1) : pieces (n + 1) l = [l] := by
  cases l with
  | nil => cases full
  | cons a l =>
    rw [pieces, List.length_cons]
    show (a :: l).take (n + 1) :: cutUp (n + 1) l.length ((a :: l).drop (n + 1)) = _
    rw [← full, List.take_length, List.drop_length]
    cases l.length <;> rfl

/-- The codeword of one flit. -/
def loneWord (carry : Nat) (f : List Byte) : List Byte := List.replicate carry 0 ++ f ++ List.replicate (384 - carry) 0

theorem layOut_one {carry : Nat} (small : carry < 256) {f : List Byte} (len : f.length = 256) (plain : flitIsMarker f = false) :
    (layOut carry [f] 0).1 = [(loneWord carry f, [])] := by
  have one : max 0 (if [f].isEmpty then 0 else ceilDiv' (List.replicate carry (0 : Byte) ++ [f].flatten).length 640) = 1 := by
    show max 0 (ceilDiv' (List.replicate carry (0 : Byte) ++ [f].flatten).length 640) = 1
    rw [List.flatten_singleton, List.length_append, List.length_replicate, len, ceilDiv']
    omega
  have marks : markPlaces carry [f] = [] := by
    show ((([f].zipIdx).filter (fun p => flitIsMarker p.1)).map _) = []
    rw [List.zipIdx_singleton, List.filter_cons_of_neg (by rw [plain]; decide)]
    rfl
  have word : (List.replicate carry (0 : Byte) ++ [f].flatten ++ List.replicate (640 * 1) 0).take (640 * 1) = loneWord carry f := by
    have front : (List.replicate carry (0 : Byte) ++ f).length = carry + 256 := by rw [List.length_append, List.length_replicate, len]
    rw [List.flatten_singleton, List.take_append, List.take_of_length_le (by omega), front, List.take_replicate, loneWord]
    have rest : min (640 * 1 - (carry + 256)) (640 * 1) = 384 - carry := by omega
    rw [rest]
  have len_ : (loneWord carry f).length = 640 := by
    simp only [loneWord, List.length_append, List.length_replicate, len]
    omega
  rw [layOut]
  dsimp only
  rw [one, marks, word, pieces_one _ 639 len_]
  rfl

theorem emit_one {s : State} (small : s.link.txCarry < 256) {f : List Byte} (len : f.length = 256) (plain : flitIsMarker f = false) :
    (emit s [f] 0).link.retryBuf = s.link.retryBuf ++ [{ seq := s.link.txNext, data := loneWord s.link.txCarry f }] := by
  rw [emit, layOut_one small len plain]
  rfl

theorem sendControl_carries {s : State} (h : s.link.st = 2) (ctl : s.link.txCtl = []) (quiet : s.link.txWait = [])
    (room : s.link.retryBuf.length < 768) (small : s.link.txCarry < 256) (order : Nat) {f : List Byte} (len : f.length = 256)
    (plain : flitIsMarker f = false) : (sendControl s order f).link.retryBuf =
      s.link.retryBuf ++ [{ seq := s.link.txNext, data := loneWord s.link.txCarry f }] := by
  obtain ⟨n, slots⟩ : ∃ n, slotsOf s.link = n + 1 := ⟨slotsOf s.link - 1, by
    have some_ : 1 ≤ slotsOf s.link := by rw [slotsOf]; omega
    omega⟩
  have queued : (queueControl s order f).link.txCtl = [(order, f)] := by
    show s.link.txCtl.filter _ ++ (order, f) :: s.link.txCtl.filter _ = _
    rw [ctl]
    rfl
  have slots' : slotsOf (queueControl s order f).link = n + 1 := slots
  rw [sendControl, pump_control (s := queueControl s order f) h quiet, queued, slots']
  rw [List.take_succ_cons, List.take_nil, List.map_singleton]
  exact emit_one (s := modLink (queueControl s order f) (fun l => { l with txCtl := l.txCtl.drop (n + 1) })) small len plain

end Sys2Proof.Proofs.Codewords

/-! Codewords and their retry, credits and the latency measurement (chapter 14, R299, R300, R303 to R306, R309). -/

namespace Sys2Proof.Proofs.CodewordsIn

open Sys2Proof Sys2Proof.Machine Sys2Proof.Safety Sys2Proof.Laws Sys2Proof.Proofs.LinkPort Sys2Proof.Proofs.RegisterWrites
  Sys2Proof.Proofs.Codewords

/-! ### RETRY (R305, R306) -/

theorem retryAsked_refused {s : State} {seq : BitVec 10} (h : s.link.st ≠ 2 ∨ ∀ w ∈ s.link.retryBuf, w.seq ≠ seq) : retryAsked s seq = s := by
  unfold retryAsked
  refine if_pos ?_
  rcases h with down | unknown
  · rw [decide_eq_true down, Bool.true_or]
  · have none_ : s.link.retryBuf.any (fun w => w.seq = seq) = false := by
      rw [List.any_eq_false]
      exact fun w mem same => unknown w mem (of_decide_eq_true same)
    rw [none_, Bool.not_false, Bool.or_true]

/-- A link of which a SEQ is asked for again. -/
def resendOf (l : Link) (seq : BitVec 10) : Link := { l with resendSeq := seq, resends := if l.resendSeq = seq then l.resends + 1 else 1 }

theorem retryAsked_sends {s : State} {seq : BitVec 10} (h : s.link.st = 2) (known : ∃ w ∈ s.link.retryBuf, w.seq = seq) :
    retryAsked s seq = (fromSeq s.link.retryBuf seq).foldl resendWord (modLink s (fun l => resendOf l seq)) := by
  unfold retryAsked
  have some_ : s.link.retryBuf.any (fun w => w.seq = seq) = true := by
    obtain ⟨w, mem, same⟩ := known
    exact List.any_eq_true.mpr ⟨w, mem, decide_eq_true same⟩
  exact if_neg (by rw [h, some_]; decide)

theorem link_resendWord (s : State) (w : Codeword) : (resendWord s w).link = s.link := by
  have draws : ∀ (l : List Nat) (p : State × List Byte), (l.foldl (fun (p : State × List Byte) m =>
      ((drawFree p.1).2, p.2.take m ++ toLE 4 (drawFree p.1).1.toNat ++ p.2.drop (m + 4))) p).1.link = p.1.link := by
    intro l
    induction l with
    | nil => exact fun _ => rfl
    | cons m l ih => exact fun p => (ih _).trans rfl
  exact draws w.marks (s, w.data)

theorem link_resendWords (l : List Codeword) (s : State) : (l.foldl resendWord s).link = s.link := by
  induction l generalizing s with
  | nil => rfl
  | cons w l ih => exact (ih _).trans (link_resendWord s w)

/-- Codewords without the remaining time of a MARKER go out again as they stand. -/
theorem sent_resendWords (l : List Codeword) (s : State) (plain : ∀ w ∈ l, w.marks = []) :
    (l.foldl resendWord s).sent = s.sent ++ l.map (wordSent s.link) := by
  induction l generalizing s with
  | nil => exact (List.append_nil _).symm
  | cons w l ih =>
    have one : resendWord s w = send s (wordSent s.link w) := by
      rw [resendWord, plain w (List.mem_cons_self ..)]
      rfl
    rw [List.foldl_cons, one, ih _ (fun v mem => plain v (List.mem_cons_of_mem _ mem))]
    show (s.sent ++ [wordSent s.link w]) ++ _ = _
    rw [List.append_assoc]
    rfl

/-! ### CREDIT (R304) -/

/-- The counts of a CREDIT flit, of both dateline classes. -/
def countsOf (freed cls1 : List W16) : List W16 := (List.range 8).map (fun k => freed.getD k 0) ++ (List.range 8).map (fun k => cls1.getD k 0)

/-- What the counts gained on those last received. -/
def gainOf (l : Link) (now : List W16) (k : Nat) : Nat := (now.getD k 0 - l.freedSeen.getD k 0).toNat

/-- A link that has received a CREDIT flit. -/
def creditedWith (freed cls1 : List W16) (l : Link) : Link :=
  { l with freedSeen := countsOf freed cls1
           creditTx := (List.range 16).map (fun k => l.creditTx.getD k 0 + gainOf l (countsOf freed cls1) k) }

theorem getD_range_map {α : Type} (n : Nat) (f : Nat → α) (d : α) {k : Nat} (h : k < n) : ((List.range n).map f).getD k d = f k := by
  rw [List.getD_eq_getElem?_getD, List.getElem?_map, List.getElem?_range h]
  rfl

theorem creditArrives_up {s : State} (h : s.link.st = 2) (freed cls1 : List W16) :
    creditArrives s freed cls1 = pump (modLink s (creditedWith freed cls1)) := by
  have gains : (List.range 16).map (fun k => s.link.creditTx.getD k 0 + ((List.range 16).map (fun k =>
      ((countsOf freed cls1).getD k 0 - ((List.range 16).map (fun k => s.link.freedSeen.getD k 0)).getD k 0).toNat)).getD k 0) =
      (List.range 16).map (fun k => s.link.creditTx.getD k 0 + gainOf s.link (countsOf freed cls1) k) := by
    refine List.map_congr_left fun k mem => ?_
    have small := List.mem_range.mp mem
    rw [getD_range_map 16 _ _ small, getD_range_map 16 _ _ small]
    rfl
  unfold creditArrives
  dsimp only
  rw [if_neg (not_not.mpr h)]
  refine congrArg (fun c => pump (modLink s (fun l => { l with freedSeen := countsOf freed cls1, creditTx := c }))) gains

theorem creditArrives_down {s : State} (h : s.link.st ≠ 2) (freed cls1 : List W16) : creditArrives s freed cls1 = s := if_pos h

theorem getD_countsOf_low (freed cls1 : List W16) {k : Nat} (h : k < 8) : (countsOf freed cls1).getD k 0 = freed.getD k 0 := by
  rw [countsOf, List.getD_append _ _ _ _ (by simpa using h), getD_range_map 8 _ _ h]

theorem getD_countsOf_high (freed cls1 : List W16) {k : Nat} (h : k < 8) : (countsOf freed cls1).getD (k + 8) 0 = cls1.getD k 0 := by
  rw [countsOf, List.getD_append_right _ _ _ _ (by simp), List.length_map, List.length_range, Nat.add_sub_cancel, getD_range_map 8 _ _ h]

/-! ### What a codeword on the lanes does before it is judged (R299, R307) -/

/-- A receiver that has counted corrected and bad codewords, moved on, and switched lanes to their spares. -/
def Looked (x y : Link) : Prop :=
  y = { x with rxSwitched := y.rxSwitched, corrCw := y.corrCw, corrected := y.corrected, rxPos := y.rxPos, uncorrCw := y.uncorrCw }

theorem Looked.trans {x y z : Link} (a : Looked x y) (b : Looked y z) : Looked x z := by
  unfold Looked at *
  rw [b, a]

theorem switchLanes_eq (x : Link) : switchLanes x = { x with rxSwitched := (switchLanes x).rxSwitched } := by
  have fold : ∀ (ms : List (Nat × Nat × BitVec 10)) (l : Link), ms.foldl (fun l m =>
      { l with rxSwitched := l.rxSwitched.filter (fun y => y.1 ≠ m.1) ++ [(m.1, m.2.1)] }) l = { l with rxSwitched := (ms.foldl (fun l m =>
      { l with rxSwitched := l.rxSwitched.filter (fun y => y.1 ≠ m.1) ++ [(m.1, m.2.1)] }) l).rxSwitched } := by
    intro ms
    induction ms with
    | nil => exact fun _ => rfl
    | cons m ms ih => exact fun l => (ih _).trans rfl
  exact fold _ x

theorem looked_switchLanes (x : Link) : Looked x (switchLanes x) := by
  rw [Looked, switchLanes_eq]

theorem countCorrected_eq (x : Link) (lanes : List Nat) : Looked x (countCorrected x lanes) ∧
    (countCorrected x lanes).corrCw = (if lanes = [] then x.corrCw else satAdd x.corrCw 1) ∧ (countCorrected x lanes).rxPos = x.rxPos := by
  cases lanes with
  | nil => exact ⟨rfl, rfl, rfl⟩
  | cons a l => exact ⟨rfl, rfl, rfl⟩

/-! ### A codeword asked for again (R305) -/

/-- The control flit's codeword, where nothing else waits and there is room (R303). -/
def Carried (s t : State) (f : List Byte) : Prop :=
  s.link.txCtl = [] → s.link.txWait = [] → s.link.retryBuf.length < 768 → s.link.txCarry < 256 →
    t.link.retryBuf = s.link.retryBuf ++
      [{ seq := s.link.txNext, data := List.replicate s.link.txCarry 0 ++ f ++ List.replicate (384 - s.link.txCarry) 0 }]

/-- t asks the peer of s for the SEQ expected. -/
def Asks (s t : State) : Prop :=
  (∃ more, t.sent = s.sent ++ .retry s.link.rxNext :: more) ∧ t.link.rxDiscard = true ∧ t.link.replays = satAdd s.link.replays 1 ∧
    t.link.rxNext = s.link.rxNext ∧ t.link.rxFlits = s.link.rxFlits ∧ Carried s t (retryFlit s.link.rxNext) ∧ t.mem = s.mem ∧ t.items = s.items

theorem length_retryFlit (seq : BitVec 10) : (retryFlit seq).length = 256 := length_flitOf ..

theorem length_controlFlit (code : Nat) (rest : List Byte) : (controlFlit code rest).length = 256 := length_flitOf ..

/-- s with a receiver that discards, and RETRY for the peer. -/
def retrySent (s : State) : State :=
  send (modLink s (fun l => { l with rxDiscard := true, replays := satAdd l.replays 1 })) (.retry s.link.rxNext)

theorem askAgain_eq (s : State) : askAgain s = sendControl (retrySent s) 1 (retryFlit s.link.rxNext) := rfl

theorem askAgain_asks {s u : State} (h : s.link.st = 2) (look : Looked s.link u.link) (frame : u = { s with link := u.link, edge := u.edge }) :
    Asks s (askAgain u) ∧ (askAgain u).link.uncorrCw = u.link.uncorrCw ∧ (askAgain u).link.corrCw = u.link.corrCw := by
  have next : u.link.rxNext = s.link.rxNext := by rw [look]
  obtain ⟨more, sends⟩ := sends_sendControl (retrySent u) 1 (retryFlit u.link.rxNext)
  have carried : Carried s (sendControl (retrySent u) 1 (retryFlit u.link.rxNext)) (retryFlit s.link.rxNext) := by
    intro ctl quiet room small
    rw [← next]
    have same : (retrySent u).link.st = 2 ∧ (retrySent u).link.txCtl = s.link.txCtl ∧ (retrySent u).link.txWait = s.link.txWait ∧
        (retrySent u).link.retryBuf = s.link.retryBuf ∧ (retrySent u).link.txCarry = s.link.txCarry ∧ (retrySent u).link.txNext = s.link.txNext := by
      refine ⟨?_, ?_, ?_, ?_, ?_, ?_⟩
      · show u.link.st = 2; rw [look]; exact h
      · show u.link.txCtl = _; rw [look]
      · show u.link.txWait = _; rw [look]
      · show u.link.retryBuf = _; rw [look]
      · show u.link.txCarry = _; rw [look]
      · show u.link.txNext = _; rw [look]
    obtain ⟨st, ctl', quiet', buf, carry, txNext⟩ := same
    have sent := sendControl_carries st (ctl'.trans ctl) (quiet'.trans quiet) (by rw [buf]; exact room) (by rw [carry]; exact small) 1
      (length_retryFlit u.link.rxNext) (not_marker_controlFlit (by decide) (by decide) _)
    rw [buf, txNext, carry] at sent
    exact sent
  rw [askAgain_eq]
  generalize sendControl (retrySent u) 1 (retryFlit u.link.rxNext) = t at *
  obtain ⟨tframe, link, -, sent, -⟩ := sends
  refine ⟨⟨⟨more.map (wordSent (retrySent u).link), ?_⟩, ?_, ?_, ?_, ?_, carried, ?_, ?_⟩, ?_, ?_⟩
  · rw [sent]
    show (u.sent ++ [Sent.retry u.link.rxNext]) ++ _ = _
    rw [next, frame, List.append_assoc]
    rfl
  · rw [link]; rfl
  · rw [link]
    show satAdd u.link.replays 1 = _
    rw [look]
  · rw [link]; exact next
  · rw [link]
    show u.link.rxFlits = _
    rw [look]
  · rw [tframe]
    show u.mem = _
    rw [frame]
  · rw [tframe]
    show u.items = _
    rw [frame]
  · rw [link]; rfl
  · rw [link]; rfl

/-- s with a bad codeword counted. -/
def badCounted (s : State) : State := modLink s (fun l => { l with uncorrCw := satAdd l.uncorrCw 1, rxPos := l.rxPos + 1 })

theorem badWord_asks {s : State} (h : s.link.rxDiscard = false ∨ s.link.rxPos = s.link.rxNext) : badWord s = askAgain (badCounted s) := by
  refine if_neg fun waits => ?_
  obtain ⟨discards, other⟩ := Bool.and_eq_true_iff.mp waits
  rcases h with takes | due
  · rw [takes] at discards
    cases discards
  · exact of_decide_eq_true other due

theorem badWord_waits {s : State} (discards : s.link.rxDiscard = true) (other : s.link.rxPos ≠ s.link.rxNext) : badWord s = badCounted s :=
  if_pos (by rw [discards, decide_eq_true other]; rfl)

/-- s with the place of a codeword noted. -/
def placed (s : State) (seq : BitVec 10) : State := modLink s (fun l => { l with rxPos := seq + 1 })

theorem wordIn_again {s : State} {seq : BitVec 10} (other : seq ≠ s.link.rxNext)
    (again : s.link.rxDiscard = true ∧ seq = s.link.rxNext + 1 ∧ seq ≠ s.link.rxPos) (ack : BitVec 10) (data : List Byte) :
    wordIn s seq ack data = askAgain (placed s seq) := by
  obtain ⟨discards, follows, turn⟩ := again
  refine (if_neg other).trans (if_pos ?_)
  rw [discards, decide_eq_true follows, decide_eq_true turn]
  rfl

theorem wordIn_dropped {s : State} {seq : BitVec 10} (other : seq ≠ s.link.rxNext)
    (once : ¬(s.link.rxDiscard = true ∧ seq = s.link.rxNext + 1 ∧ seq ≠ s.link.rxPos)) (ack : BitVec 10) (data : List Byte) :
    wordIn s seq ack data = placed s seq := by
  refine (if_neg other).trans (if_neg fun again => once ?_)
  simp only [Bool.and_eq_true, decide_eq_true_eq] at again
  exact ⟨again.1.1, again.1.2, again.2⟩

theorem wordIn_next (s : State) (ack : BitVec 10) (data : List Byte) :
    wordIn s s.link.rxNext ack data = goodWord (placed s s.link.rxNext) ack data := if_pos rfl

/-! ### A codeword in order (R300, R304, R305) -/

/-- The codewords kept once the peer has acknowledged some. -/
def keptAfter (l : List Codeword) (ack : BitVec 10) : List Codeword :=
  if l.any (fun w => w.seq = ack) then (fromSeq l ack).drop 1 else l

theorem acked_eq (l : Link) (ack : BitVec 10) : acked l ack = { l with retryBuf := keptAfter l.retryBuf ack, resends := (acked l ack).resends } := by
  unfold acked keptAfter
  split <;> rfl

theorem keptAfter_known {l : List Codeword} {ack : BitVec 10} (h : ∃ x ∈ l, x.seq = ack) : keptAfter l ack = (l.dropWhile (fun x => x.seq ≠ ack)).drop 1 := by
  obtain ⟨x, mem, same⟩ := h
  exact if_pos (List.any_eq_true.mpr ⟨x, mem, decide_eq_true same⟩)

theorem keptAfter_unknown {l : List Codeword} {ack : BitVec 10} (h : ∀ x ∈ l, x.seq ≠ ack) : keptAfter l ack = l := by
  refine if_neg fun known => ?_
  obtain ⟨x, mem, same⟩ := List.any_eq_true.mp known
  exact h x mem (of_decide_eq_true same)

theorem flitsIn_eq (fs : List (List Byte)) (l : Link) : fs.foldl flitIn l =
    { l with rxFlits := l.rxFlits ++ fs.filter flitIsData, rxHeld := (fs.foldl flitIn l).rxHeld } := by
  induction fs generalizing l with
  | nil => rw [List.filter_nil, List.append_nil]; rfl
  | cons f fs ih =>
    rw [List.foldl_cons, ih (flitIn l f), List.filter_cons, flitIn]
    split
    · rw [List.append_assoc]
      rfl
    · rfl

/-- A receiver that takes a codeword's bytes in order. -/
def takesBytes (l : Link) (bs : List Byte) : Link :=
  { l with rxBytes := bs.drop (256 * (bs.length / 256)), rxFlits := l.rxFlits ++ (pieces 256 (bs.take (256 * (bs.length / 256)))).filter flitIsData }

theorem bytesIn_eq (l : Link) {data : List Byte} (full : data.length = 640) :
    bytesIn l data = { takesBytes l (l.rxBytes ++ data) with rxHeld := (bytesIn l data).rxHeld } := by
  have cut : (data ++ List.replicate 640 0).take 640 = data := by
    rw [List.take_append_of_le_length (by omega), ← full, List.take_length]
  unfold bytesIn
  dsimp only
  rw [cut, flitsIn_eq]
  rfl

/-- An idle codeword goes out in any case when one has to. -/
theorem length_layOut_one (carry : Nat) : (layOut carry [] 1).1.length = 1 := by
  have full : ((List.replicate carry (0 : Byte) ++ ([] : List (List Byte)).flatten ++ List.replicate (640 * 1) 0).take (640 * 1)).length = 639 + 1 := by
    rw [List.length_take, List.length_append, List.length_replicate]
    omega
  rw [layOut]
  dsimp only
  rw [List.length_map, List.length_zipIdx]
  exact congrArg List.length (pieces_one _ 639 full)

/-- s with a codeword taken, and what the peer acknowledges freed. -/
def wordTaken (s : State) (ack : BitVec 10) (data : List Byte) : State :=
  modLink s (fun l => acked (bytesIn { l with rxDiscard := false, rxNext := l.rxNext + 1 } data) ack)

/-- A codeword in order is acknowledged by a codeword back, where there is room for one. -/
theorem sends_goodWord (s : State) (ack : BitVec 10) (data : List Byte) (txNext : (wordTaken s ack data).link.txNext = s.link.txNext) :
    ∃ more, Sends more (wordTaken s ack data) (goodWord s ack data) ∧
      ((wordTaken s ack data).link.retryBuf.length < 768 → more ≠ []) := by
  obtain ⟨more, sends⟩ := sends_pump (wordTaken s ack data)
  show ∃ more, Sends more (wordTaken s ack data) (if (pump (wordTaken s ack data)).link.txNext = s.link.txNext &&
    decide ((pump (wordTaken s ack data)).link.retryBuf.length < 768) then emit (pump (wordTaken s ack data)) [] 1 else pump (wordTaken s ack data)) ∧ _
  generalize pump (wordTaken s ack data) = t at sends
  split
  · obtain ⟨idle, sends', one⟩ := sends_emit t [] 1
    refine ⟨more ++ idle, sends.trans sends', fun _ none_ => ?_⟩
    rw [(List.append_eq_nil_iff.mp none_).2, length_layOut_one] at one
    cases one
  · next busy =>
    refine ⟨more, sends, fun room none_ => busy ?_⟩
    have kept := sends.kept
    rw [none_, List.append_nil] at kept
    rw [sends.next none_, kept, decide_eq_true txNext, decide_eq_true room]
    rfl

theorem link_wordTaken (s : State) (ack : BitVec 10) {data : List Byte} (full : data.length = 640) : (wordTaken s ack data).link =
    { takesBytes { s.link with rxDiscard := false, rxNext := s.link.rxNext + 1 } (s.link.rxBytes ++ data) with
      rxHeld := (wordTaken s ack data).link.rxHeld, resends := (wordTaken s ack data).link.resends
      retryBuf := keptAfter s.link.retryBuf ack } := by
  show acked (bytesIn { s.link with rxDiscard := false, rxNext := s.link.rxNext + 1 } data) ack = { takesBytes _ _ with
    rxHeld := (acked (bytesIn { s.link with rxDiscard := false, rxNext := s.link.rxNext + 1 } data) ack).rxHeld
    resends := (acked (bytesIn { s.link with rxDiscard := false, rxNext := s.link.rxNext + 1 } data) ack).resends
    retryBuf := keptAfter s.link.retryBuf ack }
  rw [acked_eq, bytesIn_eq _ full]
  rfl

/-- What a codeword in order leaves of the die of s. -/
def Takes (s t : State) (ack : BitVec 10) (data : List Byte) : Prop :=
  ∃ kept more, t.link.rxNext = s.link.rxNext + 1 ∧ t.link.rxDiscard = false ∧
    t.link.rxBytes = (s.link.rxBytes ++ data).drop (256 * ((s.link.rxBytes ++ data).length / 256)) ∧
    t.link.rxFlits = s.link.rxFlits ++
      (pieces 256 ((s.link.rxBytes ++ data).take (256 * ((s.link.rxBytes ++ data).length / 256)))).filter flitIsData ∧
    ((∃ x ∈ s.link.retryBuf, x.seq = ack) → kept = (s.link.retryBuf.dropWhile (fun x => x.seq ≠ ack)).drop 1) ∧
    ((∀ x ∈ s.link.retryBuf, x.seq ≠ ack) → kept = s.link.retryBuf) ∧ t.link.retryBuf = kept ++ more ∧
    (kept.length < 768 → more ≠ []) ∧
    t.sent = s.sent ++ more.map (fun x => .codeword x.seq s.link.rxNext x.data (codewordLanes t.link x.seq s.link.rxNext x.data)) ∧
    t.mem = s.mem ∧ t.items = s.items

theorem goodWord_takes {s u : State} (look : Looked s.link u.link) (frame : u = { s with link := u.link, edge := u.edge }) (ack : BitVec 10)
    {data : List Byte} (full : data.length = 640) : Takes s (goodWord u ack data) ack data ∧ (goodWord u ack data).link.corrCw = u.link.corrCw := by
  have taken := link_wordTaken u ack full
  have kept : (wordTaken u ack data).link.retryBuf = keptAfter s.link.retryBuf ack := by
    rw [taken]
    show keptAfter u.link.retryBuf ack = _
    rw [look]
  obtain ⟨more, sends, some_⟩ := sends_goodWord u ack data (by rw [taken]; rfl)
  have next : (wordTaken u ack data).link.rxNext = s.link.rxNext + 1 := by
    rw [taken]
    show u.link.rxNext + 1 = _
    rw [look]
  have discards : (wordTaken u ack data).link.rxDiscard = false := by rw [taken]; rfl
  have bytes : (wordTaken u ack data).link.rxBytes = (s.link.rxBytes ++ data).drop (256 * ((s.link.rxBytes ++ data).length / 256)) := by
    rw [taken]
    show (u.link.rxBytes ++ data).drop _ = _
    rw [look]
  have flits : (wordTaken u ack data).link.rxFlits = s.link.rxFlits ++
      (pieces 256 ((s.link.rxBytes ++ data).take (256 * ((s.link.rxBytes ++ data).length / 256)))).filter flitIsData := by
    rw [taken]
    show u.link.rxFlits ++ (pieces 256 ((u.link.rxBytes ++ data).take _)).filter flitIsData = _
    rw [look]
  have corr : (wordTaken u ack data).link.corrCw = u.link.corrCw := by rw [taken]; rfl
  have keeps : (wordTaken u ack data).sent = s.sent ∧ (wordTaken u ack data).mem = s.mem ∧ (wordTaken u ack data).items = s.items := by
    refine ⟨?_, ?_, ?_⟩
    · show u.sent = _; rw [frame]
    · show u.mem = _; rw [frame]
    · show u.items = _; rw [frame]
  generalize wordTaken u ack data = v at *
  generalize goodWord u ack data = t at *
  obtain ⟨tframe, link, buf, sent, -⟩ := sends
  obtain ⟨vsent, mem, items⟩ := keeps
  have lanes : codewordLanes t.link = codewordLanes v.link := by rw [link]; rfl
  have now : ackNow v.link = s.link.rxNext := by rw [ackNow, next, BitVec.add_sub_cancel]
  refine ⟨⟨keptAfter s.link.retryBuf ack, more, ?_, ?_, ?_, ?_, keptAfter_known, keptAfter_unknown, ?_, ?_, ?_, ?_, ?_⟩, ?_⟩
  · rw [link]; exact next
  · rw [link]; exact discards
  · rw [link]; exact bytes
  · rw [link]; exact flits
  · rw [buf, kept]
  · rw [← kept]; exact some_
  · rw [sent, vsent, lanes, ← now]
    rfl
  · rw [tframe]; exact mem
  · rw [tframe]; exact items
  · rw [link]; exact corr

/-! ### LINK_CODEWORD (R299, R300) -/

/-- What the lanes of a link bring, decoded. -/
def wordOn (l : Link) (lanes : List (List Nat)) : Option (List Nat × List Nat) :=
  rsDecode (takeSymbols ((List.range l.width).map (fun k => lanes.getD (rxLane l (k % max 1 l.width)) [])))

/-- s with its lanes switched. -/
def switched (s : State) : State := modLink s switchLanes

theorem codewordIn_down {s : State} (h : s.link.st ≠ 2) (lanes : List (List Nat)) : codewordIn s lanes = s := if_pos h

theorem codewordIn_bad {s : State} (h : s.link.st = 2) {lanes : List (List Nat)} (bad : wordOn (switchLanes s.link) lanes = none) :
    codewordIn s lanes = badWord (switched s) := by
  have bad' : rsDecode (takeSymbols ((List.range (modLink s switchLanes).link.width).map (fun k =>
    lanes.getD (rxLane (modLink s switchLanes).link (k % max 1 (modLink s switchLanes).link.width)) []))) = none := bad
  unfold codewordIn
  dsimp only
  rw [if_neg (not_not.mpr h), bad']
  rfl

/-- s with a codeword's corrected symbols counted. -/
def judged (s : State) (fixed : List Nat) : State :=
  modLink (switched s) (fun l => countCorrected l (fixed.map (fun k => rxLane (switchLanes s.link) (k % max 1 (switchLanes s.link).width))))

theorem codewordIn_good {s : State} (h : s.link.st = 2) {lanes : List (List Nat)} {w fixed : List Nat}
    (good : wordOn (switchLanes s.link) lanes = some (w, fixed)) : codewordIn s lanes =
      wordIn (judged s fixed) (BitVec.ofNat 10 (w.getD 0 0)) (BitVec.ofNat 10 (w.getD 1 0)) (cwBytes ((w.drop 2).take 512)) := by
  have good' : rsDecode (takeSymbols ((List.range (modLink s switchLanes).link.width).map (fun k =>
    lanes.getD (rxLane (modLink s switchLanes).link (k % max 1 (modLink s switchLanes).link.width)) []))) = some (w, fixed) := good
  unfold codewordIn
  dsimp only
  rw [if_neg (not_not.mpr h), good']
  rfl

theorem judged_holds (s : State) (fixed : List Nat) : Looked s.link (judged s fixed).link ∧
    (judged s fixed).link.corrCw = (if fixed = [] then s.link.corrCw else satAdd s.link.corrCw 1) ∧ (judged s fixed).link.rxPos = s.link.rxPos := by
  obtain ⟨look, corr, pos⟩ := countCorrected_eq (switchLanes s.link) (fixed.map (fun k => rxLane (switchLanes s.link) (k % max 1 (switchLanes s.link).width)))
  refine ⟨(looked_switchLanes s.link).trans look, corr.trans ?_, pos.trans (by rw [switchLanes_eq])⟩
  rw [show (switchLanes s.link).corrCw = s.link.corrCw by rw [switchLanes_eq]]
  cases fixed <;> rfl

/-! ### ECHO (R309) -/

theorem echoIn_answers {s : State} (h : s.link.st ≠ 0) (stamp echoed : W64) (res : W32) (now : W64) : echoIn s stamp echoed res false now =
    sendControl (send s (.echo stamp res)) 4 (echoFlit stamp stamp res) := if_neg h

theorem echoIn_unasked {s : State} (none_ : s.link.echoSent = 0) (stamp echoed : W64) (res : W32) (now : W64) :
    echoIn s stamp echoed res true now = s := by
  unfold echoIn
  rw [if_pos none_]
  simp only [Bool.not_true, Bool.false_eq_true, ↓reduceIte, ite_self]

theorem echoIn_measures {s : State} (h : s.link.st ≠ 0) (asked : s.link.echoSent ≠ 0) (stamp echoed : W64) (res : W32) (now : W64) :
    echoIn s stamp echoed res true now = echoBack s ((now - echoed).toNat - res.toNat) :=
  (if_neg h).trans ((if_neg (by decide)).trans (if_neg asked))

/-- The smallest round trip, with one more. -/
def bestOf (l : Link) (trip : Nat) : Nat := if l.echoGot = 0 then trip else min l.echoBest trip

theorem echoBack_more {s : State} (more : s.link.echoGot < 63) (trip : Nat) :
    echoBack s trip = modLink s (fun l => { l with echoBest := bestOf s.link trip, echoGot := s.link.echoGot + 1 }) :=
  if_pos (by omega)

/-- Half of the smallest round trip, a half unit rounded as a free value says. -/
def halfOf (s : State) (best : Nat) : Nat := best / 2 + (if best % 2 = 0 then 0 else (Config.freeWord s.free).toNat % 2)

theorem halfOf_near (s : State) (best : Nat) : best ≤ 2 * halfOf s best + 1 ∧ 2 * halfOf s best ≤ best + 1 := by
  unfold halfOf
  split
  · omega
  · omega

theorem echoBack_last {s : State} (last : 63 ≤ s.link.echoGot) (trip : Nat) : (echoBack s trip).link.echoSent = 0 ∧
    (echoBack s trip).link.lat = BitVec.ofNat 32 (halfOf s (bestOf s.link trip)) := by
  have done : echoBack s trip = modLink (drawFree (modLink s (fun l => { l with echoBest := bestOf s.link trip, echoGot := s.link.echoGot + 1 }))).2
      (fun l => { l with lat := BitVec.ofNat 32 (halfOf s (bestOf s.link trip)), echoSent := 0, echoGot := 0, echoBest := 0 }) :=
    if_neg (by omega)
  rw [done]
  exact ⟨rfl, rfl⟩

/-! ### The commands -/

theorem exec_linkCodeword {s : State} (hup : up s) (l0 l8 l16 l24 spares : List (List Nat)) : exec (.linkCodeword l0 l8 l16 l24 spares) s =
    .next (keepOuter s (codewordIn (inBreath s) (l0 ++ l8 ++ l16 ++ l24 ++ spares))) :=
  live_up (f := fun s => codewordIn (inBreath s) (l0 ++ l8 ++ l16 ++ l24 ++ spares)) hup

theorem exec_retry {s : State} (hup : up s) (seq : BitVec 10) : exec (.retry seq) s = .next (keepOuter s (retryAsked (inBreath s) seq)) :=
  live_up (f := fun s => retryAsked (inBreath s) seq) hup

theorem exec_credit {s : State} (hup : up s) (freed cls1 : List W16) :
    exec (.credit freed cls1) s = .next (keepOuter s (creditArrives (inBreath s) freed cls1)) :=
  live_up (f := fun s => creditArrives (inBreath s) freed cls1) hup

theorem exec_echo {s : State} (hup : up s) (stamp echoed : W64) (res : W32) (reply : Bool) (now : W64) :
    exec (.echo stamp echoed res reply now) s = .next (keepOuter s (echoIn (inBreath s) stamp echoed res reply now)) :=
  live_up (f := fun s => echoIn (inBreath s) stamp echoed res reply now) hup

theorem width_switchLanes (x : Link) : (switchLanes x).width = x.width := by rw [switchLanes_eq]

theorem wordOn_switchLanes (x : Link) (lanes : List (List Nat)) : wordOn (switchLanes x) lanes =
    rsDecode (takeSymbols ((List.range x.width).map (fun k => lanes.getD (rxLane (switchLanes x) (k % max 1 x.width)) []))) := by
  rw [wordOn, width_switchLanes]

theorem length_cwBytes (syms : List Nat) : (cwBytes syms).length = 640 := SequenceSelect.length_toLE ..

theorem Asks.outer {s t : State} (h : Asks s t) : Asks s (keepOuter s t) := h

theorem Takes.outer {s t : State} {ack : BitVec 10} {data : List Byte} (h : Takes s t ack data) : Takes s (keepOuter s t) ack data := h

/-- What the receiver expects is not changed by looking. -/
theorem Looked.expected {x y : Link} (h : Looked x y) : y.rxDiscard = x.rxDiscard ∧ y.rxNext = x.rxNext ∧ y.rxBytes = x.rxBytes ∧
    y.rxFlits = x.rxFlits ∧ y.retryBuf = x.retryBuf := by
  rw [h]
  exact ⟨rfl, rfl, rfl, rfl, rfl⟩

theorem rxPos_switchLanes (x : Link) : (switchLanes x).rxPos = x.rxPos ∧ (switchLanes x).uncorrCw = x.uncorrCw := by
  rw [switchLanes_eq]
  exact ⟨rfl, rfl⟩

/-- A bad codeword is asked for again. -/
theorem exec_badWord {s : State} (hup : up s) (st : s.link.st = 2) {l0 l8 l16 l24 spares : List (List Nat)}
    (bad : wordOn (switchLanes s.link) (l0 ++ l8 ++ l16 ++ l24 ++ spares) = none) (h : s.link.rxDiscard = false ∨ s.link.rxPos = s.link.rxNext) :
    ∃ t, exec (.linkCodeword l0 l8 l16 l24 spares) s = .next t ∧ Asks s t ∧ t.link.uncorrCw = satAdd s.link.uncorrCw 1 := by
  obtain ⟨discards, next, -⟩ := (looked_switchLanes s.link).expected
  obtain ⟨pos, counted⟩ := rxPos_switchLanes s.link
  have due : (switched (inBreath s)).link.rxDiscard = false ∨ (switched (inBreath s)).link.rxPos = (switched (inBreath s)).link.rxNext :=
    h.imp discards.trans fun turn => pos.trans (turn.trans next.symm)
  have look : Looked s.link (badCounted (switched (inBreath s))).link := (looked_switchLanes s.link).trans rfl
  obtain ⟨asks, uncorr, -⟩ := askAgain_asks (u := badCounted (switched (inBreath s))) st look rfl
  rw [exec_linkCodeword hup, codewordIn_bad (s := inBreath s) st bad, badWord_asks due]
  exact ⟨_, rfl, asks.outer, uncorr.trans (congrArg (satAdd · 1) counted)⟩

/-- A bad codeword is only counted while the receiver discards and another one is due. -/
theorem exec_badWord_waits {s : State} (hup : up s) (st : s.link.st = 2) {l0 l8 l16 l24 spares : List (List Nat)}
    (bad : wordOn (switchLanes s.link) (l0 ++ l8 ++ l16 ++ l24 ++ spares) = none) (discards : s.link.rxDiscard = true)
    (other : s.link.rxPos ≠ s.link.rxNext) : exec (.linkCodeword l0 l8 l16 l24 spares) s = .next { inBreath s with
      link := { switchLanes s.link with uncorrCw := satAdd s.link.uncorrCw 1, rxPos := s.link.rxPos + 1 } } := by
  obtain ⟨discards', next, -⟩ := (looked_switchLanes s.link).expected
  obtain ⟨pos, counted⟩ := rxPos_switchLanes s.link
  have waits : badWord (switched (inBreath s)) = badCounted (switched (inBreath s)) :=
    badWord_waits (discards'.trans discards) (fun turn => other (pos.symm.trans (turn.trans next)))
  rw [exec_linkCodeword hup, codewordIn_bad (s := inBreath s) st bad, waits, ← counted, ← pos]
  rfl

/-- A codeword that decodes goes to the receiver. -/
theorem exec_goodWord {s : State} (hup : up s) (st : s.link.st = 2) {l0 l8 l16 l24 spares : List (List Nat)} {w fixed : List Nat}
    (good : wordOn (switchLanes s.link) (l0 ++ l8 ++ l16 ++ l24 ++ spares) = some (w, fixed)) :
    exec (.linkCodeword l0 l8 l16 l24 spares) s = .next (keepOuter s (wordIn (judged (inBreath s) fixed)
      (BitVec.ofNat 10 (w.getD 0 0)) (BitVec.ofNat 10 (w.getD 1 0)) (cwBytes ((w.drop 2).take 512)))) := by
  rw [exec_linkCodeword hup, codewordIn_good (s := inBreath s) st good]

theorem asks_wordIn_again {s : State} (st : s.link.st = 2) (fixed : List Nat) {seq : BitVec 10} (other : seq ≠ s.link.rxNext)
    (again : s.link.rxDiscard = true ∧ seq = s.link.rxNext + 1 ∧ seq ≠ s.link.rxPos) (ack : BitVec 10) (data : List Byte) :
    Asks s (wordIn (judged (inBreath s) fixed) seq ack data) ∧ (wordIn (judged (inBreath s) fixed) seq ack data).link.corrCw =
      if fixed = [] then s.link.corrCw else satAdd s.link.corrCw 1 := by
  obtain ⟨look, corr, pos⟩ := judged_holds (inBreath s) fixed
  obtain ⟨discards', next, -⟩ := look.expected
  obtain ⟨discards, follows, turn⟩ := again
  rw [wordIn_again (s := judged (inBreath s) fixed) (fun same => other (same.trans next)) ⟨discards'.trans discards,
    follows.trans (congrArg (· + 1) next.symm), fun same => turn (same.trans pos)⟩]
  have look' : Looked s.link (placed (judged (inBreath s) fixed) seq).link := look.trans rfl
  obtain ⟨asks, -, kept⟩ := askAgain_asks (u := placed (judged (inBreath s) fixed) seq) st look' rfl
  exact ⟨asks, kept.trans corr⟩

theorem placed_wordIn {s : State} (fixed : List Nat) {seq : BitVec 10} (other : seq ≠ s.link.rxNext)
    (once : ¬(s.link.rxDiscard = true ∧ seq = s.link.rxNext + 1 ∧ seq ≠ s.link.rxPos)) (ack : BitVec 10) (data : List Byte) :
    wordIn (judged (inBreath s) fixed) seq ack data = placed (judged (inBreath s) fixed) seq := by
  obtain ⟨look, -, pos⟩ := judged_holds (inBreath s) fixed
  obtain ⟨discards', next, -⟩ := look.expected
  refine wordIn_dropped (s := judged (inBreath s) fixed) (fun same => other (same.trans next)) (fun again => once ?_) ack data
  obtain ⟨discards, follows, turn⟩ := again
  exact ⟨discards'.symm.trans discards, follows.trans (congrArg (· + 1) next), fun same => turn (same.trans pos.symm)⟩

theorem takes_wordIn {s : State} (fixed : List Nat) {seq : BitVec 10} (same : seq = s.link.rxNext) (ack : BitVec 10) {data : List Byte}
    (full : data.length = 640) : Takes s (wordIn (judged (inBreath s) fixed) seq ack data) ack data ∧
      (wordIn (judged (inBreath s) fixed) seq ack data).link.corrCw = if fixed = [] then s.link.corrCw else satAdd s.link.corrCw 1 := by
  obtain ⟨look, corr, -⟩ := judged_holds (inBreath s) fixed
  obtain ⟨-, next, -⟩ := look.expected
  have same' : seq = (judged (inBreath s) fixed).link.rxNext := same.trans next.symm
  rw [same', wordIn_next]
  have look' : Looked s.link (placed (judged (inBreath s) fixed) (judged (inBreath s) fixed).link.rxNext).link := look.trans rfl
  obtain ⟨takes, kept⟩ := goodWord_takes look' rfl ack full
  exact ⟨takes, kept.trans corr⟩

/-- CREDIT on a link whose port holds no DATA flit. -/
theorem exec_credit_up {s : State} (hup : up s) (st : s.link.st = 2) (quiet : s.link.txWait = []) (freed cls1 : List W16) :
    ∃ t, exec (.credit freed cls1) s = .next t ∧ (s.link.txCtl = [] → t = { inBreath s with link := t.link }) ∧
      t.link.creditTx = (creditedWith freed cls1 s.link).creditTx ∧ t.link.freedSeen = countsOf freed cls1 := by
  rw [exec_credit hup, creditArrives_up (s := inBreath s) st]
  obtain ⟨kept, -⟩ := creditTx_pump (s := modLink (inBreath s) (creditedWith freed cls1)) quiet
  obtain ⟨more, sends⟩ := sends_pump (modLink (inBreath s) (creditedWith freed cls1))
  refine ⟨_, rfl, fun ctl => ?_, kept, ?_⟩
  · rw [pump_nothing (s := modLink (inBreath s) (creditedWith freed cls1)) ctl quiet]
    rfl
  · exact (congrArg Link.freedSeen sends.link).trans rfl

/-- An ECHO of the peer goes back. -/
theorem exec_echo_answers {s : State} (hup : up s) (st : s.link.st ≠ 0) (stamp echoed : W64) (res : W32) (now : W64) :
    ∃ t, exec (.echo stamp echoed res false now) s = .next t ∧ (∃ more, t.sent = s.sent ++ .echo stamp res :: more) ∧
      (s.link.st ≠ 2 → (4, echoFlit stamp stamp res) ∈ t.link.txCtl) ∧ (s.link.st = 2 → Carried s t (echoFlit stamp stamp res)) ∧
      t.mem = s.mem ∧ t.items = s.items := by
  rw [exec_echo hup, echoIn_answers (s := inBreath s) st]
  obtain ⟨more, sends⟩ := sends_sendControl (send (inBreath s) (.echo stamp res)) 4 (echoFlit stamp stamp res)
  refine ⟨_, rfl, ⟨more.map (wordSent s.link), ?_⟩, fun down => ?_, fun live ctl quiet room small => ?_, ?_, ?_⟩
  · refine sends.sent.trans ?_
    show (s.sent ++ [Sent.echo stamp res]) ++ more.map (wordSent s.link) = _
    rw [List.append_assoc]
    rfl
  · rw [sendControl, pump_down (s := queueControl (send (inBreath s) (.echo stamp res)) 4 (echoFlit stamp stamp res)) down]
    exact List.mem_append_right _ (List.mem_cons_self ..)
  · exact sendControl_carries (s := send (inBreath s) (.echo stamp res)) live ctl quiet room small 4 (length_controlFlit ..)
      (not_marker_controlFlit (by decide) (by decide) _)
  · exact (congrArg State.mem sends.frame).trans rfl
  · exact (congrArg State.items sends.frame).trans rfl

/-- The last of 64 round trips sets the latency. -/
theorem exec_echo_last {s : State} (hup : up s) (st : s.link.st ≠ 0) (asked : s.link.echoSent ≠ 0) (last : 63 ≤ s.link.echoGot)
    (stamp echoed : W64) (res : W32) (now : W64) : ∃ t, exec (.echo stamp echoed res true now) s = .next t ∧ t.link.echoSent = 0 ∧
      (bestOf s.link ((now - echoed).toNat - res.toNat) < 2 ^ 32 →
        bestOf s.link ((now - echoed).toNat - res.toNat) ≤ 2 * t.link.lat.toNat + 1 ∧
        2 * t.link.lat.toNat ≤ bestOf s.link ((now - echoed).toNat - res.toNat) + 1) := by
  rw [exec_echo hup, echoIn_measures (s := inBreath s) st asked]
  obtain ⟨stops, lat⟩ := echoBack_last (s := inBreath s) last ((now - echoed).toNat - res.toNat)
  obtain ⟨low, high⟩ := halfOf_near (inBreath s) (bestOf s.link ((now - echoed).toNat - res.toNat))
  refine ⟨_, rfl, stops, fun small => ?_⟩
  have exact_ : (keepOuter s (echoBack (inBreath s) ((now - echoed).toNat - res.toNat))).link.lat.toNat =
      halfOf (inBreath s) (bestOf s.link ((now - echoed).toNat - res.toNat)) := by
    refine (congrArg BitVec.toNat lat).trans ?_
    show (BitVec.ofNat 32 (halfOf (inBreath s) (bestOf s.link ((now - echoed).toNat - res.toNat)))).toNat = _
    rw [BitVec.toNat_ofNat]
    exact Nat.mod_eq_of_lt (by omega)
  rw [exact_]
  exact ⟨low, high⟩

/-- Settles O56: each command by what it does to the receiver and the sender; what leaves is a chain of `Sends`. -/
theorem codewordsRetryAndCredits : Obligations.CodewordsRetryAndCredits := by
  unfold Obligations.CodewordsRetryAndCredits
  intro s hup
  refine ⟨fun l0 l8 l16 l24 spares down => ?_, fun l0 l8 l16 l24 spares st => ?_, fun seq refused => ?_, fun seq st known => ?_,
    fun freed cls1 down => ?_, fun freed cls1 st quiet => ?_, fun stamp echoed res reply now down => ?_,
    fun stamp echoed res now st => ⟨exec_echo_answers hup st stamp echoed res now, fun none_ => ?_, fun asked => ⟨fun more => ?_, fun last =>
      exec_echo_last hup st asked last stamp echoed res now⟩⟩⟩
  · rw [exec_linkCodeword hup, codewordIn_down (s := inBreath s) down]
    rfl
  · dsimp only
    rw [← wordOn_switchLanes]
    refine ⟨fun bad h => exec_badWord hup st bad h, fun bad discards other => exec_badWord_waits hup st bad discards other,
      fun w fixed good => ⟨fun other again => ?_, fun other once => ?_, fun same => ?_⟩⟩
    · rw [exec_goodWord hup st good]
      obtain ⟨asks, corr⟩ := asks_wordIn_again st fixed other again (BitVec.ofNat 10 (w.getD 1 0)) (cwBytes ((w.drop 2).take 512))
      exact ⟨_, rfl, asks.outer, corr⟩
    · rw [exec_goodWord hup st good, placed_wordIn fixed other once]
      obtain ⟨look, corr, -⟩ := judged_holds (inBreath s) fixed
      obtain ⟨discards, next, bytes, flits, buf⟩ := look.expected
      exact ⟨_, rfl, rfl, corr, next, rfl, bytes, flits, buf, discards⟩
    · rw [exec_goodWord hup st good]
      obtain ⟨takes, corr⟩ := takes_wordIn fixed same (BitVec.ofNat 10 (w.getD 1 0)) (length_cwBytes ((w.drop 2).take 512))
      obtain ⟨kept, more, next, takes⟩ := takes.outer
      exact ⟨_, kept, more, rfl, corr, next, takes⟩
  · rw [exec_retry hup, retryAsked_refused (s := inBreath s) refused]
    rfl
  · rw [exec_retry hup, retryAsked_sends (s := inBreath s) st known]
    have link := link_resendWords (fromSeq (inBreath s).link.retryBuf seq) (modLink (inBreath s) (fun l => resendOf l seq))
    have sent := sent_resendWords (fromSeq (inBreath s).link.retryBuf seq) (modLink (inBreath s) (fun l => resendOf l seq))
    generalize (fromSeq (inBreath s).link.retryBuf seq).foldl resendWord (modLink (inBreath s) (fun l => resendOf l seq)) = t at *
    refine ⟨_, rfl, fun plain => (sent fun w mem => plain w (List.dropWhile_subset _ mem)).trans ?_, link⟩
    show _ = s.sent ++ (fromSeq s.link.retryBuf seq).map (fun w =>
      .codeword w.seq (s.link.rxNext - 1) w.data (codewordLanes t.link w.seq (s.link.rxNext - 1) w.data))
    rw [link]
    rfl
  · rw [exec_credit hup, creditArrives_down (s := inBreath s) down]
    rfl
  · obtain ⟨t, run, same, credits, counts⟩ := exec_credit_up hup st quiet freed cls1
    refine ⟨t, run, same, fun k small => ?_⟩
    rw [credits, counts, getD_countsOf_low freed cls1 small, getD_countsOf_high freed cls1 small, creditedWith]
    dsimp only
    rw [getD_range_map 16 _ _ (by omega), getD_range_map 16 _ _ (by omega), gainOf, gainOf, getD_countsOf_low freed cls1 small,
      getD_countsOf_high freed cls1 small]
    exact ⟨rfl, rfl, rfl, rfl⟩
  · rw [exec_echo hup]
    have stays : echoIn (inBreath s) stamp echoed res reply now = inBreath s := if_pos down
    rw [stays]
    rfl
  · rw [exec_echo hup, echoIn_unasked (s := inBreath s) none_]
    rfl
  · rw [exec_echo hup, echoIn_measures (s := inBreath s) st asked, echoBack_more (s := inBreath s) more]
    rfl

end Sys2Proof.Proofs.CodewordsIn

/-! What leaves by a bridge port, and in which order the channels send (chapters 13 and 14, R70, R296, R314). -/

namespace Sys2Proof.Proofs.BridgePorts

open Sys2Proof Sys2Proof.Machine Sys2Proof.Safety Sys2Proof.Laws Sys2Proof.Proofs.LinkPort

/-! ### The channel that sends (R70, R296) -/

/-- Of two channels the one with the smaller counter, of equal ones the first. -/
def sooner (v : List Nat) (best : Option Nat) (c : Nat) : Option Nat :=
  match best with
  | none => some c
  | some b => if v.getD c 0 < v.getD b 0 then some c else some b

/-- The channels that may send, in the breath's rotation. -/
def eligible (s : State) (p : Option Nat) : List Nat := (channelOrder s).filter (fun c => (nextFlit s p c).isSome)

theorem pickChannel_eq (s : State) (p : Option Nat) : pickChannel s p = (eligible s p).foldl (sooner s.cle.vctr) none := rfl

/-- c is the first of l with the smallest counter, in the order of some rank. -/
def First (v : List Nat) (rank : Nat → Nat) (l : List Nat) (c : Nat) : Prop :=
  c ∈ l ∧ ∀ d ∈ l, v.getD c 0 ≤ v.getD d 0 ∧ (v.getD c 0 = v.getD d 0 → rank c ≤ rank d)

theorem first_sooner (v : List Nat) (rank : Nat → Nat) (l : List Nat) (b : Nat) (sorted : (b :: l).Pairwise (fun x y => rank x < rank y)) :
    ∃ c, l.foldl (sooner v) (some b) = some c ∧ First v rank (b :: l) c := by
  induction l generalizing b with
  | nil => exact ⟨b, rfl, List.mem_cons_self .., fun d mem => by rw [List.mem_singleton.mp mem]; exact ⟨le_rfl, fun _ => le_rfl⟩⟩
  | cons x l ih =>
    obtain ⟨before, rest⟩ := List.pairwise_cons.mp sorted
    have earlier : rank b < rank x := before x (List.mem_cons_self ..)
    by_cases less : v.getD x 0 < v.getD b 0
    · obtain ⟨c, picks, mem, least⟩ := ih x rest
      refine ⟨c, ?_, List.mem_cons_of_mem _ mem, fun d among => ?_⟩
      · rw [List.foldl_cons, sooner, if_pos less, picks]
      · rcases List.mem_cons.mp among with same | among
        · have small := (least x (List.mem_cons_self ..)).1
          rw [same]
          exact ⟨by omega, fun equal => by omega⟩
        · exact least d among
    · obtain ⟨c, picks, mem, least⟩ := ih b (List.pairwise_cons.mpr
        ⟨fun y among => before y (List.mem_cons_of_mem _ among), (List.pairwise_cons.mp rest).2⟩)
      obtain ⟨small, first⟩ := least b (List.mem_cons_self ..)
      refine ⟨c, ?_, ?_, fun d among => ?_⟩
      · rw [List.foldl_cons, sooner, if_neg less, picks]
      · rcases List.mem_cons.mp mem with same | mem
        · exact List.mem_cons.mpr (.inl same)
        · exact List.mem_cons_of_mem _ (List.mem_cons_of_mem _ mem)
      · rcases List.mem_cons.mp among with same | among
        · rw [same]
          exact ⟨small, first⟩
        · rcases List.mem_cons.mp among with same | among
          · rw [same]
            exact ⟨by omega, fun equal => le_trans (first (by omega)) earlier.le⟩
          · exact least d (List.mem_cons_of_mem _ among)

/-- The place of a channel in the breath's rotation. -/
def placeOf (s : State) (c : Nat) : Nat := (c + 8 - s.breath.num.toNat % 8) % 8

theorem placeOf_rotated (s : State) {k : Nat} (h : k < 8) : placeOf s ((k + s.breath.num.toNat) % 8) = k := by
  rw [placeOf]
  omega

theorem channelOrder_sorted (s : State) : (channelOrder s).Pairwise (fun x y => placeOf s x < placeOf s y) := by
  refine List.pairwise_map.mpr (List.Pairwise.imp_of_mem (fun {a b} ha hb less => ?_) List.pairwise_lt_range)
  rw [placeOf_rotated s (List.mem_range.mp ha), placeOf_rotated s (List.mem_range.mp hb)]
  exact less

theorem mem_channelOrder (s : State) (c : Nat) : c ∈ channelOrder s ↔ c < 8 := by
  constructor
  · intro mem
    obtain ⟨k, -, same⟩ := List.mem_map.mp mem
    rw [← same]
    exact Nat.mod_lt _ (by decide)
  · intro small
    refine List.mem_map.mpr ⟨placeOf s c, List.mem_range.mpr (Nat.mod_lt _ (by decide)), ?_⟩
    rw [placeOf]
    omega

theorem mem_eligible (s : State) (p : Option Nat) (c : Nat) : c ∈ eligible s p ↔ c < 8 ∧ (nextFlit s p c).isSome = true := by
  rw [eligible, List.mem_filter, mem_channelOrder]

/-- The channel that sends, and when there is none. -/
theorem pickChannel_cases (s : State) (p : Option Nat) : (pickChannel s p = none ∧ eligible s p = []) ∨
    ∃ c, pickChannel s p = some c ∧ First s.cle.vctr (placeOf s) (eligible s p) c := by
  have sorted : (eligible s p).Pairwise (fun x y => placeOf s x < placeOf s y) := (channelOrder_sorted s).filter _
  rw [pickChannel_eq]
  generalize eligible s p = l at *
  cases l with
  | nil => exact .inl ⟨rfl, rfl⟩
  | cons b l => exact .inr (first_sooner _ _ l b sorted)

theorem first_pickChannel {s : State} {p : Option Nat} {c : Nat} (h : pickChannel s p = some c) :
    First s.cle.vctr (placeOf s) (eligible s p) c := by
  rcases pickChannel_cases s p with ⟨none_, -⟩ | ⟨c', picks, first⟩
  · rw [none_] at h
    cases h
  · rw [picks] at h
    cases h
    exact first

theorem pickChannel_only {s : State} {p : Option Nat} {c : Nat} (small : c < 8) (some_ : (nextFlit s p c).isSome = true)
    (only : ∀ d, (nextFlit s p d).isSome = true → d = c) : pickChannel s p = some c := by
  rcases pickChannel_cases s p with ⟨-, none_⟩ | ⟨c', picks, mem, -⟩
  · have mem := (mem_eligible s p c).mpr ⟨small, some_⟩
    rw [none_] at mem
    cases mem
  · rw [picks, only c' ((mem_eligible s p c').mp mem).2]

theorem nextFlit_some {s : State} {p : Option Nat} {c : Nat} {x : Nat × Bool × List Byte} (h : nextFlit s p c = some x) :
    x ∈ portWait s p ∧ x.1 = c ∧ weightOf s c ≠ 0 := by
  unfold nextFlit at h
  split at h
  · next y found =>
    split at h
    · next open_ =>
      cases h
      exact ⟨List.mem_of_find?_eq_some found, of_decide_eq_true (List.find?_some (p := fun x : Nat × Bool × List Byte => decide (x.1 = c)) found), of_decide_eq_true (Bool.and_eq_true_iff.mp open_).1⟩
    · cases h
  · cases h

/-! ### What a bridge port may change (R314) -/

theorem getBridge_modBridge_same (s : State) (d : Nat) (f : Bridge → Bridge) : getBridge (modBridge s d f) d = f (getBridge s d) :=
  tget_tput_same ..

theorem getBridge_modBridge_other (s : State) {d e : Nat} (f : Bridge → Bridge) (h : e ≠ d) :
    getBridge (modBridge s d f) e = getBridge s e := tget_tput_other _ _ _ _ _ h

/-- From s to t flits leave by the bridge port to a die, or come to wait there. -/
structure BridgeSide (d : Nat) (s t : State) : Prop where
  frame : t = { s with sent := t.sent, link := t.link, casc := { s.casc with ports := t.casc.ports }, cle := { s.cle with vctr := t.cle.vctr } }
  others : ∀ e, e ≠ d → getBridge t e = getBridge s e
  own : getBridge t d = { getBridge s d with wait := (getBridge t d).wait }
  link : t.link = { s.link with vLast := t.link.vLast }

theorem BridgeSide.refl {d : Nat} (s : State) : BridgeSide d s s := ⟨rfl, fun _ _ => rfl, rfl, rfl⟩

theorem BridgeSide.trans {d : Nat} {s t u : State} (h : BridgeSide d s t) (k : BridgeSide d t u) : BridgeSide d s u where
  frame := by rw [k.frame, h.frame]
  others e other := (k.others e other).trans (h.others e other)
  own := by rw [k.own, h.own]
  link := by rw [k.link, h.link]

theorem bridgeSide_setWait (s : State) (d : Nat) (l : List (Nat × Bool × List Byte)) : BridgeSide d s (setWait s (some d) l) where
  frame := rfl
  others _ other := getBridge_modBridge_other s _ other
  own := by
    rw [setWait, getBridge_modBridge_same]
  link := rfl

theorem wait_setWait (s : State) (d : Nat) (l : List (Nat × Bool × List Byte)) : (getBridge (setWait s (some d) l) d).wait = l := by
  rw [setWait, getBridge_modBridge_same]

theorem bridgeSide_takeFlit (s : State) (d c : Nat) (x : Nat × Bool × List Byte) : BridgeSide d s (takeFlit s (some d) c x) :=
  .trans (t := setWait { s with cle := { s.cle with vctr := (takeFlit s (some d) c x).cle.vctr } } (some d)
      (dropFirst (fun y => y.1 = c) (portWait s (some d))))
    (.trans (t := { s with cle := { s.cle with vctr := (takeFlit s (some d) c x).cle.vctr } }) ⟨rfl, fun _ _ => rfl, rfl, rfl⟩
      (bridgeSide_setWait ..))
    ⟨rfl, fun _ _ => rfl, rfl, rfl⟩

theorem wait_takeFlit (s : State) (d c : Nat) (x : Nat × Bool × List Byte) : (getBridge (takeFlit s (some d) c x) d).wait =
    dropFirst (fun y => y.1 = c) (getBridge s d).wait :=
  wait_setWait { s with cle := { s.cle with vctr := (takeFlit s (some d) c x).cle.vctr } } d _

theorem takeFlits_none (p : Option Nat) (n : Nat) {s : State} (h : pickChannel s p = none) : takeFlits p n s = (s, []) := by
  cases n with
  | zero => rfl
  | succ n =>
    unfold takeFlits
    rw [h]

theorem takeFlits_some (p : Option Nat) (n : Nat) {s : State} {c : Nat} (h : pickChannel s p = some c) {x : Nat × Bool × List Byte}
    (next : nextFlit s p c = some x) : takeFlits p (n + 1) s =
      ((takeFlits p n (takeFlit s p c x)).1, x.2.2 :: (takeFlits p n (takeFlit s p c x)).2) := by
  rw [takeFlits]
  dsimp only
  rw [h]
  dsimp only
  rw [next]

/-- What one flit slot of a bridge port keeps, all of them keep. -/
theorem takeFlits_keeps {motive : State → State → Prop} (refl : ∀ s, motive s s) (trans : ∀ s t u, motive s t → motive t u → motive s u)
    {p : Option Nat} (one : ∀ s c x, nextFlit s p c = some x → motive s (takeFlit s p c x)) (n : Nat) (s : State) :
    motive s (takeFlits p n s).1 := by
  induction n generalizing s with
  | zero => exact refl s
  | succ n ih =>
    rcases pickChannel_cases s p with ⟨none_, -⟩ | ⟨c, picks, mem, -⟩
    · rw [takeFlits_none p (n + 1) none_]
      exact refl s
    · obtain ⟨x, next⟩ := Option.isSome_iff_exists.mp ((mem_eligible s p c).mp mem).2
      rw [takeFlits_some p n picks next]
      exact trans _ _ _ (one s c x next) (ih _)

theorem bridgeSide_takeFlits (d n : Nat) (s : State) : BridgeSide d s (takeFlits (some d) n s).1 :=
  takeFlits_keeps .refl (fun _ _ _ => .trans) (fun s c x _ => bridgeSide_takeFlit s d c x) n s

/-! ### What a pumped bridge port sends -/

theorem sendFlits_eq (d : Nat) (fs : List (List Byte)) (s : State) :
    fs.foldl (fun st f => send st (.flit d f)) s = { s with sent := s.sent ++ fs.map (Sent.flit d) } := by
  induction fs generalizing s with
  | nil => rw [List.map_nil, List.foldl_nil, List.append_nil]
  | cons f fs ih =>
    rw [List.foldl_cons, ih, List.map_cons, send]
    simp only [List.append_assoc, List.singleton_append]

theorem pumpBridge_down {s : State} {d : Nat} (h : (getBridge s d).st ≠ 2) : pumpBridge s d = s := if_pos h

theorem pumpBridge_up {s : State} {d : Nat} (h : (getBridge s d).st = 2) : pumpBridge s d =
    { (takeFlits (some d) (getBridge s d).wait.length s).1 with
      sent := (takeFlits (some d) (getBridge s d).wait.length s).1.sent ++
        (takeFlits (some d) (getBridge s d).wait.length s).2.map (Sent.flit d) } :=
  (if_neg (not_not.mpr h)).trans (sendFlits_eq ..)

theorem bridgeSide_pumpBridge (s : State) (d : Nat) : BridgeSide d s (pumpBridge s d) := by
  by_cases h : (getBridge s d).st = 2
  · rw [pumpBridge_up h]
    exact (bridgeSide_takeFlits d _ s).trans ⟨rfl, fun _ _ => rfl, rfl, rfl⟩
  · rw [pumpBridge_down h]
    exact .refl s

theorem wait_pumpBridge {s : State} {d : Nat} (h : (getBridge s d).st = 2) : (getBridge (pumpBridge s d) d).wait =
    (getBridge (takeFlits (some d) (getBridge s d).wait.length s).1 d).wait := by
  rw [pumpBridge_up h]
  rfl

theorem pumpBridge_empty {s : State} {d : Nat} (h : (getBridge s d).wait = []) : pumpBridge s d = s := by
  by_cases live : (getBridge s d).st = 2
  · rw [pumpBridge_up live, h]
    show { s with sent := s.sent ++ [] } = s
    rw [List.append_nil]
  · exact pumpBridge_down live

theorem mem_dropFirst {α : Type} (p : α → Bool) {l : List α} {x : α} (mem : x ∈ l) (other : p x = false) : x ∈ dropFirst p l := by
  induction l with
  | nil => cases mem
  | cons y l ih =>
    rw [dropFirst]
    rcases List.mem_cons.mp mem with same | mem
    · rw [← same, if_neg (by rw [other]; decide)]
      exact List.mem_cons_self ..
    · split
      · exact mem
      · exact List.mem_cons_of_mem _ (ih mem)

/-- Flits of a channel that is off stay at the port. -/
def OffStay (d c : Nat) (s t : State) : Prop :=
  weightOf s c = 0 → weightOf t c = 0 ∧ ∀ x ∈ (getBridge s d).wait, x.1 = c → x ∈ (getBridge t d).wait

theorem offStay_takeFlits (d c n : Nat) (s : State) : OffStay d c s (takeFlits (some d) n s).1 := by
  refine takeFlits_keeps (motive := OffStay d c) (fun s off => ⟨off, fun _ mem _ => mem⟩) (fun s t u h k off => ?_)
    (fun s e x next off => ⟨?_, fun y mem same => ?_⟩) n s
  · obtain ⟨off', first⟩ := h off
    obtain ⟨off'', second⟩ := k off'
    exact ⟨off'', fun x mem same => second x (first x mem same) same⟩
  · exact off
  · obtain ⟨-, -, open_⟩ := nextFlit_some next
    rw [wait_takeFlit]
    refine mem_dropFirst _ mem (decide_eq_false fun same' => open_ ?_)
    rw [← same', same]
    exact off

/-- A port at which one channel alone waits sends it all, in order. -/
theorem takeFlits_all {d c : Nat} (small : c < 8) (dl : Bool) (fs : List (List Byte)) {s : State} (open_ : weightOf s c ≠ 0)
    (wait : (getBridge s d).wait = fs.map (fun f => (c, dl, f))) : (takeFlits (some d) fs.length s).2 = fs ∧
      (takeFlits (some d) fs.length s).1.sent = s.sent ∧ (getBridge (takeFlits (some d) fs.length s).1 d).wait = [] := by
  induction fs generalizing s with
  | nil => exact ⟨rfl, rfl, wait⟩
  | cons f fs ih =>
    have next : nextFlit s (some d) c = some (c, dl, f) := by
      have found : (portWait s (some d)).find? (fun x => decide (x.1 = c)) = some (c, dl, f) := by
        show (getBridge s d).wait.find? _ = _
        rw [wait, List.map_cons, List.find?_cons_of_pos (by simp)]
      rw [nextFlit, found]
      exact if_pos (by rw [decide_eq_true open_]; rfl)
    have picks : pickChannel s (some d) = some c := by
      refine pickChannel_only small (by rw [next]; rfl) fun e some_ => ?_
      obtain ⟨x, found⟩ := Option.isSome_iff_exists.mp some_
      obtain ⟨mem, same, -⟩ := nextFlit_some found
      have mem' : x ∈ (getBridge s d).wait := mem
      rw [wait] at mem'
      obtain ⟨g, -, is⟩ := List.mem_map.mp mem'
      rw [← same, ← is]
    rw [List.length_cons, takeFlits_some (some d) fs.length picks next]
    have rest : (getBridge (takeFlit s (some d) c (c, dl, f)) d).wait = fs.map (fun f => (c, dl, f)) := by
      rw [wait_takeFlit, wait, List.map_cons, dropFirst, if_pos (decide_eq_true rfl)]
    obtain ⟨out, sent, none_⟩ := ih (s := takeFlit s (some d) c (c, dl, f)) open_ rest
    exact ⟨by rw [out], sent, none_⟩

end Sys2Proof.Proofs.BridgePorts

/-! Lane sparing and training (chapter 14, R304, R306 to R309, R314; R353). -/

namespace Sys2Proof.Proofs.LanesAndTraining

open Sys2Proof Sys2Proof.Machine Sys2Proof.Safety Sys2Proof.Laws Sys2Proof.Proofs.RegisterWrites Sys2Proof.Proofs.BellRecord
  Sys2Proof.Proofs.LinkPort Sys2Proof.Proofs.Codewords Sys2Proof.Proofs.CodewordsIn Sys2Proof.Proofs.BridgePorts Sys2Proof.Proofs.Losses

/-! ### What a port changes while it sends and measures -/

/-- A link with what a latency measurement changes taken from another. -/
def measuringFrom (x y : Link) : Link := { x with lat := y.lat, echoSent := y.echoSent, echoGot := y.echoGot, echoBest := y.echoBest }

/-- From s to t the link port sends and measures its latency. -/
structure Runs (s t : State) : Prop where
  frame : t = { s with sent := t.sent, link := t.link, free := t.free, cle := { s.cle with vctr := t.cle.vctr } }
  link : t.link = measuringFrom (sendingFrom s.link t.link) t.link
  kept : ∃ more, t.link.retryBuf = s.link.retryBuf ++ more
  sent : ∃ words, t.sent = s.sent ++ words
  quiet : s.link.txWait = [] → t.link.txWait = [] ∧ t.link.creditTx = s.link.creditTx

theorem Runs.refl (s : State) : Runs s s :=
  ⟨rfl, rfl, ⟨[], (List.append_nil _).symm⟩, ⟨[], (List.append_nil _).symm⟩, fun quiet => ⟨quiet, rfl⟩⟩

theorem Runs.trans {s t u : State} (h : Runs s t) (k : Runs t u) : Runs s u := by
  obtain ⟨frame, link, ⟨more, kept⟩, ⟨words, sent⟩, quiet⟩ := h
  obtain ⟨frame', link', ⟨more', kept'⟩, ⟨words', sent'⟩, quiet'⟩ := k
  refine ⟨by rw [frame', frame], ?_, ⟨more ++ more', by rw [kept', kept, List.append_assoc]⟩,
    ⟨words ++ words', by rw [sent', sent, List.append_assoc]⟩, fun none_ => ?_⟩
  · rw [link', link]
    rfl
  · obtain ⟨still, same⟩ := quiet none_
    obtain ⟨still', same'⟩ := quiet' still
    exact ⟨still', same'.trans same⟩

theorem Runs.foldl {α : Type} {f : State → α → State} (h : ∀ s a, Runs s (f s a)) (l : List α) (s : State) : Runs s (l.foldl f s) := by
  induction l generalizing s with
  | nil => exact .refl s
  | cons a l ih => exact (h s a).trans (ih _)

theorem runs_drawFree (s : State) : Runs s (drawFree s).2 :=
  ⟨rfl, rfl, ⟨[], (List.append_nil _).symm⟩, ⟨[], (List.append_nil _).symm⟩, fun quiet => ⟨quiet, rfl⟩⟩

theorem runs_send (s : State) (x : Sent) : Runs s (send s x) :=
  ⟨rfl, rfl, ⟨[], (List.append_nil _).symm⟩, ⟨[x], rfl⟩, fun quiet => ⟨quiet, rfl⟩⟩

theorem runs_queueControl (s : State) (order : Nat) (f : List Byte) : Runs s (queueControl s order f) :=
  ⟨rfl, rfl, ⟨[], (List.append_nil _).symm⟩, ⟨[], (List.append_nil _).symm⟩, fun quiet => ⟨quiet, rfl⟩⟩

/-- What a measurement sets of the link, without the rest. -/
theorem runs_modLink (s : State) {f : Link → Link} (measures : f s.link = measuringFrom s.link (f s.link)) : Runs s (modLink s f) := by
  refine ⟨rfl, ?_, ⟨[], ?_⟩, ⟨[], (List.append_nil _).symm⟩, fun quiet => ?_⟩
  · show f s.link = measuringFrom (sendingFrom s.link (f s.link)) (f s.link)
    rw [measures]
    rfl
  · show (f s.link).retryBuf = _
    rw [measures, List.append_nil]
    rfl
  · show (f s.link).txWait = [] ∧ (f s.link).creditTx = s.link.creditTx
    rw [measures]
    exact ⟨quiet, rfl⟩

theorem runs_pump (s : State) : Runs s (pump s) := by
  obtain ⟨more, frame, link, kept, sent, -⟩ := sends_pump s
  refine ⟨?_, ?_, ⟨more, kept⟩, ⟨_, sent⟩, fun quiet => ⟨?_, (creditTx_pump quiet).1⟩⟩
  · rw [frame]
  · rw [link]
    rfl
  · by_cases h : s.link.st = 2
    · rw [pump_control h quiet]
      exact (link_emit ..).2.2.1.trans quiet
    · rw [pump_down h]
      exact quiet

theorem runs_sendControl (s : State) (order : Nat) (f : List Byte) : Runs s (sendControl s order f) :=
  (runs_queueControl ..).trans (runs_pump _)

theorem free_pump (s : State) : (pump s).free = s.free := by
  obtain ⟨more, sends⟩ := sends_pump s
  rw [sends.frame]

/-! ### The latency measurement (R309) -/

/-- A flit of the measurement, with a free time stamp. -/
def queueEcho (s : State) : State := queueControl (drawFree s).2 4 (echoFlit (drawFree s).1 0 0)

/-- s with ECHO flits that wait. -/
def echoesQueued : Nat → State → State
  | 0, s => s
  | n + 1, s => echoesQueued n (queueEcho s)

theorem echoesQueued_eq (l : List Nat) (s : State) : l.foldl (fun st _ => queueEcho st) s = echoesQueued l.length s := by
  induction l generalizing s with
  | nil => rfl
  | cons k l ih => exact ih _

theorem runs_queueEcho (s : State) : Runs s (queueEcho s) := (runs_drawFree s).trans (runs_queueControl ..)

theorem echoesQueued_holds (n : Nat) (s : State) : Runs s (echoesQueued n s) ∧ (echoesQueued n s).free = s.free + n ∧
    (echoesQueued n s).link = { s.link with txCtl := (echoesQueued n s).link.txCtl } := by
  induction n generalizing s with
  | zero => exact ⟨.refl s, rfl, rfl⟩
  | succ n ih =>
    obtain ⟨runs, free, link⟩ := ih (queueEcho s)
    refine ⟨(runs_queueEcho s).trans runs, ?_, ?_⟩
    · rw [echoesQueued, free]
      show s.free + 1 + n = _
      omega
    · rw [echoesQueued, link]
      rfl

/-- A link that measures anew. -/
def measuring (l : Link) : Link := { l with echoSent := 64, echoGot := 0, echoBest := 0 }

theorem measure_eq (s : State) : measure s = pump (echoesQueued 64 (modLink s measuring)) := by
  have queued := echoesQueued_eq (List.range 64) (modLink s measuring)
  rw [List.length_range] at queued
  exact congrArg pump queued

theorem echo_sendingFrom (x y : Link) : (sendingFrom x y).echoSent = x.echoSent ∧ (sendingFrom x y).echoGot = x.echoGot := ⟨rfl, rfl⟩

theorem measure_holds (s : State) : Runs s (measure s) ∧ (measure s).free = s.free + 64 ∧ (measure s).link.echoSent = 64 ∧
    (measure s).link.echoGot = 0 := by
  rw [measure_eq]
  obtain ⟨runs, free, link⟩ := echoesQueued_holds 64 (modLink s measuring)
  generalize echoesQueued 64 (modLink s measuring) = t at *
  obtain ⟨more, sends⟩ := sends_pump t
  obtain ⟨sent, got⟩ := echo_sendingFrom t.link (pump t).link
  refine ⟨((runs_modLink s rfl).trans runs).trans (runs_pump _), (free_pump _).trans free, ?_, ?_⟩
  · rw [sends.link, sent, link]
    rfl
  · rw [sends.link, got, link]
    rfl

theorem runs_echoBack (s : State) (trip : Nat) : Runs s (echoBack s trip) := by
  unfold echoBack
  extract_lets best got s1
  split
  · exact runs_modLink s rfl
  · exact ((runs_modLink s (f := fun l => { l with echoBest := best, echoGot := got }) rfl).trans (runs_drawFree _)).trans (runs_modLink _ rfl)

/-! ### LANE_MAP (R307) -/

/-- A link that copies a lane onto a spare. -/
def mapsLane (lane spare : Nat) (sw : BitVec 10) (l : Link) : Link := { l with laneOf := l.laneOf.filter (fun x => x.1 ≠ lane) ++ [(lane, spare, sw)] }

theorem laneMapIn_refused {s : State} {lane spare : Nat} (h : s.link.st ≠ 2 ∨ 32 ≤ lane ∨ spare < 32 ∨ 36 ≤ spare) (sw : BitVec 10) :
    laneMapIn s lane spare sw = s := by
  refine if_pos ?_
  simp only [Bool.or_eq_true, decide_eq_true_eq]
  tauto

theorem laneMapIn_maps {s : State} {lane spare : Nat} (st : s.link.st = 2) (low : lane < 32) (isSpare : 32 ≤ spare) (last : spare < 36)
    (sw : BitVec 10) : laneMapIn s lane spare sw = measure (modLink s (mapsLane lane spare sw)) := by
  refine if_neg ?_
  simp only [Bool.or_eq_true, decide_eq_true_eq]
  rintro (((down | high) | early) | late)
  · exact down st
  · omega
  · omega
  · omega

theorem exec_laneMap {s : State} (hup : up s) (lane spare : Nat) (sw : BitVec 10) :
    exec (.laneMap lane spare sw) s = .next (keepOuter s (laneMapIn (inBreath s) lane spare sw)) :=
  live_up (f := fun s => laneMapIn (inBreath s) lane spare sw) hup

theorem exec_laneMap_maps {s : State} (hup : up s) {lane spare : Nat} (st : s.link.st = 2) (low : lane < 32) (isSpare : 32 ≤ spare) (last : spare < 36)
    (sw : BitVec 10) : ∃ t, exec (.laneMap lane spare sw) s = .next t ∧
      (lane, spare, sw) ∈ t.link.laneOf ∧ (∀ x ∈ t.link.laneOf, x.1 = lane → x = (lane, spare, sw)) ∧ t.link.echoSent = 64 ∧
      t.link.echoGot = 0 ∧ t.free = s.free + 64 ∧ t = { inBreath s with link := t.link, cle := t.cle, sent := t.sent, free := t.free } := by
  rw [exec_laneMap hup, laneMapIn_maps (s := inBreath s) st low isSpare last]
  obtain ⟨runs, free, sent, got⟩ := measure_holds (modLink (inBreath s) (mapsLane lane spare sw))
  have lanes : (measure (modLink (inBreath s) (mapsLane lane spare sw))).link.laneOf = (mapsLane lane spare sw s.link).laneOf := by
    rw [runs.link]
    rfl
  have frame := runs.frame
  generalize measure (modLink (inBreath s) (mapsLane lane spare sw)) = t at *
  refine ⟨_, rfl, ?_, fun x mem same => ?_, sent, got, free, ?_⟩
  · show _ ∈ t.link.laneOf
    rw [lanes]
    exact List.mem_append_right _ (List.mem_singleton.mpr rfl)
  · have mem' : x ∈ t.link.laneOf := mem
    rw [lanes] at mem'
    rcases List.mem_append.mp mem' with old | new
    · exact absurd same (of_decide_eq_true (List.mem_filter.mp old).2)
    · exact List.mem_singleton.mp new
  · rw [frame]
    rfl

/-! ### LANE_RETIRE (R307, R308, R353) -/

theorem exec_laneRetire {s : State} (hup : up s) (edge : s.edge = true) (n : Nat) (ft : Bool) :
    exec (.laneRetire n ft) s = .next (keepOuter s (laneRetire s n ft)) := atEdge_up (f := fun s => laneRetire s n ft) hup edge

theorem exec_laneRetire_late {s : State} (hup : up s) (inside : s.edge = false) (n : Nat) (ft : Bool) :
    exec (.laneRetire n ft) s = .next s := atEdge_late (f := fun s => laneRetire s n ft) hup inside

/-- A lane was over its limit for four breaths. -/
def overLong (l : Link) (n : Nat) : Bool := l.overLimit.any (fun p => p.1 = n && decide (4 ≤ p.2))

theorem overLong_iff (l : Link) (n : Nat) : overLong l n = true ↔ ∃ p ∈ l.overLimit, p.1 = n ∧ 4 ≤ p.2 := by
  simp only [overLong, List.any_eq_true, Bool.and_eq_true, decide_eq_true_eq]

theorem laneRetire_refused {s : State} {n : Nat} {ft : Bool} (h : 36 ≤ n ∨ s.link.retired.getLsbD n = true ∨ (ft || overLong s.link n) = false) :
    laneRetire s n ft = s := by
  refine if_pos ?_
  rcases h with high | out | unasked
  · rw [decide_eq_true high]
    rfl
  · rw [out, Bool.or_true, Bool.true_or]
  · rw [show (!(ft || s.link.overLimit.any (fun p => p.1 = n && decide (4 ≤ p.2)))) = true by rw [Bool.not_eq_true']; exact unasked, Bool.or_true]

/-- A link without a lane. -/
def withoutLane (n : Nat) (l : Link) : Link :=
  { l with retired := l.retired ||| BitVec.ofNat 36 (2 ^ n), overLimit := l.overLimit.filter (fun p => p.1 ≠ n)
           sparesLeft := (freeSpares { l with retired := l.retired ||| BitVec.ofNat 36 (2 ^ n) }).length }

/-- s with a lane retired. -/
def laneOut (s : State) (n : Nat) : State :=
  modUnit (modLink s (withoutLane n)) (BitVec.ofNat 16 (0x4000 + n)) (fun r => r.become 2 (lowBreath s))

/-- A lane carries symbols of the link. -/
def laneInUse (l : Link) (n : Nat) : Bool := decide (n < 32) || l.rxLaneOf.any (fun x => x.2.1 = n)

/-- What becomes of the link without a lane that it used. -/
def replaced (s : State) (n : Nat) : State :=
  match freeSpares s.link with
  | spare :: _ => if s.link.width = 16 then s else swapLane s n spare
  | [] => narrow s n

theorem laneRetire_eq {s : State} {n : Nat} {ft : Bool} (low : n < 36) (here : s.link.retired.getLsbD n = false) (asked : (ft || overLong s.link n) = true) :
    laneRetire s n ft = if !laneInUse s.link n then laneOut s n else replaced (laneOut s n) n := by
  refine (if_neg ?_).trans rfl
  rw [decide_eq_false (by omega), here, show (!(ft || s.link.overLimit.any (fun p => p.1 = n && decide (4 ≤ p.2)))) = false by
    rw [Bool.not_eq_false']; exact asked]
  decide

/-- A retired lane stays retired. -/
def StaysOut (s t : State) : Prop := t.link.retired = s.link.retired ∧ ∀ u, (getUnit t u).st = (getUnit s u).st

theorem StaysOut.refl (s : State) : StaysOut s s := ⟨rfl, fun _ => rfl⟩

theorem StaysOut.trans {s t u : State} (h : StaysOut s t) (k : StaysOut t u) : StaysOut s u :=
  ⟨k.1.trans h.1, fun v => (k.2 v).trans (h.2 v)⟩

theorem Runs.staysOut {s t : State} (h : Runs s t) : StaysOut s t := by
  refine ⟨by rw [h.link]; rfl, fun u => ?_⟩
  rw [h.frame]
  rfl

theorem getUnit_modUnit_same (s : State) (u : W16) (f : UnitRec → UnitRec) : getUnit (modUnit s u f) u = f (getUnit s u) := tget_tput_same ..

theorem staysOut_modUnit (s : State) (u : W16) {f : UnitRec → UnitRec} (st : ∀ r, (f r).st = r.st) : StaysOut s (modUnit s u f) := by
  refine ⟨rfl, fun v => ?_⟩
  by_cases same : v = u
  · rw [same, getUnit_modUnit_same, st]
  · exact congrArg UnitRec.st (tget_tput_other _ _ _ _ _ fun equal => same (BitVec.eq_of_toNat_eq equal))

theorem staysOut_of_history {s t : State} (retired : t.link.retired = s.link.retired) (history : t.history = s.history) : StaysOut s t :=
  ⟨retired, fun u => by rw [getUnit, history, getUnit]⟩

/-- A link that swaps a lane for a spare. -/
def swapsLane (n spare : Nat) (l : Link) : Link :=
  { l with rxLaneOf := l.rxLaneOf.filter (fun x => x.1 ≠ logicalLane l n) ++ [(logicalLane l n, spare, l.rxNext + 64)]
           sparesLeft := (freeSpares { l with
             rxLaneOf := l.rxLaneOf.filter (fun x => x.1 ≠ logicalLane l n) ++ [(logicalLane l n, spare, l.rxNext + 64)] }).length }

/-- s with the spare in use. -/
def spareTaken (s : State) (n spare : Nat) : State :=
  modUnit (modLink s (swapsLane n spare)) (BitVec.ofNat 16 (0x4000 + spare)) (fun r => { r with role := 0 })

/-- The peer is told of the swap. -/
def swapTold (s : State) (n spare : Nat) : State :=
  sendControl (send (spareTaken s n spare) (.laneMap (logicalLane s.link n) spare (s.link.rxNext + 64))) 3
    (laneMapFlit (logicalLane s.link n) spare (s.link.rxNext + 64))

theorem swapLane_eq (s : State) (n spare : Nat) : swapLane s n spare = measure (swapTold s n spare) := rfl

theorem staysOut_spareTaken (s : State) (n spare : Nat) : StaysOut s (spareTaken s n spare) :=
  .trans (staysOut_of_history (t := modLink s (swapsLane n spare)) rfl rfl) (staysOut_modUnit _ _ fun _ => rfl)

theorem runs_swapTold (s : State) (n spare : Nat) : Runs (spareTaken s n spare) (swapTold s n spare) := (runs_send ..).trans (runs_sendControl ..)

theorem staysOut_swapLane (s : State) (n spare : Nat) : StaysOut s (swapLane s n spare) := by
  rw [swapLane_eq]
  exact ((staysOut_spareTaken s n spare).trans (runs_swapTold s n spare).staysOut).trans (measure_holds _).1.staysOut

/-- A swap tells the peer and measures again; the link stays up. -/
theorem swapLane_holds (s : State) (n spare : Nat) :
    (∃ more, (swapLane s n spare).sent = s.sent ++ .laneMap (logicalLane s.link n) spare (s.link.rxNext + 64) :: more) ∧
    (logicalLane s.link n, spare, s.link.rxNext + 64) ∈ (swapLane s n spare).link.rxLaneOf ∧
    (swapLane s n spare).link.st = s.link.st ∧ (swapLane s n spare).link.width = s.link.width ∧
    (swapLane s n spare).link.echoSent = 64 ∧ (swapLane s n spare).epoch = s.epoch := by
  rw [swapLane_eq]
  obtain ⟨measures, -, echoes, -⟩ := measure_holds (swapTold s n spare)
  have told := runs_sendControl (send (spareTaken s n spare) (.laneMap (logicalLane s.link n) spare (s.link.rxNext + 64))) 3
    (laneMapFlit (logicalLane s.link n) spare (s.link.rxNext + 64))
  have runs := told.trans measures
  obtain ⟨words, sent⟩ := runs.sent
  generalize measure (swapTold s n spare) = t at *
  refine ⟨⟨words, ?_⟩, ?_, ?_, ?_, echoes, ?_⟩
  · rw [sent]
    show (s.sent ++ [Sent.laneMap (logicalLane s.link n) spare (s.link.rxNext + 64)]) ++ words = _
    rw [List.append_assoc]
    rfl
  · rw [runs.link]
    exact List.mem_append_right _ (List.mem_singleton.mpr rfl)
  · rw [runs.link]
    rfl
  · rw [runs.link]
    rfl
  · rw [runs.frame]
    rfl

/-! ### A link that narrows or goes down (R308, R353) -/

/-- A link that is down. -/
def downLink (l : Link) : Link := { l with st := 0, width := 0, lost := true }

theorem bellRaise_frame (s : State) (code : Nat) (u : W16) (ctx : CtxId) (src arg : Nat) :
    bellRaise s code u ctx src arg = { s with bell := (bellRaise s code u ctx src arg).bell } := by
  unfold bellRaise stageEvent
  split <;> rfl

theorem linkFails_eq (s : State) : linkFails s = { s with link := downLink s.link, bell := (linkFails s).bell } := by
  exact bellRaise_frame (modLink s downLink) 0x0053 0x5000 0 0 0

theorem staysOut_linkFails (s : State) : StaysOut s (linkFails s) := by
  rw [linkFails_eq]
  exact staysOut_of_history rfl rfl

/-- The capacities without a lane, once an image is in force. -/
def capsAnew (s : State) : State := if s.reed.active.isSome && !s.reed.warm then bumpCaps s (clustersEn s) else s

/-- s once its capacity is told. -/
def lossTold (s : State) (n : Nat) : State := capacityEvent (capsAnew s) (BitVec.ofNat 16 (0x4000 + n)) 1

theorem narrow_eq (s : State) (n : Nat) : narrow s n =
    if (goodLanes (lossTold s n).link (List.range 36)).length < 16 then linkFails (lossTold s n)
    else if (lossTold s n).link.width = 32 then
      modLink (lossTold s n) (fun l => { l with st := 1, width := 16, retrains := satAdd l.retrains 1 })
    else lossTold s n := rfl

theorem capsAnew_keeps (s : State) : (capsAnew s).link = s.link ∧ (capsAnew s).history = s.history := by
  unfold capsAnew
  split <;> exact ⟨rfl, rfl⟩

theorem lossTold_keeps (s : State) (n : Nat) : (lossTold s n).link = s.link ∧ (lossTold s n).history = s.history ∧
    (lossTold s n).epoch = (capsAnew s).epoch ∧ (lossTold s n).capev.unit = BitVec.ofNat 16 (0x4000 + n) ∧ (lossTold s n).capev.kind = 1 := by
  obtain ⟨link, history⟩ := capsAnew_keeps s
  obtain ⟨frame, -⟩ := capacityEvent_holds (capsAnew s) (BitVec.ofNat 16 (0x4000 + n)) 1
  rw [lossTold, frame]
  exact ⟨link, history, rfl, rfl, rfl⟩

theorem staysOut_narrow (s : State) (n : Nat) : StaysOut s (narrow s n) := by
  obtain ⟨link, history, -⟩ := lossTold_keeps s n
  have told : StaysOut s (lossTold s n) := staysOut_of_history (congrArg Link.retired link) history
  rw [narrow_eq]
  split
  · exact told.trans (staysOut_linkFails _)
  · split
    · exact told.trans (staysOut_of_history rfl rfl)
    · exact told

theorem staysOut_replaced (s : State) (n : Nat) : StaysOut s (replaced s n) := by
  unfold replaced
  split
  · split
    · exact .refl s
    · exact staysOut_swapLane ..
  · exact staysOut_narrow ..

/-- A link with lanes enough narrows and trains anew. -/
theorem narrow_holds {s : State} {n : Nat} (wide : s.link.width = 32) (many : 16 ≤ (goodLanes s.link (List.range 36)).length) :
    (narrow s n).link.st = 1 ∧ (narrow s n).link.width = 16 ∧ (narrow s n).capev.unit = BitVec.ofNat 16 (0x4000 + n) ∧
    (narrow s n).capev.kind = 1 ∧ (narrow s n).epoch = (capsAnew s).epoch := by
  obtain ⟨link, -, epoch, unit, kind⟩ := lossTold_keeps s n
  rw [narrow_eq, link, if_neg (by omega), if_pos wide]
  exact ⟨rfl, rfl, unit, kind, epoch⟩

theorem epoch_capsAnew {s : State} (active : s.reed.active ≠ none) (cold : s.reed.warm = false) :
    (capsAnew s).epoch = if s.reed.refolded = some s.breath.num then s.epoch else s.epoch + 1 := by
  obtain ⟨image, some_⟩ := Option.ne_none_iff_exists'.mp active
  rw [capsAnew, some_, cold]
  rfl

/-! ### A retired lane -/

theorem getLsbD_bit {n : Nat} (low : n < 36) (k : Nat) : (BitVec.ofNat 36 (2 ^ n)).getLsbD k = decide (k = n) := by
  rw [BitVec.getLsbD_ofNat, Nat.testBit_two_pow]
  by_cases same : n = k
  · rw [decide_eq_true same, decide_eq_true same.symm, decide_eq_true (by omega)]
    rfl
  · rw [decide_eq_false same, decide_eq_false (Ne.symm same), Bool.and_false]

theorem retired_withoutLane {n : Nat} (low : n < 36) (l : Link) (k : Nat) : (withoutLane n l).retired.getLsbD k = (l.retired.getLsbD k || decide (k = n)) := by
  show (l.retired ||| BitVec.ofNat 36 (2 ^ n)).getLsbD k = _
  rw [BitVec.getLsbD_or, getLsbD_bit low]

theorem laneOut_holds {s : State} {n : Nat} (low : n < 36) : (laneOut s n).link.retired.getLsbD n = true ∧
    (getUnit (laneOut s n) (BitVec.ofNat 16 (0x4000 + n))).st = 2 := by
  refine ⟨?_, ?_⟩
  · show (withoutLane n s.link).retired.getLsbD n = true
    rw [retired_withoutLane low, decide_eq_true rfl, Bool.or_true]
  · rw [laneOut, getUnit_modUnit_same]
    rfl

theorem logicalLane_own {l : Link} (own : l.rxLaneOf = []) (n : Nat) : logicalLane l n = n := by
  rw [logicalLane, own]
  rfl

/-- The spares are others than the lanes of the link. -/
theorem freeSpares_withoutLane {n : Nat} (low : n < 32) (l : Link) : freeSpares (withoutLane n l) = freeSpares l := by
  refine List.filter_congr fun k mem => ?_
  have spare : 32 ≤ k := by
    rcases List.mem_cons.mp mem with same | mem
    · omega
    · rcases List.mem_cons.mp mem with same | mem
      · omega
      · rcases List.mem_cons.mp mem with same | mem
        · omega
        · rw [List.mem_singleton.mp mem]
          omega
  rw [retired_withoutLane (by omega), decide_eq_false (by omega : ¬k = n), Bool.or_false]
  rfl

/-- Lanes that no retirement took. -/
def lanesLeft (l : Link) : List Nat := (List.range 36).filter (fun k => !l.retired.getLsbD k)

theorem goodLanes_all (l : Link) : goodLanes l (List.range 36) = lanesLeft l := by
  refine List.filter_congr fun k mem => ?_
  rw [List.contains_iff_mem.mpr mem, Bool.and_true]

theorem length_filter_ne {l : List Nat} (distinct : l.Nodup) (n : Nat) : l.length ≤ (l.filter (fun k => !decide (k = n))).length + 1 := by
  induction l with
  | nil => exact Nat.zero_le _
  | cons a l ih =>
    obtain ⟨fresh, rest⟩ := List.nodup_cons.mp distinct
    rw [List.filter_cons]
    split
    · rw [List.length_cons, List.length_cons]
      have := ih rest
      omega
    · next gone =>
      have same : a = n := by simpa using gone
      have all : l.filter (fun k => !decide (k = n)) = l := by
        refine List.filter_eq_self.mpr fun k mem => ?_
        rw [decide_eq_false fun equal => fresh (by rw [same, ← equal]; exact mem)]
        rfl
      rw [all, List.length_cons]

theorem lanesLeft_withoutLane {n : Nat} (low : n < 36) (l : Link) : (lanesLeft l).length ≤ (lanesLeft (withoutLane n l)).length + 1 := by
  have cut : lanesLeft (withoutLane n l) = (lanesLeft l).filter (fun k => !decide (k = n)) := by
    rw [lanesLeft, lanesLeft, List.filter_filter]
    refine List.filter_congr fun k _ => ?_
    rw [retired_withoutLane low, Bool.not_or, Bool.and_comm]
  rw [cut]
  exact length_filter_ne (List.nodup_range.filter _) n

/-- A lane of the link whose symbols no spare brings. -/
theorem laneRetire_own {s : State} {n : Nat} {ft : Bool} (low : n < 32) (here : s.link.retired.getLsbD n = false)
    (asked : (ft || overLong s.link n) = true) : laneRetire s n ft = replaced (laneOut s n) n := by
  rw [laneRetire_eq (by omega) here asked, laneInUse, decide_eq_true low]
  rfl

theorem replaced_spare {s : State} {n spare : Nat} {rest : List Nat} (free : freeSpares s.link = spare :: rest) (wide : s.link.width ≠ 16) :
    replaced s n = swapLane s n spare := by
  rw [replaced, free]
  exact if_neg wide

theorem replaced_none {s : State} {n : Nat} (free : freeSpares s.link = []) : replaced s n = narrow s n := by
  rw [replaced, free]

theorem laneRetire_holds {s : State} {n : Nat} {ft : Bool} (low : n < 36) (here : s.link.retired.getLsbD n = false)
    (asked : (ft || overLong s.link n) = true) : (laneRetire s n ft).link.retired.getLsbD n = true ∧
      (getUnit (laneRetire s n ft) (BitVec.ofNat 16 (0x4000 + n))).st = 2 := by
  obtain ⟨out, unit⟩ := laneOut_holds (s := s) low
  have stays : StaysOut (laneOut s n) (laneRetire s n ft) := by
    rw [laneRetire_eq low here asked]
    split
    · exact .refl _
    · exact staysOut_replaced ..
  exact ⟨by rw [stays.1]; exact out, (stays.2 _).trans unit⟩

/-- A spare takes the place of a retired lane. -/
theorem laneRetire_swaps {s : State} {n spare : Nat} {rest : List Nat} {ft : Bool} (low : n < 32) (here : s.link.retired.getLsbD n = false)
    (asked : (ft || overLong s.link n) = true) (own : s.link.rxLaneOf = []) (free : freeSpares s.link = spare :: rest) (wide : s.link.width ≠ 16) :
    (∃ more, (laneRetire s n ft).sent = s.sent ++ .laneMap n spare (s.link.rxNext + 64) :: more) ∧
    (n, spare, s.link.rxNext + 64) ∈ (laneRetire s n ft).link.rxLaneOf ∧ (laneRetire s n ft).link.st = s.link.st ∧
    (laneRetire s n ft).link.width = s.link.width ∧ (laneRetire s n ft).link.echoSent = 64 ∧ (laneRetire s n ft).epoch = s.epoch := by
  have free' : freeSpares (laneOut s n).link = spare :: rest := (freeSpares_withoutLane low s.link).trans free
  have swapped := swapLane_holds (laneOut s n) n spare
  rw [logicalLane_own (l := (laneOut s n).link) own] at swapped
  rw [laneRetire_own low here asked, replaced_spare free' wide]
  exact swapped

/-- With no spare left the link narrows. -/
theorem laneRetire_narrows {s : State} {n : Nat} {ft : Bool} (low : n < 32) (here : s.link.retired.getLsbD n = false)
    (asked : (ft || overLong s.link n) = true) (free : freeSpares s.link = []) (wide : s.link.width = 32) (many : 16 < (lanesLeft s.link).length) :
    (laneRetire s n ft).link.st = 1 ∧ (laneRetire s n ft).link.width = 16 ∧ (laneRetire s n ft).capev.unit = BitVec.ofNat 16 (0x4000 + n) ∧
    (laneRetire s n ft).capev.kind = 1 ∧ (laneRetire s n ft).epoch = (capsAnew (laneOut s n)).epoch := by
  have free' : freeSpares (laneOut s n).link = [] := (freeSpares_withoutLane low s.link).trans free
  rw [laneRetire_own low here asked, replaced_none free']
  refine narrow_holds (s := laneOut s n) wide ?_
  rw [goodLanes_all]
  have fewer := lanesLeft_withoutLane (n := n) (by omega) s.link
  show 16 ≤ (lanesLeft (withoutLane n s.link)).length
  omega

/-! ### Training (R304, R306, R308, R309) -/

theorem exec_linkRetrain {s : State} (hup : up s) : exec .linkRetrain s = .next (keepOuter s (linkRetrain (inBreath s))) :=
  live_up (f := fun s => linkRetrain (inBreath s)) hup

theorem exec_linkDown {s : State} (hup : up s) : exec .linkDown s = .next (keepOuter s (linkDown (inBreath s))) :=
  live_up (f := fun s => linkDown (inBreath s)) hup

theorem exec_linkTrained {s : State} (hup : up s) (good : List Nat) (node : W16) (die : Nat) (echoes : List (Nat × Nat)) :
    exec (.linkTrained good node die echoes) s = .next (keepOuter s (linkTrained (inBreath s) good node die echoes)) :=
  live_up (f := fun s => linkTrained (inBreath s) good node die echoes) hup

/-- A link that training has brought up. -/
def trainedLink (good : List Nat) (node : W16) (die : Nat) (l : Link) : Link :=
  { firstCredits l with
    st := 2, width := if (goodLanes l good).length < 32 then 16 else 32, peerNode := node, peerDie := BitVec.ofNat 2 die
    sparesLeft := (freeSpares l).length, rxDiscard := false, rxPos := l.rxNext }

/-- s with its link up and what the retry buffer holds sent again. -/
def resentAll (s : State) : State := s.link.retryBuf.foldl resendWord s

theorem linkTrained_eq {s : State} (down : s.link.st ≠ 2) {good : List Nat} (many : 16 ≤ (goodLanes s.link good).length) (node : W16) (die : Nat)
    (echoes : List (Nat × Nat)) : linkTrained s good node die echoes =
      pump (echoes.foldl (fun st e => echoBack st (e.1 - e.2)) (measure (resentAll (modLink s (trainedLink good node die))))) :=
  (if_neg down).trans ((if_neg (by omega)).trans rfl)

theorem linkTrained_few {s : State} (down : s.link.st ≠ 2) {good : List Nat} (few : (goodLanes s.link good).length < 16) (node : W16) (die : Nat)
    (echoes : List (Nat × Nat)) : linkTrained s good node die echoes = linkFails s :=
  (if_neg down).trans (if_pos few)

/-- A codeword's bytes with one remaining time rewritten, and what is left of the free values. -/
def restamped (p : State × List Byte) (m : Nat) : State × List Byte :=
  ((drawFree p.1).2, p.2.take m ++ toLE 4 (drawFree p.1).1.toNat ++ p.2.drop (m + 4))

theorem runs_restamped (marks : List Nat) (p : State × List Byte) : Runs p.1 (marks.foldl restamped p).1 := by
  induction marks generalizing p with
  | nil => exact .refl p.1
  | cons m marks ih => exact (runs_drawFree p.1).trans (ih (restamped p m))

theorem runs_resendWord (s : State) (w : Codeword) : Runs s (resendWord s w) := (runs_restamped w.marks (s, w.data)).trans (runs_send ..)

theorem retryBuf_trainedLink (good : List Nat) (node : W16) (die : Nat) (l : Link) : (trainedLink good node die l).retryBuf = l.retryBuf ∧
    (trainedLink good node die l).txWait = l.txWait ∧ (trainedLink good node die l).rxNext = l.rxNext := by
  unfold trainedLink firstCredits
  split <;> exact ⟨rfl, rfl, rfl⟩

/-- Training on lanes enough. -/
theorem linkTrained_holds {s : State} (down : s.link.st ≠ 2) {good : List Nat} (many : 16 ≤ (goodLanes s.link good).length) (node : W16) (die : Nat)
    (echoes : List (Nat × Nat)) : Runs (resentAll (modLink s (trainedLink good node die))) (linkTrained s good node die echoes) := by
  rw [linkTrained_eq down many]
  have measures := (measure_holds (resentAll (modLink s (trainedLink good node die)))).1
  exact (measures.trans (.foldl (fun _ _ => runs_echoBack ..) _ _)).trans (runs_pump _)

theorem runs_resentAll (s : State) : Runs s (resentAll s) := .foldl runs_resendWord _ _

theorem exec_linkTrained_up {s : State} (hup : up s) (down : s.link.st ≠ 2) {good : List Nat} (many : 16 ≤ (goodLanes s.link good).length) (node : W16)
    (die : Nat) (echoes : List (Nat × Nat)) : ∃ t, exec (.linkTrained good node die echoes) s = .next t ∧ t.link.st = 2 ∧
      t.link.width = (if (goodLanes s.link good).length < 32 then 16 else 32) ∧ t.link.peerNode = node ∧ t.link.peerDie.toNat = die % 4 ∧
      t.link.rxDiscard = false ∧ (s.link.creditTx = [] → s.link.txWait = [] → t.link.creditTx = List.replicate 16 1024) ∧
      (∃ more, t.link.retryBuf = s.link.retryBuf ++ more) ∧
      ((∀ w ∈ s.link.retryBuf, w.marks = []) → ∃ more, t.sent = s.sent ++ s.link.retryBuf.map (fun w =>
        .codeword w.seq (s.link.rxNext - 1) w.data (codewordLanes t.link w.seq (s.link.rxNext - 1) w.data)) ++ more) := by
  rw [exec_linkTrained hup]
  have after := linkTrained_holds (s := inBreath s) down many node die echoes
  have before := runs_resentAll (modLink (inBreath s) (trainedLink good node die))
  have runs := before.trans after
  have again : (∀ w ∈ (trainedLink good node die s.link).retryBuf, w.marks = []) →
      (resentAll (modLink (inBreath s) (trainedLink good node die))).sent = s.sent ++
        (trainedLink good node die s.link).retryBuf.map (wordSent (trainedLink good node die s.link)) := fun plain =>
    sent_resendWords (trainedLink good node die s.link).retryBuf (modLink (inBreath s) (trainedLink good node die)) plain
  obtain ⟨buf, wait, next⟩ := retryBuf_trainedLink good node die s.link
  rw [buf] at again
  generalize resentAll (modLink (inBreath s) (trainedLink good node die)) = r at *
  generalize linkTrained (inBreath s) good node die echoes = t at *
  obtain ⟨-, link, ⟨more, kept⟩, -, quiet⟩ := runs
  have kept' : t.link.retryBuf = s.link.retryBuf ++ more := kept.trans (congrArg (· ++ more) buf)
  refine ⟨_, rfl, ?_, ?_, ?_, ?_, ?_, fun first none_ => ?_, ⟨more, kept'⟩, fun plain => ?_⟩
  · exact (congrArg Link.st link).trans rfl
  · exact (congrArg Link.width link).trans rfl
  · exact (congrArg Link.peerNode link).trans rfl
  · exact (congrArg (fun l : Link => l.peerDie.toNat) link).trans (BitVec.toNat_ofNat ..)
  · exact (congrArg Link.rxDiscard link).trans rfl
  · refine (quiet (wait.trans none_)).2.trans ?_
    show (trainedLink good node die s.link).creditTx = _
    rw [trainedLink, firstCredits, first]
    rfl
  · obtain ⟨words, sent⟩ := after.sent
    refine ⟨words, sent.trans (congrArg (· ++ words) ((again plain).trans (congrArg (s.sent ++ ·) (List.map_congr_left fun w _ => ?_))))⟩
    have lanes : codewordLanes t.link = codewordLanes (trainedLink good node die s.link) := by
      rw [link]
      rfl
    show wordSent (trainedLink good node die s.link) w = .codeword w.seq (s.link.rxNext - 1) w.data (codewordLanes t.link w.seq (s.link.rxNext - 1) w.data)
    rw [lanes, wordSent, ackNow, next]

/-! ### Training of a bridge port (R314) -/

theorem exec_bridgeTrained {s : State} (hup : up s) (die m : Nat) :
    exec (.bridgeTrainingDone die m) s = .next (keepOuter s (bridgeTrained (inBreath s) die m)) :=
  live_up (f := fun s => bridgeTrained (inBreath s) die m) hup

/-- A bridge port on the modules that trained. -/
def trainedPort (m : Nat) (x : Bridge) : Bridge := { x with modules := m, st := if m = 0 then 3 else 2 }

/-- s with a bridge port trained. -/
def portTrained (s : State) (die m : Nat) : State :=
  { s with casc := { s.casc with ports := tput {} s.casc.ports die (trainedPort m (getBridge s die))
                                 dies := BitVec.ofNat 2 (tput {} s.casc.ports die (trainedPort m (getBridge s die))).length } }

theorem bridgeTrained_eq {s : State} {die m : Nat} (k8 : isK5 s = false) (known : die < 4) (other : die ≠ s.cascId.toNat) (few : m ≤ 16) :
    bridgeTrained s die m = pumpBridge (portTrained s die m) die := by
  refine (if_neg ?_).trans rfl
  rw [k8, decide_eq_false (by omega), decide_eq_false other, decide_eq_false (by omega)]
  decide

theorem bridgeTrained_refused {s : State} {die m : Nat} (h : isK5 s = true ∨ 4 ≤ die ∨ die = s.cascId.toNat ∨ 16 < m) : bridgeTrained s die m = s := by
  refine if_pos ?_
  simp only [Bool.or_eq_true, decide_eq_true_eq]
  tauto

theorem exec_bridgeTrained_up {s : State} (hup : up s) {die m : Nat} (k8 : isK5 s = false) (known : die < 4) (other : die ≠ s.cascId.toNat)
    (few : m ≤ 16) : ∃ t, exec (.bridgeTrainingDone die m) s = .next t ∧
      getBridge t die = { getBridge s die with modules := m, st := if m = 0 then 3 else 2, wait := (getBridge t die).wait } ∧
      (∀ d, d ≠ die → getBridge t d = getBridge s d) ∧
      ((getBridge s die).wait = [] → (getBridge t die).wait = [] ∧ t = { inBreath s with casc := t.casc }) := by
  rw [exec_bridgeTrained hup, bridgeTrained_eq (s := inBreath s) k8 known other few]
  have port : getBridge (portTrained (inBreath s) die m) die = trainedPort m (getBridge s die) := tget_tput_same ..
  have others : ∀ d, d ≠ die → getBridge (portTrained (inBreath s) die m) d = getBridge s d := fun d other => tget_tput_other _ _ _ _ _ other
  obtain ⟨-, others', own, -⟩ := bridgeSide_pumpBridge (portTrained (inBreath s) die m) die
  rw [port] at own
  refine ⟨_, rfl, own, fun d other => (others' d other).trans (others d other), fun none_ => ?_⟩
  have empty : (getBridge (portTrained (inBreath s) die m) die).wait = [] := by
    rw [port]
    exact none_
  rw [pumpBridge_empty empty]
  exact ⟨empty, rfl⟩

/-- Settles O57: each command by what it sets; what sending and measuring changes besides is `Runs`. -/
theorem lanesAndTrainingSetTheWidth : Obligations.LanesAndTrainingSetTheWidth := by
  unfold Obligations.LanesAndTrainingSetTheWidth
  intro s hup
  refine ⟨fun lane spare sw st low isSpare last => exec_laneMap_maps hup st low isSpare last sw, fun lane spare sw refused => ?_,
    fun n refused => ?_, fun n refused => ?_, fun n ft edge low here asked => ?_, fun st => ?_, fun down idle => ?_,
    fun st => ⟨?_, ?_⟩, fun st => ?_, fun good node die echoes st => ?_, fun good node die echoes down =>
      ⟨fun many => exec_linkTrained_up hup down many node die echoes, fun few => ?_⟩,
    fun die m k8 known other few => exec_bridgeTrained_up hup k8 known other few, fun die m refused => ?_⟩
  · rw [exec_laneMap hup, laneMapIn_refused (s := inBreath s) refused]
    rfl
  · rcases Bool.eq_false_or_eq_true s.edge with edge | inside
    · have short : (false || overLong s.link n) = false ↔ ∀ p ∈ s.link.overLimit, p.1 = n → p.2 < 4 := by
        rw [Bool.false_or, ← Bool.not_eq_true, overLong_iff]
        constructor
        · intro none_ p mem same
          exact Nat.lt_of_not_le fun long => none_ ⟨p, mem, same, long⟩
        · rintro all ⟨p, mem, same, long⟩
          exact absurd (all p mem same) (by omega)
      rw [exec_laneRetire hup edge, laneRetire_refused (refused.resolve_left (by rw [edge]; decide) |>.imp_right (Or.imp_right short.mpr))]
      rfl
    · exact exec_laneRetire_late hup inside n false
  · rcases Bool.eq_false_or_eq_true s.edge with edge | inside
    · rw [exec_laneRetire hup edge, laneRetire_refused (refused.resolve_left (by rw [edge]; decide) |>.imp_right Or.inl)]
      rfl
    · exact exec_laneRetire_late hup inside n true
  · have asked' : (ft || overLong s.link n) = true := by
      rw [Bool.or_eq_true, overLong_iff]
      exact asked
    obtain ⟨out, unit⟩ := laneRetire_holds low here asked'
    rw [exec_laneRetire hup edge]
    refine ⟨_, rfl, out, unit, fun spare rest low own free wide => laneRetire_swaps low here asked' own free wide,
      fun low own free wide many => ?_⟩
    obtain ⟨st, width, unit, kind, epoch⟩ := laneRetire_narrows low here asked' free wide many
    exact ⟨st, width, unit, kind, fun active cold => epoch.trans (epoch_capsAnew (s := laneOut s n) active cold)⟩
  · have trains : linkRetrain (inBreath s) = modLink (inBreath s) (fun l => { l with st := 1, retrains := satAdd l.retrains 1, resends := 0 }) := by
      refine (if_neg ?_).trans (if_pos st)
      show s.link.st ≠ 1
      rw [st]
      decide
    rw [exec_linkRetrain hup, trains]
    rfl
  · have trains : linkRetrain (inBreath s) = modLink (inBreath s) (fun l => { l with st := 1, resends := 0 }) := (if_neg down).trans (if_neg idle)
    rw [exec_linkRetrain hup, trains]
    rfl
  · have stays : linkRetrain (inBreath s) = inBreath s := if_pos st
    rw [exec_linkRetrain hup, stays]
    rfl
  · have fails : linkDown (inBreath s) = linkFails (inBreath s) := if_pos st
    rw [exec_linkDown hup, fails, linkFails_eq]
    exact ⟨_, rfl, rfl, rfl⟩
  · have stays : linkDown (inBreath s) = inBreath s := if_neg st
    rw [exec_linkDown hup, stays]
    rfl
  · have stays : linkTrained (inBreath s) good node die echoes = inBreath s := if_pos st
    rw [exec_linkTrained hup, stays]
    rfl
  · rw [exec_linkTrained hup, linkTrained_few (s := inBreath s) down few, linkFails_eq]
    exact ⟨_, rfl, rfl, rfl, rfl⟩
  · rw [exec_bridgeTrained hup, bridgeTrained_refused (s := inBreath s) refused]
    rfl

end Sys2Proof.Proofs.LanesAndTraining

/-! Where a packet goes (chapter 14, R302, R311 to R313, R315, R317). -/

namespace Sys2Proof.Proofs.PacketRoutes

open Sys2Proof Sys2Proof.Machine Sys2Proof.Safety Sys2Proof.Laws Sys2Proof.Proofs.RegisterWrites Sys2Proof.Proofs.LinkPort
  Sys2Proof.Proofs.Codewords Sys2Proof.Proofs.CodewordsIn Sys2Proof.Proofs.BridgePorts

/-! ### A packet that crosses the bridge (R314) -/

/-- A packet waits at the bridge port to a die. -/
theorem bridgeSide_queuePacket (s : State) (d vc : Nat) (dl : Bool) (body : List (List Byte)) :
    BridgeSide d s (queuePacket s (some d) vc dl body) := by
  have ready : BridgeSide d s (readyChannel s (some d) (vc % 8)) := by
    unfold readyChannel
    split
    · exact .refl s
    · exact ⟨rfl, fun _ _ => rfl, rfl, rfl⟩
  exact ready.trans (bridgeSide_setWait ..)

theorem queuePacket_holds (s : State) (d vc : Nat) (dl : Bool) (body : List (List Byte)) :
    (getBridge (queuePacket s (some d) vc dl body) d).wait =
      (getBridge s d).wait ++ (packetFlits (vc % 8) dl body).map (fun f => (vc % 8, dl, f)) ∧
    (queuePacket s (some d) vc dl body).sent = s.sent ∧ weightOf (queuePacket s (some d) vc dl body) = weightOf s := by
  have ready : (getBridge (readyChannel s (some d) (vc % 8)) d).wait = (getBridge s d).wait ∧ (readyChannel s (some d) (vc % 8)).sent = s.sent ∧
      weightOf (readyChannel s (some d) (vc % 8)) = weightOf s := by
    unfold readyChannel
    split <;> exact ⟨rfl, rfl, rfl⟩
  obtain ⟨wait, sent, weight⟩ := ready
  unfold queuePacket
  extract_lets c s1
  exact ⟨(wait_setWait ..).trans (congrArg (· ++ _) wait), sent, weight⟩

theorem outBridge_direct {s : State} {d : Nat} (live : (getBridge s d).st = 2) (vc : Nat) (dl : Bool) (body : List (List Byte)) :
    outBridge s d vc dl body = pumpBridge (queuePacket s (some d) vc dl body) d := by
  have direct : bridgeTo s d = some d := if_pos live
  rw [outBridge, direct]

/-- What crossing the bridge to a die leaves of the die of s. -/
def Crossed (s t : State) (d vc : Nat) (flits : List (List Byte)) (dl : Bool) : Prop :=
  t.items = s.items ∧ t.mem = s.mem ∧ t.link.rxHeld = s.link.rxHeld ∧ t.link.txWait = s.link.txWait ∧ t.link.misroute = s.link.misroute ∧
    ((getBridge s d).wait = [] → weightOf s (vc % 8) ≠ 0 → t.sent = s.sent ++ flits.map (Sent.flit d) ∧ (getBridge t d).wait = []) ∧
    (weightOf s (vc % 8) = 0 → ∀ f ∈ flits, (vc % 8, dl, f) ∈ (getBridge t d).wait)

theorem crossed_outBridge {s : State} {d : Nat} (live : (getBridge s d).st = 2) (vc : Nat) (dl : Bool) (body : List (List Byte)) :
    Crossed s (outBridge s d vc dl body) d vc (packetFlits (vc % 8) dl body) dl ∧
      (outBridge s d vc dl body).link.bondNext = s.link.bondNext := by
  rw [outBridge_direct live]
  have queued := bridgeSide_queuePacket s d vc dl body
  obtain ⟨wait, sent, weight⟩ := queuePacket_holds s d vc dl body
  generalize packetFlits (vc % 8) dl body = fs at *
  generalize queuePacket s (some d) vc dl body = q at *
  have live' : (getBridge q d).st = 2 := by
    rw [queued.own]
    exact live
  obtain ⟨frame, -, -, link⟩ := queued.trans (bridgeSide_pumpBridge q d)
  refine ⟨⟨?_, ?_, ?_, ?_, ?_, fun empty open_ => ?_, fun off f mem => ?_⟩, ?_⟩
  · rw [frame]
  · rw [frame]
  · rw [link]
  · rw [link]
  · rw [link]
  · rw [empty, List.nil_append] at wait
    obtain ⟨out, still, none_⟩ := takeFlits_all (Nat.mod_lt vc (by decide)) dl fs (by rw [weight]; exact open_) wait
    have many : (getBridge q d).wait.length = fs.length := by rw [wait, List.length_map]
    refine ⟨?_, ?_⟩
    · rw [pumpBridge_up live', many, out, still, sent]
    · rw [wait_pumpBridge live', many]
      exact none_
  · rw [wait_pumpBridge live']
    obtain ⟨-, stays⟩ := offStay_takeFlits d (vc % 8) (getBridge q d).wait.length q (by rw [weight]; exact off)
    refine stays _ ?_ rfl
    rw [wait]
    exact List.mem_append_right _ (List.mem_map.mpr ⟨f, mem, rfl⟩)
  · rw [link]

/-! ### Where a packet goes (R311 to R313, R315) -/

theorem exec_dataPacket {s : State} (hup : up s) (vc : Nat) (dl : Bool) (header first : List Byte) (rest : List (List Byte)) :
    exec (.dataPacket vc dl header first rest) s = .next (keepOuter s (dataPacket (inBreath s) vc dl ((header ++ first) :: rest))) :=
  live_up (f := fun s => dataPacket (inBreath s) vc dl ((header ++ first) :: rest)) hup

theorem dataPacket_refused {s : State} {body : List (List Byte)} (h : isK5 s = true ∨ 17 < body.length) (vc : Nat) (dl : Bool) :
    dataPacket s vc dl body = s := by
  refine if_pos ?_
  rw [Bool.or_eq_true, decide_eq_true_eq]
  exact h

/-- Index of a channel and dateline class. -/
def laneIndex (vc : Nat) (dl : Bool) : Nat := vc % 8 + (if dl then 8 else 0)

/-- What becomes of a packet whose buffers are freed. -/
def routed (s s1 : State) (vc : Nat) (dl : Bool) (body : List (List Byte)) : State :=
  if (parseHeader body).len ≠ body.length then s1
  else if (parseHeader body).node ≠ s.link.node && s.casc.mode = 0 then modLink s1 (fun l => { l with misroute := satAdd l.misroute 1 })
  else ship s1 (parseHeader body).node (parseHeader body).die vc dl body

theorem dataPacket_eq {s : State} {body : List (List Byte)} (k8 : isK5 s = false) (short : body.length ≤ 17) (vc : Nat) (dl : Bool) :
    dataPacket s vc dl body = routed s (freeBuffers s vc dl body.length) vc dl body := by
  refine (if_neg ?_).trans rfl
  rw [k8, decide_eq_false (by omega)]
  decide

theorem freeBuffers_elsewhere {s : State} {vc : Nat} {dl : Bool} {n : Nat} (h : s.link.rxHeld.getD (laneIndex vc dl) 0 < n) :
    freeBuffers s vc dl n = s := if_pos h

theorem routed_other (s s1 : State) (vc : Nat) (dl : Bool) {body : List (List Byte)} (h : (parseHeader body).len ≠ body.length) :
    routed s s1 vc dl body = s1 := if_pos h

theorem routed_misroute {s : State} (s1 : State) (vc : Nat) (dl : Bool) {body : List (List Byte)} (whole : (parseHeader body).len = body.length)
    (far : (parseHeader body).node ≠ s.link.node) (off : s.casc.mode = 0) :
    routed s s1 vc dl body = modLink s1 (fun l => { l with misroute := satAdd l.misroute 1 }) :=
  (if_neg (not_not.mpr whole)).trans (if_pos (by rw [decide_eq_true far, decide_eq_true off]; rfl))

theorem routed_ships {s : State} (s1 : State) (vc : Nat) (dl : Bool) {body : List (List Byte)} (whole : (parseHeader body).len = body.length)
    (way : (parseHeader body).node = s.link.node ∨ s.casc.mode ≠ 0) :
    routed s s1 vc dl body = ship s1 (parseHeader body).node (parseHeader body).die vc dl body := by
  refine (if_neg (not_not.mpr whole)).trans (if_neg fun lost => ?_)
  obtain ⟨far, off⟩ := Bool.and_eq_true_iff.mp lost
  rcases way with here | on
  · exact of_decide_eq_true far here
  · exact on (of_decide_eq_true off)

theorem die_parseHeader (body : List (List Byte)) : (parseHeader body).die % 4 = (parseHeader body).die := Nat.mod_mod ..

theorem ship_here {s : State} {body : List (List Byte)} (node : (parseHeader body).node = s.link.node) (die : (parseHeader body).die = s.cascId.toNat)
    (vc : Nat) (dl : Bool) : ship s (parseHeader body).node (parseHeader body).die vc dl body = s :=
  (if_pos node).trans (if_pos (by rw [die_parseHeader, die]))

theorem ship_across {s : State} {body : List (List Byte)} (node : (parseHeader body).node = s.link.node) (die : (parseHeader body).die ≠ s.cascId.toNat)
    (vc : Nat) (dl : Bool) : ship s (parseHeader body).node (parseHeader body).die vc dl body = outBridge s (parseHeader body).die vc dl body := by
  refine (if_pos node).trans ((if_neg (by rw [die_parseHeader]; exact die)).trans ?_)
  rw [die_parseHeader]

/-- The route entry of a node. -/
def routeOf (s : State) (node : W16) : Byte := s.link.routes.getD node.toNat 0

theorem ship_routed {s t : State} {node : W16} {d : Nat} (far : node ≠ s.link.node) (route : routeDie s (routeOf s node) = some (d, t)) (die vc : Nat)
    (dl : Bool) (body : List (List Byte)) : ship s node die vc dl body =
      if d = s.cascId.toNat then outLink t vc dl body else outBridge t d vc dl body := by
  have route' : routeDie s (s.link.routes.getD node.toNat 0) = some (d, t) := route
  rw [ship, if_neg far, route']

theorem ship_unrouted {s : State} {node : W16} (far : node ≠ s.link.node) (route : routeDie s (routeOf s node) = none) (die vc : Nat)
    (dl : Bool) (body : List (List Byte)) : ship s node die vc dl body = s := by
  have route' : routeDie s (s.link.routes.getD node.toNat 0) = none := route
  rw [ship, if_neg far, route']

theorem routeDie_one (s : State) {e : Byte} (h : e.toNat / 16 = 1) : routeDie s e = some (e.toNat % 4, s) := if_pos h

theorem routeDie_none (s : State) {e : Byte} (h : e.toNat / 16 = 0) : routeDie s e = none := by
  refine (if_neg (by omega)).trans (if_neg ?_)
  rw [h]
  exact Bool.false_ne_true

/-- The dies of a bonded route. -/
def bonded (e : Byte) : List Nat := (List.range 4).filter (fun d => e.getLsbD d)

/-- s with the rotation of bonded routes moved on. -/
def turned (s : State) : State := modLink s (fun l => { l with bondNext := l.bondNext + 1 })

theorem routeDie_bonded {s : State} {e : Byte} {d : Nat} (h : e.toNat / 16 = 2) (mode : s.casc.mode = 2)
    (turn : (bonded e)[s.link.bondNext % (max 1 (bonded e).length)]? = some d) : routeDie s e = some (d, turned s) := by
  have turn' : ((List.range 4).filter (fun d => e.getLsbD d))[s.link.bondNext % (max 1 ((List.range 4).filter (fun d => e.getLsbD d)).length)]? = some d :=
    turn
  unfold routeDie
  dsimp only
  rw [if_neg (by omega), if_pos (by rw [h, mode]; decide)]
  simp only [turn', turned]

/-- Flits that wait at the link port while it is down. -/
theorem outLink_down {s : State} (down : s.link.st ≠ 2) (vc : Nat) (dl : Bool) (body : List (List Byte)) :
    (outLink s vc dl body).link.txWait = s.link.txWait ++ (packetFlits (vc % 8) (dl || s.link.dateline) body).map
      (fun f => (vc % 8, dl || s.link.dateline, f)) ∧ (outLink s vc dl body).sent = s.sent := by
  have ready : (readyChannel s none (vc % 8)).link = s.link ∧ (readyChannel s none (vc % 8)).sent = s.sent := by
    unfold readyChannel
    split <;> exact ⟨rfl, rfl⟩
  obtain ⟨link, sent⟩ := ready
  have st : (queuePacket s none vc (dl || s.link.dateline) body).link.st ≠ 2 := by
    show (readyChannel s none (vc % 8)).link.st ≠ 2
    rw [link]
    exact down
  rw [outLink, pump_down st]
  refine ⟨?_, sent⟩
  show (readyChannel s none (vc % 8)).link.txWait ++ _ = _
  rw [link]

/-- A link whose receiver no longer holds some flits of a channel and class. -/
def freedLink (k n : Nat) (l : Link) : Link :=
  { l with rxHeld := subAt l.rxHeld k n
           rxFreed := (List.range 16).map (fun i => l.rxFreed.getD i 0 + (if i = k then BitVec.ofNat 16 n else 0))
           rxFlits := (List.range n).foldl (fun fs _ => dropFirst (fun f => flitLane f = k) fs) l.rxFlits }

/-- The packet's flits leave the receiver's buffer, and the peer is told (R304). -/
theorem freeBuffers_credits {s : State} {vc : Nat} {dl : Bool} {n : Nat} (held : n ≤ s.link.rxHeld.getD (laneIndex vc dl) 0) :
    (freeBuffers s vc dl n).link.rxHeld.getD (laneIndex vc dl) 0 = s.link.rxHeld.getD (laneIndex vc dl) 0 - n ∧
    (freeBuffers s vc dl n).link.rxFreed.getD (laneIndex vc dl) 0 = s.link.rxFreed.getD (laneIndex vc dl) 0 + BitVec.ofNat 16 n ∧
    (∃ more, (freeBuffers s vc dl n).sent = s.sent ++
      .credit ((freeBuffers s vc dl n).link.rxFreed.take 8) ((freeBuffers s vc dl n).link.rxFreed.drop 8) :: more) ∧
    (freeBuffers s vc dl n).link.node = s.link.node ∧ (freeBuffers s vc dl n).cascId = s.cascId := by
  have small : laneIndex vc dl < 16 := by
    unfold laneIndex
    split <;> omega
  have frees : ∃ l, l.rxHeld = subAt s.link.rxHeld (laneIndex vc dl) n ∧
      l.rxFreed = (List.range 16).map (fun i => s.link.rxFreed.getD i 0 + (if i = laneIndex vc dl then BitVec.ofNat 16 n else 0)) ∧
      l.node = s.link.node ∧ freeBuffers s vc dl n =
        sendControl (send { s with link := l } (.credit (l.rxFreed.take 8) (l.rxFreed.drop 8))) 2 (creditFlit (l.rxFreed.take 8) (l.rxFreed.drop 8)) :=
    ⟨freedLink (laneIndex vc dl) n s.link, rfl, rfl, rfl, if_neg (Nat.not_lt.mpr held)⟩
  obtain ⟨l, held', freed, node, eq⟩ := frees
  obtain ⟨more, frame, link, -, sent, -⟩ := sends_sendControl (send { s with link := l } (.credit (l.rxFreed.take 8) (l.rxFreed.drop 8))) 2
    (creditFlit (l.rxFreed.take 8) (l.rxFreed.drop 8))
  rw [← eq] at frame link sent
  generalize freeBuffers s vc dl n = t at *
  have same : t.link.rxFreed = l.rxFreed ∧ t.link.rxHeld = l.rxHeld ∧ t.link.node = l.node := by
    rw [link]
    exact ⟨rfl, rfl, rfl⟩
  obtain ⟨freed', heldSame, nodeSame⟩ := same
  refine ⟨?_, ?_, ⟨more.map (wordSent l), ?_⟩, nodeSame.trans node, ?_⟩
  · rw [heldSame, held', subAt, getD_range_map 16 _ _ small, if_pos rfl]
  · rw [freed', freed, getD_range_map 16 _ _ small, if_pos rfl]
  · rw [sent, freed']
    show (s.sent ++ [Sent.credit (l.rxFreed.take 8) (l.rxFreed.drop 8)]) ++ _ = _
    rw [List.append_assoc]
    rfl
  · rw [frame]
    rfl

/-! ### The statement -/

theorem exec_crosses {s : State} (hup : up s) {vc : Nat} {dl : Bool} {header first : List Byte} {rest : List (List Byte)} {d : Nat}
    (live : (getBridge s d).st = 2) {u : State} (same : u = inBreath s ∨ u = turned (inBreath s))
    (out : dataPacket (inBreath s) vc dl ((header ++ first) :: rest) = outBridge u d vc dl ((header ++ first) :: rest)) :
    ∃ t, exec (.dataPacket vc dl header first rest) s = .next t ∧
      Crossed s t d vc (packetFlits (vc % 8) dl ((header ++ first) :: rest)) dl ∧ t.link.bondNext = u.link.bondNext := by
  have live' : (getBridge u d).st = 2 := by rcases same with h | h <;> rw [h] <;> exact live
  obtain ⟨crossed, bond⟩ := crossed_outBridge live' vc dl ((header ++ first) :: rest)
  rw [exec_dataPacket hup, out]
  generalize outBridge u d vc dl ((header ++ first) :: rest) = t at *
  refine ⟨_, rfl, ?_, bond⟩
  rcases same with h | h <;> rw [h] at crossed <;> exact crossed

/-- A packet whose flits the link's receiver does not hold goes on its way. -/
theorem dataPacket_ships {s : State} {vc : Nat} {dl : Bool} {body : List (List Byte)} (k8 : isK5 s = false) (short : body.length ≤ 17)
    (elsewhere : s.link.rxHeld.getD (laneIndex vc dl) 0 < body.length) (whole : (parseHeader body).len = body.length)
    (way : (parseHeader body).node = s.link.node ∨ s.casc.mode ≠ 0) :
    dataPacket s vc dl body = ship s (parseHeader body).node (parseHeader body).die vc dl body := by
  rw [dataPacket_eq k8 short, freeBuffers_elsewhere elsewhere, routed_ships s vc dl whole way]

/-- Settles O58: the packet's way by its header and its route entry, and the channel that sends by `First`. -/
theorem packetsFollowTheirRoutes : Obligations.PacketsFollowTheirRoutes := by
  unfold Obligations.PacketsFollowTheirRoutes
  refine ⟨fun s vc dl header first rest hup => ⟨fun refused => ?_, fun k8 short => ⟨fun elsewhere => ⟨fun other => ?_, fun whole =>
    ⟨fun node die => ?_, fun node die live => ?_, fun far off => ?_, fun far on => ⟨fun one die live => ?_, fun one die down => ?_,
      fun d two mode turn die live => ?_, fun none_ => ?_⟩⟩⟩, fun held whole node die => ?_⟩⟩, fun s p c picks => ?_⟩
  · rw [exec_dataPacket hup, dataPacket_refused (s := inBreath s) refused]
    rfl
  · rw [exec_dataPacket hup, dataPacket_eq (s := inBreath s) k8 short, routed_other _ _ _ _ other]
    exact congrArg (fun t => Host.Outcome.next (keepOuter s t)) (freeBuffers_elsewhere (s := inBreath s) elsewhere)
  · rw [exec_dataPacket hup, dataPacket_ships (s := inBreath s) k8 short elsewhere whole (.inl node), ship_here (s := inBreath s) node die]
    rfl
  · have out := (dataPacket_ships (s := inBreath s) k8 short elsewhere whole (.inl node)).trans (ship_across (s := inBreath s) node die vc dl)
    obtain ⟨t, run, crossed, -⟩ := exec_crosses hup live (.inl rfl) out
    exact ⟨t, run, crossed⟩
  · rw [exec_dataPacket hup, dataPacket_eq (s := inBreath s) k8 short, freeBuffers_elsewhere (s := inBreath s) elsewhere,
      routed_misroute (s := inBreath s) _ _ _ whole far off]
    rfl
  · have out := (dataPacket_ships (s := inBreath s) k8 short elsewhere whole (.inr on)).trans
      ((ship_routed (s := inBreath s) far (routeDie_one (inBreath s) one) _ vc dl _).trans (if_neg die))
    obtain ⟨t, run, crossed, -⟩ := exec_crosses hup live (.inl rfl) out
    exact ⟨t, run, crossed⟩
  · have out := (dataPacket_ships (s := inBreath s) k8 short elsewhere whole (.inr on)).trans
      ((ship_routed (s := inBreath s) far (routeDie_one (inBreath s) one) _ vc dl _).trans (if_pos die))
    obtain ⟨wait, sent⟩ := outLink_down (s := inBreath s) down vc dl ((header ++ first) :: rest)
    rw [exec_dataPacket hup, out]
    exact ⟨_, rfl, wait, sent⟩
  · have out := (dataPacket_ships (s := inBreath s) k8 short elsewhere whole (.inr on)).trans
      ((ship_routed (s := inBreath s) far (routeDie_bonded (s := inBreath s) two mode turn) _ vc dl _).trans (if_neg die))
    obtain ⟨t, run, crossed, bond⟩ := exec_crosses hup live (.inr rfl) out
    exact ⟨⟨t, run, crossed⟩, t, run, bond⟩
  · rw [exec_dataPacket hup, dataPacket_ships (s := inBreath s) k8 short elsewhere whole (.inr on),
      ship_unrouted (s := inBreath s) far (routeDie_none (inBreath s) none_)]
    rfl
  · obtain ⟨left, freed, credits, node', die'⟩ := freeBuffers_credits (s := inBreath s) (vc := vc) (dl := dl) held
    rw [exec_dataPacket hup, dataPacket_eq (s := inBreath s) k8 short, routed_ships (s := inBreath s) _ vc dl whole (.inl node),
      ship_here (node.trans node'.symm) (die.trans (congrArg BitVec.toNat die').symm)]
    exact ⟨_, rfl, left, freed, credits⟩
  · obtain ⟨mem, least⟩ := first_pickChannel picks
    obtain ⟨small, some_⟩ := (mem_eligible s p c).mp mem
    exact ⟨small, some_, fun d low next => least d ((mem_eligible s p d).mpr ⟨low, next⟩)⟩

end Sys2Proof.Proofs.PacketRoutes
